-- ==== Sys2Proof/Word.lean ====
section
/-! DEFINITION. The bit-vector types of the Lannis E9 and their plainest arithmetic. -/
namespace Sys2Proof

/-- A scalar register, pointer or PC (spec 00 R1, 02 R14). -/
abbrev Word := BitVec 64
/-- An instruction word (spec 09 R139). -/
abbrev W32 := BitVec 32
/-- The smallest addressable unit. -/
abbrev Byte := BitVec 8
/-- One 1 KiB tile row; byte i lies in bits 8i+7 to 8i (spec 03 R49). -/
abbrev Row := BitVec 8192
/-- One plane row of up to 512 bytes; element j lies at bits w*j up (spec 12 R216). -/
abbrev PRow := BitVec 4096

/-- Bits hi down to lo of a word (spec 00 R2). -/
def Word.bits (x : Word) (hi lo : Nat) : Nat := (x.toNat >>> lo) % 2 ^ (hi + 1 - lo)

/-- The sixteen bytes' worth of little-endian reading: byte 0 is least significant (spec 00 R3). -/
def leNat : List Byte → Nat
  | [] => 0
  | b :: bs => b.toNat + 256 * leNat bs

/-- The n little-endian bytes of a number (spec 00 R3). -/
def leBytes : Nat → Nat → List Byte
  | 0, _ => []
  | n + 1, v => BitVec.ofNat 8 v :: leBytes n (v / 256)

end Sys2Proof
end

