-- ==== Sys2Proof/Config.lean ====
section
/-! DEFINITION. What an implementation fixes and the spec leaves open: constants with no body, so that no proof
can see their values. Those that take a Nat are applied to State.fresh, a counter that moves on (assumption log 5). -/
namespace Sys2Proof.Config

/-- How far a promised completion cycle lies beyond the cycle of the start (spec 13 R243). -/
opaque promiseDelay : Nat → BitVec 32

/-- The microjoules by which ENERGY advances beyond the least step (spec 07 R115). -/
opaque energyStep : Nat → BitVec 16

/-- The average power of a control interval, in watts (spec 27 R398). -/
opaque power : Nat → BitVec 12

/-- The hottest sensor of a die in 1/16 degrees at the end of a control interval (spec 27 R398). -/
opaque temperature : Nat → Nat → BitVec 16

/-- The device's rank in the system, which register s21 holds at task start (spec 02 R28). -/
opaque deviceRank : BitVec 17

/-- The Kerhorn ECDSA P-384 public key in the boot ROM (spec 25 R376). -/
opaque romEcdsaKey : BitVec 384 × BitVec 384

/-- The identifier and the root of the LMS public key in the boot ROM (spec 25 R376). -/
opaque romLmsKey : BitVec 128 × BitVec 256

/-- The private scalar of the identity key that step 10 derives from the device secret and an image digest (spec 25
R378): how it is derived the spec does not say. -/
opaque identityScalar : Nat → List Byte → BitVec 384

/-- The identifier of the LMS identity key so derived (spec 25 R378). -/
opaque identityLmsId : Nat → List Byte → BitVec 128

/-- The secret start of chain k of leaf q of the LMS identity key (spec 25 R378). -/
opaque identityLms : Nat → List Byte → Nat → Nat → BitVec 256

/-- The random number of an ECDSA signature (spec 25 R380). -/
opaque signNonce : Nat → BitVec 384

/-- The random string of an LMS signature (spec 25 R380). -/
opaque lmsRandom : Nat → BitVec 256

/-- A byte of the signatures of a report that is requested before step 10 has derived an identity (spec 25 R375,
R378). -/
opaque unkeyedByte : Nat → Nat → BitVec 8

/-- The port that the device chooses among those of a route mask that are up (spec 26 R385). -/
opaque portChoice : Nat → Nat → Nat → Nat

/-- Whether an aligned 8-byte unit keeps what it held or takes what is written, where the order of two writes of one
operation is not architected (spec 04 R58; 12 R234; 13 R245, R248, R253). -/
opaque keepsOld : Nat → Nat → Nat → Bool

/-- How many writes of one copy a byte that it both reads and writes has taken when it is read (spec 13 R245). -/
opaque chainDepth : Nat → Nat → Nat

/-- The order in which one cred adds its terms to an element that it meets more than once (spec 13 R249). -/
opaque termOrder : Nat → Nat → Nat → Nat

/-- A byte that is not architected (spec 14 R266). -/
opaque freeByte : Nat → Nat → BitVec 8

/-- Whether a walk that starts at a cycle takes the entry of a level and address from the walker's cache of non-leaf
entries (spec 22 R343). -/
opaque walkCacheHit : Nat → Nat → Nat → Bool

end Sys2Proof.Config
end

