-- ==== Sys2Proof/Machine/Format.lean ====
section
/-! DEFINITION. Number formats, rounding and the generator: spec 05 (R77 to R88 but for the special functions,
which stand in Machine/Special.lean) and spec 06 R89, R90. Values are exact; every rounding is one call of
roundTo. -/
namespace Sys2Proof.Machine

/-- The element types by their code (spec 09 R148); codes 0 to 4 are floating formats. -/
abbrev Ty := Nat

/-- The width of an element in bits (spec 05 R77). -/
def tyBits : Ty → Nat
  | 0 => 32
  | 1 => 16
  | 2 => 16
  | 5 => 4
  | 7 => 32
  | _ => 8

/-- Elements per 1 KiB row (spec 03 R49). -/
def perRow (ty : Ty) : Nat := 8192 / tyBits ty

/-- The integer types INT8 and INT32. -/
def tyIsInt (ty : Ty) : Bool := ty == 6 || ty == 7

/-- Mantissa bits (R77). -/
def mbits : Ty → Nat
  | 0 => 23
  | 1 => 7
  | 2 => 10
  | 3 => 3
  | _ => 2

/-- Exponent bias (R77). -/
def ebias : Ty → Nat
  | 0 => 127
  | 1 => 127
  | 3 => 7
  | _ => 15

/-- The exponent of the smallest normal (R77). -/
def emin (ty : Ty) : Int := 1 - (ebias ty : Int)

/-- The magnitude bits of the largest finite value (R77). -/
def maxField : Ty → Nat
  | 0 => 0x7F7FFFFF
  | 1 => 0x7F7F
  | 2 => 0x7BFF
  | 3 => 0x7E
  | _ => 0x7B

/-- What an overflow under RNE gives: infinity, or 448 in E4M3 (R81). -/
def overflowField : Ty → Nat
  | 0 => 0x7F800000
  | 1 => 0x7F80
  | 2 => 0x7C00
  | 3 => 0x7E
  | _ => 0x7C

/-- The canonical NaN (R77); a NaN converted to an integer gives 0 (R81). -/
def canonicalNaN : Ty → Nat
  | 0 => 0x7FC00000
  | 1 => 0x7FC0
  | 2 => 0x7E00
  | 3 => 0x7F
  | 4 => 0x7E
  | _ => 0

/-- An exact value: NaN, an infinity, or m times 2 to the e with a sign; a zero keeps its sign (R84). -/
inductive Val where
  | nan
  | inf (neg : Bool)
  | fin (neg : Bool) (m : Nat) (e : Int)
  deriving DecidableEq, Repr

namespace Val

/-- An integer as a value. -/
def ofInt (z : Int) : Val := .fin (z < 0) z.natAbs 0

/-- The signed significand brought to exponent e0, which is not above the value's own. -/
def scaled (neg : Bool) (m : Nat) (e e0 : Int) : Int :=
  let k : Int := ((m <<< (e - e0).toNat : Nat) : Int)
  if neg then -k else k

/-- The exact sum with the IEEE special cases (R84). -/
def add : Val → Val → Val
  | .nan, _ => .nan
  | _, .nan => .nan
  | .inf a, .inf b => if a = b then .inf a else .nan
  | .inf a, .fin _ _ _ => .inf a
  | .fin _ _ _, .inf b => .inf b
  | .fin n1 m1 e1, .fin n2 m2 e2 =>
    if m1 = 0 ∧ m2 = 0 then .fin (n1 && n2) 0 0
    else if m1 = 0 then .fin n2 m2 e2
    else if m2 = 0 then .fin n1 m1 e1
    else
      let e0 := min e1 e2
      let z := scaled n1 m1 e1 e0 + scaled n2 m2 e2 e0
      if z = 0 then .fin false 0 0 else .fin (z < 0) z.natAbs e0

/-- The exact product (R84). -/
def mul : Val → Val → Val
  | .nan, _ => .nan
  | _, .nan => .nan
  | .inf a, .inf b => .inf (a != b)
  | .inf a, .fin b m _ => if m = 0 then .nan else .inf (a != b)
  | .fin a m _, .inf b => if m = 0 then .nan else .inf (a != b)
  | .fin a m1 e1, .fin b m2 e2 => .fin (a != b) (m1 * m2) (e1 + e2)

/-- The negation. -/
def neg : Val → Val
  | .nan => .nan
  | .inf a => .inf (!a)
  | .fin a m e => .fin (!a) m e

/-- The absolute value. -/
def abs : Val → Val
  | .nan => .nan
  | .inf _ => .inf false
  | .fin _ m e => .fin false m e

/-- x times 2 to the n, exact (R84 scale2 before its rounding). -/
def scale (x : Val) (n : Int) : Val :=
  match x with
  | .fin a m e => .fin a m (e + n)
  | y => y

/-- The value is NaN. -/
def isNaN : Val → Bool
  | .nan => true
  | _ => false

/-- The order of two non-NaN values; zeros compare equal here. -/
def cmp : Val → Val → Ordering
  | .nan, _ => .eq
  | _, .nan => .eq
  | .inf a, .inf b => if a = b then .eq else if a then .lt else .gt
  | .inf a, .fin _ _ _ => if a then .lt else .gt
  | .fin _ _ _, .inf b => if b then .gt else .lt
  | .fin n1 m1 e1, .fin n2 m2 e2 =>
    let e0 := min e1 e2
    compare (scaled n1 m1 e1 e0) (scaled n2 m2 e2 e0)

/-- The sign of a value; a NaN counts as positive. -/
def isNeg : Val → Bool
  | .nan => false
  | .inf a => a
  | .fin a _ _ => a

/-- x is below y, with minus zero below plus zero (R199). -/
def below (x y : Val) : Bool :=
  match cmp x y with
  | .lt => true
  | .gt => false
  | .eq => x.isNeg && !y.isNeg

/-- vmin (R199): NaN if either is NaN, minus zero below plus zero. -/
def min' (x y : Val) : Val := if x.isNaN || y.isNaN then .nan else if below y x then y else x

/-- vmax (R199). -/
def max' (x y : Val) : Val := if x.isNaN || y.isNaN then .nan else if below x y then y else x

/-- clip of R84: a NaN bound imposes no bound; a NaN x stays NaN. -/
def clip (x lo hi : Val) : Val :=
  if x.isNaN then .nan else
    let a := if lo.isNaN then x else max' x lo
    if hi.isNaN then a else min' a hi

end Val

/-- value(f, b) for the formats of R77 other than E2M1 (R84). -/
def valueOf (ty : Ty) (b : Nat) : Val :=
  if tyIsInt ty then Val.ofInt (BitVec.ofNat (tyBits ty) b).toInt
  else
    let w := tyBits ty
    let neg := b / 2 ^ (w - 1) % 2 = 1
    let mb := mbits ty
    let eb := w - 1 - mb
    let ef := b / 2 ^ mb % 2 ^ eb
    let mf := b % 2 ^ mb
    if ty = 3 ∧ ef = 15 ∧ mf = 7 then .nan
    else if ty ≠ 3 ∧ ef = 2 ^ eb - 1 then (if mf = 0 then .inf neg else .nan)
    else if ef = 0 then .fin neg mf (emin ty - mb)
    else .fin neg (2 ^ mb + mf) ((ef : Int) - ebias ty - mb)

/-- The FP32 value of a 32-bit pattern. -/
def fp32 (b : Nat) : Val := valueOf 0 (b % 2 ^ 32)

/-- pow2(X) of R84. -/
def pow2 (x : Nat) : Val := if x % 256 = 255 then .nan else .fin false 1 (((x % 256 : Nat) : Int) - 127)

/-- The value of E2M1 code c under scale X and special byte S (R79). -/
def e2m1Mag : Nat → Nat
  | 0 => 0
  | 1 => 1
  | 2 => 2
  | 3 => 3
  | 4 => 4
  | 5 => 6
  | 6 => 8
  | _ => 12

/-- The special magnitudes in quarters; 0 stands for none (R79). -/
def specialMag4 : Nat → Nat
  | 0 => 0
  | 1 => 1
  | 2 => 3
  | 3 => 20
  | 4 => 28
  | 5 => 32
  | 6 => 40
  | _ => 48

/-- The code's value before the block scale, in quarters (R79). -/
def e2m1Quarters (c s : Nat) : Int :=
  if c % 16 = 8 then
    let m : Int := (specialMag4 (s % 8) : Nat)
    if s / 8 % 2 = 1 then -m else m
  else
    let m : Int := ((2 * e2m1Mag (c % 8) : Nat) : Int)
    if c / 8 % 2 = 1 then -m else m

/-- The decoded element of a block (R79). -/
def e2m1Value (c x s : Nat) : Val :=
  if x % 256 = 255 then .nan
  else
    let q := e2m1Quarters c s
    .fin (q < 0) q.natAbs (((x % 256 : Nat) : Int) - 127 - 2)

/-- The three rounding modes (R81, R82); sr carries its random value and whether x is an FP32 value. -/
inductive Round where
  | rne
  | rz
  | sr (r : Nat) (fp32src : Bool)
  deriving DecidableEq, Repr

/-- The number of trailing zero bits of a positive number, at most fuel. -/
def ctzNat : Nat → Nat → Nat
  | 0, _ => 0
  | fuel + 1, m => if m % 2 = 1 then 0 else 1 + ctzNat fuel (m / 2)

/-- |x| = m 2^e in units of 2^qe, rounded by the mode; lx is the last-bit unit of R82. -/
def quantise (mode : Round) (m : Nat) (e qe : Int) : Nat :=
  if qe ≤ e then m <<< (e - qe).toNat
  else
    let sh := (qe - e).toNat
    let k := m >>> sh
    let rem := m % 2 ^ sh
    match mode with
    | .rne => if 2 ^ sh < 2 * rem ∨ (2 ^ sh = 2 * rem ∧ k % 2 = 1) then k + 1 else k
    | .rz => k
    | .sr r fp32src =>
      let lg : Int := (Nat.log2 m : Int) + e
      let le : Int := if fp32src then max lg (-126) - 23 else min (lg - 23) (e + ctzNat (Nat.log2 m + 1) m)
      let kb := min (qe - le) 32
      if kb ≤ 0 then k
      else
        let d := rem * 2 ^ kb.toNat / 2 ^ sh
        if 2 ^ kb.toNat ≤ d + r % 2 ^ kb.toNat then k + 1 else k

/-- The bits of a sign and a magnitude field. -/
def withSign (ty : Ty) (neg : Bool) (f : Nat) : Nat := if neg then 2 ^ (tyBits ty - 1) + f else f

/-- RNE, RZ and SR of R81, R82: the bits of the value of f. SR of a value above max gives what RNE gives, an infinity
where the format has one (R82 does not say which overflow result; DESIGN CHOICE, assumption log 79). -/
def roundTo (ty : Ty) (mode : Round) (x : Val) : Nat :=
  if tyIsInt ty then
    let w := tyBits ty
    let sat (neg : Bool) : Nat := if neg then 2 ^ (w - 1) else 2 ^ (w - 1) - 1
    match x with
    | .nan => 0
    | .inf neg => sat neg
    | .fin neg m e =>
      let k := if m = 0 then 0 else quantise mode m e 0
      if neg then (if 2 ^ (w - 1) < k then sat true else (2 ^ w - k) % 2 ^ w)
      else (if 2 ^ (w - 1) ≤ k then sat false else k)
  else
    match x with
    | .nan => canonicalNaN ty
    | .inf neg => withSign ty neg (overflowField ty)
    | .fin neg m e =>
      if m = 0 then withSign ty neg 0
      else
        let lg : Int := (Nat.log2 m : Int) + e
        let qe := max lg (emin ty) - mbits ty
        let k := quantise mode m e qe
        let f := if k = 0 then 0 else (qe - (emin ty - mbits ty)).toNat * 2 ^ mbits ty + k
        if maxField ty < f then
          withSign ty neg (match mode with | .rz => maxField ty | _ => overflowField ty)
        else withSign ty neg f

/-- RNE32 of R84, as bits. -/
def rne32 (x : Val) : Nat := roundTo 0 .rne x

/-- RNE32 of R84, as a value. -/
def rne32v (x : Val) : Val := fp32 (rne32 x)

/-- fma of R84 on FP32 values. -/
def fma32 (a b c : Val) : Val := rne32v (Val.add (Val.mul a b) c)

/-- scale2 of R84 on values. -/
def scale2 (x : Val) (n : Int) : Val := rne32v (x.scale n)

/-! ## Rows as elements -/

/-- Bits w*k up of a number: element k of width w (R49; E2M1 nibbles too, since bit order follows). -/
def elemOf (w k v : Nat) : Nat := v >>> (w * k) % 2 ^ w

/-- The number whose element s + i is f (s + i), for i below n. -/
def packFrom (w : Nat) (f : Nat → Nat) : Nat → Nat → Nat
  | 0, _ => 0
  | n + 1, s => f s % 2 ^ w + 2 ^ w * packFrom w f n (s + 1)

/-- The row whose element k of type ty is f k (R49). -/
def buildRow (ty : Ty) (f : Nat → Nat) : Row := BitVec.ofNat 8192 (packFrom (tyBits ty) f (perRow ty) 0)

/-- Element k of a row read as type ty (R49). -/
def rowElem (ty : Ty) (r : Row) (k : Nat) : Nat := elemOf (tyBits ty) k r.toNat

/-- Byte i of a row. -/
def rowByte (r : Row) (i : Nat) : Nat := elemOf 8 i r.toNat

/-! ## The generator (spec 06 R89, R90) -/

/-- mix64 of R89. -/
def mix64 (z : Word) : Word :=
  let z1 := (z ^^^ (z >>> 30)) * 0xBF58476D1CE4E5B9#64
  let z2 := (z1 ^^^ (z1 >>> 27)) * 0x94D049BB133111EB#64
  z2 ^^^ (z2 >>> 31)

/-- The domain constants of R89. -/
def dPerturb : Word := 0x6A09E667F3BCC908#64
/-- The domain of SR conversions that name a descriptor (R89). -/
def dRound : Word := 0xBB67AE8584CAA73B#64
/-- The domain of dropout that names a descriptor (R89). -/
def dDrop : Word := 0x3C6EF372FE94F82B#64
/-- The domain of context streams (R89). -/
def dContext : Word := 0xA54FF53A5F1D36F1#64

/-- out of R89: tid is 24 bits, b is 40 bits. -/
def rngOut (seed d : Word) (tid b : Nat) : Word :=
  mix64 (mix64 (seed ^^^ d) + BitVec.ofNat 64 (tid % 2 ^ 24 * 2 ^ 40 + b % 2 ^ 40) * 0x9E3779B97F4A7C15#64)

/-- The noise nibble of R90. -/
def noiseNibble (seed : Word) (tid e : Nat) : Nat :=
  (rngOut seed dPerturb tid (e / 16 % 2 ^ 40)).toNat >>> (4 * (e % 16)) % 16

/-- The NORM16 magnitudes in sixty-fourths (R90). -/
def norm16 : Nat → Nat
  | 0 => 5
  | 1 => 15
  | 2 => 26
  | 3 => 37
  | 4 => 50
  | 5 => 64
  | 6 => 84
  | _ => 120

/-- The noise n of a nibble under mode 0 (NORM16) or 1 (RAD) (R90). -/
def noiseVal (mode nib : Nat) : Val :=
  let neg := nib / 8 % 2 = 1
  if mode = 0 then .fin neg (norm16 (nib % 8)) (-6) else .fin neg 1 0

end Sys2Proof.Machine
end

