-- ==== Sys2Proof/Syntax.lean ====
section
/-! DEFINITION. The syntax of the Lannis E9: one constructor of Instr per row of spec/opcode_table.json,
with the fields the rows and spec 09 give it. The rows after krules are the table's events: they are no
instruction words; their arguments say which agent acts and what the outside world supplies. -/
namespace Sys2Proof

/-- The four strand kinds of a crew (spec 02 R13). -/
inductive StrandKind where
  | s | v | m | c
  deriving DecidableEq, Repr

/-- Fields common to the engine formats (spec 09 R146). -/
structure Eng where
  p : BitVec 4
  wait : BitVec 3
  post : BitVec 3
  noknead : BitVec 1
  cls : BitVec 4
  deriving DecidableEq, Repr

/-- Operand fields of the V group (spec 09 R148). -/
structure VFields where
  dst : BitVec 12
  f : BitVec 1
  e : BitVec 1
  src1 : BitVec 12
  x : BitVec 6
  ty : BitVec 3
  deriving DecidableEq, Repr

/-- Operand fields of the VM group (spec 09 R148). -/
structure VmFields where
  spec : BitVec 12
  flag : BitVec 1
  sa : BitVec 5
  z : BitVec 3
  off : BitVec 13
  deriving DecidableEq, Repr

/-- Operand fields of the X group (spec 09 R148). -/
structure XFields where
  ta : BitVec 5
  tb : BitVec 5
  e : BitVec 1
  f : BitVec 1
  sn : BitVec 5
  fmt : BitVec 4
  row : BitVec 7
  acc : BitVec 1
  sr : BitVec 1
  pd : BitVec 3
  deriving DecidableEq, Repr

/-- Operand fields of the CP group (spec 09 R148). -/
structure CpFields where
  sn : BitVec 5
  sd : BitVec 5
  pd : BitVec 3
  tile : BitVec 5
  flag : BitVec 1
  zs : BitVec 3
  zd : BitVec 3
  deriving DecidableEq, Repr

/-- Operand fields of the SY group (spec 09 R148). -/
structure SyFields where
  sa : BitVec 5
  sb : BitVec 5
  pd : BitVec 3
  deriving DecidableEq, Repr

/-- A chunk that arrives from another device (spec 26 R386): the group, the sender's member index, the
operation it belongs to (its position on the handle, or the tag of a send), the chunk number, the sender's
parameters of the operation, and its bytes. -/
structure Chunk where
  group : Nat
  src : Nat
  oper : Nat
  number : Nat
  params : List Nat
  data : List Byte
  deriving DecidableEq, Repr

/-- An access of another device through a group window (spec 26 R389). kind: 0 load, 1 store, 2 atomic with function
fn of spec 09 R155, 3 a unit of a cred of operation and type fn, tagged with its copy and its unit number, whose
pieces are physical addresses with lengths (spec 13 R250); part is the window of the unit's bytes. off is the physical
address that the sender's entry gives. -/
structure RemoteReq where
  tag : Nat
  group : Nat
  srcRank : Nat
  kind : Nat
  fn : Nat
  off : Nat
  size : Nat
  data : List Byte
  copy : Nat := 0
  unit : Nat := 0
  part : Nat := 0
  pieces : List (Nat × Nat) := []
  deriving DecidableEq, Repr

/-- Host-visible registers that have no row of their own (spec 21 R318, row REGISTER_WRITE). -/
inductive HostReg where
  | tenant (n word : Nat)
  | dcfg
  | savepool
  | precfg
  | fqcfg
  | ercfg
  | erhead
  | gwtbase
  | cap (n : Nat)
  | route (rank : Nat)
  | port (p : Nat)
  | pwrstat
  | therm (d : Nat)
  | attaddr
  | attnonce (k : Nat)
  | segment (cu seg : Nat)
  | hdm (hi : Bool)
  | readOnly
  deriving DecidableEq, Repr

/-- A resource whose zeroing after a change of owner completes (spec 03 R53, R54). -/
inductive ZeroTarget where
  | crew (n : Nat)
  | planes (cu : Nat)
  | segment (cu seg : Nat)
  deriving DecidableEq, Repr

/-- Who would consume data that cannot be corrected (spec 23 R365): nobody, an access or register file of a crew, a
started instruction or operation of a crew by its number, a walk on which contexts of crews and
cards wait, or a Glaze card. -/
inductive Consumer where
  | nobody
  | access (crew : Nat)
  | started (crew op : Nat)
  | walk (crews cards : List Nat)
  | card (id : Nat)
  deriving DecidableEq, Repr

/-- The instructions and events of the Lannis E9, one constructor per row of the opcode table; the rows without
fields stand last. -/
inductive Instr where
  /-- EXIT (R181). -/
  | exit (p : BitVec 4)
  /-- YIELD (R34). -/
  | yield (p : BitVec 4)
  /-- YIELD_SAFE (R34). -/
  | yieldSafe (p : BitVec 4)
  /-- TRET (R184). -/
  | tret (p : BitVec 4)
  /-- TRAP (R183). -/
  | trap (p : BitVec 4) (imm : BitVec 16)
  /-- BKPT (R183). -/
  | bkpt (p : BitVec 4) (imm : BitVec 16)
  /-- ACCTFLUSH (R111). -/
  | acctflush (p : BitVec 4)
  /-- FENCE (R60). -/
  | fence (p : BitVec 4) (scope : BitVec 3) (mask : BitVec 16)
  /-- MFSR (R187). -/
  | mfsr (p : BitVec 4) (sd : BitVec 5) (num : BitVec 11)
  /-- MTSR (R187). -/
  | mtsr (p : BitVec 4) (sa : BitVec 5) (num : BitVec 11)
  /-- WAITT (R191). -/
  | waitt (p : BitVec 4) (sa : BitVec 5)
  /-- TKPUSH (R188). -/
  | tkpush (p : BitVec 4) (mask : BitVec 3)
  /-- TKPOP (R188). -/
  | tkpop (p : BitVec 4) (mask : BitVec 3)
  /-- GSYNC (R29). -/
  | gsync (p : BitVec 4) (g : BitVec 8)
  /-- QWR (R189). -/
  | qwr (p : BitVec 4) (sa : BitVec 5) (q : BitVec 3) (f : BitVec 1)
  /-- QRD (R189). -/
  | qrd (p : BitVec 4) (sd : BitVec 5) (q : BitVec 3) (e : BitVec 1)
  /-- ADD (R163). -/
  | add (p : BitVec 4) (sd sa sb : BitVec 5)
  /-- SUB (R163). -/
  | sub (p : BitVec 4) (sd sa sb : BitVec 5)
  /-- AND (R163). -/
  | and (p : BitVec 4) (sd sa sb : BitVec 5)
  /-- OR (R163). -/
  | or (p : BitVec 4) (sd sa sb : BitVec 5)
  /-- XOR (R163). -/
  | xor (p : BitVec 4) (sd sa sb : BitVec 5)
  /-- SLL (R163). -/
  | sll (p : BitVec 4) (sd sa sb : BitVec 5)
  /-- SRL (R163). -/
  | srl (p : BitVec 4) (sd sa sb : BitVec 5)
  /-- SRA (R163). -/
  | sra (p : BitVec 4) (sd sa sb : BitVec 5)
  /-- MUL (R163). -/
  | mul (p : BitVec 4) (sd sa sb : BitVec 5)
  /-- MULH (R163). -/
  | mulh (p : BitVec 4) (sd sa sb : BitVec 5)
  /-- MULHU (R163). -/
  | mulhu (p : BitVec 4) (sd sa sb : BitVec 5)
  /-- DIV (R164). -/
  | div (p : BitVec 4) (sd sa sb : BitVec 5)
  /-- DIVU (R164). -/
  | divu (p : BitVec 4) (sd sa sb : BitVec 5)
  /-- REM (R164). -/
  | rem (p : BitVec 4) (sd sa sb : BitVec 5)
  /-- REMU (R164). -/
  | remu (p : BitVec 4) (sd sa sb : BitVec 5)
  /-- MIN (R163). -/
  | min (p : BitVec 4) (sd sa sb : BitVec 5)
  /-- MAX (R163). -/
  | max (p : BitVec 4) (sd sa sb : BitVec 5)
  /-- MINU (R163). -/
  | minu (p : BitVec 4) (sd sa sb : BitVec 5)
  /-- MAXU (R163). -/
  | maxu (p : BitVec 4) (sd sa sb : BitVec 5)
  /-- CLZ (R163). -/
  | clz (p : BitVec 4) (sd sa : BitVec 5)
  /-- CTZ (R163). -/
  | ctz (p : BitVec 4) (sd sa : BitVec 5)
  /-- POPC (R163). -/
  | popc (p : BitVec 4) (sd sa : BitVec 5)
  /-- ADDI (R165). -/
  | addi (sd sa : BitVec 5) (imm : BitVec 16)
  /-- ANDI (R165). -/
  | andi (sd sa : BitVec 5) (imm : BitVec 16)
  /-- ORI (R165). -/
  | ori (sd sa : BitVec 5) (imm : BitVec 16)
  /-- XORI (R165). -/
  | xori (sd sa : BitVec 5) (imm : BitVec 16)
  /-- SLLI (R165). -/
  | slli (sd sa : BitVec 5) (n : BitVec 6)
  /-- SRLI (R165). -/
  | srli (sd sa : BitVec 5) (n : BitVec 6)
  /-- SRAI (R165). -/
  | srai (sd sa : BitVec 5) (n : BitVec 6)
  /-- LUI (R165). -/
  | lui (sd : BitVec 5) (imm : BitVec 21)
  /-- CMP (R167). -/
  | cmp (p : BitVec 4) (pd : BitVec 3) (cond : BitVec 4) (sa sb : BitVec 5)
  /-- CMPI (R167). -/
  | cmpi (pd : BitVec 3) (cond : BitVec 4) (sa : BitVec 5) (imm : BitVec 14)
  /-- PAND (R168). -/
  | pand (p : BitVec 4) (pd pa pb : BitVec 3)
  /-- POR (R168). -/
  | por (p : BitVec 4) (pd pa pb : BitVec 3)
  /-- PXOR (R168). -/
  | pxor (p : BitVec 4) (pd pa pb : BitVec 3)
  /-- PANDN (R168). -/
  | pandn (p : BitVec 4) (pd pa pb : BitVec 3)
  /-- PORN (R168). -/
  | porn (p : BitVec 4) (pd pa pb : BitVec 3)
  /-- LEA (R166). -/
  | lea (p : BitVec 4) (sd sa sb : BitVec 5)
  /-- TAG (R166). -/
  | tag (p : BitVec 4) (sd sa : BitVec 5) (sid : BitVec 4)
  /-- SPACE (R166). -/
  | space (p : BitVec 4) (sd sa : BitVec 5)
  /-- RNG (R179). -/
  | rng (p : BitVec 4) (sd : BitVec 5)
  /-- RNGC (R180). -/
  | rngc (p : BitVec 4) (sd sn : BitVec 5)
  /-- BR (R169). -/
  | br (p : BitVec 4) (disp : BitVec 22)
  /-- JMP (R169). -/
  | jmp (disp : BitVec 26)
  /-- CALL (R169). -/
  | call (disp : BitVec 26)
  /-- JR (R170). -/
  | jr (p : BitVec 4) (sa : BitVec 5)
  /-- CALLR (R170). -/
  | callr (p : BitVec 4) (sa : BitVec 5)
  /-- LOOP (R172). -/
  | loop (id : BitVec 2) (stages : BitVec 3) (sa : BitVec 5) (off : BitVec 16)
  /-- LDB (R175). -/
  | ldb (sd sa : BitVec 5) (off : BitVec 16)
  /-- LDBU (R175). -/
  | ldbu (sd sa : BitVec 5) (off : BitVec 16)
  /-- LDH (R175). -/
  | ldh (sd sa : BitVec 5) (off : BitVec 16)
  /-- LDHU (R175). -/
  | ldhu (sd sa : BitVec 5) (off : BitVec 16)
  /-- LDW (R175). -/
  | ldw (sd sa : BitVec 5) (off : BitVec 16)
  /-- LDWU (R175). -/
  | ldwu (sd sa : BitVec 5) (off : BitVec 16)
  /-- LDD (R175). -/
  | ldd (sd sa : BitVec 5) (off : BitVec 16)
  /-- STB (R175). -/
  | stb (sb sa : BitVec 5) (off : BitVec 16)
  /-- STH (R175). -/
  | sth (sb sa : BitVec 5) (off : BitVec 16)
  /-- STW (R175). -/
  | stw (sb sa : BitVec 5) (off : BitVec 16)
  /-- STD (R175). -/
  | std (sb sa : BitVec 5) (off : BitVec 16)
  /-- LDX (R176). -/
  | ldx (p : BitVec 4) (sd sa si : BitVec 5) (size : BitVec 2) (sext : BitVec 1) (z : BitVec 3) (cls : BitVec 4) (off : BitVec 21)
  /-- STX (R176). -/
  | stx (p : BitVec 4) (sb sa si : BitVec 5) (size : BitVec 2) (z : BitVec 3) (cls : BitVec 4) (off : BitVec 21)
  /-- LDX_ACQ (R177). -/
  | ldxAcq (p : BitVec 4) (sd sa si : BitVec 5) (scope z : BitVec 3) (cls : BitVec 4) (mask : BitVec 16)
  /-- STX_REL (R177). -/
  | stxRel (p : BitVec 4) (sb sa si : BitVec 5) (scope z : BitVec 3) (cls : BitVec 4) (mask : BitVec 16)
  /-- AMO_ADD (R178). -/
  | amoAdd (p : BitVec 4) (sd sa sb : BitVec 5) (size : BitVec 1) (cls : BitVec 4)
  /-- AMO_MIN (R178). -/
  | amoMin (p : BitVec 4) (sd sa sb : BitVec 5) (size : BitVec 1) (cls : BitVec 4)
  /-- AMO_MAX (R178). -/
  | amoMax (p : BitVec 4) (sd sa sb : BitVec 5) (size : BitVec 1) (cls : BitVec 4)
  /-- AMO_MINU (R178). -/
  | amoMinu (p : BitVec 4) (sd sa sb : BitVec 5) (size : BitVec 1) (cls : BitVec 4)
  /-- AMO_MAXU (R178). -/
  | amoMaxu (p : BitVec 4) (sd sa sb : BitVec 5) (size : BitVec 1) (cls : BitVec 4)
  /-- AMO_AND (R178). -/
  | amoAnd (p : BitVec 4) (sd sa sb : BitVec 5) (size : BitVec 1) (cls : BitVec 4)
  /-- AMO_OR (R178). -/
  | amoOr (p : BitVec 4) (sd sa sb : BitVec 5) (size : BitVec 1) (cls : BitVec 4)
  /-- AMO_XOR (R178). -/
  | amoXor (p : BitVec 4) (sd sa sb : BitVec 5) (size : BitVec 1) (cls : BitVec 4)
  /-- AMO_SWP (R178). -/
  | amoSwp (p : BitVec 4) (sd sa sb : BitVec 5) (size : BitVec 1) (cls : BitVec 4)
  /-- CAS (R178). -/
  | cas (p : BitVec 4) (sd sa sb sc : BitVec 5) (size : BitVec 1) (cls : BitVec 4)
  /-- AMO_FADD (R178). -/
  | amoFadd (p : BitVec 4) (sd sa sb : BitVec 5) (cls : BitVec 4)
  /-- LI32 (R165). -/
  | li32 (p : BitVec 4) (sd : BitVec 5) (imm : BitVec 32)
  /-- LIH (R165). -/
  | lih (p : BitVec 4) (sd : BitVec 5) (imm : BitVec 32)
  /-- VADD (R199). -/
  | vadd (e : Eng) (v : VFields)
  /-- VSUB (R199). -/
  | vsub (e : Eng) (v : VFields)
  /-- VMUL (R199). -/
  | vmul (e : Eng) (v : VFields)
  /-- VFMA (R199). -/
  | vfma (e : Eng) (v : VFields)
  /-- VMIN (R199). -/
  | vmin (e : Eng) (v : VFields)
  /-- VMAX (R199). -/
  | vmax (e : Eng) (v : VFields)
  /-- VABS (R199). -/
  | vabs (e : Eng) (v : VFields)
  /-- VNEG (R199). -/
  | vneg (e : Eng) (v : VFields)
  /-- VEXP2 (R200). -/
  | vexp2 (e : Eng) (v : VFields)
  /-- VLOG2 (R200). -/
  | vlog2 (e : Eng) (v : VFields)
  /-- VRCP (R200). -/
  | vrcp (e : Eng) (v : VFields)
  /-- VRSQRT (R200). -/
  | vrsqrt (e : Eng) (v : VFields)
  /-- VTANH (R200). -/
  | vtanh (e : Eng) (v : VFields)
  /-- VAND (R201). -/
  | vand (e : Eng) (v : VFields)
  /-- VOR (R201). -/
  | vor (e : Eng) (v : VFields)
  /-- VXOR (R201). -/
  | vxor (e : Eng) (v : VFields)
  /-- VSHL (R201). -/
  | vshl (e : Eng) (v : VFields)
  /-- VSHR (R201). -/
  | vshr (e : Eng) (v : VFields)
  /-- VSRA (R201). -/
  | vsra (e : Eng) (v : VFields)
  /-- VCMP_EQ (R202). -/
  | vcmpEq (e : Eng) (v : VFields)
  /-- VCMP_NE (R202). -/
  | vcmpNe (e : Eng) (v : VFields)
  /-- VCMP_LT (R202). -/
  | vcmpLt (e : Eng) (v : VFields)
  /-- VCMP_LE (R202). -/
  | vcmpLe (e : Eng) (v : VFields)
  /-- VSEL (R203). -/
  | vsel (e : Eng) (v : VFields)
  /-- VCVT (R204). -/
  | vcvt (e : Eng) (v : VFields)
  /-- VQBLK (R206). -/
  | vqblk (e : Eng) (v : VFields)
  /-- VUNPK (R207). -/
  | vunpk (e : Eng) (v : VFields)
  /-- VDROP (R208). -/
  | vdrop (e : Eng) (v : VFields)
  /-- VRSUM (R210). -/
  | vrsum (e : Eng) (v : VFields)
  /-- VRMAX (R210). -/
  | vrmax (e : Eng) (v : VFields)
  /-- VRMIN (R210). -/
  | vrmin (e : Eng) (v : VFields)
  /-- VMOV (R211). -/
  | vmov (e : Eng) (v : VFields)
  /-- VSHUF (R211). -/
  | vshuf (e : Eng) (v : VFields)
  /-- VIOTA (R211). -/
  | viota (e : Eng) (v : VFields)
  /-- VSPLAT (R211). -/
  | vsplat (e : Eng) (v : VFields)
  /-- VLD (R213). -/
  | vld (e : Eng) (v : VmFields)
  /-- VST (R213). -/
  | vst (e : Eng) (v : VmFields)
  /-- VLDT (R213). -/
  | vldt (e : Eng) (v : VmFields)
  /-- VGATH (R214). -/
  | vgath (e : Eng) (v : VFields)
  /-- VRNG (R209). -/
  | vrng (e : Eng) (v : VFields)
  /-- VTRN (R211). -/
  | vtrn (e : Eng) (v : VFields)
  /-- ALEASE (R219). -/
  | alease (e : Eng) (x : XFields)
  /-- ARELEASE (R219). -/
  | arelease (e : Eng) (x : XFields)
  /-- LDS (R224). -/
  | lds (e : Eng) (x : XFields)
  /-- LDS_P (R225). -/
  | ldsP (e : Eng) (x : XFields)
  /-- LDS_CB (R226). -/
  | ldsCb (e : Eng) (x : XFields)
  /-- LDS_BS (R228). -/
  | ldsBs (e : Eng) (x : XFields)
  /-- MSWAP (R229). -/
  | mswap (e : Eng) (x : XFields)
  /-- MMUL (R230). -/
  | mmul (e : Eng) (x : XFields)
  /-- MMUL_BS (R230). -/
  | mmulBs (e : Eng) (x : XFields)
  /-- MDRAIN (R233). -/
  | mdrain (e : Eng) (x : XFields)
  /-- MZERO (R235). -/
  | mzero (e : Eng) (x : XFields)
  /-- MCBT (R227). -/
  | mcbt (e : Eng) (x : XFields)
  /-- CPY (R246). -/
  | cpy (e : Eng) (c : CpFields)
  /-- CPY_LD (R247). -/
  | cpyLd (e : Eng) (c : CpFields)
  /-- CPY_ST (R247). -/
  | cpySt (e : Eng) (c : CpFields)
  /-- CGATH (R248). -/
  | cgath (e : Eng) (c : CpFields)
  /-- CSCAT (R248). -/
  | cscat (e : Eng) (c : CpFields)
  /-- CRED (R249). -/
  | cred (e : Eng) (c : CpFields)
  /-- CPREF (R251). -/
  | cpref (e : Eng) (c : CpFields)
  /-- CRING (R252). -/
  | cring (e : Eng) (c : CpFields)
  /-- COLL_OPEN (R267). -/
  | collOpen (e : Eng) (c : CpFields)
  /-- COLL_ARED (R270). -/
  | collAred (e : Eng) (c : CpFields)
  /-- COLL_AGATH (R271). -/
  | collAgath (e : Eng) (c : CpFields)
  /-- COLL_BCAST (R271). -/
  | collBcast (e : Eng) (c : CpFields)
  /-- COLL_CLOSE (R272). -/
  | collClose (e : Eng) (c : CpFields)
  /-- SEND (R273). -/
  | send (e : Eng) (c : CpFields)
  /-- RECV (R273). -/
  | recv (e : Eng) (c : CpFields)
  /-- JAPP (R274). -/
  | japp (e : Eng) (c : CpFields)
  /-- JWAIT (R275). -/
  | jwait (e : Eng) (c : CpFields)
  /-- JFETCH (R276). -/
  | jfetch (e : Eng) (c : CpFields)
  /-- GLZ_POST (R278). -/
  | glzPost (e : Eng) (c : CpFields)
  /-- GLZ_WAIT (R279). -/
  | glzWait (e : Eng) (c : CpFields)
  /-- BINIT (R259). -/
  | binit (e : Eng) (y : SyFields)
  /-- BEXPECT (R260). -/
  | bexpect (e : Eng) (y : SyFields)
  /-- BARRIVE (R260). -/
  | barrive (e : Eng) (y : SyFields)
  /-- BWAIT (R261). -/
  | bwait (e : Eng) (y : SyFields)
  /-- BTEST (R261). -/
  | btest (e : Eng) (y : SyFields)
  /-- RINIT (R262). -/
  | rinit (e : Eng) (y : SyFields)
  /-- RWAITF (R263). -/
  | rwaitf (e : Eng) (y : SyFields)
  /-- RREL (R263). -/
  | rrel (e : Eng) (y : SyFields)
  /-- PATCH (R149). -/
  | patch (index : BitVec 6) (select : BitVec 4) (value : BitVec 16)
  /-- TLOAD (R306). -/
  | tload (p : BitVec 4) (sa : BitVec 5)
  /-- KRULES (R304). -/
  | krules (p : BitVec 4) (sa : BitVec 5)
  /-- KNEAD_GROUP_ISSUE (R299). -/
  | kneadGroupIssue (entry : Nat)
  /-- ENGINE_INSTRUCTION_COMPLETION (R21). -/
  | engineInstructionCompletion (crew op : Nat)
  /-- ASYNC_TRAP_ENTRY (R361). -/
  | asyncTrapEntry (crew : Nat) (k : StrandKind)
  /-- WAITT_WAKE (R74). -/
  | waittWake (crew : Nat) (k : StrandKind) (at_ : Word)
  /-- JWAIT_DEADLINE (R275). -/
  | jwaitDeadline (crew : Nat) (sd : BitVec 5) (pd : BitVec 3) (chained : Nat)
  /-- WATCHDOG_EXPIRY (R37). -/
  | watchdogExpiry (crew : Nat) (k : StrandKind)
  /-- LEASE_GRANT (R24). -/
  | leaseGrant (cu : Nat)
  /-- LEASE_LIMIT (R24). -/
  | leaseLimit (cu : Nat)
  /-- RAMP_STEP (R117). -/
  | rampStep (cu : Nat)
  /-- COPY_UNIT (R253). -/
  | copyUnit (crew op : Nat)
  /-- COPY_COMPLETION (R244). -/
  | copyCompletion (crew op : Nat)
  /-- FABRIC_OP_COMPLETION (R266). -/
  | fabricOpCompletion (crew op : Nat)
  /-- COLLECTIVE_CHUNK (R386). -/
  | collectiveChunk (chunk : Chunk)
  /-- SEND_DATA (R273). -/
  | sendData (chunk : Chunk)
  /-- REMOTE_ACCESS (R389). -/
  | remoteAccess (acc : RemoteReq)
  /-- ACKNOWLEDGEMENT (R386). -/
  | acknowledgement (tag : Nat) (data : List Byte)
  /-- JOURNAL_ARRIVAL (R101). -/
  | journalArrival (group : Nat) (src : Nat) (entry : List Byte) (fetched : Bool)
  /-- JFETCH_REQUEST (R276). -/
  | jfetchRequest (group : Nat) (src : Nat) (first count : Nat)
  /-- JAPP_RESEND (R387). -/
  | jappResend (crew op : Nat)
  /-- FLIT_RECEIVE (R383). -/
  | flitReceive (port : Nat) (flit : List Byte)
  /-- RETRY_REQUEST (R383). -/
  | retryRequest (port seq : Nat)
  /-- PORT_RETRAIN (R383). -/
  | portRetrain (port : Nat) (ok : Bool)
  /-- GLAZE_CARD_RUN (R103). -/
  | glazeCardRun (crew card : Nat)
  /-- GLAZE_CARD_COMPLETION (R278). -/
  | glazeCardCompletion (crew card : Nat)
  /-- TRANSLATION_WALK (R340). -/
  | translationWalk (cu fn : Nat) (va : Word) (need : BitVec 3)
  /-- CLOCK_SKEW_DETECTION (R348). -/
  | clockSkewDetection (cu : Nat) (drift : Int)
  /-- FQRESP_WRITE (R353). -/
  | fqrespWrite (v : Word)
  /-- FQHEAD_WRITE (R351). -/
  | fqheadWrite (v : Word)
  /-- XR_ROOT_WRITE (R341). -/
  | xrRootWrite (fn : Nat) (stage2 : Bool) (v : Word)
  /-- FCMD_WRITE (R355). -/
  | fcmdWrite (v : Word)
  /-- QUEUE_CONFIG_WRITE (R319). -/
  | queueConfigWrite (q : Nat) (hi : Bool) (v : Word)
  /-- TAIL_WRITE (R321). -/
  | tailWrite (q : Nat) (v : BitVec 32)
  /-- ABORT_WRITE (R329). -/
  | abortWrite (q : Nat) (v : BitVec 32)
  /-- FUNCTION_LEVEL_RESET (R329). -/
  | functionLevelReset (vf : Nat)
  /-- LAUNCH_RECORD_READ (R327). -/
  | launchRecordRead (q : Nat)
  /-- TILE_PRELOAD_COMPLETE (R327). -/
  | tilePreloadComplete (crew : Nat)
  /-- TASK_COMPLETION (R27). -/
  | taskCompletion (crew : Nat)
  /-- LAUNCH_COMPLETION (R331). -/
  | launchCompletion (launch : Nat)
  /-- ACCOUNT_RECORD_EVICTION (R110). -/
  | accountRecordEviction (crew : Nat)
  /-- ACCOUNT_COUNT_OVERFLOW (R110). -/
  | accountCountOverflow (crew : Nat)
  /-- PREEMPT_WRITE (R336). -/
  | preemptWrite (v : Word)
  /-- CONTEXT_SAVE (R35). -/
  | contextSave (crew : Nat)
  /-- SPILLCFG_WRITE (R335). -/
  | spillcfgWrite (v : Word)
  /-- STAGECFG_WRITE (R393). -/
  | stagecfgWrite (v : Word)
  /-- POWER_CONTROL_INTERVAL (R398). -/
  | powerControlInterval (power temp0 temp1 : Nat)
  /-- PWRCFG_WRITE (R397). -/
  | pwrcfgWrite (v : Word)
  /-- ROWCAP_WRITE (R397). -/
  | rowcapWrite (v : BitVec 16)
  /-- UNCORRECTABLE_ERROR (R365). -/
  | uncorrectableError (who : Consumer) (unit sub : Nat) (pa : Word)
  /-- BOOT_START (R371). -/
  | bootStart (passes : List (Nat × Bool))
  /-- BOOTCLR (R374). -/
  | bootclr (v : Word)
  /-- BOOTCTL (R375). -/
  | bootctl (v : Word)
  /-- FWSVN (R377). -/
  | fwsvn (v : Word)
  /-- ATTCTL_GO (R379). -/
  | attctlGo (i3c : Bool)
  /-- TELESNAP (R401). -/
  | telesnap (v : Word)
  /-- COUNTER_BANK_WRITE (R400). -/
  | counterBankWrite (tenant k : Nat) (v : Word)
  /-- RECORDER_CONFIG_WRITE (R402). -/
  | recorderConfigWrite (q : Nat) (hi : Bool) (v : Word)
  /-- REGISTER_WRITE (R318). -/
  | registerWrite (reg : HostReg) (v : Word)
  /-- UNASSIGNED_ENCODING (R161). -/
  | unassignedEncoding (w0 w1 : W32)
  /-- INSTRUCTION_FETCH_FAULT (R171). -/
  | instructionFetchFault (cause : Nat) (tval : Word)
  /-- ZEROING_COMPLETE (R54). -/
  | zeroingComplete (what : ZeroTarget)
  /-- CLOCK_COPY_RESYNC (R348). -/
  | clockCopyResync (cu : Nat)
  /-- CORRECTED_SOFT_ERROR (R365). -/
  | correctedSoftError (unit sub : Nat) (pa : Word) (overflow : Bool)
  /-- CXL_MEM_ACCESS (R318). -/
  | cxlMemAccess (write : Bool) (pa : Nat) (data : List Byte)
  /-- REDUCTION_CONTEXT_CLAIM (R267). -/
  | reductionContextClaim
  /-- TRANSLATION_EXPIRY (R343). -/
  | translationExpiry
  /-- FRAME_FORMAT_COMPLETE (R355). -/
  | frameFormatComplete
  /-- DISPATCH (R404). -/
  | dispatch
  /-- PRIORITY_AGING (R32). -/
  | priorityAging
  /-- EPOCH_BOUNDARY (R333). -/
  | epochBoundary
  /-- PARTITION_EXAMINATION (R336). -/
  | partitionExamination
  /-- ATTESTATION_REPORT_COMPLETE (R381). -/
  | attestationReportComplete
  /-- TELESNAP_COMPLETE (R401). -/
  | telesnapComplete
  deriving DecidableEq, Repr

end Sys2Proof
end

