-- ==== Sys2Proof/WellFormed.lean ====
section
/-! DEFINITION. Which instructions are well formed: step 1 of spec 09 R142 beyond the reserved bits, that is
every field value that chapter 09, and the chapters it hands its fields to, call illegal. Events are not
encoded; they are well formed. -/
namespace Sys2Proof

/-- The system register numbers of spec 09 R160. -/
def sysRegListed (n : Nat) : Bool :=
  n < 6 || (8 ≤ n && n ≤ 0x14) || n == 0x18 || n == 0x19 || n == 0x20

/-- The 12-bit specifier of "no tile" (spec 09 R147): selector 0, row field 127. -/
def noTile : BitVec 12 := 127#12

/-- The legal row specifiers (spec 09 R147); asDst admits "no tile" and bars the ring, a source the reverse. -/
def specOk (sp : BitVec 12) (asDst : Bool) : Bool :=
  let sel := sp.toNat / 128
  let row := sp.toNat % 128
  if sel < 16 then row < 96 || (sel == 0 && row < 100 && !asDst) || (sel == 0 && row == 127 && asDst)
  else if sel < 24 then true
  else row < 32

/-- The specifier names a tile row, not the ring and not "no tile". -/
def isTileSpec (sp : BitVec 12) : Bool :=
  let sel := sp.toNat / 128
  let row := sp.toNat % 128
  if sel < 16 then row < 96 else if sel < 24 then true else row < 32

/-- class must be zero on an instruction that makes no memory access (spec 09 R146). -/
def noClass (e : Eng) : Bool := e.cls == 0#4

/-- The element type is one the opcode accepts (spec 11 R197). -/
def tyIn (v : VFields) (l : List Nat) : Bool := l.contains v.ty.toNat

/-- Destination rules of spec 09 R147 and 11 R193. -/
def dstOk (v : VFields) : Bool := specOk v.dst true && (v.f == 0#1 || v.dst != noTile)

/-- First-source rules of spec 09 R147 and 11 R193. -/
def src1Ok (v : VFields) : Bool := specOk v.src1 false && (v.e == 0#1 || isTileSpec v.src1)

/-- The fields of an opcode that reads no src1 (spec 09 R148). -/
def noSrc1 (v : VFields) : Bool := v.src1 == 0#12 && v.e == 0#1

/-- The src2 short field of an opcode that reads src2 (spec 09 R148). A data tile has no row that an immediate row of
an accumulator tile above 63 could name (R147; DEDUCED, assumption log 8); the code 0, which names no src2, is ILLEGAL
here (DESIGN CHOICE, assumption log 80). -/
def src2Ok (v : VFields) : Bool :=
  let x := v.x.toNat
  let sel := v.src1.toNat / 128
  (1 ≤ x && x ≤ 4) ||
    (32 ≤ x && x < 56 && isTileSpec v.src1 && (48 ≤ x || sel < 16 || 24 ≤ sel || v.src1.toNat % 128 < 64))

/-- The number of parts of a conversion: N(ty) / 256 (spec 11 R204). -/
def vcvtParts (ty : Nat) : Nat := if ty = 7 then 1 else if ty = 1 ∨ ty = 2 then 2 else 4

/-- The aux rules of vcvt (spec 11 R198, R204). -/
def vcvtAuxOk (v : VFields) : Bool :=
  let x := v.x.toNat
  let mode := x / 8 % 4
  x / 4 % 2 == 0 && x % 4 < vcvtParts v.ty.toNat &&
    (x < 32 || mode == 0 || (v.ty == 7#3 && mode == 1))

/-- Destination rules of vld and vldt (spec 11 R212). -/
def vmDstOk (v : VmFields) : Bool := specOk v.spec true && (v.flag == 0#1 || v.spec != noTile)

/-- The operand fields of the X group that R236 marks. -/
inductive XField where
  | ta | tb | e | f | sn | fmt | row | acc | sr | pd
  deriving DecidableEq, Repr

/-- Every X field not in the list is zero (spec 12 R236). -/
def xZero (x : XFields) (used : List XField) : Bool :=
  (used.contains .ta || x.ta == 0#5) && (used.contains .tb || x.tb == 0#5) &&
  (used.contains .e || x.e == 0#1) && (used.contains .f || x.f == 0#1) &&
  (used.contains .sn || x.sn == 0#5) && (used.contains .fmt || x.fmt == 0#4) &&
  (used.contains .row || x.row == 0#7) && (used.contains .acc || x.acc == 0#1) &&
  (used.contains .sr || x.sr == 0#1) && (used.contains .pd || x.pd == 0#3)

/-- A data tile selector, 0 to 15. -/
def dataTile (t : BitVec 5) : Bool := t.toNat < 16

/-- An accumulator tile selector, 16 to 23. -/
def accTile (t : BitVec 5) : Bool := 16 ≤ t.toNat && t.toNat < 24

/-- A first register from 1 to the given limit. -/
def snIn (sn : BitVec 5) (hi : Nat) : Bool := 1 ≤ sn.toNat && sn.toNat ≤ hi

/-- The tile, format and part of lds and lds.p (spec 12 R217, R223 to R225). -/
def ldsPartOk (x : XFields) (fmts : List Nat) : Bool :=
  dataTile x.ta && fmts.contains x.fmt.toNat &&
    x.row.toNat < (if x.fmt = 1#4 ∨ x.fmt = 2#4 then 2 else 1)

/-- pd is zero where it is not used (spec 13 R238, 14 R265). -/
def noPd (c : CpFields) : Bool := c.pd == 0#3
/-- The tile selector and flag are zero where they are not used (spec 13 R238). -/
def noTileField (c : CpFields) : Bool := c.tile == 0#5 && c.flag == 0#1
/-- Fabric operations take no tile, flag or swizzle (spec 14 R265). -/
def noSwizzle (c : CpFields) : Bool := noTileField c && c.zs == 0#3 && c.zd == 0#3

/-- Well-formedness (spec 09 R142 step 1). -/
def Instr.wf : Instr → Bool
  | .exit _ => true
  | .yield _ => true
  | .yieldSafe _ => true
  | .tret _ => true
  | .trap _ _ => true
  | .bkpt _ _ => true
  | .acctflush _ => true
  | .fence _ scope _ => decide (scope.toNat ≤ 5)
  | .mfsr _ _ n => sysRegListed n.toNat
  | .mtsr _ _ n => sysRegListed n.toNat
  | .waitt _ _ => true
  | .tkpush _ _ => true
  | .tkpop _ _ => true
  | .gsync _ _ => true
  | .qwr _ _ _ _ => true
  | .qrd _ _ _ _ => true
  | .add _ _ _ _ => true
  | .sub _ _ _ _ => true
  | .and _ _ _ _ => true
  | .or _ _ _ _ => true
  | .xor _ _ _ _ => true
  | .sll _ _ _ _ => true
  | .srl _ _ _ _ => true
  | .sra _ _ _ _ => true
  | .mul _ _ _ _ => true
  | .mulh _ _ _ _ => true
  | .mulhu _ _ _ _ => true
  | .div _ _ _ _ => true
  | .divu _ _ _ _ => true
  | .rem _ _ _ _ => true
  | .remu _ _ _ _ => true
  | .min _ _ _ _ => true
  | .max _ _ _ _ => true
  | .minu _ _ _ _ => true
  | .maxu _ _ _ _ => true
  | .clz _ _ _ => true
  | .ctz _ _ _ => true
  | .popc _ _ _ => true
  | .addi _ _ _ => true
  | .andi _ _ _ => true
  | .ori _ _ _ => true
  | .xori _ _ _ => true
  | .slli _ _ _ => true
  | .srli _ _ _ => true
  | .srai _ _ _ => true
  | .lui _ _ => true
  | .cmp _ _ cond _ _ => decide (cond.toNat ≤ 5)
  | .cmpi _ cond _ _ => decide (cond.toNat ≤ 5)
  | .pand _ _ _ _ => true
  | .por _ _ _ _ => true
  | .pxor _ _ _ _ => true
  | .pandn _ _ _ _ => true
  | .porn _ _ _ _ => true
  | .lea _ _ _ _ => true
  | .tag _ _ _ _ => true
  | .space _ _ _ => true
  | .rng _ _ => true
  | .rngc _ _ sn => decide (1 ≤ sn.toNat ∧ sn.toNat ≤ 28)
  | .br _ _ => true
  | .jmp _ => true
  | .call _ => true
  | .jr _ _ => true
  | .callr _ _ => true
  | .loop _ stages _ off => decide (stages.toNat ≤ 4 ∧ off.toNat ≠ 0)
  | .ldb _ _ _ => true
  | .ldbu _ _ _ => true
  | .ldh _ _ _ => true
  | .ldhu _ _ _ => true
  | .ldw _ _ _ => true
  | .ldwu _ _ _ => true
  | .ldd _ _ _ => true
  | .stb _ _ _ => true
  | .sth _ _ _ => true
  | .stw _ _ _ => true
  | .std _ _ _ => true
  | .ldx _ _ _ _ size sext z _ _ => z != 7#3 && !(size == 3#2 && sext == 1#1)
  | .stx _ _ _ _ _ z _ _ => z != 7#3
  | .ldxAcq _ _ _ _ scope z _ _ => z != 7#3 && decide (scope.toNat ≤ 5)
  | .stxRel _ _ _ _ scope z _ _ => z != 7#3 && decide (scope.toNat ≤ 5)
  | .amoAdd _ _ _ _ _ _ => true
  | .amoMin _ _ _ _ _ _ => true
  | .amoMax _ _ _ _ _ _ => true
  | .amoMinu _ _ _ _ _ _ => true
  | .amoMaxu _ _ _ _ _ _ => true
  | .amoAnd _ _ _ _ _ _ => true
  | .amoOr _ _ _ _ _ _ => true
  | .amoXor _ _ _ _ _ _ => true
  | .amoSwp _ _ _ _ _ _ => true
  | .cas _ _ _ _ _ _ _ => true
  | .amoFadd _ _ _ _ _ => true
  | .li32 _ _ _ => true
  | .lih _ _ _ => true
  | .vadd e v => noClass e && tyIn v [0, 1, 2, 6, 7] && dstOk v && src1Ok v && src2Ok v
  | .vsub e v => noClass e && tyIn v [0, 1, 2, 6, 7] && dstOk v && src1Ok v && src2Ok v
  | .vmul e v => noClass e && tyIn v [0, 1, 2, 6, 7] && dstOk v && src1Ok v && src2Ok v
  | .vfma e v => noClass e && tyIn v [0, 1, 2, 6, 7] && dstOk v && v.dst != noTile && src1Ok v && src2Ok v
  | .vmin e v => noClass e && tyIn v [0, 1, 2, 6, 7] && dstOk v && src1Ok v && src2Ok v
  | .vmax e v => noClass e && tyIn v [0, 1, 2, 6, 7] && dstOk v && src1Ok v && src2Ok v
  | .vabs e v => noClass e && tyIn v [0, 1, 2, 3, 4, 6, 7] && dstOk v && src1Ok v && v.x == 0#6
  | .vneg e v => noClass e && tyIn v [0, 1, 2, 3, 4, 6, 7] && dstOk v && src1Ok v && v.x == 0#6
  | .vexp2 e v => noClass e && tyIn v [0] && dstOk v && src1Ok v && v.x == 0#6
  | .vlog2 e v => noClass e && tyIn v [0] && dstOk v && src1Ok v && v.x == 0#6
  | .vrcp e v => noClass e && tyIn v [0] && dstOk v && src1Ok v && v.x == 0#6
  | .vrsqrt e v => noClass e && tyIn v [0] && dstOk v && src1Ok v && v.x == 0#6
  | .vtanh e v => noClass e && tyIn v [0] && dstOk v && src1Ok v && v.x == 0#6
  | .vand e v => noClass e && tyIn v [0, 1, 2, 3, 4, 5, 6, 7] && dstOk v && src1Ok v && src2Ok v
  | .vor e v => noClass e && tyIn v [0, 1, 2, 3, 4, 5, 6, 7] && dstOk v && src1Ok v && src2Ok v
  | .vxor e v => noClass e && tyIn v [0, 1, 2, 3, 4, 5, 6, 7] && dstOk v && src1Ok v && src2Ok v
  | .vshl e v => noClass e && tyIn v [6, 7] && dstOk v && src1Ok v && src2Ok v
  | .vshr e v => noClass e && tyIn v [6, 7] && dstOk v && src1Ok v && src2Ok v
  | .vsra e v => noClass e && tyIn v [6, 7] && dstOk v && src1Ok v && src2Ok v
  | .vcmpEq e v => noClass e && tyIn v [0, 1, 2, 3, 4, 6, 7] && dstOk v && src1Ok v && src2Ok v
  | .vcmpNe e v => noClass e && tyIn v [0, 1, 2, 3, 4, 6, 7] && dstOk v && src1Ok v && src2Ok v
  | .vcmpLt e v => noClass e && tyIn v [0, 1, 2, 3, 4, 6, 7] && dstOk v && src1Ok v && src2Ok v
  | .vcmpLe e v => noClass e && tyIn v [0, 1, 2, 3, 4, 6, 7] && dstOk v && src1Ok v && src2Ok v
  | .vsel e v => noClass e && tyIn v [0, 1, 2, 3, 4, 5, 6, 7] && dstOk v && src1Ok v && src2Ok v
  | .vcvt e v => noClass e && tyIn v [1, 2, 3, 4, 6, 7] && dstOk v && src1Ok v && vcvtAuxOk v
  | .vqblk e v => noClass e && tyIn v [5] && dstOk v && src1Ok v && decide (v.x.toNat < 16)
  | .vunpk e v => noClass e && tyIn v [3, 4, 5, 6] && dstOk v && src1Ok v && decide (v.x.toNat < 8) && decide (v.x.toNat % 4 < (if v.ty = 5#3 then 2 else 4))
  | .vdrop e v => noClass e && tyIn v [0, 1, 2, 3, 4, 6, 7] && dstOk v && src1Ok v
  | .vrsum e v => noClass e && tyIn v [0, 1, 2, 3, 4, 6, 7] && dstOk v && src1Ok v && v.x == 0#6
  | .vrmax e v => noClass e && tyIn v [0, 1, 2, 3, 4, 6, 7] && dstOk v && src1Ok v && v.x == 0#6
  | .vrmin e v => noClass e && tyIn v [0, 1, 2, 3, 4, 6, 7] && dstOk v && src1Ok v && v.x == 0#6
  | .vmov e v => noClass e && tyIn v [0, 1, 2, 3, 4, 5, 6, 7] && dstOk v && src1Ok v && v.x == 0#6
  | .vshuf e v => noClass e && tyIn v [0, 1, 2, 3, 4, 6, 7] && dstOk v && src1Ok v && src2Ok v
  | .viota e v => noClass e && tyIn v [0, 1, 2, 6, 7] && dstOk v && noSrc1 v && v.x == 0#6
  | .vsplat e v => noClass e && tyIn v [0, 1, 2, 3, 4, 6, 7] && dstOk v && noSrc1 v && decide (v.x.toNat < 32)
  | .vld _ v => vmDstOk v && v.z != 7#3
  | .vst _ v => specOk v.spec false && (v.flag == 0#1 || isTileSpec v.spec) && v.z != 7#3
  | .vldt _ v => vmDstOk v && v.z != 7#3
  | .vgath _ v => tyIn v [0, 7] && dstOk v && src1Ok v && decide (v.x.toNat < 32)
  | .vrng e v => noClass e && tyIn v [0, 6, 7] && dstOk v && noSrc1 v && decide (v.x.toNat % 32 = 0)
  | .vtrn e v => noClass e && tyIn v [0, 1, 2, 3, 4, 6, 7] && dstOk v && src1Ok v && v.x == 0#6
  | .alease e x => noClass e && xZero x [.pd]
  | .arelease e x => noClass e && xZero x []
  | .lds e x => noClass e && xZero x [.ta, .e, .fmt, .row] && ldsPartOk x [1, 2, 3, 4, 6]
  | .ldsP e x => noClass e && xZero x [.ta, .e, .sn, .fmt, .row] && ldsPartOk x [1, 2, 3, 4] && snIn x.sn 28
  | .ldsCb e x => noClass e && xZero x [.ta, .tb, .e, .fmt, .row] && dataTile x.ta && decide (x.tb.toNat < 2) && decide (x.fmt.toNat = 1 ∨ x.fmt.toNat = 2) && decide (x.row.toNat < 8)
  | .ldsBs e x => noClass e && xZero x [.ta, .tb, .e, .fmt] && dataTile x.ta && dataTile x.tb && x.ta != x.tb && x.fmt == 5#4
  | .mswap e x => noClass e && xZero x []
  | .mmul e x => noClass e && xZero x [.ta, .tb, .e, .f, .fmt, .row, .acc] && dataTile x.ta && accTile x.tb && decide (x.fmt.toNat ∈ [1, 2, 3, 4, 6])
  | .mmulBs e x => noClass e && xZero x [.ta, .tb, .e, .f, .fmt, .row, .acc] && dataTile x.ta && accTile x.tb && x.fmt == 5#4
  | .mdrain e x => (x.tb == 16#5 || noClass e) && xZero x [.ta, .tb, .e, .f, .sn, .fmt, .row, .sr] && accTile x.ta && (dataTile x.tb || (x.tb == 16#5 && x.f == 0#1)) && decide (x.fmt.toNat ≤ 7 ∧ x.fmt.toNat ≠ 5) && snIn x.sn 27
  | .mzero e x => noClass e && xZero x [.tb, .f] && decide (x.tb.toNat < 24)
  | .mcbt e x => noClass e && xZero x [.ta, .tb, .e, .f, .row] && dataTile x.ta && decide (x.tb.toNat < 2) && decide (x.row.toNat < 64)
  | .cpy _ c => snIn c.sn 24 && noPd c && noTileField c && c.zs != 7#3 && c.zd != 7#3
  | .cpyLd _ c => snIn c.sn 24 && noPd c && decide (c.tile.toNat < 24) && c.zs != 7#3 && c.zd != 7#3
  | .cpySt _ c => snIn c.sn 24 && noPd c && decide (c.tile.toNat < 24) && c.zs != 7#3 && c.zd != 7#3
  | .cgath _ c => snIn c.sn 24 && noPd c && noTileField c && c.zs != 7#3 && c.zd != 7#3
  | .cscat _ c => snIn c.sn 24 && noPd c && noTileField c && c.zs != 7#3 && c.zd != 7#3
  | .cred _ c => snIn c.sn 24 && noPd c && noTileField c && c.zs != 7#3 && c.zd != 7#3
  | .cpref _ c => snIn c.sn 24 && noTileField c && c.zs != 7#3 && c.zd != 7#3
  | .cring _ c => snIn c.sn 24 && noPd c && noTileField c && c.zs != 7#3 && c.zd != 7#3
  | .collOpen _ c => snIn c.sn 30 && noSwizzle c
  | .collAred _ c => snIn c.sn 26 && noPd c && noSwizzle c
  | .collAgath _ c => snIn c.sn 26 && noPd c && noSwizzle c
  | .collBcast _ c => snIn c.sn 26 && noPd c && noSwizzle c
  | .collClose _ c => noPd c && noSwizzle c
  | .send _ c => snIn c.sn 26 && noPd c && noSwizzle c
  | .recv _ c => snIn c.sn 26 && noPd c && noSwizzle c
  | .japp _ c => snIn c.sn 26 && noPd c && noSwizzle c
  | .jwait _ c => decide (c.sn.toNat ≤ 29) && noSwizzle c
  | .jfetch _ c => decide (c.sn.toNat ≤ 27) && noPd c && noSwizzle c
  | .glzPost _ c => noPd c && noSwizzle c
  | .glzWait _ c => noPd c && noSwizzle c
  | .binit _ y => y.pd == 0#3
  | .bexpect _ _ => true
  | .barrive _ _ => true
  | .bwait _ y => y.pd == 0#3
  | .btest _ _ => true
  | .rinit _ y => y.pd == 0#3 && snIn y.sb 29
  | .rwaitf _ y => y.pd == 0#3
  | .rrel _ y => y.pd == 0#3 && y.sb == 0#5
  | .patch _ _ _ => true
  | .tload _ _ => true
  | .krules _ _ => true
  | .kneadGroupIssue _ => true
  | .engineInstructionCompletion _ _ => true
  | .asyncTrapEntry _ _ => true
  | .waittWake _ _ _ => true
  | .jwaitDeadline _ _ _ _ => true
  | .watchdogExpiry _ _ => true
  | .leaseGrant _ => true
  | .leaseLimit _ => true
  | .rampStep _ => true
  | .copyUnit _ _ => true
  | .copyCompletion _ _ => true
  | .reductionContextClaim => true
  | .fabricOpCompletion _ _ => true
  | .collectiveChunk _ => true
  | .sendData _ => true
  | .remoteAccess _ => true
  | .acknowledgement _ _ => true
  | .journalArrival _ _ _ _ => true
  | .jfetchRequest _ _ _ _ => true
  | .jappResend _ _ => true
  | .flitReceive _ _ => true
  | .retryRequest _ _ => true
  | .portRetrain _ _ => true
  | .glazeCardRun _ _ => true
  | .glazeCardCompletion _ _ => true
  | .translationWalk _ _ _ _ => true
  | .translationExpiry => true
  | .clockSkewDetection _ _ => true
  | .fqrespWrite _ => true
  | .fqheadWrite _ => true
  | .xrRootWrite _ _ _ => true
  | .fcmdWrite _ => true
  | .frameFormatComplete => true
  | .queueConfigWrite _ _ _ => true
  | .tailWrite _ _ => true
  | .abortWrite _ _ => true
  | .functionLevelReset _ => true
  | .launchRecordRead _ => true
  | .dispatch => true
  | .tilePreloadComplete _ => true
  | .taskCompletion _ => true
  | .launchCompletion _ => true
  | .accountRecordEviction _ => true
  | .accountCountOverflow _ => true
  | .priorityAging => true
  | .epochBoundary => true
  | .partitionExamination => true
  | .preemptWrite _ => true
  | .contextSave _ => true
  | .spillcfgWrite _ => true
  | .stagecfgWrite _ => true
  | .powerControlInterval _ _ _ => true
  | .pwrcfgWrite _ => true
  | .rowcapWrite _ => true
  | .uncorrectableError _ _ _ _ => true
  | .bootStart _ => true
  | .bootclr _ => true
  | .bootctl _ => true
  | .fwsvn _ => true
  | .attctlGo _ => true
  | .attestationReportComplete => true
  | .telesnap _ => true
  | .telesnapComplete => true
  | .counterBankWrite _ _ _ => true
  | .recorderConfigWrite _ _ _ => true
  | .registerWrite _ _ => true
  | .unassignedEncoding _ _ => true
  | .instructionFetchFault _ _ => true
  | .zeroingComplete _ => true
  | .clockCopyResync _ => true
  | .correctedSoftError _ _ _ _ => true
  | .cxlMemAccess _ _ _ => true

end Sys2Proof
end

