-- ==== Sys2Proof/Decode.lean ====
section
/-! DEFINITION. The decoder, total on any two words and on any bytes, and the encoder, both written from the
format tables of spec 09 R143 to R159. decode is step 1 of R142: it rejects by name every encoding the
chapter does not assign. -/
namespace Sys2Proof

/-- Why a word is no instruction (spec 09 R142 step 1, R161). -/
inductive Reject where
  /-- fewer bytes than the instruction has -/
  | short
  /-- the major opcode is not assigned (R151) -/
  | major
  /-- the function code, opcode or kind is not assigned (R153 to R159) -/
  | function
  /-- a reserved or unused field is nonzero (R161) -/
  | reserved
  /-- a field value that the chapter calls illegal (Instr.wf) -/
  | field
  deriving DecidableEq, Repr

/-- The n bits of a word from bit lo up. -/
def fld (w : W32) (lo n : Nat) : BitVec n := w.extractLsb' lo n

/-- The major opcode (R139). -/
def majorOf (w0 : W32) : Nat := (fld w0 26 6).toNat

/-- Majors 0x23 to 0x2C make 64-bit instructions (R139). -/
def isLong (w0 : W32) : Bool := 0x23 ≤ majorOf w0 && majorOf w0 ≤ 0x2C

/-- The instruction if the reserved field is zero. -/
def ifZero {n : Nat} (z : BitVec n) (i : Instr) : Except Reject Instr :=
  if z = 0#n then .ok i else .error .reserved

/-- Format S (R153). -/
def decodeSys (w : W32) : Except Reject Instr :=
  let p := fld w 22 4
  match (fld w 16 6).toNat with
  | 0x01 => ifZero (fld w 0 16) (.exit p)
  | 0x02 => ifZero (fld w 0 16) (.yield p)
  | 0x03 => ifZero (fld w 0 16) (.yieldSafe p)
  | 0x04 => ifZero (fld w 0 16) (.tret p)
  | 0x05 => .ok (.trap p (fld w 0 16))
  | 0x06 => .ok (.bkpt p (fld w 0 16))
  | 0x07 => ifZero (fld w 0 16) (.acctflush p)
  | 0x08 => .ok (.fence p 0#3 (fld w 0 16))
  | 0x09 => .ok (.fence p 1#3 (fld w 0 16))
  | 0x0A => .ok (.fence p 2#3 (fld w 0 16))
  | 0x0B => .ok (.fence p 3#3 (fld w 0 16))
  | 0x0C => .ok (.fence p 4#3 (fld w 0 16))
  | 0x0D => .ok (.fence p 5#3 (fld w 0 16))
  | 0x10 => .ok (.mfsr p (fld w 11 5) (fld w 0 11))
  | 0x11 => .ok (.mtsr p (fld w 11 5) (fld w 0 11))
  | 0x12 => ifZero (fld w 0 11) (.waitt p (fld w 11 5))
  | 0x13 => ifZero (fld w 3 13) (.tkpush p (fld w 0 3))
  | 0x14 => ifZero (fld w 3 13) (.tkpop p (fld w 0 3))
  | 0x15 => ifZero (fld w 8 8) (.gsync p (fld w 0 8))
  | 0x16 => ifZero (fld w 0 7) (.qwr p (fld w 11 5) (fld w 8 3) (fld w 7 1))
  | 0x17 => ifZero (fld w 0 7) (.qrd p (fld w 11 5) (fld w 8 3) (fld w 7 1))
  | _ => .error .function

/-- Format A (R154). -/
def decodeAlu (w : W32) : Except Reject Instr :=
  let p := fld w 22 4
  let sd := fld w 17 5
  let sa := fld w 12 5
  let sb := fld w 7 5
  match (fld w 0 7).toNat with
  | 0x00 => .ok (.add p sd sa sb)
  | 0x01 => .ok (.sub p sd sa sb)
  | 0x02 => .ok (.and p sd sa sb)
  | 0x03 => .ok (.or p sd sa sb)
  | 0x04 => .ok (.xor p sd sa sb)
  | 0x05 => .ok (.sll p sd sa sb)
  | 0x06 => .ok (.srl p sd sa sb)
  | 0x07 => .ok (.sra p sd sa sb)
  | 0x08 => .ok (.mul p sd sa sb)
  | 0x09 => .ok (.mulh p sd sa sb)
  | 0x0A => .ok (.mulhu p sd sa sb)
  | 0x0B => .ok (.div p sd sa sb)
  | 0x0C => .ok (.divu p sd sa sb)
  | 0x0D => .ok (.rem p sd sa sb)
  | 0x0E => .ok (.remu p sd sa sb)
  | 0x10 => .ok (.min p sd sa sb)
  | 0x11 => .ok (.max p sd sa sb)
  | 0x12 => .ok (.minu p sd sa sb)
  | 0x13 => .ok (.maxu p sd sa sb)
  | 0x20 => ifZero sb (.clz p sd sa)
  | 0x21 => ifZero sb (.ctz p sd sa)
  | 0x22 => ifZero sb (.popc p sd sa)
  | _ => .error .function

/-- Major 0x06 (R144, R155). -/
def decodeShift (w : W32) : Except Reject Instr :=
  let sd := fld w 21 5
  let sa := fld w 16 5
  match (fld w 6 2).toNat with
  | 0 => ifZero (fld w 8 8) (.slli sd sa (fld w 0 6))
  | 1 => ifZero (fld w 8 8) (.srli sd sa (fld w 0 6))
  | 2 => ifZero (fld w 8 8) (.srai sd sa (fld w 0 6))
  | _ => .error .function

/-- Format P (R155). -/
def decodePred (w : W32) : Except Reject Instr :=
  let p := fld w 22 4
  let pd := fld w 19 3
  let pa := fld w 16 3
  let pb := fld w 13 3
  match (fld w 10 3).toNat with
  | 0 => ifZero (fld w 0 10) (.pand p pd pa pb)
  | 1 => ifZero (fld w 0 10) (.por p pd pa pb)
  | 2 => ifZero (fld w 0 10) (.pxor p pd pa pb)
  | 3 => ifZero (fld w 0 10) (.pandn p pd pa pb)
  | 4 => ifZero (fld w 0 10) (.porn p pd pa pb)
  | _ => .error .function

/-- Format G (R155): a register or sid field the function does not use is zero. -/
def decodePtr (w : W32) : Except Reject Instr :=
  let p := fld w 22 4
  let sd := fld w 17 5
  let sa := fld w 12 5
  match (fld w 4 3).toNat with
  | 0 => ifZero (fld w 0 4) (.lea p sd sa (fld w 7 5))
  | 1 => ifZero (fld w 7 5) (.tag p sd sa (fld w 0 4))
  | 2 => ifZero (fld w 7 5 ++ fld w 0 4) (.space p sd sa)
  | _ => .error .function

/-- Format N (R155). -/
def decodeRng (w : W32) : Except Reject Instr :=
  let p := fld w 22 4
  let sd := fld w 17 5
  match (fld w 10 2).toNat with
  | 0 => ifZero (fld w 12 5 ++ fld w 0 10) (.rng p sd)
  | 1 => ifZero (fld w 0 10) (.rngc p sd (fld w 12 5))
  | _ => .error .function

/-- Format JR (R144, R155). -/
def decodeJr (w : W32) : Except Reject Instr :=
  match (fld w 17 5).toNat with
  | 0 => ifZero (fld w 0 12) (.jr (fld w 22 4) (fld w 12 5))
  | 1 => ifZero (fld w 0 12) (.callr (fld w 22 4) (fld w 12 5))
  | _ => .error .function

/-- Major 0x23 (R145): size 3 and sext 0 for kinds 2 and 3, sext 0 for stores. -/
def decodeLong (w0 w1 : W32) : Except Reject Instr :=
  let p := fld w0 22 4
  let sd := fld w0 17 5
  let sa := fld w0 12 5
  let si := fld w0 7 5
  let size := fld w0 5 2
  let sext := fld w0 4 1
  let scope := fld w1 29 3
  let z := fld w1 26 3
  let cls := fld w1 21 4
  match (fld w0 1 3).toNat with
  | 0 => ifZero (fld w0 0 1 ++ scope ++ fld w1 25 1)
      (.ldx p sd sa si size sext z cls (fld w1 0 21))
  | 1 => ifZero (fld w0 0 1 ++ scope ++ fld w1 25 1 ++ sext)
      (.stx p sd sa si size z cls (fld w1 0 21))
  | 2 => if size = 3#2 then ifZero (fld w0 0 1 ++ fld w1 25 1 ++ sext ++ fld w1 16 5)
      (.ldxAcq p sd sa si scope z cls (fld w1 0 16)) else .error .field
  | 3 => if size = 3#2 then ifZero (fld w0 0 1 ++ fld w1 25 1 ++ sext ++ fld w1 16 5)
      (.stxRel p sd sa si scope z cls (fld w1 0 16)) else .error .field
  | _ => .error .function

/-- Major 0x24 (R145, R155): sc is zero but for cas, amo.fadd has size 0. -/
def decodeAmo (w0 w1 : W32) : Except Reject Instr :=
  let p := fld w0 22 4
  let sd := fld w0 17 5
  let sa := fld w0 12 5
  let sb := fld w0 7 5
  let sc := fld w0 2 5
  let size := fld w0 1 1
  let cls := fld w1 21 4
  let rsv := fld w0 0 1 ++ fld w1 25 2 ++ fld w1 0 21
  match (fld w1 27 5).toNat with
  | 0 => ifZero (rsv ++ sc) (.amoAdd p sd sa sb size cls)
  | 1 => ifZero (rsv ++ sc) (.amoMin p sd sa sb size cls)
  | 2 => ifZero (rsv ++ sc) (.amoMax p sd sa sb size cls)
  | 3 => ifZero (rsv ++ sc) (.amoMinu p sd sa sb size cls)
  | 4 => ifZero (rsv ++ sc) (.amoMaxu p sd sa sb size cls)
  | 5 => ifZero (rsv ++ sc) (.amoAnd p sd sa sb size cls)
  | 6 => ifZero (rsv ++ sc) (.amoOr p sd sa sb size cls)
  | 7 => ifZero (rsv ++ sc) (.amoXor p sd sa sb size cls)
  | 8 => ifZero (rsv ++ sc) (.amoSwp p sd sa sb size cls)
  | 9 => ifZero rsv (.cas p sd sa sb sc size cls)
  | 10 => ifZero (rsv ++ sc ++ size) (.amoFadd p sd sa sb cls)
  | _ => .error .function

/-- The engine fields common to majors 0x28 to 0x2C (R146). -/
def engOf (w0 w1 : W32) : Eng :=
  { p := fld w0 22 4, wait := fld w1 29 3, post := fld w1 26 3, noknead := fld w1 25 1, cls := fld w1 21 4 }

/-- The V group fields (R148). -/
def vOf (w0 w1 : W32) : VFields :=
  { dst := fld w0 2 12, f := fld w0 1 1, e := fld w0 0 1, src1 := fld w1 9 12, x := fld w1 3 6, ty := fld w1 0 3 }

/-- The VM group fields (R148). -/
def vmOf (w0 w1 : W32) : VmFields :=
  { spec := fld w0 2 12, flag := fld w0 1 1, sa := fld w1 16 5, z := fld w1 13 3, off := fld w1 0 13 }

/-- The X group fields (R148). -/
def xOf (w0 w1 : W32) : XFields :=
  { ta := fld w0 9 5, tb := fld w0 4 5, e := fld w0 3 1, f := fld w0 2 1, sn := fld w1 16 5, fmt := fld w1 12 4,
    row := fld w1 5 7, acc := fld w1 4 1, sr := fld w1 3 1, pd := fld w1 0 3 }

/-- The CP group fields (R148). -/
def cpOf (w0 w1 : W32) : CpFields :=
  { sn := fld w0 9 5, sd := fld w0 4 5, pd := fld w0 1 3, tile := fld w1 16 5, flag := fld w1 15 1,
    zs := fld w1 12 3, zd := fld w1 9 3 }

/-- The SY group fields (R148). -/
def syOf (w0 : W32) : SyFields := { sa := fld w0 9 5, sb := fld w0 4 5, pd := fld w0 1 3 }

/-- Major 0x28 (R156). -/
def decodeVec (w0 w1 : W32) : Except Reject Instr :=
  let e := engOf w0 w1
  let v := vOf w0 w1
  match (fld w0 14 8).toNat with
  | 0x00 => .ok (.vadd e v)
  | 0x01 => .ok (.vsub e v)
  | 0x02 => .ok (.vmul e v)
  | 0x03 => .ok (.vfma e v)
  | 0x04 => .ok (.vmin e v)
  | 0x05 => .ok (.vmax e v)
  | 0x06 => .ok (.vabs e v)
  | 0x07 => .ok (.vneg e v)
  | 0x08 => .ok (.vexp2 e v)
  | 0x09 => .ok (.vlog2 e v)
  | 0x0A => .ok (.vrcp e v)
  | 0x0B => .ok (.vrsqrt e v)
  | 0x0C => .ok (.vtanh e v)
  | 0x10 => .ok (.vand e v)
  | 0x11 => .ok (.vor e v)
  | 0x12 => .ok (.vxor e v)
  | 0x13 => .ok (.vshl e v)
  | 0x14 => .ok (.vshr e v)
  | 0x15 => .ok (.vsra e v)
  | 0x18 => .ok (.vcmpEq e v)
  | 0x19 => .ok (.vcmpNe e v)
  | 0x1A => .ok (.vcmpLt e v)
  | 0x1B => .ok (.vcmpLe e v)
  | 0x1C => .ok (.vsel e v)
  | 0x20 => .ok (.vcvt e v)
  | 0x21 => .ok (.vqblk e v)
  | 0x22 => .ok (.vunpk e v)
  | 0x23 => .ok (.vdrop e v)
  | 0x28 => .ok (.vrsum e v)
  | 0x29 => .ok (.vrmax e v)
  | 0x2A => .ok (.vrmin e v)
  | 0x30 => .ok (.vmov e v)
  | 0x31 => .ok (.vshuf e v)
  | 0x32 => .ok (.viota e v)
  | 0x33 => .ok (.vsplat e v)
  | 0x38 => ifZero (fld w0 0 1) (.vld e (vmOf w0 w1))
  | 0x39 => ifZero (fld w0 0 1) (.vst e (vmOf w0 w1))
  | 0x3A => ifZero (fld w0 0 1) (.vldt e (vmOf w0 w1))
  | 0x3B => .ok (.vgath e v)
  | 0x40 => .ok (.vrng e v)
  | 0x41 => .ok (.vtrn e v)
  | _ => .error .function

/-- Major 0x2A (R157). -/
def decodeMat (w0 w1 : W32) : Except Reject Instr :=
  let e := engOf w0 w1
  let x := xOf w0 w1
  match (fld w0 14 8).toNat with
  | 0x00 => ifZero (fld w0 0 2) (.alease e x)
  | 0x01 => ifZero (fld w0 0 2) (.arelease e x)
  | 0x08 => ifZero (fld w0 0 2) (.lds e x)
  | 0x09 => ifZero (fld w0 0 2) (.ldsP e x)
  | 0x0A => ifZero (fld w0 0 2) (.ldsCb e x)
  | 0x0B => ifZero (fld w0 0 2) (.ldsBs e x)
  | 0x10 => ifZero (fld w0 0 2) (.mswap e x)
  | 0x18 => ifZero (fld w0 0 2) (.mmul e x)
  | 0x19 => ifZero (fld w0 0 2) (.mmulBs e x)
  | 0x20 => ifZero (fld w0 0 2) (.mdrain e x)
  | 0x21 => ifZero (fld w0 0 2) (.mzero e x)
  | 0x28 => ifZero (fld w0 0 2) (.mcbt e x)
  | _ => .error .function

/-- Major 0x2B (R158). -/
def decodeCopy (w0 w1 : W32) : Except Reject Instr :=
  let e := engOf w0 w1
  let c := cpOf w0 w1
  let rsv := fld w0 0 1 ++ fld w1 0 9
  match (fld w0 14 8).toNat with
  | 0x00 => ifZero rsv (.cpy e c)
  | 0x01 => ifZero rsv (.cpyLd e c)
  | 0x02 => ifZero rsv (.cpySt e c)
  | 0x03 => ifZero rsv (.cgath e c)
  | 0x04 => ifZero rsv (.cscat e c)
  | 0x05 => ifZero rsv (.cred e c)
  | 0x06 => ifZero rsv (.cpref e c)
  | 0x07 => ifZero rsv (.cring e c)
  | 0x10 => ifZero rsv (.collOpen e c)
  | 0x11 => ifZero rsv (.collAred e c)
  | 0x12 => ifZero rsv (.collAgath e c)
  | 0x13 => ifZero rsv (.collBcast e c)
  | 0x14 => ifZero rsv (.collClose e c)
  | 0x18 => ifZero rsv (.send e c)
  | 0x19 => ifZero rsv (.recv e c)
  | 0x20 => ifZero rsv (.japp e c)
  | 0x21 => ifZero rsv (.jwait e c)
  | 0x22 => ifZero rsv (.jfetch e c)
  | 0x28 => ifZero rsv (.glzPost e c)
  | 0x29 => ifZero rsv (.glzWait e c)
  | _ => .error .function

/-- Major 0x2C (R159). -/
def decodeSync (w0 w1 : W32) : Except Reject Instr :=
  let e := engOf w0 w1
  let y := syOf w0
  let rsv := fld w0 0 1 ++ fld w1 0 21
  match (fld w0 14 8).toNat with
  | 0x00 => ifZero rsv (.binit e y)
  | 0x01 => ifZero rsv (.bexpect e y)
  | 0x02 => ifZero rsv (.barrive e y)
  | 0x03 => ifZero rsv (.bwait e y)
  | 0x04 => ifZero rsv (.btest e y)
  | 0x08 => ifZero rsv (.rinit e y)
  | 0x09 => ifZero rsv (.rwaitf e y)
  | 0x0A => ifZero rsv (.rrel e y)
  | _ => .error .function

/-- Major 0x31 (R143, R155). -/
def decodeTable (w : W32) : Except Reject Instr :=
  if fld w 21 1 = 0#1 then ifZero (fld w 0 16) (.tload (fld w 22 4) (fld w 16 5))
  else ifZero (fld w 0 16) (.krules (fld w 22 4) (fld w 16 5))

/-- The fields of an instruction by its major (R151), reserved fields checked. -/
def decodeFields (w0 w1 : W32) : Except Reject Instr :=
  match majorOf w0 with
  | 0x00 => decodeSys w0
  | 0x01 => decodeAlu w0
  | 0x02 => .ok (.addi (fld w0 21 5) (fld w0 16 5) (fld w0 0 16))
  | 0x03 => .ok (.andi (fld w0 21 5) (fld w0 16 5) (fld w0 0 16))
  | 0x04 => .ok (.ori (fld w0 21 5) (fld w0 16 5) (fld w0 0 16))
  | 0x05 => .ok (.xori (fld w0 21 5) (fld w0 16 5) (fld w0 0 16))
  | 0x06 => decodeShift w0
  | 0x07 => .ok (.lui (fld w0 21 5) (fld w0 0 21))
  | 0x08 => ifZero (fld w0 0 5) (.cmp (fld w0 22 4) (fld w0 19 3) (fld w0 15 4) (fld w0 10 5) (fld w0 5 5))
  | 0x09 => .ok (.cmpi (fld w0 23 3) (fld w0 19 4) (fld w0 14 5) (fld w0 0 14))
  | 0x0A => decodePred w0
  | 0x0B => decodePtr w0
  | 0x0C => decodeRng w0
  | 0x10 => .ok (.br (fld w0 22 4) (fld w0 0 22))
  | 0x11 => .ok (.jmp (fld w0 0 26))
  | 0x12 => .ok (.call (fld w0 0 26))
  | 0x13 => decodeJr w0
  | 0x14 => .ok (.loop (fld w0 24 2) (fld w0 21 3) (fld w0 16 5) (fld w0 0 16))
  | 0x18 => .ok (.ldb (fld w0 21 5) (fld w0 16 5) (fld w0 0 16))
  | 0x19 => .ok (.ldbu (fld w0 21 5) (fld w0 16 5) (fld w0 0 16))
  | 0x1A => .ok (.ldh (fld w0 21 5) (fld w0 16 5) (fld w0 0 16))
  | 0x1B => .ok (.ldhu (fld w0 21 5) (fld w0 16 5) (fld w0 0 16))
  | 0x1C => .ok (.ldw (fld w0 21 5) (fld w0 16 5) (fld w0 0 16))
  | 0x1D => .ok (.ldwu (fld w0 21 5) (fld w0 16 5) (fld w0 0 16))
  | 0x1E => .ok (.ldd (fld w0 21 5) (fld w0 16 5) (fld w0 0 16))
  | 0x1F => .ok (.stb (fld w0 21 5) (fld w0 16 5) (fld w0 0 16))
  | 0x20 => .ok (.sth (fld w0 21 5) (fld w0 16 5) (fld w0 0 16))
  | 0x21 => .ok (.stw (fld w0 21 5) (fld w0 16 5) (fld w0 0 16))
  | 0x22 => .ok (.std (fld w0 21 5) (fld w0 16 5) (fld w0 0 16))
  | 0x23 => decodeLong w0 w1
  | 0x24 => decodeAmo w0 w1
  | 0x25 => ifZero (fld w0 0 17) (.li32 (fld w0 22 4) (fld w0 17 5) w1)
  | 0x26 => ifZero (fld w0 0 17) (.lih (fld w0 22 4) (fld w0 17 5) w1)
  | 0x28 => decodeVec w0 w1
  | 0x2A => decodeMat w0 w1
  | 0x2B => decodeCopy w0 w1
  | 0x2C => decodeSync w0 w1
  | 0x30 => .ok (.patch (fld w0 20 6) (fld w0 16 4) (fld w0 0 16))
  | 0x31 => decodeTable w0
  | _ => .error .major

/-- The instruction of two words; w1 does not matter where word 0 makes a 32-bit instruction (R139, R142 step 1). -/
def decode (w0 w1 : W32) : Except Reject Instr :=
  match decodeFields w0 w1 with
  | .ok i => if i.wf then .ok i else .error .field
  | .error r => .error r

/-- The word of four little-endian bytes (R139). -/
def wordOfBytes (b0 b1 b2 b3 : Byte) : W32 := b3 ++ b2 ++ b1 ++ b0

/-- Decode from bytes, little-endian, the first word first: the instruction and the bytes after it (R139). -/
def decodeBytes : List Byte → Except Reject (Instr × List Byte)
  | b0 :: b1 :: b2 :: b3 :: rest =>
    let w0 := wordOfBytes b0 b1 b2 b3
    if isLong w0 then
      match rest with
      | c0 :: c1 :: c2 :: c3 :: rest' =>
        match decode w0 (wordOfBytes c0 c1 c2 c3) with
        | .ok i => .ok (i, rest')
        | .error r => .error r
      | _ => .error .short
    else
      match decode w0 0#32 with
      | .ok i => .ok (i, rest)
      | .error r => .error r
  | _ => .error .short

/-- The instruction that the decoder reads from an instruction whose bits are w, bit 0 the least significant
bit of word 0; bits above nbits are zero. -/
def decodeTableWord (nbits w : Nat) : Option Instr :=
  match decodeBytes (leBytes 8 (w % 2 ^ nbits)) with
  | .ok (i, _) => some i
  | .error _ => none

/-! ## The encoder -/

/-- Word 0 of format S. -/
def encSys (p : BitVec 4) (fn : BitVec 6) (x : BitVec 16) : W32 := 0x00#6 ++ p ++ fn ++ x
/-- Format A. -/
def encAlu (p : BitVec 4) (sd sa sb : BitVec 5) (fn : BitVec 7) : W32 := 0x01#6 ++ p ++ sd ++ sa ++ sb ++ fn
/-- Formats I, L and SS. -/
def encImm (m : BitVec 6) (a b : BitVec 5) (imm : BitVec 16) : W32 := m ++ a ++ b ++ imm
/-- Format P. -/
def encPred (p : BitVec 4) (pd pa pb fn : BitVec 3) : W32 := 0x0A#6 ++ p ++ pd ++ pa ++ pb ++ fn ++ 0#10
/-- Format G. -/
def encPtr (p : BitVec 4) (sd sa sb : BitVec 5) (fn : BitVec 3) (sid : BitVec 4) : W32 :=
  0x0B#6 ++ p ++ sd ++ sa ++ sb ++ fn ++ sid
/-- Major 0x23. -/
def encLong (p : BitVec 4) (sd sa si : BitVec 5) (size : BitVec 2) (sext : BitVec 1) (kind : BitVec 3)
    (scope z : BitVec 3) (cls : BitVec 4) (x : BitVec 21) : List W32 :=
  [0x23#6 ++ p ++ sd ++ sa ++ si ++ size ++ sext ++ kind ++ 0#1, scope ++ z ++ 0#1 ++ cls ++ x]
/-- Major 0x24. -/
def encAmo (p : BitVec 4) (sd sa sb sc : BitVec 5) (size : BitVec 1) (fn : BitVec 5) (cls : BitVec 4) : List W32 :=
  [0x24#6 ++ p ++ sd ++ sa ++ sb ++ sc ++ size ++ 0#1, fn ++ 0#2 ++ cls ++ 0#21]
/-- Word 1 of the engine layout (R146). -/
def encEng1 (e : Eng) (x : BitVec 21) : W32 := e.wait ++ e.post ++ e.noknead ++ e.cls ++ x
/-- The V group. -/
def encV (op : BitVec 8) (e : Eng) (v : VFields) : List W32 :=
  [0x28#6 ++ e.p ++ op ++ v.dst ++ v.f ++ v.e, encEng1 e (v.src1 ++ v.x ++ v.ty)]
/-- The VM group. -/
def encVM (op : BitVec 8) (e : Eng) (v : VmFields) : List W32 :=
  [0x28#6 ++ e.p ++ op ++ v.spec ++ v.flag ++ 0#1, encEng1 e (v.sa ++ v.z ++ v.off)]
/-- The X group. -/
def encX (op : BitVec 8) (e : Eng) (x : XFields) : List W32 :=
  [0x2A#6 ++ e.p ++ op ++ x.ta ++ x.tb ++ x.e ++ x.f ++ 0#2,
   encEng1 e (x.sn ++ x.fmt ++ x.row ++ x.acc ++ x.sr ++ x.pd)]
/-- The CP group. -/
def encCP (op : BitVec 8) (e : Eng) (c : CpFields) : List W32 :=
  [0x2B#6 ++ e.p ++ op ++ c.sn ++ c.sd ++ c.pd ++ 0#1, encEng1 e (c.tile ++ c.flag ++ c.zs ++ c.zd ++ 0#9)]
/-- The SY group. -/
def encSY (op : BitVec 8) (e : Eng) (y : SyFields) : List W32 :=
  [0x2C#6 ++ e.p ++ op ++ y.sa ++ y.sb ++ y.pd ++ 0#1, encEng1 e 0#21]

/-- The words of an instruction, word 0 first (R143 to R159); an event has none. -/
def encode : Instr → List W32
  | .exit p => [encSys p 1#6 0#16]
  | .yield p => [encSys p 2#6 0#16]
  | .yieldSafe p => [encSys p 3#6 0#16]
  | .tret p => [encSys p 4#6 0#16]
  | .trap p imm => [encSys p 5#6 imm]
  | .bkpt p imm => [encSys p 6#6 imm]
  | .acctflush p => [encSys p 7#6 0#16]
  | .fence p scope mask => [encSys p (BitVec.ofNat 6 (8 + scope.toNat)) mask]
  | .mfsr p sd num => [encSys p 0x10#6 (sd ++ num)]
  | .mtsr p sa num => [encSys p 0x11#6 (sa ++ num)]
  | .waitt p sa => [encSys p 0x12#6 (sa ++ 0#11)]
  | .tkpush p mask => [encSys p 0x13#6 (0#13 ++ mask)]
  | .tkpop p mask => [encSys p 0x14#6 (0#13 ++ mask)]
  | .gsync p g => [encSys p 0x15#6 (0#8 ++ g)]
  | .qwr p sa q f => [encSys p 0x16#6 (sa ++ q ++ f ++ 0#7)]
  | .qrd p sd q e => [encSys p 0x17#6 (sd ++ q ++ e ++ 0#7)]
  | .add p sd sa sb => [encAlu p sd sa sb 0x00#7]
  | .sub p sd sa sb => [encAlu p sd sa sb 0x01#7]
  | .and p sd sa sb => [encAlu p sd sa sb 0x02#7]
  | .or p sd sa sb => [encAlu p sd sa sb 0x03#7]
  | .xor p sd sa sb => [encAlu p sd sa sb 0x04#7]
  | .sll p sd sa sb => [encAlu p sd sa sb 0x05#7]
  | .srl p sd sa sb => [encAlu p sd sa sb 0x06#7]
  | .sra p sd sa sb => [encAlu p sd sa sb 0x07#7]
  | .mul p sd sa sb => [encAlu p sd sa sb 0x08#7]
  | .mulh p sd sa sb => [encAlu p sd sa sb 0x09#7]
  | .mulhu p sd sa sb => [encAlu p sd sa sb 0x0A#7]
  | .div p sd sa sb => [encAlu p sd sa sb 0x0B#7]
  | .divu p sd sa sb => [encAlu p sd sa sb 0x0C#7]
  | .rem p sd sa sb => [encAlu p sd sa sb 0x0D#7]
  | .remu p sd sa sb => [encAlu p sd sa sb 0x0E#7]
  | .min p sd sa sb => [encAlu p sd sa sb 0x10#7]
  | .max p sd sa sb => [encAlu p sd sa sb 0x11#7]
  | .minu p sd sa sb => [encAlu p sd sa sb 0x12#7]
  | .maxu p sd sa sb => [encAlu p sd sa sb 0x13#7]
  | .clz p sd sa => [encAlu p sd sa 0#5 0x20#7]
  | .ctz p sd sa => [encAlu p sd sa 0#5 0x21#7]
  | .popc p sd sa => [encAlu p sd sa 0#5 0x22#7]
  | .addi sd sa imm => [encImm 0x02#6 sd sa imm]
  | .andi sd sa imm => [encImm 0x03#6 sd sa imm]
  | .ori sd sa imm => [encImm 0x04#6 sd sa imm]
  | .xori sd sa imm => [encImm 0x05#6 sd sa imm]
  | .slli sd sa n => [encImm 0x06#6 sd sa (0#8 ++ 0#2 ++ n)]
  | .srli sd sa n => [encImm 0x06#6 sd sa (0#8 ++ 1#2 ++ n)]
  | .srai sd sa n => [encImm 0x06#6 sd sa (0#8 ++ 2#2 ++ n)]
  | .lui sd imm => [0x07#6 ++ sd ++ imm]
  | .cmp p pd cond sa sb => [0x08#6 ++ p ++ pd ++ cond ++ sa ++ sb ++ 0#5]
  | .cmpi pd cond sa imm => [0x09#6 ++ pd ++ cond ++ sa ++ imm]
  | .pand p pd pa pb => [encPred p pd pa pb 0#3]
  | .por p pd pa pb => [encPred p pd pa pb 1#3]
  | .pxor p pd pa pb => [encPred p pd pa pb 2#3]
  | .pandn p pd pa pb => [encPred p pd pa pb 3#3]
  | .porn p pd pa pb => [encPred p pd pa pb 4#3]
  | .lea p sd sa sb => [encPtr p sd sa sb 0#3 0#4]
  | .tag p sd sa sid => [encPtr p sd sa 0#5 1#3 sid]
  | .space p sd sa => [encPtr p sd sa 0#5 2#3 0#4]
  | .rng p sd => [0x0C#6 ++ p ++ sd ++ 0#5 ++ 0#2 ++ 0#10]
  | .rngc p sd sn => [0x0C#6 ++ p ++ sd ++ sn ++ 1#2 ++ 0#10]
  | .br p disp => [0x10#6 ++ p ++ disp]
  | .jmp disp => [0x11#6 ++ disp]
  | .call disp => [0x12#6 ++ disp]
  | .jr p sa => [0x13#6 ++ p ++ 0#5 ++ sa ++ 0#12]
  | .callr p sa => [0x13#6 ++ p ++ 1#5 ++ sa ++ 0#12]
  | .loop id stages sa off => [0x14#6 ++ id ++ stages ++ sa ++ off]
  | .ldb sd sa off => [encImm 0x18#6 sd sa off]
  | .ldbu sd sa off => [encImm 0x19#6 sd sa off]
  | .ldh sd sa off => [encImm 0x1A#6 sd sa off]
  | .ldhu sd sa off => [encImm 0x1B#6 sd sa off]
  | .ldw sd sa off => [encImm 0x1C#6 sd sa off]
  | .ldwu sd sa off => [encImm 0x1D#6 sd sa off]
  | .ldd sd sa off => [encImm 0x1E#6 sd sa off]
  | .stb sd sa off => [encImm 0x1F#6 sd sa off]
  | .sth sd sa off => [encImm 0x20#6 sd sa off]
  | .stw sd sa off => [encImm 0x21#6 sd sa off]
  | .std sd sa off => [encImm 0x22#6 sd sa off]
  | .ldx p sd sa si size sext z cls off => encLong p sd sa si size sext 0#3 0#3 z cls off
  | .stx p sb sa si size z cls off => encLong p sb sa si size 0#1 1#3 0#3 z cls off
  | .ldxAcq p sd sa si scope z cls mask => encLong p sd sa si 3#2 0#1 2#3 scope z cls (0#5 ++ mask)
  | .stxRel p sb sa si scope z cls mask => encLong p sb sa si 3#2 0#1 3#3 scope z cls (0#5 ++ mask)
  | .amoAdd p sd sa sb size cls => encAmo p sd sa sb 0#5 size 0#5 cls
  | .amoMin p sd sa sb size cls => encAmo p sd sa sb 0#5 size 1#5 cls
  | .amoMax p sd sa sb size cls => encAmo p sd sa sb 0#5 size 2#5 cls
  | .amoMinu p sd sa sb size cls => encAmo p sd sa sb 0#5 size 3#5 cls
  | .amoMaxu p sd sa sb size cls => encAmo p sd sa sb 0#5 size 4#5 cls
  | .amoAnd p sd sa sb size cls => encAmo p sd sa sb 0#5 size 5#5 cls
  | .amoOr p sd sa sb size cls => encAmo p sd sa sb 0#5 size 6#5 cls
  | .amoXor p sd sa sb size cls => encAmo p sd sa sb 0#5 size 7#5 cls
  | .amoSwp p sd sa sb size cls => encAmo p sd sa sb 0#5 size 8#5 cls
  | .cas p sd sa sb sc size cls => encAmo p sd sa sb sc size 9#5 cls
  | .amoFadd p sd sa sb cls => encAmo p sd sa sb 0#5 0#1 10#5 cls
  | .li32 p sd imm => [0x25#6 ++ p ++ sd ++ 0#17, imm]
  | .lih p sd imm => [0x26#6 ++ p ++ sd ++ 0#17, imm]
  | .vadd e v => encV 0x00#8 e v
  | .vsub e v => encV 0x01#8 e v
  | .vmul e v => encV 0x02#8 e v
  | .vfma e v => encV 0x03#8 e v
  | .vmin e v => encV 0x04#8 e v
  | .vmax e v => encV 0x05#8 e v
  | .vabs e v => encV 0x06#8 e v
  | .vneg e v => encV 0x07#8 e v
  | .vexp2 e v => encV 0x08#8 e v
  | .vlog2 e v => encV 0x09#8 e v
  | .vrcp e v => encV 0x0A#8 e v
  | .vrsqrt e v => encV 0x0B#8 e v
  | .vtanh e v => encV 0x0C#8 e v
  | .vand e v => encV 0x10#8 e v
  | .vor e v => encV 0x11#8 e v
  | .vxor e v => encV 0x12#8 e v
  | .vshl e v => encV 0x13#8 e v
  | .vshr e v => encV 0x14#8 e v
  | .vsra e v => encV 0x15#8 e v
  | .vcmpEq e v => encV 0x18#8 e v
  | .vcmpNe e v => encV 0x19#8 e v
  | .vcmpLt e v => encV 0x1A#8 e v
  | .vcmpLe e v => encV 0x1B#8 e v
  | .vsel e v => encV 0x1C#8 e v
  | .vcvt e v => encV 0x20#8 e v
  | .vqblk e v => encV 0x21#8 e v
  | .vunpk e v => encV 0x22#8 e v
  | .vdrop e v => encV 0x23#8 e v
  | .vrsum e v => encV 0x28#8 e v
  | .vrmax e v => encV 0x29#8 e v
  | .vrmin e v => encV 0x2A#8 e v
  | .vmov e v => encV 0x30#8 e v
  | .vshuf e v => encV 0x31#8 e v
  | .viota e v => encV 0x32#8 e v
  | .vsplat e v => encV 0x33#8 e v
  | .vld e v => encVM 0x38#8 e v
  | .vst e v => encVM 0x39#8 e v
  | .vldt e v => encVM 0x3A#8 e v
  | .vgath e v => encV 0x3B#8 e v
  | .vrng e v => encV 0x40#8 e v
  | .vtrn e v => encV 0x41#8 e v
  | .alease e x => encX 0x00#8 e x
  | .arelease e x => encX 0x01#8 e x
  | .lds e x => encX 0x08#8 e x
  | .ldsP e x => encX 0x09#8 e x
  | .ldsCb e x => encX 0x0A#8 e x
  | .ldsBs e x => encX 0x0B#8 e x
  | .mswap e x => encX 0x10#8 e x
  | .mmul e x => encX 0x18#8 e x
  | .mmulBs e x => encX 0x19#8 e x
  | .mdrain e x => encX 0x20#8 e x
  | .mzero e x => encX 0x21#8 e x
  | .mcbt e x => encX 0x28#8 e x
  | .cpy e c => encCP 0x00#8 e c
  | .cpyLd e c => encCP 0x01#8 e c
  | .cpySt e c => encCP 0x02#8 e c
  | .cgath e c => encCP 0x03#8 e c
  | .cscat e c => encCP 0x04#8 e c
  | .cred e c => encCP 0x05#8 e c
  | .cpref e c => encCP 0x06#8 e c
  | .cring e c => encCP 0x07#8 e c
  | .collOpen e c => encCP 0x10#8 e c
  | .collAred e c => encCP 0x11#8 e c
  | .collAgath e c => encCP 0x12#8 e c
  | .collBcast e c => encCP 0x13#8 e c
  | .collClose e c => encCP 0x14#8 e c
  | .send e c => encCP 0x18#8 e c
  | .recv e c => encCP 0x19#8 e c
  | .japp e c => encCP 0x20#8 e c
  | .jwait e c => encCP 0x21#8 e c
  | .jfetch e c => encCP 0x22#8 e c
  | .glzPost e c => encCP 0x28#8 e c
  | .glzWait e c => encCP 0x29#8 e c
  | .binit e y => encSY 0x00#8 e y
  | .bexpect e y => encSY 0x01#8 e y
  | .barrive e y => encSY 0x02#8 e y
  | .bwait e y => encSY 0x03#8 e y
  | .btest e y => encSY 0x04#8 e y
  | .rinit e y => encSY 0x08#8 e y
  | .rwaitf e y => encSY 0x09#8 e y
  | .rrel e y => encSY 0x0A#8 e y
  | .patch index select value => [0x30#6 ++ index ++ select ++ value]
  | .tload p sa => [0x31#6 ++ p ++ 0#1 ++ sa ++ 0#16]
  | .krules p sa => [0x31#6 ++ p ++ 1#1 ++ sa ++ 0#16]
  | .kneadGroupIssue _ => []
  | .engineInstructionCompletion _ _ => []
  | .asyncTrapEntry _ _ => []
  | .waittWake _ _ _ => []
  | .jwaitDeadline _ _ _ _ => []
  | .watchdogExpiry _ _ => []
  | .leaseGrant _ => []
  | .leaseLimit _ => []
  | .rampStep _ => []
  | .copyUnit _ _ => []
  | .copyCompletion _ _ => []
  | .reductionContextClaim => []
  | .fabricOpCompletion _ _ => []
  | .collectiveChunk _ => []
  | .sendData _ => []
  | .remoteAccess _ => []
  | .acknowledgement _ _ => []
  | .journalArrival _ _ _ _ => []
  | .jfetchRequest _ _ _ _ => []
  | .jappResend _ _ => []
  | .flitReceive _ _ => []
  | .retryRequest _ _ => []
  | .portRetrain _ _ => []
  | .glazeCardRun _ _ => []
  | .glazeCardCompletion _ _ => []
  | .translationWalk _ _ _ _ => []
  | .translationExpiry => []
  | .clockSkewDetection _ _ => []
  | .fqrespWrite _ => []
  | .fqheadWrite _ => []
  | .xrRootWrite _ _ _ => []
  | .fcmdWrite _ => []
  | .frameFormatComplete => []
  | .queueConfigWrite _ _ _ => []
  | .tailWrite _ _ => []
  | .abortWrite _ _ => []
  | .functionLevelReset _ => []
  | .launchRecordRead _ => []
  | .dispatch => []
  | .tilePreloadComplete _ => []
  | .taskCompletion _ => []
  | .launchCompletion _ => []
  | .accountRecordEviction _ => []
  | .accountCountOverflow _ => []
  | .priorityAging => []
  | .epochBoundary => []
  | .partitionExamination => []
  | .preemptWrite _ => []
  | .contextSave _ => []
  | .spillcfgWrite _ => []
  | .stagecfgWrite _ => []
  | .powerControlInterval _ _ _ => []
  | .pwrcfgWrite _ => []
  | .rowcapWrite _ => []
  | .uncorrectableError _ _ _ _ => []
  | .bootStart _ => []
  | .bootclr _ => []
  | .bootctl _ => []
  | .fwsvn _ => []
  | .attctlGo _ => []
  | .attestationReportComplete => []
  | .telesnap _ => []
  | .telesnapComplete => []
  | .counterBankWrite _ _ _ => []
  | .recorderConfigWrite _ _ _ => []
  | .registerWrite _ _ => []
  | .unassignedEncoding _ _ => []
  | .instructionFetchFault _ _ => []
  | .zeroingComplete _ => []
  | .clockCopyResync _ => []
  | .correctedSoftError _ _ _ _ => []
  | .cxlMemAccess _ _ _ => []

/-- The rows of the table that are instruction words, not events. -/
def Instr.isWord (i : Instr) : Bool := !(encode i).isEmpty

/-- The length of an instruction in bytes (R139). -/
def Instr.bytes (i : Instr) : Nat := 4 * (encode i).length

/-- TVAL of an ILLEGAL trap (R142): word 0 in bits 31:0, word 1 above it or zero. -/
def wordsOf : List W32 → Word
  | [] => 0#64
  | [w0] => 0#32 ++ w0
  | w0 :: w1 :: _ => w1 ++ w0

end Sys2Proof
end

