-- ==== Sys2Proof/Machine/State.lean ====
section
/-! DEFINITION. The state of the device as plain data, the reasons a step can stop, and the state after reset.
Every piece of state the spec names is a field; INVENTORY.md lists them with their rules. -/
namespace Sys2Proof.Machine

/-- Data held by key: pairs with strictly rising keys. An absent key stands for a default that the accessor names. -/
abbrev Store (β : Type) := List (Nat × β)

/-- Full-empty states (spec 02 R16). -/
inductive Fe where
  | empty | full | filling
  deriving DecidableEq, Repr

/-- One position of the transient operand ring: the row, and the in-flight instruction that produces it, if it
has not completed (spec 11 R194). -/
structure RingEnt where
  row : Row := 0#8192
  op : Option Nat := none
  deriving DecidableEq, Repr

/-- The registers of one trap level (spec 23 R359), the Knead member count (18 R300) and the ring tret restores. -/
structure TrapRegs where
  epc : Word := 0#64
  cause : Word := 0#64
  val : Word := 0#64
  scr : Word := 0#64
  members : Nat := 0
  ring : List RingEnt := List.replicate 4 {}
  deriving DecidableEq, Repr

/-- One hardware loop level (spec 02 R38 to R40): start is the first body instruction, last the end address,
level the trap level at which it was started, fresh that its iteration has begun and nothing has issued in it. -/
structure Loop where
  active : Bool := false
  stages : Nat := 0
  trips : Nat := 0
  i : Nat := 0
  start : Word := 0#64
  last : Word := 0#64
  level : Nat := 0
  fresh : Bool := false
  deriving DecidableEq, Repr

/-- One accumulator of the charge cache (spec 07 R110). -/
structure Acc where
  pc : Word
  cause : Nat
  count : Nat
  deriving DecidableEq, Repr

/-- Pending asynchronous causes of a strand (spec 23 R361). -/
structure Pend where
  conflict : List Word := []
  overrun : List Word := []
  skew : List Word := []
  deriving DecidableEq, Repr

/-- A registered gsync arrival whose wait is not over (spec 02 R29, R30): the trap level, PC and group of the gsync, and
whether the wait has reloaded the watchdog. -/
structure GsyncArr where
  level : Nat
  pc : Word
  group : Nat
  reloaded : Bool := false
  deriving DecidableEq, Repr

/-- A scalar load or atomic of a strand that another device has yet to answer (spec 10 R162): the register and how the
bytes become its value (an atomic has sext false and the size of its operand), the instruction's PC, pointer and trap
level, its bytes in address order (a part that stands for message tag t has the number t + 1, one whose bytes are here
has 0), and whether its destination has been lost (26 R387). -/
structure Late where
  sd : BitVec 5
  size : Nat
  sext : Bool
  pc : Word
  ptr : Word
  level : Nat
  parts : List (Nat × List Byte)
  lost : Bool := false
  deriving DecidableEq, Repr

/-- A Knead group that has issued and whose last replacement waits for the access of the one before it (spec 18 R299; 04
R59): the entry, that replacement's words, the members, the slots, the last member's address and length, and the ring
before the group. -/
structure GroupRest where
  entry : Nat
  w0 : W32
  w1 : W32
  members : Nat
  slots : Nat
  pc : Word
  len : Nat
  ring : List RingEnt := []
  deriving DecidableEq, Repr

/-- One strand (spec 02 R13, R14; 23 R359; 06 R96; 07 R109, R114; 18 R304; 19 R306). owed says that the instruction
at the PC has completed and has only its posts to make (02 R21); waited that its turn of this cycle ended in a wait
(assumption log 4); slot is what its last issue still has to be charged; cond and condPc what its other cycles are
charged to. -/
structure Strand where
  pc : Word := 0#64
  regs : Vector Word 32 := Vector.replicate 32 0#64
  preds : BitVec 8 := 1#8
  level : Nat := 0
  div0 : Bool := false
  tvec : Word := 0#64
  tsave : Word := 0#64
  wdog : BitVec 48 := 0#48
  wleft : Nat := 0
  t1 : TrapRegs := {}
  t2 : TrapRegs := {}
  rngkey : Word := 0#64
  rngctr : BitVec 40 := 0#40
  lstop : Word := 0#64
  loops : Vector Loop 4 := Vector.replicate 4 {}
  tmplA : Store Byte := []
  tmplO : Store Byte := []
  tgen : BitVec 32 := 0#32
  ruleA : Store Byte := []
  ruleO : Store Byte := []
  rgen : BitVec 32 := 0#32
  suppress : Nat := 0
  latch : Option (List W32) := none
  started : Bool := false
  exited : Bool := false
  entry : Word := 0#64
  counters : Vector Word 16 := Vector.replicate 16 0#64
  cache : List Acc := []
  slot : Option (Nat × Word × Nat) := none
  cond : Nat := 14
  condPc : Word := 0#64
  waited : Bool := false
  owed : Bool := false
  pend : Pend := {}
  gsyncs : List GsyncArr := []
  late : List Late := []
  rest : Option GroupRest := none
  deriving DecidableEq, Repr

/-- The part of a weight plane that one lds form loads (spec 12 R217): whole plane rows. -/
structure PlanePart where
  fmt : Nat
  mask : BitVec 8
  rows : List (Nat × PRow)
  scales : List (Nat × BitVec 128) := []
  specials : List (Nat × BitVec 128) := []
  deriving DecidableEq, Repr

/-- A plane owner tag (spec 12 R218). -/
structure Tag where
  tenant : Nat
  crew : Nat
  mask : BitVec 8
  deriving DecidableEq, Repr

/-- A weight plane (spec 12 R216, R218): unlisted rows are zero, unlisted scales 0x7F, unlisted specials zero. -/
structure Plane where
  fmt : Option Nat := none
  tag : Option Tag := none
  rows : Store PRow := []
  scales : Store (BitVec 128) := []
  specials : Store (BitVec 128) := []
  deriving DecidableEq, Repr

/-- The units of the vector and matrix strands (spec 12 R221). -/
inductive Unit' where
  | vector | load | array | swap | drain | self
  deriving DecidableEq, Repr

/-- A part of a row of a drain that has not left the strand's unit (spec 12 R234; 22 R345): the row, its virtual
address, the key and the bytes, and the cycle until which its translation serves, none in scratchpad. -/
structure RowPart where
  row : Nat
  va : Word
  key : Nat
  bs : List Byte
  till : Option Nat := none
  deriving DecidableEq, Repr

/-- A started vector or matrix instruction that has not completed (spec 02 R21). reads are full-empty indices with :e;
dst is a full-empty index with the state at completion; left are the parts of a drain's rows that it has yet to store,
stored the places that it has written; each of its arrivals rows arrives at bar with its byte count, once rows for
another device are performed there. Its post covers the accesses of its strand whose messages come before number after
(02 R22). -/
structure EngOp where
  id : Nat
  kind : StrandKind
  unit : Unit'
  reads : List (Nat × Bool) := []
  dst : Option (Nat × Fe) := none
  rows : List (Nat × Row) := []
  part : Option PlanePart := none
  isArray : Bool := false
  post : BitVec 3 := 0#3
  nanTile : Option Nat := none
  left : List RowPart := []
  stored : List (Nat × Nat) := []
  bar : Word := 0#64
  arrive : Nat := 0
  arrivals : Nat := 0
  after : Nat := 0
  deriving DecidableEq, Repr

/-- A translation as an agent uses it (spec 22 R338 to R343, R350): the 4 KiB page, its frame as a physical key, the
permissions and attributes and the expiry. r, w and x are those of both stages, r1, w1 and x1 those of stage 1; base is
the physical address of the whole page, gpa the guest-physical address of the 4 KiB and ent the key of the leaf, which a
fault record names (R352, R353). single marks a lease of 15. -/
structure Tlb where
  fn : Nat
  vpage : Nat
  frame : Nat
  r : Bool
  w : Bool
  x : Bool
  r1 : Bool := true
  w1 : Bool := true
  x1 : Bool := true
  base : Nat := 0
  gpa : Nat := 0
  ent : Nat := 0
  host : Bool
  cmp : Bool
  tier : Nat
  gw : Bool
  expiry : Nat
  single : Bool
  deriving DecidableEq, Repr

/-- A held asynchronous operation (spec 13 R254): the cause, the side, the trap level that reports it, and the virtual
address that STAGE2_UNRESOLVED reports (22 R353). -/
structure Hold where
  cause : Nat
  side : Nat
  progress : Nat
  va : Word := 0#64
  reported : Option Nat := none
  deriving DecidableEq, Repr

/-- An element to which one cred adds more than once (spec 13 R249): its key, what it held before, the terms added, and
what it held then. -/
structure Sum where
  key : Nat
  start : Nat
  terms : List Nat
  last : Nat
  deriving DecidableEq, Repr

/-- A started copy or fabric operation of the copy engine (spec 13 R239 to R256, 14 R265): the opcode and fields of
the word, the registers read at the start, the post mask, the trap level, the next unit and their number, the
translations used, the pages whose single-use translation serves the unit in hand (22 R343), the state its tile ends
in, and what the kinds of operation need besides: the ring object read at the start, the pages counted or members that
have answered (seen), whether its contribution has been sent and when, its window, group and place there, the handle's
instance or the matched send (inst), the position on the handle or in the journal (pos), the chunks received, the
journal entry or the source bytes read, a conflict reported, the phase of a send, recv or collective, the ranks of its
window's members at its start (26 R390), what the bytes that a copy both reads and has written held at its start (13
R245), the sums of a cred's elements that it adds to more than once (R249), a number of its own that tags its units
and picks its free choices (R250; assumption log 7), and whether a kill has cut it (R255). Its post covers the
accesses of its strand whose messages come before number after (02 R22). -/
structure AsyncOp where
  id : Nat
  opc : Nat
  fields : CpFields
  regs : List Word
  post : BitVec 3 := 0#3
  level : Nat := 0
  next : Nat := 0
  total : Nat := 0
  held : Option Hold := none
  used : List Tlb := []
  once : List Nat := []
  dstFe : Option (Nat × Fe) := none
  finished : Bool := false
  count : Nat := 0
  ring : List Word := []
  seen : List Nat := []
  sent : Bool := false
  sentAt : Nat := 0
  window : Nat := 0
  group : Nat := 0
  members : Nat := 0
  self : Nat := 0
  ranks : List Nat := []
  inst : Nat := 0
  pos : Nat := 0
  status : Nat := 0
  entry : List Byte := []
  conflict : Bool := false
  phase : Nat := 0
  starts : Store Byte := []
  sums : List Sum := []
  nonce : Nat := 0
  cut : Bool := false
  after : Nat := 0
  deriving DecidableEq, Repr

/-- A promise of a copy (spec 04 R74). -/
structure Promise where
  op : Nat
  cycle : Word
  done : Bool := false
  acquired : Bool := false
  deriving DecidableEq, Repr

/-- An accepted Glaze card that has not completed (spec 14 R277, R278): its bytes as read, whether it has started, its
coefficients with seeds and modes (06 R103), the translations it uses, its next 64 KiB chunk (22 R349), the code it
ends with and the bytes it has written; waits says that chained has not passed its positions yet (06 R102), posted that
it has written its status. -/
structure Card where
  id : Nat
  crew : Nat
  launch : Nat
  task : Nat
  ptr : Word
  bytes : List Byte
  cls : BitVec 4
  tenant : Nat
  doneCode : Option Nat := none
  badIndex : Nat := 0
  faultAddr : Word := 0#64
  written : Nat := 0
  started : Bool := false
  next : Nat := 0
  coefs : List (Nat × Nat × Nat) := []
  used : List Tlb := []
  waits : Bool := false
  posted : Bool := false
  deriving DecidableEq, Repr

/-- A record that has left a charge cache and is not yet written (spec 07 R110). -/
structure AccRec where
  strand : Nat
  acc : Acc
  deriving DecidableEq, Repr

/-- The context on a crew (spec 02 R13, R26, R29; 07 R109). -/
structure Ctx where
  launch : Nat
  task : Nat
  tenant : Nat
  created : Nat
  prio : Nat := 0
  gmask : BitVec 4 := 0#4
  grps : List Nat := []
  deriving DecidableEq, Repr

/-- One crew (spec 01 R9; 02 R13 to R22). starting says that a task has been placed and its strands have not started;
mark is the mark for pre-emption, true once a safe point has been reached; markKept that PREEMPT made it (21 R336).
Tile row r of selector s lies at key 128 s + r; the codebook banks are selectors 24 and 25. fe is indexed by selector.
snaps are bank snapshots that are not yet written, by number (07 R112); astatNow has the bits of ASTAT set in the
present cycle (05 R87). The model's own: grouped, that a later replacement of a Knead group starts, and excused, the
operands for which it does not wait (18 R299). -/
structure Crew where
  ctx : Option Ctx := none
  owner : Nat := 0
  zeroing : Bool := false
  ss : Strand := {}
  sv : Strand := {}
  sm : Strand := {}
  sc : Strand := {}
  tiles : Store Row := []
  fe : Vector Fe 26 := Vector.replicate 26 .empty
  qs : Vector Word 8 := Vector.replicate 8 0#64
  qfe : Vector Fe 8 := Vector.replicate 8 .empty
  tokens : Vector Nat 12 := Vector.replicate 12 0
  pendTok : Vector Nat 12 := Vector.replicate 12 0
  ring : List RingEnt := List.replicate 4 {}
  astat : BitVec 8 := 0#8
  astatNow : BitVec 8 := 0#8
  energy : Word := 0#64
  kperm : BitVec 4 := 1#4
  acctbase : Word := 0#64
  bank : Store W32 := []
  recCount : Nat := 0
  snapCount : Nat := 0
  acctStatus : Nat := 0
  evicted : List AccRec := []
  snaps : List (Nat × List Byte) := []
  seq : Nat := 0
  grouped : Bool := false
  excused : List Nat := []
  inflight : List EngOp := []
  ops : List AsyncOp := []
  promises : List Promise := []
  leased : Bool := false
  mark : Option Bool := none
  markKept : Bool := false
  killed : Option Nat := none
  starting : Bool := false
  preloadBad : Bool := false
  deriving DecidableEq, Repr

/-- The array lease of a CU (spec 02 R24, 12 R220). -/
structure Lease where
  crew : Nat
  used : Nat := 0
  grant : Nat := 0
  ending : Bool := false
  zeroing : Bool := false
  deriving DecidableEq, Repr

/-- One CU: planes, lease, ramp and its copies of the translations and of CYCLE (spec 01 R9, 07 R117, 22 R343, R348):
drift is the difference of the copy from the reference, floor the value below which the copy never reads, resync that
the copy waits to be set. Unit 96 stands for the I/O die and unit 97 + n for the walker of cluster n. -/
structure Cu where
  active : Plane := {}
  shadow : Plane := {}
  lease : Option Lease := none
  lastHolder : Nat := 3
  requests : List Nat := []
  ramp : Nat := 15
  rampOld : Nat := 15
  rampAt : Nat := 0
  rampNext : Nat := 0
  tlb : List Tlb := []
  drift : Int := 0
  floor : Nat := 0
  resync : Bool := false
  zeroSegs : List Nat := []
  deriving DecidableEq, Repr

/-- A work queue (spec 21 R319 to R321). -/
structure Queue where
  en : Bool := false
  err : Bool := false
  owner : Nat := 0
  vector : Nat := 0
  lsize : Nat := 1
  base : Word := 0#64
  head : BitVec 32 := 0#32
  tail : BitVec 32 := 0#32
  aborted : Bool := false
  ecode : Nat := 0
  deriving DecidableEq, Repr

/-- A queue's recorder (spec 27 R402). -/
structure Recorder where
  en : Bool := false
  lsize : Nat := 1
  base : Nat := 0
  written : BitVec 32 := 0#32
  deriving DecidableEq, Repr

/-- A declared tile of a node (spec 21 R325). -/
structure TileDesc where
  src : Word
  shape : Word
  pitches : Word
  tile : Nat
  zs : Nat
  deriving DecidableEq, Repr

/-- Where a task stands. -/
inductive TaskState where
  | waiting | ready | running | done
  deriving DecidableEq, Repr

/-- A node of a launch's graph (spec 21 R325) and what its task has come to (R330). rounds counts the gsync
arrivals of each of its four groups (02 R29); owed says that its task record is still to be written (R331). -/
structure Node where
  targs : List Word
  entries : List Nat
  succs : List Nat
  npred : Int
  grps : List Nat
  gmask : BitVec 4
  prio : Nat
  tiles : List TileDesc
  st : TaskState := .waiting
  readyAt : Nat := 0
  code : Nat := 3
  kill : Nat := 0
  endCycle : Nat := 0
  crew : Nat := 0
  rounds : List Nat := [0, 0, 0, 0]
  owed : Bool := false
  deriving DecidableEq, Repr

/-- The values a launch's configuration block gives (spec 21 R324). -/
structure LaunchCfg where
  kperm : BitVec 4 := 1#4
  wdog : BitVec 48 := 0#48
  tsave : List Word := []
  tvec : List Word := []
  rngkey : Word := 0#64
  acctbase : Word := 0#64
  tmpl : List Word := []
  rules : Store Byte := []
  image : Word := 0#64
  deriving DecidableEq, Repr

/-- A launch in flight (spec 21 R323 to R331). stop is the status of a stopped launch. -/
structure Launch where
  id : Nat
  queue : Nat
  owner : Nat
  record : List Byte
  start : Nat
  larg : List Word := []
  flags : Nat := 0
  tag : Nat := 0
  completion : Word := 0#64
  cfg : LaunchCfg := {}
  nodes : List Node := []
  stop : Option Nat := none
  config : List Byte := []
  graph : List Byte := []
  rulesNamed : Bool := false
  rulesHash : List Byte := []
  deriving DecidableEq, Repr

/-- An entry of the ready pool: a ready task, or a descheduled context with the crew it left, its save area and
what the area does not hold (spec 02 R31, R35; 21 R335): saved is the crew, the area, the cycle of the save and the rest
of the crew state. late marks a task that became ready when a crew was freed and enters after the crew's next entry. -/
structure PoolEnt where
  launch : Nat
  task : Nat
  tenant : Nat
  prio : Nat
  readyAt : Nat
  spilled : Bool := false
  held : Bool := false
  late : Bool := false
  saved : Option (Nat × Nat × Nat × Crew) := none
  deriving DecidableEq, Repr

/-- A tenant (spec 21 R332, R333; 22 R341, R347; 26 R392; 27 R400). -/
structure Tenant where
  crews : BitVec 384 := 0#384
  target : Nat := 0
  wdogMax : BitVec 48 := 0#48
  kpermAllow : BitVec 3 := 0#3
  deficit : Int := 0
  used : Nat := 0
  cap : Nat := 0
  xr1 : Word := 0#64
  xr2 : Word := 0#64
  horizon : Nat := 0
  counters : Vector Word 16 := Vector.replicate 16 0#64
  deriving DecidableEq, Repr

/-- A ring of records in memory with its registers: the fault queue (spec 22 R351) and the error ring (23 R365). -/
structure RecRing where
  base : Nat := 0
  lsize : Nat := 0
  en : Bool := false
  vector : Nat := 0
  head : BitVec 32 := 0#32
  tail : BitVec 32 := 0#32
  deriving DecidableEq, Repr

/-- Who waits on a fault record (spec 22 R352, R353): a strand, the lookahead of its Knead window (18 R288), an
asynchronous operation of a crew, the writes of a crew's account (07 R111), a Glaze card, a group's journal, or the
queue engine for the records of a queue, of a launch and of a task. fetch and these name the agents of remote reads
too. -/
inductive Waiter where
  | strand (crew : Nat) (k : StrandKind)
  | look (crew : Nat) (k : StrandKind)
  | fetch (crew : Nat) (k : StrandKind)
  | op (crew op : Nat)
  | acct (crew : Nat)
  | card (id : Nat)
  | journal (group : Nat)
  | queue (q : Nat)
  | launch (id : Nat)
  | task (launch task : Nat)
  | other
  deriving DecidableEq, Repr

/-- An outstanding fault record (spec 22 R352). unres is set by the answer that marks it unresolvable; each waiter
has the virtual address it asked for; ent is the key of the entry on which the accesses faulted (R353). -/
structure FaultRec where
  id : Nat
  va : Word
  pa : Nat
  fn : Nat
  level : Nat
  kind : Nat
  need : BitVec 3
  cycle : Nat
  ent : Nat := 0
  written : Bool := false
  unres : Bool := false
  waiters : List (Waiter × Word) := []
  deriving DecidableEq, Repr

/-- A walk that found a fault while 1,024 records were outstanding and keeps its walker (spec 22 R356): the record it
will send, the page it walks, its start (R347), and the frame that it has found under migration. -/
structure Walking where
  req : FaultRec
  page : Nat
  start : Nat
  frame : Nat := 0
  deriving DecidableEq, Repr

/-- A non-leaf entry in a walker's cache (spec 22 R343): the function, the stage, the level of the table it names and
the address bits above it, that table's address, the smallest lease on the way to it, and its own expiry. -/
structure WalkEnt where
  fn : Nat
  stage : Nat
  level : Nat
  tag : Nat
  table : Nat
  d : Nat
  expiry : Nat
  deriving DecidableEq, Repr

/-- An error record that waits for the error ring (spec 23 R365). -/
structure ErrRec where
  pa : Nat
  cycle : Nat
  crew : Nat
  fn : Nat
  unit : Nat
  kind : Nat
  tag : Word
  deriving DecidableEq, Repr

/-- A claimed reduction context (spec 14 R267, R268): its holder, window, parameters, reserved staging, the members'
ranks at the opening (26 R390) and the number of operations issued; inst numbers this device's openings of the group;
lost says that a member has been lost (R387). -/
structure RedCtx where
  crew : Nat
  launch : Nat
  task : Nat
  tenant : Nat
  window : Nat
  group : Nat
  inst : Nat
  alg : Nat
  maxBytes : Nat
  staging : Nat
  ranks : List Nat := []
  issued : Nat := 0
  lost : Bool := false
  deriving DecidableEq, Repr

/-- A claim that waits for the arbiter (spec 14 R267). -/
structure Claim where
  crew : Nat
  op : Nat
  tenant : Nat
  deriving DecidableEq, Repr

/-- A message sent to another device: the kind of spec 26 R382, the rank, its contents as numbers and bytes, and the
port it went out on, none while it waits for one. -/
structure Msg where
  kind : Nat
  group : Nat
  dst : Nat
  tag : Nat
  nums : List Nat
  data : List Byte
  port : Option Nat := none
  deriving DecidableEq, Repr

/-- A message that waits for its end-to-end answer (spec 26 R386 to R389): the crew and operation that sent it; agent
is who reads the answer when it is there; by is the strand (by its number) whose own access it is, cls the class of
that access and holds the classes of the strand's accesses that wait for it (04 R59, R62); place is the key and length
of a read. -/
structure RemoteWait where
  tag : Nat
  crew : Nat
  op : Option Nat
  agent : Option Waiter := none
  by_ : Option Nat := none
  cls : Nat := 0
  holds : BitVec 16 := 0#16
  msg : Msg
  load : Bool := false
  place : Nat × Nat := (0, 0)
  answer : Option (List Byte) := none
  lost : Bool := false
  deriving DecidableEq, Repr

/-- A chain value that came with a fetched entry and is compared when its position is chained (spec 06 R101, 14 R276):
the position, the value, and the context that asked. -/
structure ChainCheck where
  pos : Nat
  value : Nat
  crew : Nat
  launch : Nat
  task : Nat
  deriving DecidableEq, Repr

/-- The journal header bound to a group on this device (spec 06 R406): the pointer, the function and CU through which
it is translated, and the window entry as it stood. -/
structure Binding where
  header : Word
  fn : Nat
  cu : Nat
  window : Nat
  entry : List Byte
  deriving DecidableEq, Repr

/-- What the device keeps of the journal at a header of a function (spec 06 R100, R101): the last chain value computed
with its position, the positions stored again after they were chained, whose slots hold no chain value of theirs, and
the chain values still to be compared. -/
structure JournalNote where
  header : Nat
  fn : Nat
  last : Option (Nat × Nat) := none
  loose : List Nat := []
  checks : List ChainCheck := []
  deriving DecidableEq, Repr

/-- A journal entry that has arrived and is held back (spec 06 R101, R406): the group, the sender's member index, the
entry, whether a jfetch asked for it, and whether an error record has been made for it. Or a peer's jfetch request
that waits for a translation (14 R276): its first position and its count; or, with a count of 0, the chaining of a
stored entry that waits for one (R100). -/
structure HeldEntry where
  group : Nat
  src : Nat
  entry : List Byte
  fetched : Bool
  noted : Bool := false
  ask : Option (Nat × Nat) := none
  deriving DecidableEq, Repr

/-- A Damfonos port (spec 26 R383, R384): receive and send sequence numbers, the flits not acknowledged, the retry
counting and the retraining attempts. -/
structure Port where
  up : Bool := false
  retrains : Nat := 0
  retries : Nat := 0
  lastSeq : BitVec 12 := 0xFFF#12
  nextSeq : BitVec 12 := 0#12
  sentRetry : Bool := false
  unacked : List (List Byte) := []
  resend : List (List Byte) := []
  retrySeq : BitVec 12 := 0#12
  retryCount : Nat := 0
  training : Bool := false
  attempts : Nat := 0
  ackCycle : Nat := 0
  deriving DecidableEq, Repr

/-- Power control (spec 27 R397 to R399). -/
structure Power where
  vector : Nat := 0
  hyst : Nat := 20
  rampw : Nat := 256
  rampwNew : Option Nat := none
  rampwAt : Nat := 0
  cap : Nat := 2000
  rowcap : Nat := 2000
  row : Nat := 0
  th0 : Nat := 0
  th1 : Nat := 0
  rowF : Nat := 0
  th0F : Nat := 0
  th1F : Nat := 0
  stepAt : Nat := 0
  intervals : BitVec 32 := 0#32
  overCap : Bool := false
  power : Nat := 0
  trip0 : Bool := false
  trip1 : Bool := false
  tripc0 : Nat := 105
  tripc1 : Nat := 105
  warnc0 : Nat := 95
  warnc1 : Nat := 95
  temp0 : Nat := 0
  temp1 : Nat := 0
  deriving DecidableEq, Repr

/-- One entry of the boot record (spec 25 R373). -/
structure BootEntry where
  path : Nat := 0
  attempts : Nat := 0
  outcome : Nat := 0
  deriving DecidableEq, Repr

/-- Boot, firmware and attestation (spec 25). The two flash copies are bytes; mode is that of BOOTSTAT; tierUp says
that step 7 has brought the second tier's ports up (R371); identity is the image digest from which step 10 has derived
the keys (R378); reqAddr and reqNonce are what a request for a report took at its go (R379). -/
structure Boot where
  copyA : List Byte := List.replicate 64 0#8
  copyB : List Byte := List.replicate 64 0#8
  lastCopy : Bool := false
  seq : Nat := 0
  entries : List BootEntry := List.replicate 10 {}
  step : Nat := 0
  mode : Nat := 0
  recErr : Bool := false
  bank : Nat := 0
  failed : BitVec 10 := 0#10
  starts : Nat := 0
  svnFused : Nat := 0
  svnRun : Nat := 0
  image : List Byte := []
  flash0 : List Byte := []
  flash1 : List Byte := []
  secret : Nat := 0
  tierUp : Bool := false
  identity : Option (List Byte) := none
  serial : List Byte := List.replicate 16 0#8
  leaf : Nat := 0
  attGo : Bool := false
  attStatus : Nat := 0
  attI3c : Bool := false
  attLeaf : Nat := 0
  attAddr : Word := 0#64
  attNonce : List Word := List.replicate 4 0#64
  reqAddr : Word := 0#64
  reqNonce : List Word := List.replicate 4 0#64
  attBuf : List Byte := List.replicate 2048 0#8
  deriving DecidableEq, Repr

/-- Registers of the physical function that have no structure of their own (spec 21 to 27). snapTo, snapCycle and
snapBanks are what the snapshot that runs has latched (27 R401). -/
structure Regs where
  ageK : Nat := 4
  saveCount : Nat := 0
  saveBase : Nat := 0
  spillBlocks : Nat := 0
  spillBase : Nat := 0
  spillFull : Bool := false
  spillEn : Bool := false
  preEn : Bool := true
  preMargin : Nat := 0x100000
  fcmdGo : Bool := false
  fcmdOp : Nat := 0
  fcmdFrame : Nat := 0
  fcmdCount : Nat := 0
  fcmdErr : Bool := false
  stageBlocks : Nat := 0
  stageBase : Nat := 0
  gwtBase : Nat := 0
  hdmBase : Nat := 0
  hdmSize : Nat := 0
  snapGo : Bool := false
  snapErr : Bool := false
  snapAddr : Nat := 0
  snapTo : Nat := 0
  snapCycle : Nat := 0
  snapBanks : List (List Word) := []
  deriving DecidableEq, Repr

/-- Whose turn it is (the model's own, assumption log 4): a strand, or an event of the table. -/
inductive Act where
  | strand (crew : Nat) (k : StrandKind)
  | event (i : Instr)
  deriving DecidableEq, Repr

/-- A turn of the agenda (assumption log 4): what comes from outside, or in another order than the device's own, and the
cycle from which it is due. -/
structure Turn where
  due : Nat
  act : Act
  deriving DecidableEq, Repr

/-- The whole device. mem holds HBM, the second tier, host memory and the slices under physical keys (Ops.lean);
ringFills are the slots of a ring object that are filled and not yet visible (04 R72), staged the cred units of other
devices that staging holds (13 R250, 26 R393), and arbNext is the first cycle in which the claim arbiter decides again
(14 R267). -/
structure State where
  cur : Nat × StrandKind := (0, .s)
  cycle : Nat := 0
  mem : List Host.Cell := []
  crews : Store Crew := []
  cus : Store Cu := []
  clusterTlb : Store (List Tlb) := []
  walkCache : Store (List WalkEnt) := []
  walking : List Walking := []
  frames : Store Bool := []
  segs : Store Nat := []
  inits : Store (Nat × Nat × Nat) := []
  ringFills : Store (List Nat) := []
  queues : Store Queue := []
  recorders : Store Recorder := []
  lastQueue : Option Nat := none
  launches : List Launch := []
  launchSeq : Nat := 0
  pool : List PoolEnt := []
  tenants : Store Tenant := []
  regs : Regs := {}
  areas : List Nat := []
  fq : RecRing := {}
  faults : List FaultRec := []
  faultSeq : Nat := 0
  er : RecRing := {}
  errs : List ErrRec := []
  cards : List Card := []
  cardSeq : Nat := 0
  redCtxs : Store RedCtx := []
  claims : List Claim := []
  arbLast : Nat := 384
  arbNext : Nat := 0
  stagingUsed : Nat := 0
  staged : List RemoteReq := []
  opens : Store Nat := []
  bindings : Store Binding := []
  journals : List JournalNote := []
  inbox : List Chunk := []
  journalHeld : List HeldEntry := []
  applied : List (Nat × Nat × List Byte) := []
  remote : List RemoteWait := []
  remoteSeq : Nat := 0
  outbox : List Msg := []
  ports : Store Port := []
  routes : Store (BitVec 18) := []
  power : Power := {}
  boot : Boot := {}
  msis : List (Nat × Nat) := []
  agenda : List Turn := []
  fresh : Nat := 0
  nextEpoch : Nat := 65536
  nextExam : Nat := 1024
  nextPower : Nat := 65536
  deriving DecidableEq, Repr

/-- The reasons a step stops with a fault. -/
inductive Fault where
  /-- A translation or a register names a physical address that the device does not have (spec 01 R10, 03 R50).
  Raised by the memory operations of Ops.lean. Safe: the spec gives no access there. -/
  | physicalHole (pa : Nat)
  deriving DecidableEq, Repr

/-- The reasons a step is refused. -/
inductive Refusal where
  /-- The instruction has no meaning in this model yet. Raised by arms of exec. Safe. -/
  | notModelled (mnemonic : String)
  /-- The event of the table cannot happen in this state: what it completes or answers is not there. Raised by the
  events' meanings. Safe: the hardware has no such step either. -/
  | notEnabled (mnemonic : String)
  deriving DecidableEq, Repr

/-- What a step answers. -/
abbrev Outcome := Host.Outcome State Fault Refusal

/-- The configuration of tenant 0 after reset: every crew, cap 64 (spec 21 R332, 26 R392). -/
def tenant0 : Tenant := { crews := BitVec.allOnes 384, cap := 64 }

/-- The device right after cold reset (spec 25 R371: no start step has run; every register as its map says). -/
def State.reset : State := { tenants := [(0, tenant0)] }

end Sys2Proof.Machine
end

