-- ==== Sys2Proof/Machine/Base.lean ====
section
/-! DEFINITION. Reading and writing the parts of the state: keyed stores, memory bytes, physical keys, strands,
crews, CUs, tenants, registers and predicates, tokens and full-empty states. -/
namespace Sys2Proof.Machine

/-! ## Stores and memory -/

/-- The data at a key, or the default. -/
def sget {β : Type} (d : β) : Store β → Nat → β
  | [], _ => d
  | (a, b) :: r, k => if a = k then b else sget d r k

/-- The data at a key, if it is listed. -/
def sget? {β : Type} : Store β → Nat → Option β
  | [], _ => none
  | (a, b) :: r, k => if a = k then some b else sget? r k

/-- Insert before the first larger key. -/
def sinsert {β : Type} (k : Nat) (v : β) : Store β → Store β
  | [] => [(k, v)]
  | (a, b) :: r => if k < a then (k, v) :: (a, b) :: r else (a, b) :: sinsert k v r

/-- The store without a key. -/
def sdel {β : Type} (st : Store β) (k : Nat) : Store β := st.filter fun c => c.1 ≠ k

/-- The store with v at key k. -/
def sput {β : Type} (st : Store β) (k : Nat) (v : β) : Store β := sinsert k v (sdel st k)

/-- The store with v at key k, where an entry equal to the default is not listed. -/
def sputD {β : Type} [DecidableEq β] (d : β) (st : Store β) (k : Nat) (v : β) : Store β :=
  if v = d then sdel st k else sinsert k v (sdel st k)

/-- What an unlisted byte of memory reads as (assumption log 2). -/
def memDefault : Byte := 0#8

/-- One byte of memory. -/
def memByte (m : List Host.Cell) (k : Nat) : Byte := sget memDefault m k

/-- n bytes of memory from key k. -/
def memBytes (m : List Host.Cell) (k : Nat) : Nat → List Byte
  | 0 => []
  | n + 1 => memByte m k :: memBytes m (k + 1) n

/-- The listed cells of the bytes bs at key k: those that differ from the default. -/
def cellsOf (k : Nat) : List Byte → List Host.Cell
  | [] => []
  | b :: bs => if b = memDefault then cellsOf (k + 1) bs else (k, b) :: cellsOf (k + 1) bs

/-- Memory with the bytes bs from key k on; the canonical form is kept. -/
def memWrite (m : List Host.Cell) (k : Nat) (bs : List Byte) : List Host.Cell :=
  m.filter (fun c => c.1 < k) ++ cellsOf k bs ++ m.filter (fun c => k + bs.length ≤ c.1)

/-- The keys of a store rise strictly. -/
def sortedKeys {β : Type} : List (Nat × β) → Bool
  | [] => true
  | [_] => true
  | (a, _) :: (b, y) :: r => a < b && sortedKeys ((b, y) :: r)

/-- The canonical form of memory: keys rise strictly and no listed byte equals the default. -/
def Memory.wf (m : List Host.Cell) : Bool := sortedKeys m && m.all fun c => c.2 ≠ memDefault

/-! ## Physical keys (spec 01 R10, 03 R44) -/

/-- The size of HBM: 768 GiB (R10). -/
def hbmSize : Nat := 768 * 2 ^ 30
/-- The size of the second tier: the spec says up to 32 TiB (R10), and the model takes all of it to be attached
(DESIGN CHOICE, assumption log 73). -/
def tier1Size : Nat := 2 ^ 45
/-- The key of byte pa of the second tier. -/
def tier1Key (pa : Nat) : Nat := 2 ^ 53 + pa
/-- The key of byte pa of host memory; those that no page can name, and only a ring of the driver reaches, lie beyond
every other key (spec 22 R351; assumption log 94). -/
def hostKey (pa : Nat) : Nat := if pa < 2 ^ 54 then 2 ^ 54 + pa else 2 ^ 64 + pa
/-- The key of byte off of CU cu's slice. -/
def sliceKey (cu off : Nat) : Nat := 2 ^ 55 + cu * 2 ^ 24 + off
/-- The key that stands for byte o of a page of group window w (spec 26 R389). -/
def windowKey (w o : Nat) : Nat := 2 ^ 56 + w * 2 ^ 32 + o
/-- The key names a byte of a group window. -/
def isWindowKey (k : Nat) : Bool := 2 ^ 56 ≤ k
/-- The key names a byte of a slice. -/
def isSliceKey (k : Nat) : Bool := 2 ^ 55 ≤ k && k < 2 ^ 56
/-- The key names a byte the device or the host has (R10, R50); window keys are not physical. -/
def keyExists (k : Nat) : Bool :=
  k < hbmSize || (2 ^ 53 ≤ k && k < 2 ^ 53 + tier1Size) || (2 ^ 54 ≤ k && k < 2 ^ 54 + 2 ^ 52) ||
    (2 ^ 55 ≤ k && k < 2 ^ 55 + 96 * 2 ^ 24)

/-! ## Units of the state -/

/-- The CU of a crew (spec 01 R8). -/
def cuOf (crew : Nat) : Nat := crew / 4
/-- The cluster of a CU (R8). -/
def clusterOf (cu : Nat) : Nat := cu / 8

/-- The number of a strand kind (spec 07 R110). -/
def kindNum : StrandKind → Nat
  | .s => 0
  | .v => 1
  | .m => 2
  | .c => 3

/-- The four kinds in strand order. -/
def allKinds : List StrandKind := [.s, .v, .m, .c]

/-- The strand of a kind. -/
def Crew.str (c : Crew) : StrandKind → Strand
  | .s => c.ss
  | .v => c.sv
  | .m => c.sm
  | .c => c.sc

/-- The crew with another strand of a kind. -/
def Crew.setStr (c : Crew) (k : StrandKind) (x : Strand) : Crew :=
  match k with
  | .s => { c with ss := x }
  | .v => { c with sv := x }
  | .m => { c with sm := x }
  | .c => { c with sc := x }

/-- Crew n. -/
def State.crew (s : State) (n : Nat) : Crew := sget {} s.crews n
/-- The state with another crew n. -/
def State.setCrew (s : State) (n : Nat) (c : Crew) : State := { s with crews := sput s.crews n c }
/-- CU n. -/
def State.cu (s : State) (n : Nat) : Cu := sget {} s.cus n
/-- The state with another CU n. -/
def State.setCu (s : State) (n : Nat) (c : Cu) : State := { s with cus := sput s.cus n c }
/-- Tenant n: the PF is 0. -/
def State.tenant (s : State) (n : Nat) : Tenant := sget {} s.tenants n
/-- The state with another tenant n. -/
def State.setTenant (s : State) (n : Nat) (t : Tenant) : State := { s with tenants := sput s.tenants n t }
/-- Queue n. -/
def State.queue (s : State) (n : Nat) : Queue := sget {} s.queues n
/-- The state with another queue n. -/
def State.setQueue (s : State) (n : Nat) (q : Queue) : State := { s with queues := sput s.queues n q }
/-- Port n. -/
def State.port (s : State) (n : Nat) : Port := sget {} s.ports n
/-- The state with another port n. -/
def State.setPort (s : State) (n : Nat) (p : Port) : State := { s with ports := sput s.ports n p }

/-- The byte of a key is there now: the second tier once step 7 of the start has brought its ports up (spec 25 R371). -/
def State.has (s : State) (k : Nat) : Bool := keyExists k && (s.boot.tierUp || decide (k < 2 ^ 53) || decide (2 ^ 54 ≤ k))

/-- The crew in focus. -/
def State.myCrew (s : State) : Crew := s.crew s.cur.1
/-- The strand in focus. -/
def State.me (s : State) : Strand := s.myCrew.str s.cur.2
/-- The state with another crew in focus. -/
def State.setMyCrew (s : State) (c : Crew) : State := s.setCrew s.cur.1 c
/-- The state with another strand in focus. -/
def State.setMe (s : State) (x : Strand) : State := s.setMyCrew (s.myCrew.setStr s.cur.2 x)
/-- Strand k of crew n. -/
def State.strand (s : State) (n : Nat) (k : StrandKind) : Strand := (s.crew n).str k
/-- The state with another strand k of crew n. -/
def State.setStrand (s : State) (n : Nat) (k : StrandKind) (x : Strand) : State :=
  s.setCrew n ((s.crew n).setStr k x)

/-- The tenant whose context is on the crew; a crew without a context acts for its owner. -/
def Crew.tenant (c : Crew) : Nat :=
  match c.ctx with
  | some x => x.tenant
  | none => c.owner

/-- A unit's copy of CYCLE (spec 22 R344, R348). -/
def State.cuCycle (s : State) (cu : Nat) : Nat := max (s.cu cu).floor ((s.cycle : Int) + (s.cu cu).drift).toNat

/-! ## Registers and predicates (spec 02 R14, R28) -/

/-- Register r: s0 reads zero. -/
def Strand.reg (x : Strand) (r : BitVec 5) : Word := if r = 0#5 then 0#64 else x.regs.get r.toFin

/-- Write register r: a write to s0 is discarded. -/
def Strand.setReg (x : Strand) (r : BitVec 5) (v : Word) : Strand :=
  if r = 0#5 then x else { x with regs := x.regs.set r.toNat v (by omega) }

/-- Register number n modulo 32. -/
def Strand.regN (x : Strand) (n : Nat) : Word := x.reg (BitVec.ofNat 5 n)

/-- The n registers from r on. -/
def Strand.regsFrom (x : Strand) (r : BitVec 5) (n : Nat) : List Word :=
  (List.range n).map fun i => x.regN (r.toNat + i)

/-- Predicate p: p0 reads true. -/
def Strand.pred (x : Strand) (p : BitVec 3) : Bool := p == 0#3 || x.preds.getLsbD p.toNat

/-- Write predicate p: a write to p0 is discarded. -/
def Strand.setPred (x : Strand) (p : BitVec 3) (b : Bool) : Strand :=
  if p = 0#3 then x
  else
    let bit : BitVec 8 := 1#8 <<< p.toNat
    { x with preds := if b then x.preds ||| bit else x.preds &&& ~~~bit }

/-- The predicate field holds (spec 09 R140). -/
def Strand.predHolds (x : Strand) (p : BitVec 4) : Bool := x.pred (p.extractLsb' 0 3) != p.getLsbD 3

/-! ## Tokens (spec 02 R19, R20) -/

/-- The three other strands in the order of the mask bits (R20). -/
def others : StrandKind → List StrandKind
  | .s => [.v, .m, .c]
  | .v => [.s, .m, .c]
  | .m => [.s, .v, .c]
  | .c => [.s, .v, .m]

/-- The position of y among the others of x. -/
def otherPos (x y : StrandKind) : Nat := (others x).findIdx fun z => z = y

/-- The index of the counter x to y. -/
def tokIdx (x y : StrandKind) : Nat := 3 * kindNum x + otherPos x y

/-- The strands a mask of strand k names (R20). -/
def maskStrands (k : StrandKind) (m : BitVec 3) : List StrandKind :=
  ((others k).zipIdx.filter fun p => m.getLsbD p.2).map Prod.fst

/-- A counter. -/
def Crew.tok (c : Crew) (i : Nat) : Nat := c.tokens.toList.getD i 0

/-- Set a counter. -/
def Crew.setTok (c : Crew) (i n : Nat) : Crew :=
  if h : i < 12 then { c with tokens := c.tokens.set i n h } else c

/-- Pending increments of a counter. -/
def Crew.pendOf (c : Crew) (i : Nat) : Nat := c.pendTok.toList.getD i 0

/-- Set the pending increments of a counter. -/
def Crew.setPend (c : Crew) (i n : Nat) : Crew :=
  if h : i < 12 then { c with pendTok := c.pendTok.set i n h } else c

/-- All wait tokens of strand k's mask are there (R21). -/
def Crew.canTake (c : Crew) (k : StrandKind) (m : BitVec 3) : Bool :=
  (maskStrands k m).all fun x => 0 < c.tok (tokIdx x k)

/-- Take one token; a pending increment of the counter is then made (R21). -/
def Crew.takeOne (c : Crew) (i : Nat) : Crew :=
  if 0 < c.pendOf i then c.setPend i (c.pendOf i - 1) else c.setTok i (c.tok i - 1)

/-- Take the tokens of a wait mask (R21). -/
def Crew.take (c : Crew) (k : StrandKind) (m : BitVec 3) : Crew :=
  (maskStrands k m).foldl (fun c x => c.takeOne (tokIdx x k)) c

/-- No counter of the post mask is at 15 (R21). -/
def Crew.canPost (c : Crew) (k : StrandKind) (m : BitVec 3) : Bool :=
  (maskStrands k m).all fun y => c.tok (tokIdx k y) < 15

/-- Increment one counter, or hold the increment pending at 15 (R21). -/
def Crew.postOne (c : Crew) (i : Nat) : Crew :=
  if c.tok i < 15 then c.setTok i (c.tok i + 1) else c.setPend i (c.pendOf i + 1)

/-- Post the tokens of a mask at a completion after the strand has gone on (R21). -/
def Crew.post (c : Crew) (k : StrandKind) (m : BitVec 3) : Crew :=
  (maskStrands k m).foldl (fun c y => c.postOne (tokIdx k y)) c

/-! ## Full-empty states (spec 02 R16, R17): indices 0 to 25 are tiles and codebook banks, 26 to 33 mailboxes -/

/-- The state of an operand. -/
def Crew.feOf (c : Crew) (i : Nat) : Fe :=
  if i < 26 then c.fe.toList.getD i .empty else c.qfe.toList.getD (i - 26) .empty

/-- Set the state of an operand. -/
def Crew.setFe (c : Crew) (i : Nat) (f : Fe) : Crew :=
  if h : i < 26 then { c with fe := c.fe.set i f h }
  else if h : i - 26 < 8 then { c with qfe := c.qfe.set (i - 26) f h } else c

/-- Another strand than k has an instruction in flight that reads the operand (R16): started vector and matrix
instructions, and cpy.st of the copy engine. -/
def Crew.readByOther (c : Crew) (k : StrandKind) (i : Nat) : Bool :=
  c.inflight.any (fun o => decide (o.kind ≠ k) && o.reads.any fun r => r.1 == i) ||
    (decide (k ≠ .c) && c.ops.any fun o => o.opc == 2 && o.fields.tile.toNat == i)

/-- A read waits (R16). -/
def Crew.readWaits (c : Crew) (i : Nat) (e : Bool) : Bool :=
  match c.feOf i with
  | .filling => true
  | .empty => e
  | .full => false

/-- A write waits (R16). -/
def Crew.writeWaits (c : Crew) (k : StrandKind) (i : Nat) (f : Bool) : Bool :=
  (match c.feOf i with
   | .filling => true
   | .full => f
   | .empty => false) || c.readByOther k i

/-- The state an operand ends in when it is written, after the read of the same instruction took it to EMPTY
when emptied says so (R17). -/
def Crew.writeEnd (c : Crew) (i : Nat) (f emptied : Bool) : Fe :=
  if f then .full else if emptied then .empty else c.feOf i

/-! ## Tiles (spec 03 R48) -/

/-- The last row of a tile. -/
def tileRows (sel : Nat) : Nat := if sel < 16 then 64 else if sel < 24 then 128 else 1

/-- Row r of tile sel. -/
def Crew.row (c : Crew) (sel r : Nat) : Row := sget 0#8192 c.tiles (128 * sel + r)

/-- The crew with row r of tile sel written. -/
def Crew.setRow (c : Crew) (sel r : Nat) (v : Row) : Crew :=
  { c with tiles := sputD 0#8192 c.tiles (128 * sel + r) v }

/-- Byte b of a tile's byte stream. -/
def Crew.tileByte (c : Crew) (sel b : Nat) : Byte := BitVec.ofNat 8 (rowByte (c.row sel (b / 1024)) (b % 1024))

/-! ## Charges -/

/-- Cause codes of 07 R107. -/
def qIssue : Nat := 0
def qTile : Nat := 1
def qToken : Nat := 2
def qLease : Nat := 3
def qMem : Nat := 4
def qXlate : Nat := 5
def qBank : Nat := 6
def qBarrier : Nat := 7
def qSleep : Nat := 8
def qFetch : Nat := 9
def qKnead : Nat := 10
def qThrottle : Nat := 11
def qTrap : Nat := 12
def qColl : Nat := 13
def qIdle : Nat := 14
def qDesched : Nat := 15

/-- The place of a cause in the order of 07 R107. -/
def causeRank (q : Nat) : Nat :=
  ([qDesched, qIdle, qTrap, qIssue, qFetch, qKnead, qThrottle, qTile, qToken, qLease, qBarrier, qColl, qSleep, qXlate, qMem,
    qBank] : List Nat).idxOf q

/-- The cause that is charged of two that hold at once (07 R107). -/
def firstCause (a b : Nat) : Nat := if causeRank a ≤ causeRank b then a else b

/-! ## Instruction outcomes -/

/-- Why an instruction does not complete: it traps with a cause and TVAL; its translation traps, with the state that
the walks have left (their caches, counts and error records; spec 22 R340); it waits (the cause that is charged and
the state while it waits); or the machine stops. -/
inductive Stop where
  | trap (cause : Nat) (val : Word)
  | xtrap (cause : Nat) (val : Word) (s : State)
  | wait (charge : Nat) (s : State)
  | fault (f : Fault)

/-- What an instruction body answers. -/
abbrev Res (α : Type) := Except Stop α

/-- An event that cannot happen in this state. -/
def notEnabled (row : String) : Outcome := .refused (.notEnabled row)

/-- An access of the host to a register or doorbell: performed in operational mode, without effect in management-only
mode (spec 25 R375), and not possible before the link is up (25 R371). -/
def barWrite (row : String) (s : State) (act : State → Outcome) : Outcome :=
  if s.boot.mode = 1 then act s else if s.boot.mode = 2 then .next s else notEnabled row

end Sys2Proof.Machine
end

