-- ==== Sys2Proof/Machine/Xlate.lean ====
section
/-! DEFINITION. Translation under leases: spec 22. Page-table entries, the walk at one and at two stages, the
caches of a CU and of its cluster, fault records and error records, and reading and writing records in memory. -/
namespace Sys2Proof.Machine

/-! ## Error and fault records -/

/-- The MSI-X vectors of a function (spec 21 R318): a vector that is not there raises nothing (DESIGN CHOICE,
assumption log 72). -/
def msiVectors (fn : Nat) : Nat := if fn = 0 then 2048 else 64

/-- Raise an MSI-X vector of a function (spec 21 R318); function 0 is the PF. -/
def raiseMsi (s : State) (fn vector : Nat) : State :=
  if vector < msiVectors fn then { s with msis := s.msis ++ [(fn, vector)] } else s

/-- The number of records of a ring (spec 22 R351). -/
def RecRing.size (r : RecRing) : Nat := 128 * 2 ^ r.lsize

/-- The ring takes another record. -/
def RecRing.hasRoom (r : RecRing) : Bool := r.en && (r.tail - r.head).toNat < r.size

/-- The 32 bytes of an error record (spec 23 R365). -/
def ErrRec.bytes (e : ErrRec) : List Byte :=
  leBytes 8 e.tag.toNat ++ leBytes 1 e.kind ++ leBytes 1 e.unit ++ leBytes 2 e.fn ++ leBytes 4 e.crew ++
    leBytes 8 e.cycle ++ leBytes 8 e.pa

/-- Write the waiting error records while the ring has room (R365). -/
def drainErrs : Nat → State → State
  | 0, s => s
  | n + 1, s =>
    match s.errs with
    | [] => s
    | e :: rest =>
      if s.er.hasRoom then
        let k := s.er.base + 32 * (s.er.tail.toNat % s.er.size)
        let s' := { s with
          errs := rest
          mem := memWrite s.mem (hostKey k) e.bytes
          er := { s.er with tail := s.er.tail + 1#32 } }
        drainErrs n (raiseMsi s' 0 s.er.vector)
      else s

/-- Report an error to the driver (R365): unit and kind as the record's bytes; crew 0x1FF and tag all ones for none. -/
def pushErr (s : State) (kind unit fn crew pa : Nat) : State :=
  let tag : Word := match (s.crew crew).ctx with
    | some c => if crew < 384 then BitVec.ofNat 64 c.task else BitVec.allOnes 64
    | none => BitVec.allOnes 64
  let e : ErrRec := { pa, cycle := s.cycle, crew, fn, unit, kind, tag }
  drainErrs 1 { s with errs := s.errs ++ [e] }

/-- The 32 bytes of a fault record (spec 22 R352). -/
def FaultRec.bytes (f : FaultRec) : List Byte :=
  leBytes 8 f.cycle ++
    leBytes 1 (f.kind + 4 * (4 * (f.need.toNat % 2) + 2 * (f.need.toNat / 2 % 2) + f.need.toNat / 4) + 128) ++
    leBytes 1 f.level ++ leBytes 2 f.fn ++ leBytes 4 f.id ++ leBytes 8 f.pa ++ leBytes 8 f.va.toNat

/-- Count one event of a tenant's bank (spec 27 R400), saturating. -/
def countFor (s : State) (tenant k n : Nat) : State :=
  let t := s.tenant tenant
  if h : k < 16 then
    let c := (t.counters.get ⟨k, h⟩).toNat + n
    s.setTenant tenant { t with counters := t.counters.set k (BitVec.ofNat 64 (min c (2 ^ 64 - 1))) h }
  else s

/-- Write the waiting fault records, oldest first, while the ring has room (R351, R352). -/
def drainFaults : Nat → State → State
  | 0, s => s
  | n + 1, s =>
    match s.faults.find? fun f => !f.written with
    | none => s
    | some f =>
      if s.fq.hasRoom then
        let k := s.fq.base + 32 * (s.fq.tail.toNat % s.fq.size)
        let s := { s with
          faults := s.faults.map fun g => if g.id = f.id then { g with written := true } else g
          mem := memWrite s.mem (hostKey k) f.bytes
          fq := { s.fq with tail := s.fq.tail + 1#32 } }
        drainFaults n (countFor (raiseMsi s 0 s.fq.vector) f.fn 13 1)
      else s

/-! ## Page-table entries (R338, R339) -/

/-- A page-table entry read at one stage: the lease, attributes and address. -/
structure Pte where
  lease : Nat
  host : Bool
  cmp : Bool
  tier : Nat
  gw : Bool
  pa : Nat
  size : Nat
  leaf : Bool
  x : Bool
  w : Bool
  r : Bool
  valid : Bool
  rsv : Bool
  lowAttr : Bool
  highAttr : Bool
  deriving DecidableEq, Repr

/-- The fields of a 64-bit entry (R338). -/
def pteOf (v : Nat) : Pte :=
  let b (i : Nat) : Bool := v.testBit i
  { lease := v / 2 ^ 60, host := b 59, cmp := b 58, tier := v / 2 ^ 56 % 4, gw := b 55,
    pa := v / 2 ^ 12 % 2 ^ 40 * 4096, size := v / 2 ^ 7 % 4, leaf := b 6, x := b 5, w := b 4, r := b 3, valid := b 0,
    rsv := v / 2 ^ 52 % 8 ≠ 0 || v / 2 ^ 9 % 8 ≠ 0 || v / 2 % 4 ≠ 0,
    lowAttr := v / 2 ^ 3 % 8 ≠ 0 || v / 2 ^ 7 % 4 ≠ 0,
    highAttr := v / 2 ^ 55 % 32 ≠ 0 }

/-- The bytes of a page of a size code (R338). -/
def pageBytes : Nat → Nat
  | 0 => 4096
  | 1 => 65536
  | 2 => 2 ^ 21
  | _ => 2 ^ 30

/-- A valid entry is malformed (R339); guest says it stands in a VF's stage-1 tables. The address of a stage-1
entry of a VF is guest-physical, so the bounds of HBM do not apply to it. -/
def Pte.malformed (e : Pte) (level : Nat) (guest : Bool) : Bool :=
  e.rsv || e.tier == 3 ||
    (!e.leaf && (e.highAttr || e.lowAttr || (!guest && hbmSize ≤ e.pa) || level == 0)) ||
    (e.leaf && (3 ≤ level || (level == 2 && e.size != 3) || (level == 1 && e.size != 2) ||
      (level == 0 && 2 ≤ e.size) || e.pa % pageBytes e.size != 0)) ||
    (e.gw && (e.tier != 0 || e.cmp || e.host || (e.leaf && 2 ^ 28 ≤ e.pa))) ||
    (e.tier == 1 && e.host) || (guest && e.leaf && e.highAttr)

/-- The index of a level (R337). -/
def vaIndex (va level : Nat) : Nat := va / 2 ^ (12 + 9 * level) % 512

/-- How a walk of one stage's tables ends: the leaf with its level, not valid, malformed, a failure of stage 2 with its
kind, the level whose entry was being read and the address, a table whose page's attributes do not fit its frame (R340,
03 R52), each with the key of the entry that decided it; or a table in a frame that is being formatted (R355). -/
inductive WalkEnd where
  | leaf (e : Pte) (level ent : Nat)
  | invalid (ent : Nat)
  | malformed (ent : Nat)
  | stage2 (kind level pa ent : Nat)
  | misfit (ent : Nat)
  | busy
  deriving DecidableEq, Repr

/-- D(L) of R342: a lease of 15 is 0. -/
def leaseCycles (l : Nat) : Nat := if l = 15 then 0 else 2 ^ l * 1024

/-- The little-endian 8 bytes at a physical key. -/
def memU64 (m : List Host.Cell) (k : Nat) : Nat := leNat (memBytes m k 8)

/-- A frame that is being formatted holds accesses to it (R355). -/
def formatting (s : State) (key : Nat) : Bool :=
  s.regs.fcmdGo && s.regs.fcmdFrame ≤ key / 4096 && key / 4096 ≤ s.regs.fcmdFrame + s.regs.fcmdCount && key < hbmSize

/-- Some of the n bytes at a lie in a frame that is being formatted (R355). -/
def formattingAny (s : State) (a n : Nat) : Bool :=
  s.regs.fcmdGo && decide (a < (s.regs.fcmdFrame + s.regs.fcmdCount + 1) * 4096) && decide (s.regs.fcmdFrame * 4096 < a + n)

/-- The walker of a walk: the state it reads, its cache of non-leaf entries, the walk's start and the function. -/
structure Walker where
  s : State
  cache : List WalkEnt
  start : Nat
  fn : Nat

/-- What a walk has gathered: the smallest lease (R342), the earliest expiry of the cached entries that it took, the
non-leaf entries that it has read (R343), and how many table entries it has read. -/
structure Trail where
  d : Nat := leaseCycles 14
  cap : Option Nat := none
  ents : List WalkEnt := []
  reads : Nat := 0

/-- The expiry of what a walk has found (R343). -/
def Trail.expiry (tr : Trail) (start : Nat) : Nat :=
  match tr.cap with
  | none => start + tr.d - 4
  | some c => min (start + tr.d - 4) c

/-- The trail after a table entry has been read. -/
def Trail.read (tr : Trail) (e : Pte) : Trail := { tr with d := min tr.d (leaseCycles e.lease), reads := tr.reads + 1 }

/-- The trail after a non-leaf entry taken from a cache. -/
def Trail.take (tr : Trail) (c : WalkEnt) : Trail :=
  { tr with
    d := min tr.d c.d
    cap := some (match tr.cap with
      | none => c.expiry
      | some x => min x c.expiry) }

/-- The trail of a walk together with that of a walk of stage 2 which it has made (R342, R343, R350). -/
def Trail.join (a b : Trail) : Trail :=
  { d := min a.d b.d
    cap := (match a.cap, b.cap with
      | some x, some y => some (min x y)
      | some x, none => some x
      | none, y => y)
    ents := a.ents ++ b.ents
    reads := a.reads + b.reads }

/-- The address bits above the index of the table at a level. -/
def walkTag (va level : Nat) : Nat := va / 2 ^ (12 + 9 * (level + 1))

/-- The cached entry that names the table at a level, if the walker uses one (R343): which entries it keeps and uses the
spec leaves open (assumption log 59). -/
def Walker.find (w : Walker) (stage level va : Nat) : Option WalkEnt :=
  w.cache.find? fun c =>
    c.fn == w.fn && c.stage == stage && c.level == level && c.tag == walkTag va level && decide (w.start < c.expiry) &&
      Config.walkCacheHit w.start level c.tag

/-- The trail with one more non-leaf entry read: it names the table at a level. -/
def Walker.note (w : Walker) (tr : Trail) (stage level va table : Nat) : Trail :=
  { tr with ents := tr.ents ++
      [{ fn := w.fn, stage, level, tag := walkTag va level, table, d := tr.d, expiry := tr.expiry w.start }] }

/-- The table entry at a key. -/
def Walker.entry (w : Walker) (k : Nat) : Pte := pteOf (memU64 w.s.mem k)

/-- Walk host-physical tables from level down (R337): the tables of a function with one stage, or of stage 2. -/
def walkHost (w : Walker) (stage va : Nat) : Nat → Nat → Trail → WalkEnd × Trail
  | 0, table, tr =>
    let k := table + 8 * vaIndex va 0
    if hbmSize ≤ table then (.malformed table, tr)
    else if formatting w.s k then (.busy, tr)
    else
      let e := w.entry k
      let tr := tr.read e
      if !e.valid then (.invalid k, tr)
      else if e.malformed 0 false then (.malformed k, tr)
      else (.leaf e 0 k, tr)
  | level + 1, table, tr =>
    match w.find stage level va with
    | some c => walkHost w stage va level c.table (tr.take c)
    | none =>
      let k := table + 8 * vaIndex va (level + 1)
      if hbmSize ≤ table then (.malformed table, tr)
      else if formatting w.s k then (.busy, tr)
      else
        let e := w.entry k
        let tr := tr.read e
        if !e.valid then (.invalid k, tr)
        else if e.malformed (level + 1) false then (.malformed k, tr)
        else if e.leaf then (.leaf e (level + 1) k, tr)
        else walkHost w stage va level e.pa (w.note tr stage level va e.pa)

/-- The offset of an address within a page of a size code, added to the page. -/
def pteAddr (e : Pte) (va : Nat) : Nat := e.pa + va % pageBytes e.size

/-- Stage 2 of the guest-physical address of an entry of a stage-1 table, which must be readable HBM, at the level that
the entry has: the host-physical address, or how the walk ends (R340, R350, R354). -/
def stage2Table (w : Walker) (root gpa level : Nat) : Except WalkEnd Nat × Trail :=
  match walkHost w 2 gpa 4 root {} with
  | (.leaf e _ k, tr) =>
    let a := pteAddr e gpa
    (if e.tier ≠ 0 ∨ e.gw ∨ hbmSize ≤ a then .error (.stage2 0 level gpa k)
      else if !e.r then .error (.stage2 1 level gpa k)
      else if formatting w.s a then .error .busy
      else if sget false w.s.frames (a / 4096) ≠ e.cmp then .error (.misfit k)
      else if e.host then .error (.stage2 2 level e.pa k)
      else .ok a, tr)
  | (.invalid k, tr) => (.error (.stage2 0 level gpa k), tr)
  | (.malformed k, tr) => (.error (.stage2 0 level gpa k), tr)
  | (x, tr) => (.error x, tr)

/-- Walk a VF's stage-1 tables, every table read through stage 2 (R350). -/
def walkGuest (w : Walker) (root2 va : Nat) : Nat → Nat → Trail → WalkEnd × Trail
  | 0, table, tr =>
    match stage2Table w root2 (table + 8 * vaIndex va 0) 0 with
    | (.error x, t2) => (x, tr.join t2)
    | (.ok pa, t2) =>
      let e := w.entry pa
      let tr := (tr.join t2).read e
      if !e.valid then (.invalid pa, tr)
      else if e.malformed 0 true then (.malformed pa, tr)
      else (.leaf e 0 pa, tr)
  | level + 1, table, tr =>
    match w.find 1 level va with
    | some c => walkGuest w root2 va level c.table (tr.take c)
    | none =>
      match stage2Table w root2 (table + 8 * vaIndex va (level + 1)) (level + 1) with
      | (.error x, t2) => (x, tr.join t2)
      | (.ok pa, t2) =>
        let e := w.entry pa
        let tr := (tr.join t2).read e
        if !e.valid then (.invalid pa, tr)
        else if e.malformed (level + 1) true then (.malformed pa, tr)
        else if e.leaf then (.leaf e (level + 1) pa, tr)
        else walkGuest w root2 va level e.pa (w.note tr 1 level va e.pa)

/-- The need of an access: bit 0 R, bit 1 W, bit 2 X (R340). -/
def needOk (need : BitVec 3) (r w x : Bool) : Bool :=
  (!need.getLsbD 0 || r) && (!need.getLsbD 1 || w) && (!need.getLsbD 2 || x)

/-- What a translation answers: it may be used, the cause of a trap (err: with an error record), a stall with the
level, kind and address of the fault record, the key of the entry it stands on and, where the page of the byte is
under migration, its frame (R340, R350, R354), a wait for a frame that is being formatted (R355), or a wait for a
walker (R356). -/
inductive XAns where
  | ok (t : Tlb)
  | trap (cause : Nat) (err : Bool)
  | stall (level kind pa ent frame : Nat)
  | busy
  | noWalker
  deriving DecidableEq, Repr

/-- Trap causes of spec 23 R360. -/
def cIllegal : Nat := 0x01
def cPriv : Nat := 0x02
def cDiv0 : Nat := 0x03
def cMisalign : Nat := 0x04
def cSpace : Nat := 0x05
def cNotPresent : Nat := 0x08
def cPerm : Nat := 0x09
def cChanged : Nat := 0x0A
def cStage2 : Nat := 0x0B
def cOverrun : Nat := 0x10
def cPromise : Nat := 0x11
def cSkew : Nat := 0x12
def cLease : Nat := 0x13
def cConflict : Nat := 0x14
def cBkpt : Nat := 0x18
def cSoftware : Nat := 0x19
def cWatchdog : Nat := 0x20
def cMemError : Nat := 0x21

/-- The 4 KiB translation that a final leaf gives to va (R338 to R343, R388): addr is the address within the leaf's
page, k the leaf's key, tr the walk's trail and start its start cycle. -/
def tlbOf (fn va : Nat) (e : Pte) (addr k : Nat) (tr : Trail) (start : Nat) : Tlb :=
  let frame :=
    if e.gw then windowKey (e.pa / 4096 % 2 ^ 16) (addr - e.pa)
    else if e.tier = 1 then tier1Key addr
    else if e.tier = 2 then hostKey addr
    else addr
  { fn, vpage := va / 4096, frame := frame / 4096 * 4096, r := e.r, w := e.w, x := e.x, r1 := e.r, w1 := e.w, x1 := e.x,
    base := e.pa, ent := k, host := e.host, cmp := e.cmp, tier := e.tier, gw := e.gw, expiry := tr.expiry start,
    single := tr.d = 0 }

/-- The translation of a VF, with the stage-1 leaf e1 and the guest-physical address (R350): the permissions of both
stages, and the smaller of their pages. -/
def Tlb.guest (t : Tlb) (e1 e2 : Pte) (gpa : Nat) : Tlb :=
  { t with
    r := e1.r && e2.r
    w := e1.w && e2.w
    x := e1.x && e2.x
    r1 := e1.r
    w1 := e1.w
    x1 := e1.x
    base := pteAddr e2 gpa / min (pageBytes e1.size) (pageBytes e2.size) * min (pageBytes e1.size) (pageBytes e2.size)
    gpa := gpa / 4096 * 4096 }

/-- Orders 3 to 5 of R340 on a translation of va: permission, attributes, owner; a permission that only stage 2 lacks
is no trap but a record (R350). A frame that is being formatted has its new format only afterwards (R355). -/
def tlbCheck (s : State) (t : Tlb) (need : BitVec 3) (va : Nat) : XAns :=
  if !needOk need t.r1 t.w1 t.x1 then .trap cPerm false
  else if !needOk need t.r t.w t.x then .stall 7 1 (t.gpa + va % 4096) t.ent 0
  else if t.cmp && (t.tier != 0 || t.gw) then .trap cPerm false
  else if !t.gw && formatting s t.frame then .busy
  else if !t.gw && t.tier == 0 && sget false s.frames (t.frame / 4096) != t.cmp then .trap cPerm false
  else if t.host && !t.gw then .stall 7 2 t.base t.ent t.frame
  else .ok t

/-- The answer of a walk without a leaf (R340, R350). -/
def WalkEnd.answer : WalkEnd → XAns
  | .invalid _ => .trap cNotPresent false
  | .malformed _ => .trap cPerm true
  | .misfit _ => .trap cPerm false
  | .stage2 k l pa ent => .stall l k pa ent 0
  | .leaf _ _ _ => .trap cNotPresent false
  | .busy => .busy

/-- The leaf that the walk of function fn for va ends at (R337 to R343, R350), by a walker whose unit is u and whose
CYCLE is start: the translation, or the answer without one; and the walk's trail. The permissions of a stage that need
names are checked in the order of R340. -/
def walkTlb (s : State) (u fn : Nat) (va : Nat) (need : BitVec 3) (start : Nat) : Except XAns Tlb × Trail :=
  let t := s.tenant fn
  let en1 := t.xr1.getLsbD 63
  let root1 := t.xr1.bits 51 12 * 4096
  let w : Walker := { s, cache := sget [] s.walkCache u, start, fn }
  if fn = 0 then
    if !en1 then (.error (.trap cNotPresent false), {})
    else
      match walkHost w 1 va 4 root1 {} with
      | (.leaf e _ k, tr) => (.ok (tlbOf fn va e (pteAddr e va) k tr start), tr)
      | (x, tr) => (.error x.answer, tr)
  else if !t.xr2.getLsbD 63 then (.error (.trap cStage2 false), {})
  else if !en1 then (.error (.trap cNotPresent false), {})
  else
    let root2 := t.xr2.bits 51 12 * 4096
    match walkGuest w root2 va 4 root1 {} with
    | (.leaf e1 _ _, tr) =>
      if !needOk need e1.r e1.w e1.x then (.error (.trap cPerm false), tr)
      else
        let gpa := pteAddr e1 va
        match walkHost w 2 gpa 4 root2 {} with
        | (.leaf e2 _ k, t2) =>
          let tr := tr.join t2
          (.ok ((tlbOf fn va e2 (pteAddr e2 gpa) k tr start).guest e1 e2 gpa), tr)
        | (.invalid k, t2) => (.error (.stall 7 0 gpa k 0), tr.join t2)
        | (.malformed k, t2) => (.error (.stall 7 0 gpa k 0), tr.join t2)
        | (x, t2) => (.error x.answer, tr.join t2)
    | (x, tr) => (.error x.answer, tr)

/-- The answer of a walk with the checks of its leaf. -/
def walk (s : State) (u fn : Nat) (va : Nat) (need : BitVec 3) (start : Nat) : XAns × Trail :=
  match walkTlb s u fn va need start with
  | (.ok t, tr) => (tlbCheck s t need va, tr)
  | (.error a, tr) => (a, tr)

/-! ## The caches (R343) -/

/-- The cached translation of a page, if one is still in use at this cycle and has margin cycles left. -/
def cached (l : List Tlb) (fn vpage now margin : Nat) : Option Tlb :=
  l.find? fun t => t.fn == fn && t.vpage == vpage && decide (now < t.expiry ∧ now + margin ≤ t.expiry)

/-- Install a translation, in place of an older one of the page. -/
def install (l : List Tlb) (t : Tlb) : List Tlb :=
  t :: l.filter fun u => !(u.fn == t.fn && u.vpage == t.vpage)

/-- Two non-leaf entries name the same table. -/
def WalkEnt.same (a b : WalkEnt) : Bool := a.fn == b.fn && a.stage == b.stage && a.level == b.level && a.tag == b.tag

/-- Install a non-leaf entry, in place of an older one; one of single use is not cached. -/
def installEnt (l : List WalkEnt) (e : WalkEnt) : List WalkEnt :=
  if e.d = 0 then l else e :: l.filter fun c => !c.same e

/-- The unit whose clock and cache a CU's walks use: its cluster's walker, or the I/O die itself (R343, R348). -/
def walkerOf (cu : Nat) : Nat := if cu < 96 then 97 + clusterOf cu else cu

/-- The function's horizon is at least e (R347). -/
def raiseHorizon (s : State) (fn e : Nat) : State :=
  let tn := s.tenant fn
  s.setTenant fn { tn with horizon := max tn.horizon e }

/-- LHORIZON (R347): the largest expiry so far, and the bound of the latest-started walk of the function that is in
flight. -/
def horizonOf (s : State) (fn : Nat) : Nat :=
  (s.walking.filter fun w => w.req.fn == fn).foldl (fun a w => max a (w.start + 2 ^ 24 - 4)) (s.tenant fn).horizon

/-- The state with a walked translation in the caches of a CU and its cluster, and the function's horizon raised
(R343, R347); a single-use translation is not cached. -/
def cacheIn (s : State) (cu : Nat) (t : Tlb) : State :=
  let s := raiseHorizon s t.fn t.expiry
  if t.single then s
  else
    let c := s.cu cu
    let s := s.setCu cu { c with tlb := install c.tlb t }
    let cl := clusterOf cu
    { s with clusterTlb := sput s.clusterTlb cl (install (sget [] s.clusterTlb cl) t) }

/-- What a walk has read (27 R400): 8 bytes of HBM for each table entry; its non-leaf entries go to the cache of its
walker (R343, R347). -/
def cacheEnts (s : State) (u fn : Nat) (tr : Trail) : State :=
  let s := countFor s fn 4 (8 * tr.reads)
  if tr.ents.isEmpty then s
  else
    let s := raiseHorizon s fn (tr.ents.foldl (fun a e => max a e.expiry) 0)
    { s with walkCache := sput s.walkCache u (tr.ents.foldl installEnt (sget [] s.walkCache u)) }

/-- A walk in flight that a request for a page of a function joins (R356). -/
def inFlight (s : State) (fn page : Nat) : Option Walking := s.walking.find? fun w => w.req.fn == fn && w.page == page

/-- The answer to a request that joins a walk in flight. -/
def Walking.stall (w : Walking) : XAns := .stall w.req.level w.req.kind w.req.pa w.req.ent w.frame

/-- What a walk's answer does: a translation that may be used is cached, and a malformed entry makes an error record. -/
def walked (cu fn : Nat) : State × XAns → State × XAns
  | (s, .ok t) => (cacheIn s cu t, .ok t)
  | (s, .trap c true) => (pushErr s 3 4 fn 0x1FF 0, .trap c true)
  | (s, a) => (s, a)

/-- A walk's answer with its effects: the caches, the walk counter, and an error record for a malformed entry; a frame
that is being formatted leaves nothing but the wait. A request for the page of a walk in flight joins it; while all 64
walkers are busy it waits (R356). -/
def walkIn (s : State) (cu fn va : Nat) (need : BitVec 3) : State × XAns :=
  match inFlight s fn (va / 4096) with
  | some w => (s, w.stall)
  | none =>
    if 64 ≤ s.walking.length then (s, .noWalker)
    else
      let u := walkerOf cu
      let s1 := countFor s fn 12 1
      let r := walk s1 u fn va need (s.cuCycle u)
      if r.1 = .busy then (s, .busy) else walked cu fn (cacheEnts s1 u fn r.2, r.1)

/-- The frame, permissions or attributes of a page differ (13 R256). -/
def Tlb.changed (a b : Tlb) : Bool :=
  a.frame != b.frame || a.r != b.r || a.w != b.w || a.host != b.host || a.tier != b.tier || a.cmp != b.cmp ||
    a.gw != b.gw

/-- The caches of a CU and its cluster without a page of a function. -/
def dropPage (s : State) (cu fn vpage : Nat) : State :=
  let keep (l : List Tlb) : List Tlb := l.filter fun t => !(t.fn == fn && t.vpage == vpage)
  let c := s.cu cu
  let s := s.setCu cu { c with tlb := keep c.tlb }
  let cl := clusterOf cu
  { s with clusterTlb := sput s.clusterTlb cl (keep (sget [] s.clusterTlb cl)) }

/-- A walk that renews translation u of an operation (13 R256; 22 R349): XLATE_CHANGED where the page is no longer the
same; the caches then hold the new mapping, or none where the page is the host's. -/
def rewalkIn (s : State) (cu : Nat) (t : Tlb) (va : Nat) (need : BitVec 3) : State × XAns :=
  match inFlight s t.fn t.vpage with
  | some w => (s, w.stall)
  | none =>
    if 64 ≤ s.walking.length then (s, .noWalker)
    else
      let u := walkerOf cu
      let s1 := countFor s t.fn 12 1
      match walkTlb s1 u t.fn va 0#3 (s.cuCycle u) with
      | (.error .busy, _) => (s, .busy)
      | (.error a, tr) => walked cu t.fn (cacheEnts s1 u t.fn tr, a)
      | (.ok x, tr) =>
        let s2 := cacheEnts s1 u t.fn tr
        if t.changed x then
          let s3 := dropPage s2 cu t.fn t.vpage
          (if x.host then s3 else cacheIn s3 cu x, .trap cChanged false)
        else walked cu t.fn (s2, tlbCheck s2 x need va)

/-- The unit's clock lies within 2 cycles of the reference and is not being set (R348). -/
def unitOk (s : State) (u : Nat) : Bool :=
  decide (s.cuCycle u ≤ s.cycle + 2 ∧ s.cycle ≤ s.cuCycle u + 2) && !(s.cu u).resync

/-- A CU and the walker of its cluster may translate (R348). -/
def clockOk (s : State) (cu : Nat) : Bool := unitOk s cu && unitOk s (walkerOf cu)

/-- A CU may translate a page: with its own entry, or with its cluster's walker (R348). -/
def clockOkFor (s : State) (cu fn vpage margin : Nat) : Bool :=
  unitOk s cu && (unitOk s (walkerOf cu) || (cached (s.cu cu).tlb fn vpage (s.cuCycle cu) margin).isSome)

/-- Translate va for function fn at a CU: the CU's cache, then the cluster's, then a walk (R340 to R343). A cached
entry serves, or faults, as it says (R346). A cached translation with fewer than margin cycles left is walked afresh
(12 R234). -/
def xlate (s : State) (cu fn va : Nat) (need : BitVec 3) (margin : Nat := 0) : State × XAns :=
  match cached (s.cu cu).tlb fn (va / 4096) (s.cuCycle cu) margin with
  | some t => (s, tlbCheck s t need va)
  | none =>
    match cached (sget [] s.clusterTlb (clusterOf cu)) fn (va / 4096) (s.cuCycle (walkerOf cu)) margin with
    | some t => (cacheIn s cu t, tlbCheck s t need va)
    | none => walkIn s cu fn va need

/-- The key of the byte va of a translated page. -/
def Tlb.key (t : Tlb) (va : Nat) : Nat := t.frame + va % 4096

/-! ## Fault records (R350 to R354) -/

/-- The fault records that have not been answered (R356). -/
def openFaults (s : State) : Nat := (s.faults.filter fun f => !f.unres).length

/-- A record enters the device's list, and the ring if there is room. -/
def pushFault (s : State) (f : FaultRec) : State :=
  drainFaults 1 { s with
    faultSeq := (s.faultSeq + 1) % 2 ^ 32
    faults := s.faults ++ [{ f with id := s.faultSeq }] }

/-- The record with one more access that waits on it. -/
def FaultRec.join (f : FaultRec) (w : Waiter) (va : Word) : FaultRec := { f with waiters := (w, va) :: f.waiters }

/-- The record stands for a fault of function fn on the entry at ent, and has not been answered: requests that fault on
the same stage-2 entry, or the PF's on an entry of its own, join it (R353). -/
def FaultRec.on (f : FaultRec) (fn ent : Nat) : Bool := f.ent == ent && (f.fn == 0) == (fn == 0) && !f.unres

/-- A record for a stalled access of function fn (R350 to R354). Accesses that fault on the same entry while its
record is outstanding join it, and those that join a walk in flight wait with it; with 1,024 records outstanding the
walk keeps its walker (R356). start is the walk's start and frame what it has found under migration. -/
def joinFault (s : State) (fn : Nat) (va : Word) (need : BitVec 3) (level kind pa ent frame start : Nat) (w : Waiter) :
    State :=
  if s.faults.any fun f => f.on fn ent then
    { s with faults := s.faults.map fun g => if g.on fn ent then g.join w va else g }
  else
    let page := va.toNat % 2 ^ 57 / 4096
    match inFlight s fn page with
    | some _ =>
      { s with walking := s.walking.map fun x =>
          if x.req.fn == fn && x.page == page then { x with req := x.req.join w va } else x }
    | none =>
      let f : FaultRec :=
        { id := 0, va, pa, fn, level, kind, need, cycle := s.cycle, ent, waiters := [(w, va)] }
      if 1024 ≤ openFaults s then { s with walking := s.walking ++ [{ req := f, page, start, frame }] } else pushFault s f

/-- A record has been answered: the oldest walk in flight sends its own, or joins the record that stands on its entry;
the walks in flight that fault on the same entry join it too (R353, R356). -/
def releaseWalk (s : State) : State :=
  match s.walking with
  | [] => s
  | x :: rest =>
    let same (f : FaultRec) : Bool := f.on x.req.fn x.req.ent
    let more := ((x :: rest).filter fun y => same y.req).flatMap fun y => y.req.waiters
    let s1 := { s with walking := rest.filter fun y => !same y.req }
    if s.faults.any same then
      { s1 with faults := s.faults.map fun g => if same g then { g with waiters := more ++ g.waiters } else g }
    else if 1024 ≤ openFaults s then s
    else pushFault s1 { x.req with waiters := more }

/-- The fault record on which an agent waits, with the virtual address it asked for. -/
def faultOf (s : State) (w : Waiter) : Option (FaultRec × Word) :=
  (s.faults ++ s.walking.map Walking.req).findSome? fun f => (f.waiters.find? fun x => x.1 = w).map fun x => (f, x.2)

/-- The agent no longer waits on any record; an answered record without waiters is gone. -/
def dropWaiter (s : State) (w : Waiter) : State :=
  let drop (f : FaultRec) : FaultRec := { f with waiters := f.waiters.filter fun x => x.1 ≠ w }
  { s with
    faults := (s.faults.map drop).filter fun f => !(f.unres && f.waiters.isEmpty)
    walking := s.walking.map fun x => { x with req := drop x.req } }

/-- The unit that stands for the I/O die's translations: the queue engine (spec 21 R322). -/
def ioCu : Nat := 96

/-- The number of pages that n bytes may touch. -/
def pagesOf (n : Nat) : Nat := n / 4096 + 2

end Sys2Proof.Machine
end

