-- ==== Sys2Proof/Machine/Link.lean ====
section
/-! DEFINITION. Damfonos ports (spec 26 R382 to R387): CRC-32C, flits, the choice of a port, sending and resending,
lost destinations; and the events FLIT_RECEIVE, RETRY_REQUEST and PORT_RETRAIN. How a message is cut into segments
is the model's own (assumption log 31). -/
namespace Sys2Proof.Machine

/-! ## CRC-32C (06 R100) -/

/-- Eight steps of the reflected polynomial. -/
def crcBits : Nat → Nat → Nat
  | 0, c => c
  | n + 1, c => crcBits n (if c % 2 = 1 then (c / 2) ^^^ 0x82F63B78 else c / 2)

/-- The register after the bytes. -/
def crcFrom : Nat → List Byte → Nat
  | c, [] => c
  | c, b :: bs => crcFrom (crcBits 8 (c ^^^ b.toNat)) bs

/-- CRC-32C of bytes (R100). -/
def crc32c (bs : List Byte) : Nat := crcFrom 0xFFFFFFFF bs ^^^ 0xFFFFFFFF

/-! ## Ports and ranks -/

/-- A port has gone down after failing its retraining (R383, R387). -/
def portDead (s : State) (p : Nat) : Bool := !(s.port p).up && 3 ≤ (s.port p).attempts

/-- The route mask of a rank (R385). -/
def routeOf (s : State) (rank : Nat) : BitVec 18 := sget 0#18 s.routes rank

/-- The destination rank is lost (R385, R387). -/
def rankLost (s : State) (rank : Nat) : Bool :=
  decide (2 ^ 17 ≤ rank) || routeOf s rank == 0#18 ||
    (List.range 18).all fun p => !(routeOf s rank).getLsbD p || portDead s p

/-- A port carries traffic. -/
def portOpen (s : State) (p : Nat) : Bool := (s.port p).up && !(s.port p).training

/-- Some port carries traffic, so that a message can arrive (R383, R384). -/
def linkUp (s : State) : Bool := (List.range 18).any (portOpen s)

/-- The ports of a rank's mask that are up. -/
def portsUp (s : State) (rank : Nat) : List Nat :=
  (List.range 18).filter fun p => (routeOf s rank).getLsbD p && portOpen s p

/-! ## Flits (R382) -/

/-- The bytes 0 to 251 of a flit of kind fk: 1 a message segment, 2 a retry request. -/
def flitBody (p : Port) (fk dst kind : Nat) (seg : List Byte) : List Byte :=
  let link := p.nextSeq.toNat + p.lastSeq.toNat * 2 ^ 12 + fk * 2 ^ 24
  let route := dst % 2 ^ 17 + Config.deviceRank.toNat * 2 ^ 17 + kind % 16 * 2 ^ 34
  leBytes 8 link ++ leBytes 8 route ++ (seg ++ List.replicate (236 - seg.length) 0#8)

/-- A port with one more flit sent. -/
def Port.sendFlit (p : Port) (fk dst kind : Nat) (seg : List Byte) (now : Nat) : Port :=
  let b := flitBody p fk dst kind seg
  { p with
    nextSeq := p.nextSeq + 1#12
    unacked := p.unacked ++ [b ++ leBytes 4 (crc32c b)]
    ackCycle := if p.unacked.isEmpty then now else p.ackCycle }

/-- A port with a retry request sent that names seq n (R383): the payload holds it in its first two bytes (assumption
log 31). A port that keeps 2,048 flits has no room for it. -/
def Port.sendRetry (p : Port) (n : BitVec 12) (now : Nat) : Port :=
  if 2048 ≤ p.unacked.length then p else { p.sendFlit 2 0 0 (leBytes 2 n.toNat) now with sentRetry := true }

/-- The segments of a message. -/
def segments : Nat → List Byte → List (List Byte)
  | 0, _ => []
  | n + 1, bs => if bs.length ≤ 236 then [bs] else bs.take 236 :: segments n (bs.drop 236)

/-- The contents of a message as bytes. -/
def Msg.bytes (m : Msg) : List Byte :=
  leBytes 8 m.tag ++ leBytes 8 m.group ++ m.nums.flatMap (leBytes 8) ++ m.data

/-- The segments of a message. -/
def Msg.segs (m : Msg) : List (List Byte) := segments (m.bytes.length / 236 + 1) m.bytes

/-- The port that takes a message: one of its mask that is up (R385) and has room for its flits (R383). -/
def portFor (s : State) (m : Msg) : Option Nat :=
  let ups := (portsUp s m.dst).filter fun p => (s.port p).unacked.length + m.segs.length ≤ 2048
  if ups.isEmpty then none
  else ups[Config.portChoice Config.deviceRank.toNat m.dst m.tag % ups.length]?

/-- Send a message on its port now, if there is one. -/
def putOut (s : State) (m : Msg) : State × Msg :=
  match portFor s m with
  | none => (s, { m with port := none })
  | some p =>
    let q := m.segs.foldl (fun q seg => q.sendFlit 1 m.dst m.kind seg s.cycle) (s.port p)
    (s.setPort p q, { m with port := some p })

/-- A message leaves the device, or waits in the outbox for a port; one to a lost rank is dropped with an error record
(R387). -/
def pushOut (s : State) (m : Msg) : State :=
  if rankLost s m.dst then pushErr s 3 4 0 0x1FF 0
  else
    let r := putOut s m
    { r.1 with outbox := r.1.outbox ++ [r.2] }

/-- Send a message that waits for its answer. -/
def sendMsg (s : State) (w : RemoteWait) : State :=
  let tag := s.remoteSeq
  let r := putOut { s with remoteSeq := tag + 1 } { w.msg with tag }
  { r.1 with
    outbox := r.1.outbox ++ [r.2]
    remote := r.1.remote ++ [{ w with tag, msg := r.2 }] }

/-- A message that waits for its answer and has been dropped: it is not sent before JAPP_RESEND (R387). -/
def holdMsg (s : State) (w : RemoteWait) : State :=
  { s with
    remoteSeq := s.remoteSeq + 1
    remote := s.remote ++ [{ w with tag := s.remoteSeq, msg := { w.msg with tag := s.remoteSeq } }] }

/-- Messages of the outbox that have no port are sent where one is up, oldest first. -/
def flushOut (s : State) : State :=
  let r := s.outbox.foldl
    (fun (a : State × List Msg) m =>
      if m.port.isSome || portsUp a.1 m.dst = [] then (a.1, a.2 ++ [m])
      else
        let q := putOut a.1 m
        (q.1, a.2 ++ [q.2])) (s, [])
  { r.1 with
    outbox := r.2
    remote := r.1.remote.map fun w =>
      match r.2.find? fun m => m.tag = w.tag && m.kind = w.msg.kind && m.dst = w.msg.dst with
      | some m => { w with msg := m }
      | none => w }

/-! ## Lost destinations (R387) -/

/-- The strand's late load or atomic that waits for message tag is lost (R387). -/
def Late.lose (x : Late) (tag : Nat) : Late := if x.parts.any fun p => p.1 == tag + 1 then { x with lost := true } else x

/-- The strand of a number. -/
def kindOf : Nat → StrandKind
  | 0 => .s
  | 1 => .v
  | 2 => .m
  | _ => .c

/-- The strand whose own access a message is, with its late loads changed. -/
def mapLate (s : State) (w : RemoteWait) (f : Late → Late) : State :=
  match w.by_ with
  | none => s
  | some n =>
    let x := s.strand w.crew (kindOf n)
    s.setStrand w.crew (kindOf n) { x with late := x.late.map f }

/-- The state without the message of a tag. -/
def dropTag (s : State) (tag : Nat) : State := { s with remote := s.remote.filter fun x => x.tag ≠ tag }

/-- What becomes of a wait whose destination is lost (R387): a load or atomic makes an error record and its reader
learns of it, a japp stays in flight, a write counts as performed with an error record, an answer of a jfetch is
dropped, and a collective or send finds the loss itself. -/
def loseWait (s : State) (w : RemoteWait) : State :=
  let e := if w.msg.kind = 1 then pushErr s 3 4 (s.crew w.crew).tenant w.crew 0 else s
  if w.load && w.by_.isSome then dropTag (mapLate e w fun x => x.lose w.tag) w.tag
  else if w.load then
    { e with remote := e.remote.map fun x => if x.tag = w.tag then { x with lost := true } else x }
  else if w.msg.kind = 4 ∧ w.op.isSome = true then s
  else dropTag e w.tag

/-- A message of the outbox has not left and its rank is lost. -/
def strayMsg (s : State) (m : Msg) : Bool := m.port.isNone && rankLost s m.dst

/-- The waits on lost ranks end by R387, and what has not left for one is dropped, with an error record each. -/
def loseAll (s : State) : State :=
  let t := s.remote.foldl (fun s w => if rankLost s w.msg.dst && !w.lost then loseWait s w else s) s
  let u := t.outbox.foldl (fun u m => if strayMsg t m && m.kind != 1 then pushErr u 3 4 0 0x1FF 0 else u) t
  { u with outbox := u.outbox.filter fun m => !strayMsg t m }

/-! ## Events -/

/-- The number of a flit after an acknowledgement: those up to seq ack are dropped from the unacknowledged ones. -/
def Port.acked (p : Port) (ack : BitVec 12) (now : Nat) : Port :=
  let first := p.nextSeq - BitVec.ofNat 12 p.unacked.length
  let n := (ack - first + 1#12).toNat
  if n = 0 ∨ p.unacked.length < n then p
  else { p with
    unacked := p.unacked.drop n
    ackCycle := now
    retryCount := 0 }

/-- A flit's codes are assigned and its reserved fields are zero (R382). -/
def flitOk (link route : Nat) : Bool :=
  let kind := link / 2 ^ 24 % 16
  let mk := route / 2 ^ 34 % 16
  kind ≤ 3 && link / 2 ^ 28 = 0 && route / 2 ^ 38 = 0 && (kind ≠ 1 || (1 ≤ mk && mk ≤ 5))

/-- The port begins to retrain (R383): the count saturates (R384). -/
def Port.train (p : Port) : Port :=
  { p with
    training := true
    attempts := 0
    retrains := min 255 (p.retrains + 1) }

/-- A port after a retry request that names seq n (R383, R384): the flits from n are sent again; the sixteenth request
for the same seq makes the port retrain. -/
def Port.retry (p : Port) (n : BitVec 12) : Port :=
  let first := p.nextSeq - BitVec.ofNat 12 p.unacked.length
  let count := if p.retrySeq = n then p.retryCount + 1 else 1
  let q := { p with
    retries := min (2 ^ 32 - 1) (p.retries + 1)
    retrySeq := n
    retryCount := count
    resend := p.unacked.drop (n - first).toNat }
  if 16 ≤ count then { q.train with retryCount := 0 } else q

/-- The port after a flit that is good and in order: its ack is taken. -/
def Port.accept (p : Port) (seq ack : BitVec 12) (now : Nat) : Port :=
  { p.acked ack now with
    lastSeq := seq
    sentRetry := false }

/-- FLIT_RECEIVE (R382, R383): a good flit in order is accepted and its ack taken; one with a reserved code or field is
then discarded with an error record, and a retry request is answered; any other flit gets one retry request. -/
def execFlitReceive (port : Nat) (flit : List Byte) (s : State) : Outcome :=
  if 18 ≤ port ∨ flit.length ≠ 256 ∨ (s.port port).up = false then notEnabled "FLIT_RECEIVE"
  else
    let p := s.port port
    let link := leNat (flit.take 8)
    let route := leNat ((flit.drop 8).take 8)
    let seq := BitVec.ofNat 12 link
    let ack := BitVec.ofNat 12 (link / 2 ^ 12)
    if crc32c (flit.take 252) = leNat (flit.drop 252) ∧ seq = p.lastSeq + 1#12 then
      let q := p.accept seq ack s.cycle
      if !flitOk link route then .next (flushOut (pushErr (s.setPort port q) 3 4 0 0x1FF 0))
      else if link / 2 ^ 24 % 16 = 2 then
        .next (flushOut (s.setPort port (q.retry (BitVec.ofNat 12 (leNat ((flit.drop 16).take 2))))))
      else .next (flushOut (s.setPort port q))
    else if p.sentRetry then .next s
    else .next (s.setPort port (p.sendRetry (p.lastSeq + 1#12) s.cycle))

/-- RETRY_REQUEST (R383, R384): a request that names a seq arrives on a port. -/
def execRetryRequest (port seq : Nat) (s : State) : Outcome :=
  if 18 ≤ port ∨ (s.port port).up = false then notEnabled "RETRY_REQUEST"
  else .next (s.setPort port ((s.port port).retry (BitVec.ofNat 12 seq)))

/-- Every chunk on a port that has no acknowledgement or answer is sent again on another port of its mask (R386; log
32 says what is not sent again by itself). -/
def resendFrom (s : State) (port : Nat) : State :=
  let r := s.remote.foldl
    (fun (a : State × List RemoteWait) w =>
      if w.msg.port = some port && w.answer.isNone && !w.lost then
        let q := putOut a.1 w.msg
        ({ q.1 with outbox := q.1.outbox ++ [q.2] }, a.2 ++ [{ w with msg := q.2 }])
      else (a.1, a.2 ++ [w])) (s, [])
  { r.1 with remote := r.2 }

/-- The port has reason to retrain: it is training, it is not up yet, or 2^20 cycles have passed with flits
outstanding and no advance of ack (R383). -/
def mustTrain (s : State) (p : Port) : Bool :=
  p.training || (!p.up && decide (p.attempts < 3)) || (!p.unacked.isEmpty && decide (p.ackCycle + 2 ^ 20 ≤ s.cycle))

/-- PORT_RETRAIN (R383): one attempt of a port succeeds, and its unacknowledged flits go out again, or fails; the third
failure takes the port down with an error record. -/
def execPortRetrain (port : Nat) (ok : Bool) (s : State) : Outcome :=
  if 18 ≤ port ∨ mustTrain s (s.port port) = false then notEnabled "PORT_RETRAIN"
  else
    let p := s.port port
    let p := if p.training || !p.up then p else p.train
    if ok then
      .next (flushOut (s.setPort port { p with
        up := true
        training := false
        attempts := 0
        resend := p.unacked
        ackCycle := s.cycle }))
    else if p.attempts + 1 < 3 then
      .next (s.setPort port { p with
        attempts := p.attempts + 1
        training := p.up })
    else
      let s1 := s.setPort port { p with
        up := false
        training := false
        attempts := 3
        unacked := [] }
      .next (loseAll (resendFrom (pushErr s1 3 4 0 0x1FF 0) port))

end Sys2Proof.Machine
end

