-- ==== Sys2Proof/Machine/Window.lean ====
section
/-! DEFINITION. Accesses as every agent of the device makes them: tagged pointers (spec 03 R41 to R47), translation on
behalf of an agent (22 R340 to R356), group windows (26 R388, R389), and the reading and writing of bytes here and on
other devices. An access is a list of places: keys with lengths, in address order. -/
namespace Sys2Proof.Machine

/-! ## Pointers -/

/-- The space identifier (R41). -/
def spaceOf (p : Word) : Nat := p.bits 63 60

/-- The space is legal and no reserved bit is set (R41, R42). -/
def ptrOk (p : Word) : Bool :=
  match spaceOf p with
  | 0 => p.bits 59 57 == 0
  | 1 => p.bits 59 56 < 12 && p.bits 52 24 == 0
  | 2 => p.bits 59 27 == 0
  | 3 => p.bits 59 24 == 0
  | _ => false

/-- The space identifier is legal and the reserved bits are zero (R41): what a copy checks of a base pointer when it
starts (13 R241). -/
def ptrFields (p : Word) : Bool :=
  match spaceOf p with
  | 0 => p.bits 59 57 == 0
  | 1 => p.bits 52 24 == 0
  | 2 => p.bits 59 27 == 0
  | 3 => p.bits 59 24 == 0
  | _ => false

/-- The size of the field that holds the offset or address (R41). -/
def fieldSize (p : Word) : Nat :=
  match spaceOf p with
  | 0 => 2 ^ 57
  | 2 => 2 ^ 27
  | _ => 2 ^ 24

/-- The offset or address of a pointer. -/
def ptrOff (p : Word) : Nat := p.toNat % fieldSize p

/-- No byte of an n-byte access lies beyond the field (R42). -/
def endOk (p : Word) (n : Nat) : Bool := ptrOff p + n ≤ fieldSize p

/-- The pointer is in a scratchpad space (R43). -/
def isPad (p : Word) : Bool := 1 ≤ spaceOf p && spaceOf p ≤ 3

/-- The CU and slice offset of byte off of a scratchpad pointer, for a crew of CU cu (R44). -/
def padByte (cu : Nat) (p : Word) (off : Nat) : Nat × Nat :=
  match spaceOf p with
  | 1 => (8 * p.bits 59 56 + p.bits 55 53, off)
  | 2 => (8 * clusterOf cu + off / 128 % 8, off / 1024 * 128 + off % 128)
  | _ => (cu, off)

/-- The swizzled offset (R46, R47). -/
def swizzle (z off : Nat) : Nat :=
  let bank := off / 32 % 32
  let row := off / 1024 % 32
  let b' := if z = 0 then bank else if z = 6 then bank ^^^ (3 * row % 32) else bank ^^^ (row % 2 ^ z)
  off / 1024 * 1024 + b' * 32 + off % 32

/-- A place: a key and a length in bytes. -/
abbrev Place := Nat × Nat

/-- The places of n bytes from offset off of a scratchpad pointer, cut at 32-byte units. -/
def padPlaces (cu : Nat) (p : Word) (z : Nat) : Nat → Nat → Nat → List Place
  | 0, _, _ => []
  | fuel + 1, off, n =>
    if n = 0 then []
    else
      let c := min n (32 - off % 32)
      let b := padByte cu p off
      (sliceKey b.1 (swizzle z b.2), c) :: padPlaces cu p z fuel (off + c) (n - c)

/-- The segment of a slice key: CU times 16 and the segment (R45). -/
def segOf (k : Nat) : Nat := (k - 2 ^ 55) / 2 ^ 20

/-- The owner of a segment. -/
def segOwner (s : State) (seg : Nat) : Nat := sget 0 s.segs seg

/-- The first place that lies in another tenant's segment, as a byte offset of the access (R45). -/
def firstForeign (s : State) (tenant : Nat) : List Place → Nat → Option Nat
  | [], _ => none
  | (k, c) :: r, i => if segOwner s (segOf k) ≠ tenant then some i else firstForeign s tenant r (i + c)

/-- A segment of the access is still being zeroed (R54). -/
def zeroingHit (s : State) (ps : List Place) : Bool :=
  ps.any fun p => (s.cu (segOf p.1 / 16)).zeroSegs.contains (segOf p.1 % 16)

/-! ## Group windows (26 R388, R389) -/

/-- An entry of the window table. -/
structure Win where
  index : Nat
  rlen : Nat
  mlist : Nat
  rbase : Nat
  members : Nat
  self : Nat
  target : Nat
  group : Nat
  tenant : Nat
  accept : Bool
  deriving DecidableEq, Repr

/-- The window that stands for all members. -/
def allMembers : Nat := 0xFFFFFFFF

/-- Entry w of the window table if it is valid and its reserved fields are zero (R388). -/
def winEntry (s : State) (w : Nat) : Option Win :=
  let k := s.regs.gwtBase + 64 * w
  let f (off n : Nat) : Nat := leNat (memBytes s.mem (k + off) n)
  if f 0 6 % 2 = 1 ∧ f 0 6 < 4 ∧ f 48 16 = 0 then
    some {
      index := w
      rlen := f 40 8
      mlist := f 32 8
      rbase := f 24 8
      members := f 20 4
      self := f 16 4
      target := f 12 4
      group := f 8 4
      tenant := f 6 2
      accept := f 0 1 / 2 % 2 = 1 }
  else none

/-- The rank of member x of a window (R388). -/
def memberRank (s : State) (w : Win) (x : Nat) : Nat := leNat (memBytes s.mem (w.mlist + 4 * x) 4)

/-- Entry w of the window table, or its list of members, lies in a frame that is being formatted, and its readers wait
(22 R355). -/
def entryBusy (s : State) (w : Nat) : Bool :=
  formattingAny s (s.regs.gwtBase + 64 * w) 64 || (winEntry s w).any fun e => formattingAny s e.mlist (4 * e.members)

/-- The window table lies in frames that are being formatted: what searches it waits (22 R355). -/
def tableBusy (s : State) : Bool := formattingAny s s.regs.gwtBase (64 * 65536)

/-- Bytes o to o + n of a window lie in the receive region, and that region's bytes in HBM (R388, R389). -/
def Win.inside (w : Win) (o n : Nat) : Bool := decide (o + n ≤ w.rlen) && decide (w.rbase + o + n ≤ hbmSize)

/-- Physical addresses a to a + n lie in the receive region (R389). -/
def Win.covers (w : Win) (a n : Nat) : Bool := decide (w.rbase ≤ a) && w.inside (a - w.rbase) n

/-- Member x of a window is lost. -/
def memberLost (s : State) (w : Win) (x : Nat) : Bool := decide (w.members ≤ x) || rankLost s (memberRank s w x)

/-- A place of a group window for a tenant, made local or left remote (R388, R389); store says that it is written,
which a window of all members allows. A place of this device outside the receive region stays: no device performs it. -/
def windowPlace (s : State) (tenant key n : Nat) (store : Bool) : Except Nat (List Place) :=
  match winEntry s ((key - 2 ^ 56) / 2 ^ 32) with
  | none => .error cNotPresent
  | some w =>
    let o := key % 2 ^ 32
    if w.tenant ≠ tenant then .error cPerm
    else if w.target = allMembers then (if store then .ok [(key, n)] else .error cPerm)
    else if w.target = w.self ∧ w.inside o n = true then .ok [(w.rbase + o, n)]
    else .ok [(key, n)]

/-! ## Translation for an agent -/

/-- Who makes an access: the one that waits on its fault records and reads its answers, its crew, the CU (or the I/O
die) whose translations it uses, and the function. hostOk says that pages owned by the host are no obstacle (21 R322).
-/
structure Agent where
  who : Waiter
  crew : Nat
  cu : Nat
  fn : Nat
  hostOk : Bool := false

/-- The translation that reaches a page owned by the host, in a frame. -/
def hostTlb (fn va frame : Nat) : Tlb :=
  { fn, vpage := va / 4096, frame, r := true, w := true, x := false, host := true, cmp := false, tier := 0, gw := false,
    expiry := 0, single := true }

/-- What an answer of the translation means to an agent that asked for va (R340, R348, R350 to R356): the translation,
a trap with va in TVAL, or a wait charged to q. -/
def agentAnswer (a : Agent) (va : Word) (need : BitVec 3) (q : Nat) : State × XAns → Res (State × Tlb)
  | (s, .ok t) => if !t.gw && !s.has t.frame then .error (.fault (.physicalHole t.frame)) else .ok (s, t)
  | (s, .trap c _) => .error (.xtrap c va s)
  | (s, .busy) => .error (.wait (if q = qFetch then q else qMem) s)
  | (s, .noWalker) => .error (.wait q s)
  | (s, .stall l k pa ent frame) =>
    if a.hostOk && k == 2 && l == 7 then
      (if s.has frame then .ok (s, hostTlb a.fn (va.toNat % 2 ^ 57) frame) else .error (.fault (.physicalHole frame)))
    else .error (.wait q (joinFault s a.fn va need l k pa ent frame (s.cuCycle (walkerOf a.cu)) a.who))

/-- What keeps an agent from translating at all: a fault record on which it waits, or whose answer is that the page
stays unresolved (R353); or a clock that is off (R348). -/
def agentHeld (a : Agent) (s : State) (ready : Bool) (q : Nat) : Option Stop :=
  match faultOf s a.who with
  | some (f, v) => some (if f.unres then .trap cStage2 v else .wait q s)
  | none => if ready then none else some (.wait q s)

/-- Translate for an agent: one of the caches, or a walk. -/
def agentXlate (a : Agent) (s : State) (va : Word) (need : BitVec 3) (q : Nat := qXlate) (margin : Nat := 0) :
    Res (State × Tlb) :=
  let n := va.toNat % 2 ^ 57
  match agentHeld a s (clockOkFor s a.cu a.fn (n / 4096) margin) q with
  | some e => .error e
  | none => agentAnswer a va need q (xlate s a.cu a.fn n need margin)

/-- Renew a translation that an agent uses: a page that is no longer the same raises XLATE_CHANGED (R349). -/
def agentRenew (a : Agent) (s : State) (t : Tlb) (va : Word) (need : BitVec 3) : Res (State × Tlb) :=
  match agentHeld a s (clockOk s a.cu) qXlate with
  | some e => .error e
  | none => agentAnswer a va need qXlate (rewalkIn s a.cu t (va.toNat % 2 ^ 57) need)

/-- The places of c bytes at va within a translated page: a group window's page is made local or left remote. A frame
that is being formatted holds the access (R355). -/
def pagePlaces (a : Agent) (s : State) (t : Tlb) (va : Word) (c : Nat) (store : Bool) : Res (List Place) :=
  let k := t.key va.toNat
  if t.gw && entryBusy s ((k - 2 ^ 56) / 2 ^ 32) then .error (.wait qMem s)
  else
  match (if t.gw then windowPlace s a.fn k c store else .ok [(k, c)]) with
  | .error e => .error (.xtrap e va s)
  | .ok ps => if t.gw && ps.any fun p => formatting s p.1 then .error (.wait qMem s) else .ok ps

/-- The places of n bytes of GLOBAL from va on, lowest page first (R340, R342); an address beyond the field is none (03
R42). -/
def agentPlaces (a : Agent) (need : BitVec 3) (q margin : Nat) : Nat → Word → Nat → State → Res (State × List Place)
  | 0, _, _, s => .ok (s, [])
  | fuel + 1, va, n, s =>
    if n = 0 then .ok (s, [])
    else if 2 ^ 57 ≤ va.toNat then .error (.xtrap cSpace va s)
    else
      let c := min n (4096 - va.toNat % 4096)
      match agentXlate a s va need q margin with
      | .error e => .error e
      | .ok (s1, t) =>
        match pagePlaces a s1 t va c (need.getLsbD 1) with
        | .error e => .error e
        | .ok ps =>
          match agentPlaces a need q margin fuel (va + BitVec.ofNat 64 c) (n - c) s1 with
          | .error e => .error e
          | .ok (s2, rest) => .ok (s2, ps ++ rest)

/-! ## Counting -/

/-- Which counter of 27 R400 counts the bytes of a key. -/
def countersOf (k : Nat) (store : Bool) : Nat :=
  if k < 2 ^ 53 then (if store then 5 else 4) else if k < 2 ^ 54 then 6 else if k < 2 ^ 55 then 7 else 8

/-- Count the bytes of local places for a tenant: those that the access asks for, also on a compressed page, where the
stack moves others (R51 and 27 R400 do not say which; DESIGN CHOICE, assumption log 78). -/
def countPlaces (s : State) (tenant : Nat) (store : Bool) (ps : List Place) : State :=
  ps.foldl (fun s p => if isWindowKey p.1 then s else countFor s tenant (countersOf p.1 store) p.2) s

/-- The bytes at local places. -/
def readPlaces (m : List Host.Cell) (ps : List Place) : List Byte := ps.flatMap fun p => memBytes m p.1 p.2

/-! ## Messages of remote accesses -/

/-- For whom a remote access is sent: the crew, the operation if any, the agent that reads the answer, and the strand
whose own access it is with its class and the classes that wait for it (04 R59, R62). -/
structure Sender where
  crew : Nat
  op : Option Nat := none
  agent : Option Waiter := none
  by_ : Option Nat := none
  cls : Nat := 0
  holds : BitVec 16 := 0#16

/-- The message of a remote access of a window to a member (R386, R389): nums begin with 0 load, 1 store, 2 atomic, 3
cred, and end with rbase, with which the offsets among them are physical addresses on the member. -/
def accessMsg (s : State) (w : Win) (dst : Nat) (nums : List Nat) (data : List Byte) : Msg :=
  { kind := 1, group := w.group, dst := memberRank s w dst, tag := 0, nums := nums ++ [w.rbase], data }

/-- Send a remote access to one member. A lost member's message is dropped with an error record (R387). -/
def sendRemote (s : State) (a : Sender) (w : Win) (dst : Nat) (nums : List Nat) (data : List Byte)
    (place : Option Place := none) : State :=
  if memberLost s w dst then pushErr s 3 4 w.tenant a.crew 0
  else
    sendMsg (countFor s w.tenant 9 data.length) {
      tag := 0
      crew := a.crew
      op := a.op
      agent := a.agent
      by_ := a.by_
      cls := a.cls
      holds := a.holds
      msg := accessMsg s w dst nums data
      load := place.isSome
      place := place.getD (0, 0) }

/-- A port takes a message to the member now, or the member is lost (R385, R387): else the access stays in its unit (22
R345). -/
def memberReady (s : State) (w : Win) (dst : Nat) (nums : List Nat) (data : List Byte) : Bool :=
  memberLost s w dst || (portFor s (accessMsg s w dst nums data)).isSome

/-- The window of a place. -/
def placeWindow (p : Place) : Nat := (p.1 - 2 ^ 56) / 2 ^ 32

/-- The members that a store through a window reaches (R389). -/
def Win.targets (w : Win) : List Nat := if w.target = allMembers then List.range w.members else [w.target]

/-- Every message of a store to a place can leave. -/
def storeReady (s : State) (p : Place) : Bool :=
  !isWindowKey p.1 ||
    (match winEntry s (placeWindow p) with
     | none => true
     | some w => w.targets.all fun x =>
        x == w.self || memberReady s w x [1, 0, p.1 % 2 ^ 32, p.2] (List.replicate p.2 0#8))

/-- Store bytes at a window place: at the target, or at every member, this device included (R389). -/
def storeWindow (s : State) (a : Sender) (k : Nat) (bs : List Byte) : State :=
  match winEntry s ((k - 2 ^ 56) / 2 ^ 32) with
  | none => s
  | some w =>
    let o := k % 2 ^ 32
    let one (s : State) (x : Nat) : State :=
      if x = w.self then
        (if w.inside o bs.length then
          countPlaces { s with mem := memWrite s.mem (w.rbase + o) bs } w.tenant true [(w.rbase + o, bs.length)]
         else pushErr s 3 4 w.tenant a.crew 0)
      else sendRemote s a w x [1, 0, o, bs.length] bs
    w.targets.foldl one s

/-- Store bytes at places, local or remote. -/
def storePlaces (a : Sender) : List Place → List Byte → State → State
  | [], _, s => s
  | (k, c) :: r, bs, s =>
    let s := if isWindowKey k then storeWindow s a k (bs.take c)
      else { s with mem := memWrite s.mem k (bs.take c) }
    storePlaces a r (bs.drop c) s

/-- A byte lies in one of the places. -/
def inPlaces (ps : List Place) (k : Nat) : Bool := ps.any fun p => decide (p.1 ≤ k) && decide (k < p.1 + p.2)

/-- Two places have a byte in common. -/
def placesMeet (a b : Place) : Bool := decide (a.1 < b.1 + b.2) && decide (b.1 < a.1 + a.2)

/-- Bytes to be written at k. Where they meet bytes whose order with them is not architected (seen), each aligned
8-byte unit takes one of the two (04 R58; assumption log 7): old gives what is there, and fresh and q, the row, pick
the choice. -/
def settleBytes (old : Nat → Byte) (seen : List Place) (fresh q k : Nat) (bs : List Byte) : List Byte :=
  if !isWindowKey k && seen.any (placesMeet (k, bs.length)) then
    bs.zipIdx.map fun p =>
      if inPlaces seen (k + p.2) && Config.keepsOld fresh q ((k + p.2) / 8) then old (k + p.2) else p.1
  else bs

/-- The same at several places. -/
def settlePlaces (old : Nat → Byte) (seen : List Place) (fresh q : Nat) : List Place → List Byte → List Byte
  | [], _ => []
  | (k, c) :: r, bs => settleBytes old seen fresh q k (bs.take c) ++ settlePlaces old seen fresh q r (bs.drop c)

/-! ## Reading through a window -/

/-- Read the local places, and take the answers of the remote ones in their order. -/
def mergePlaces (m : List Host.Cell) : List Place → List (List Byte) → List Byte
  | [], _ => []
  | p :: r, ans =>
    if isWindowKey p.1 then (ans.headD []).take p.2 ++ mergePlaces m r ans.tail
    else memBytes m p.1 p.2 ++ mergePlaces m r ans

/-- What an agent has asked of other devices. -/
def asked (s : State) (who : Waiter) : List RemoteWait := s.remote.filter fun r => r.load && r.agent == some who

/-- The agent is done with what it has asked. -/
def dropAsked (s : State) (who : Waiter) : State := { s with remote := s.remote.filter fun r => !(r.load && r.agent == some who) }

/-- A request to the target of a window: the window, the numbers and data of the message, and the bytes of its answer.
-/
structure Ask where
  win : Nat
  nums : List Nat
  data : List Byte
  place : Place

/-- The request for the bytes of a remote place. -/
def askOf (p : Place) : Ask := { win := placeWindow p, nums := [0, 0, p.1 % 2 ^ 32, p.2], data := [], place := p }

/-- Why a request cannot be made (R387, R388): the entry is not valid, or the target is lost or does not perform it,
with an error record for the message that is dropped (R389). -/
def askFault (s : State) (crew : Nat) (r : Ask) : Option (Nat × State) :=
  match winEntry s r.win with
  | none => some (cNotPresent, s)
  | some w =>
    if w.target = w.self ∨ memberLost s w w.target = true then some (cPerm, pushErr s 3 4 w.tenant crew 0) else none

/-- The request can leave now. -/
def askReady (s : State) (r : Ask) : Bool :=
  match winEntry s r.win with
  | none => false
  | some w => memberReady s w w.target r.nums r.data

/-- The wait of an agent that stands for a request. -/
def askedFor (s : State) (who : Waiter) (r : Ask) : Option RemoteWait :=
  (asked s who).find? fun x => x.msg.nums.dropLast == r.nums && x.msg.data == r.data && x.place == r.place

/-- Send a request. -/
def sendAsk (a : Sender) (s : State) (r : Ask) : State :=
  match winEntry s r.win with
  | none => s
  | some w => sendRemote s a w w.target r.nums r.data (some r.place)

/-- Ask the targets of windows for bytes and wait until every answer is there, charged to MEM_WAIT; a lost target raises
XLATE_PERM with the pointer that goes with the request (R387). The answers stay until the agent drops them. -/
def askRemote (a : Agent) (s : State) (reqs : List (Ask × Word)) : Res (State × List (List Byte)) :=
  let got := reqs.map fun r => (r, askedFor s a.who r.1)
  let new := (got.filter fun g => g.2.isNone).map Prod.fst
  match new.findSome? fun r => (askFault s a.crew r.1).map fun f => (f, r.2) with
  | some (c, p) => .error (.xtrap c.1 p c.2)
  | none =>
    match got.find? fun g => g.2.any fun x => x.lost with
    | some g => .error (.trap cPerm g.1.2)
    | none =>
      if !new.isEmpty then
        (if new.all fun r => askReady s r.1 then
          .error (.wait qMem (new.foldl (fun s r => sendAsk { crew := a.crew, agent := some a.who } s r.1) s))
         else .error (.wait qMem s))
      else if got.any fun g => g.2.any fun x => x.answer.isNone then .error (.wait qMem s)
      else .ok (s, got.map fun g => ((g.2.bind RemoteWait.answer).getD []))

/-- The requests for the remote places of an access, each with its pointer: p, or the place's own first byte. -/
def asksOf (p : Word) (bytewise : Bool) : List Place → Nat → List (Ask × Word)
  | [], _ => []
  | x :: r, i =>
    if isWindowKey x.1 then (askOf x, if bytewise then p + BitVec.ofNat 64 i else p) :: asksOf p bytewise r (i + x.2)
    else asksOf p bytewise r (i + x.2)

/-- The bytes of places for an agent; each remote one is a request of its own. What TVAL names is the pointer p, or
bytewise the place's own address. -/
def agentBytes (a : Agent) (s : State) (p : Word) (ps : List Place) (bytewise : Bool := false) : Res (State × List Byte) :=
  match asksOf p bytewise ps 0 with
  | [] => .ok (s, readPlaces s.mem ps)
  | far =>
    match askRemote a s far with
    | .error e => .error e
    | .ok (s1, bss) => .ok (s1, mergePlaces s1.mem ps bss)

/-- The bytes of places for an agent, counted to its tenant (27 R400). -/
def agentLoad (a : Agent) (s : State) (p : Word) (ps : List Place) (bytewise : Bool := false) : Res (State × List Byte) :=
  match agentBytes a s p ps bytewise with
  | .error e => .error e
  | .ok (s1, bs) => .ok (countPlaces s1 a.fn false ps, bs)

/-! ## Accesses of the device itself (queue engine, accounts, journal, cards) -/

/-- Read n bytes of GLOBAL from va for an agent of the device. -/
def agentRead (a : Agent) (va n : Nat) (s : State) : Res (State × List Byte) :=
  let p := BitVec.ofNat 64 va
  match agentPlaces a 1#3 qXlate 0 (pagesOf n) p n s with
  | .error e => .error e
  | .ok (s1, ps) => agentLoad a s1 p ps

/-- The places of n bytes of GLOBAL from va that an agent of the device may write now. -/
def agentProbe (a : Agent) (va n : Nat) (s : State) : Res (State × List Place) :=
  match agentPlaces a 2#3 qXlate 0 (pagesOf n) (BitVec.ofNat 64 va) n s with
  | .error e => .error e
  | .ok (s1, ps) => if ps.all (storeReady s1) then .ok (s1, ps) else .error (.wait qMem s1)

/-- Write bytes at va for an agent of the device: all of them or, after a fault, none. -/
def agentWrite (a : Agent) (va : Nat) (bs : List Byte) (s : State) : Res State :=
  match agentProbe a va bs.length s with
  | .error e => .error e
  | .ok (s1, ps) =>
    .ok (storePlaces { crew := a.crew, agent := some a.who } ps bs (countPlaces s1 a.fn true ps))

/-- A trap keeps the state that an access has reached. -/
def Stop.keep (s : State) : Stop → Stop
  | .trap c v => .xtrap c v s
  | e => e

/-- The state after an agent's access has trapped: what the walks left, and nothing waits any more. -/
def Stop.left (s0 : State) (who : Waiter) : Stop → State
  | .xtrap _ _ s => dropAsked (dropWaiter s who) who
  | _ => dropAsked (dropWaiter s0 who) who

end Sys2Proof.Machine
end

