-- ==== Sys2Proof/Machine/Account.lean ====
section
/-! DEFINITION. Crumb accounting: spec 07 R107 to R115. Charging cycles to causes, the account area, the flush,
and the passing of cycles. -/
namespace Sys2Proof.Machine

/-- The count at which an accumulator is written out (R110). -/
def accMax : Nat := 2 ^ 48 - 1

/-- Add n cycles of a pair to the cache of 64 accumulators, most recent first (R110): the cache and the records
that leave it. -/
def cacheCharge (l : List Acc) (pc : Word) (cause n : Nat) : List Acc × List Acc :=
  let old := l.find? fun a => a.pc == pc && a.cause == cause
  let rest := l.filter fun a => !(a.pc == pc && a.cause == cause)
  let total := (match old with | some a => a.count | none => 0) + n
  let full : List Acc := List.replicate (total / accMax) { pc, cause, count := accMax }
  let e : Acc := { pc, cause, count := total % accMax }
  match old with
  | some _ => (e :: rest, full)
  | none => (e :: rest.take 63, full ++ rest.drop 63)

/-- The cause charged in a cycle: TRAP comes before all but DESCHEDULED and IDLE while the level is above 0 (R107). -/
def effCause (level cause : Nat) : Nat := if 0 < level ∧ cause ≠ qIdle ∧ cause ≠ qDesched then qTrap else cause

/-- Charge n cycles to a cause at a PC: the strand and the records that leave its cache (R109, R110). -/
def Strand.charge (x : Strand) (cause : Nat) (pc : Word) (n : Nat) : Strand × List Acc :=
  if n = 0 then (x, [])
  else
    let c := cacheCharge x.cache pc cause n
    let x := { x with cache := c.1 }
    if h : cause < 16 then
      ({ x with counters := x.counters.set cause (x.counters.get ⟨cause, h⟩ + BitVec.ofNat 64 n) h }, c.2)
    else (x, c.2)

/-- n cycles of a strand of a context on a crew: the first go to the slots it used, if any; the rest to what it
waits for (R107); the watchdog counts them (02 R37). -/
def Strand.elapse (x : Strand) (stopped : Bool) (n : Nat) : Strand × List Acc :=
  let used := match x.slot with
    | some (c, pc, k) =>
      let r := x.charge c pc (min k n)
      ({ r.1 with slot := if k ≤ n then none else some (c, pc, k - n) }, r.2, min k n)
    | none => (x, [], 0)
  let y := used.1
  let r := y.charge (effCause y.level y.cond) y.condPc (n - used.2.2)
  let z := if x.started && !x.exited && !stopped then { r.1 with wleft := r.1.wleft - n } else r.1
  (z, used.2.1 ++ r.2)

/-- n cycles of one strand of a crew. -/
def Crew.elapseStr (c : Crew) (k : StrandKind) (n : Nat) : Crew :=
  let r := (c.str k).elapse c.killed.isSome n
  let c := c.setStr k r.1
  { c with evicted := c.evicted ++ r.2.map fun a => { strand := kindNum k, acc := a } }

/-- n cycles of a crew with a context. -/
def Crew.elapse (c : Crew) (n : Nat) : Crew :=
  match c.ctx with
  | none => c
  | some _ => allKinds.foldl (fun c k => c.elapseStr k n) c

/-- ENERGY advances at least once every 4,096 cycles and never decreases (R115). -/
def energyUp (c : Crew) (i : Nat) : Crew :=
  match c.ctx with
  | none => c
  | some _ =>
    let e := c.energy.toNat + 1 + (Config.energyStep i).toNat
    { c with energy := BitVec.ofNat 64 (min e (2 ^ 64 - 1)) }

/-- The crew-cycles, energy and THROTTLE slots of a crew go to its tenant (27 R400, 21 R333). -/
def tenantUse (s : State) (old : Crew) (new : Crew) (n : Nat) : State :=
  match new.ctx with
  | none => s
  | some x =>
    let t := s.tenant x.tenant
    let s := s.setTenant x.tenant { t with used := t.used + n }
    let s := countFor s x.tenant 1 n
    let s := countFor s x.tenant 0 (new.energy - old.energy).toNat
    countFor s x.tenant 3 (new.sm.counters.get 11 - old.sm.counters.get 11).toNat

/-- n cycles pass. -/
def State.elapse (s : State) (n : Nat) : State :=
  if n = 0 then s
  else
    let tick := s.cycle / 4096 ≠ (s.cycle + n) / 4096
    let step (c : Crew) : Crew := if tick then energyUp (c.elapse n) s.fresh else c.elapse n
    let crews := s.crews.map fun p => (p.1, step p.2)
    let s1 := s.crews.foldl (fun a p => tenantUse a p.2 (step p.2) n) s
    { s1 with crews, cycle := s.cycle + n, fresh := if tick then s.fresh + 1 else s.fresh }

/-! ## The account area (R110) -/

/-- The agent of a crew's account writes. -/
def acctAgent (s : State) (crew : Nat) : Agent :=
  { who := .acct crew, crew, cu := cuOf crew, fn := (s.crew crew).tenant }

/-- The address of an offset of a crew's account area. -/
def acctAddr (s : State) (crew off : Nat) : Nat := (s.crew crew).acctbase.toNat % 2 ^ 57 + off

/-- A 32-bit field of the header. -/
def acctField (s : State) (crew off : Nat) : Res (State × Nat) :=
  match agentRead (acctAgent s crew) (acctAddr s crew off) 4 s with
  | .ok (s1, bs) => .ok (s1, leNat bs)
  | .error e => .error e

/-- Set a status bit of the account (R110). -/
def acctSet (s : State) (crew bit : Nat) : State :=
  let c := s.crew crew
  s.setCrew crew { c with acctStatus := c.acctStatus ||| bit }

/-- A dropped account write: write_fault, and an error record (R111). -/
def acctFault (s : State) (crew : Nat) : State :=
  pushErr (acctSet s crew 16) 3 4 (s.crew crew).tenant crew 0

/-- One write of the account; a failing one is dropped (R111), and one that cannot be made now waits. -/
def acctPut (crew off : Nat) (bs : List Byte) (s : State) : Res State :=
  match agentWrite (acctAgent s crew) (acctAddr s crew off) bs s with
  | .ok s1 => .ok s1
  | .error (.wait q s1) => .error (.wait q s1)
  | .error e => .ok (acctFault (e.left s (.acct crew)) crew)

/-- Several writes of the account, in order. -/
def acctPuts (crew : Nat) : List (Nat × List Byte) → State → Res State
  | [], s => .ok s
  | (off, bs) :: r, s =>
    match acctPut crew off bs s with
    | .error e => .error e
    | .ok s1 => acctPuts crew r s1

/-- The 16 bytes of a record (R110). -/
def AccRec.bytes (r : AccRec) : List Byte :=
  leBytes 8 r.acc.pc.toNat ++ leBytes 1 (r.acc.cause * 16 + r.strand) ++ [0#8] ++ leBytes 6 r.acc.count

/-- Write one record at its slot and count it (R110). -/
def writeRec (crew : Nat) (s : State) (r : AccRec) : Res State :=
  let n := (s.crew crew).recCount
  let s := s.setCrew crew { s.crew crew with recCount := (n + 1) % 2 ^ 32 }
  match acctField s crew 20 with
  | .error (.wait q s1) => .error (.wait q s1)
  | .error e => .ok (acctFault (e.left s (.acct crew)) crew)
  | .ok (s, cap) => if n < cap then acctPut crew (0x1000 + 16 * n) r.bytes s else .ok (acctSet s crew 4)

/-- Write several records, in order. -/
def writeRecs (crew : Nat) : List AccRec → State → Res State
  | [], s => .ok s
  | r :: rs, s =>
    match writeRec crew s r with
    | .error e => .error e
    | .ok s1 => writeRecs crew rs s1

/-- The nonzero entries of a strand's cache as records. -/
def cacheRecs (c : Crew) (k : StrandKind) : List AccRec :=
  ((c.str k).cache.filter fun a => a.count ≠ 0).map fun a => { strand := kindNum k, acc := a }

/-- The records of a flush: what has left the caches, then what they hold, strand by strand, the pair charged last
first. The spec gives no order (DESIGN CHOICE, assumption log 88): it decides which are lost at rec_cap. -/
def flushRecs (c : Crew) : List AccRec := c.evicted ++ allKinds.flatMap (cacheRecs c)

/-- The totals of R110: counter n of strand k at 128 k + 8 n. -/
def totalsBytes (c : Crew) : List Byte :=
  allKinds.flatMap fun k => (c.str k).counters.toList.flatMap fun w => leBytes 8 w.toNat

/-- Translate pieces of the account area for writing: a wait of any, and if strict a trap, is the answer. -/
def probeAll (strict : Bool) (a : Agent) : List (Nat × Nat) → State → Res State
  | [], s => .ok s
  | (va, n) :: r, s =>
    match agentProbe a va n s with
    | .ok (s1, _) => probeAll strict a r s1
    | .error (.wait q s1) => .error (.wait q s1)
    | .error e => if strict then .error e else probeAll strict a r s

/-- Whether k records, the totals and the header can be written now: an access of the account that stalls waits (R111;
22 R350, R354), and so does a wait for its answer; if strict, a trap is raised. -/
def acctReady (strict : Bool) (s : State) (crew k : Nat) : Res State :=
  let a := acctAgent s crew
  let at_ := acctAddr s crew
  let n := (s.crew crew).recCount
  match acctField s crew 20 with
  | .error (.wait q s1) => .error (.wait q s1)
  | .error e => if strict then .error e else probeAll strict a [(at_ 0, 0x240)] s
  | .ok (s1, cap) =>
    probeAll strict a ((if n < cap ∧ 0 < k then [(at_ (0x1000 + 16 * n), 16 * min k (cap - n))] else []) ++ [(at_ 0, 0x240)]) s1

/-- The flush of R111 at the present cycle: the records of all four caches, the totals, then the header's created (the
spec gives no time for it: DESIGN CHOICE, assumption log 45), energy, flushed and the counts. A write that cannot be
made now waits, and nothing of the flush is then done. -/
def acctTry (s : State) (crew : Nat) : Res State :=
  let c := s.crew crew
  let c1 := allKinds.foldl (fun c k => c.setStr k { c.str k with cache := [] }) { c with evicted := [] }
  match writeRecs crew (flushRecs c) (s.setCrew crew c1) with
  | .error e => .error e
  | .ok s1 =>
    match acctPut crew 0x40 (totalsBytes c) s1 with
    | .error e => .error e
    | .ok s2 =>
      let c2 := s2.crew crew
      match acctPuts crew [(0, leBytes 8 ((c2.ctx.map Ctx.created).getD 0)), (40, leBytes 8 c2.energy.toNat),
          (8, leBytes 8 s2.cycle), (24, leBytes 4 c2.recCount), (32, leBytes 4 c2.snapCount)] s2 with
      | .error e => .error e
      | .ok s3 =>
        match acctPut crew 36 (leBytes 4 (s3.crew crew).acctStatus) s3 with
        | .error e => .error e
        | .ok s4 => .ok (dropAsked s4 (.acct crew))

/-- The state after a flush that is ready. -/
def acctFlush (s : State) (crew : Nat) : State :=
  match acctTry s crew with
  | .ok t => t
  | .error _ => s

/-- The whole flush can be made now: its accesses are translated, and all its messages find room (26 R383); if strict, a
trap of one is raised. -/
def flushReady (strict : Bool) (s : State) (crew : Nat) : Res State :=
  match acctReady strict s crew (flushRecs (s.crew crew)).length with
  | .error e => .error e
  | .ok s1 =>
    match acctTry s1 crew with
    | .ok _ => .ok s1
    | .error _ => .error (.wait qMem s1)

/-! ## Bank snapshots (R112) -/

/-- The lost counters of a bank snapshot (R112): requester q, bank b at 128 q + 4 b. -/
def bankBytes (c : Crew) : List Byte :=
  (List.range 128).flatMap fun i => leBytes 4 (sget 0#32 c.bank i).toNat

/-- The state after the oldest snapshot of a crew has left its list. -/
def snapDone (s : State) (crew : Nat) : State :=
  let c := s.crew crew
  dropAsked (s.setCrew crew { c with snaps := c.snaps.drop 1 }) (.acct crew)

/-- Write the oldest snapshot of a crew that waits: at its slot, or not at all when there are fewer slots (R112). One
that stalls goes on waiting; one whose write or whose read of the capacities faults is dropped with write_fault and an
error record, and no strand traps (DESIGN CHOICE, assumption log 60). -/
def writeSnap (s : State) (crew : Nat) : State :=
  match (s.crew crew).snaps with
  | [] => s
  | (n, bs) :: _ =>
    let fail (e : Stop) : State :=
      match e with
      | .wait _ s1 => s1
      | e => acctFault (snapDone (e.left s (.acct crew)) crew) crew
    match acctField s crew 28 with
    | .error e => fail e
    | .ok (s1, cap) =>
      match acctField s1 crew 20 with
      | .error e => fail e
      | .ok (s2, rcap) =>
        if cap ≤ n then acctSet (snapDone s2 crew) crew 8
        else
          match agentWrite (acctAgent s2 crew) (acctAddr s2 crew (0x1000 + (16 * rcap + 63) / 64 * 64 + 576 * n)) bs s2 with
          | .ok s3 => snapDone s3 crew
          | .error e => fail e

/-- The bank snapshot of R112 at a loop exit: pc is the loop instruction. -/
def takeSnapshot (s : State) (crew strand : Nat) (triple pc : Word) : State :=
  let c := s.crew crew
  let bs := leBytes 8 s.cycle ++ leBytes 8 pc.toNat ++ leBytes 8 triple.toNat ++ leBytes 1 strand ++
    List.replicate 39 0#8 ++ bankBytes c
  writeSnap (s.setCrew crew { c with
    snapCount := (c.snapCount + 1) % 2 ^ 32
    bank := []
    snaps := c.snaps ++ [(c.snapCount, bs)] }) crew

end Sys2Proof.Machine
end

