-- ==== Sys2Proof/Machine/Flags.lean ====
section
/-! DEFINITION. The flag computations: compare conditions and predicate logic (spec 10 R167, R168), the element
compares of spec 11 R202, and ASTAT (spec 05 R87). -/
namespace Sys2Proof.Machine

/-- A compare condition on two 64-bit operands (spec 09 R155, 10 R167). -/
def condHolds (cond : Nat) (a b : Word) : Bool :=
  match cond with
  | 0 => a == b
  | 1 => a != b
  | 2 => a.slt b
  | 3 => !a.slt b
  | 4 => a.ult b
  | _ => !a.ult b

/-- Predicate logic by function code (R168). -/
def predLogic (fn : Nat) (a b : Bool) : Bool :=
  match fn with
  | 0 => a && b
  | 1 => a || b
  | 2 => a != b
  | 3 => a && !b
  | _ => a || !b

/-- An element compare on values (spec 11 R202): 0 eq, 1 ne, 2 lt, 3 le. With a NaN only ne holds; zeros are equal. -/
def valCond (cond : Nat) (x y : Val) : Bool :=
  if x.isNaN || y.isNaN then cond == 1
  else
    match cond, Val.cmp x y with
    | 0, o => o == .eq
    | 1, o => o != .eq
    | 2, o => o == .lt
    | _, o => o != .gt

/-- The ASTAT bit of accumulator tile k is set (spec 05 R87). -/
def setAstat (c : Crew) (k : Nat) : Crew :=
  { c with astat := c.astat ||| (1#8 <<< k), astatNow := c.astatNow ||| (1#8 <<< k) }

/-- A write to ASTAT: writing 1 to a bit clears it (R87). -/
def clearAstat (c : Crew) (v : Word) : Crew :=
  { c with astat := c.astat &&& (~~~(v.extractLsb' 0 8) ||| c.astatNow) }

end Sys2Proof.Machine
end

