-- ==== Sys2Proof/Machine/Interlock.lean ====
section
/-! DEFINITION. The interlock of registers that have yet to be written: by an operation of the copy engine when it
completes, and by a scalar load or atomic that another device has yet to answer (spec 10 R162; 13 R243; 14 R266,
R267). -/
namespace Sys2Proof.Machine

/-- The registers r to r + n - 1. -/
def regRun (r : BitVec 5) (n : Nat) : List (BitVec 5) := (List.range n).map fun i => r + BitVec.ofNat 5 i

/-- The predicate of a predicate field. -/
def predOf (p : BitVec 4) : List (BitVec 3) := [p.extractLsb' 0 3]

/-- The registers and predicates an instruction reads or writes. Vector and matrix instructions do not run on the
strands that have such registers. -/
def regUse : Instr → List (BitVec 5) × List (BitVec 3)
  | .exit p => ([], predOf p)
  | .yield p => ([], predOf p)
  | .yieldSafe p => ([], predOf p)
  | .tret p => ([], predOf p)
  | .trap p _ => ([], predOf p)
  | .bkpt p _ => ([], predOf p)
  | .acctflush p => ([], predOf p)
  | .fence p _ _ => ([], predOf p)
  | .mfsr p sd _ => ([sd], predOf p)
  | .mtsr p sa _ => ([sa], predOf p)
  | .waitt p sa => ([sa], predOf p)
  | .tkpush p _ => ([], predOf p)
  | .tkpop p _ => ([], predOf p)
  | .gsync p _ => ([], predOf p)
  | .qwr p sa _ _ => ([sa], predOf p)
  | .qrd p sd _ _ => ([sd], predOf p)
  | .add p sd sa sb => ([sd, sa, sb], predOf p)
  | .sub p sd sa sb => ([sd, sa, sb], predOf p)
  | .and p sd sa sb => ([sd, sa, sb], predOf p)
  | .or p sd sa sb => ([sd, sa, sb], predOf p)
  | .xor p sd sa sb => ([sd, sa, sb], predOf p)
  | .sll p sd sa sb => ([sd, sa, sb], predOf p)
  | .srl p sd sa sb => ([sd, sa, sb], predOf p)
  | .sra p sd sa sb => ([sd, sa, sb], predOf p)
  | .mul p sd sa sb => ([sd, sa, sb], predOf p)
  | .mulh p sd sa sb => ([sd, sa, sb], predOf p)
  | .mulhu p sd sa sb => ([sd, sa, sb], predOf p)
  | .div p sd sa sb => ([sd, sa, sb], predOf p)
  | .divu p sd sa sb => ([sd, sa, sb], predOf p)
  | .rem p sd sa sb => ([sd, sa, sb], predOf p)
  | .remu p sd sa sb => ([sd, sa, sb], predOf p)
  | .min p sd sa sb => ([sd, sa, sb], predOf p)
  | .max p sd sa sb => ([sd, sa, sb], predOf p)
  | .minu p sd sa sb => ([sd, sa, sb], predOf p)
  | .maxu p sd sa sb => ([sd, sa, sb], predOf p)
  | .clz p sd sa => ([sd, sa], predOf p)
  | .ctz p sd sa => ([sd, sa], predOf p)
  | .popc p sd sa => ([sd, sa], predOf p)
  | .addi sd sa _ => ([sd, sa], [])
  | .andi sd sa _ => ([sd, sa], [])
  | .ori sd sa _ => ([sd, sa], [])
  | .xori sd sa _ => ([sd, sa], [])
  | .slli sd sa _ => ([sd, sa], [])
  | .srli sd sa _ => ([sd, sa], [])
  | .srai sd sa _ => ([sd, sa], [])
  | .lui sd _ => ([sd], [])
  | .cmp p pd _ sa sb => ([sa, sb], pd :: predOf p)
  | .cmpi pd _ sa _ => ([sa], pd :: [])
  | .pand p pd pa pb => ([], pd :: pa :: pb :: predOf p)
  | .por p pd pa pb => ([], pd :: pa :: pb :: predOf p)
  | .pxor p pd pa pb => ([], pd :: pa :: pb :: predOf p)
  | .pandn p pd pa pb => ([], pd :: pa :: pb :: predOf p)
  | .porn p pd pa pb => ([], pd :: pa :: pb :: predOf p)
  | .lea p sd sa sb => ([sd, sa, sb], predOf p)
  | .tag p sd sa _ => ([sd, sa], predOf p)
  | .space p sd sa => ([sd, sa], predOf p)
  | .rng p sd => ([sd], predOf p)
  | .rngc p sd sn => (sd :: regRun sn 4, predOf p)
  | .br p _ => ([], predOf p)
  | .jmp _ => ([], [])
  | .call _ => ([1#5], [])
  | .jr p sa => ([sa], predOf p)
  | .callr p sa => ([1#5, sa], predOf p)
  | .loop _ _ sa _ => ([sa], [4#3, 5#3, 6#3, 7#3])
  | .ldb sd sa _ => ([sd, sa], [])
  | .ldbu sd sa _ => ([sd, sa], [])
  | .ldh sd sa _ => ([sd, sa], [])
  | .ldhu sd sa _ => ([sd, sa], [])
  | .ldw sd sa _ => ([sd, sa], [])
  | .ldwu sd sa _ => ([sd, sa], [])
  | .ldd sd sa _ => ([sd, sa], [])
  | .stb sb sa _ => ([sb, sa], [])
  | .sth sb sa _ => ([sb, sa], [])
  | .stw sb sa _ => ([sb, sa], [])
  | .std sb sa _ => ([sb, sa], [])
  | .ldx p sd sa si _ _ _ _ _ => ([sd, sa, si], predOf p)
  | .stx p sb sa si _ _ _ _ => ([sb, sa, si], predOf p)
  | .ldxAcq p sd sa si _ _ _ _ => ([sd, sa, si], predOf p)
  | .stxRel p sb sa si _ _ _ _ => ([sb, sa, si], predOf p)
  | .amoAdd p sd sa sb _ _ => ([sd, sa, sb], predOf p)
  | .amoMin p sd sa sb _ _ => ([sd, sa, sb], predOf p)
  | .amoMax p sd sa sb _ _ => ([sd, sa, sb], predOf p)
  | .amoMinu p sd sa sb _ _ => ([sd, sa, sb], predOf p)
  | .amoMaxu p sd sa sb _ _ => ([sd, sa, sb], predOf p)
  | .amoAnd p sd sa sb _ _ => ([sd, sa, sb], predOf p)
  | .amoOr p sd sa sb _ _ => ([sd, sa, sb], predOf p)
  | .amoXor p sd sa sb _ _ => ([sd, sa, sb], predOf p)
  | .amoSwp p sd sa sb _ _ => ([sd, sa, sb], predOf p)
  | .cas p sd sa sb sc _ _ => ([sd, sa, sb, sc], predOf p)
  | .amoFadd p sd sa sb _ => ([sd, sa, sb], predOf p)
  | .li32 p sd _ => ([sd], predOf p)
  | .lih p sd _ => ([sd], predOf p)
  | .vadd _ _ => ([], [])
  | .vsub _ _ => ([], [])
  | .vmul _ _ => ([], [])
  | .vfma _ _ => ([], [])
  | .vmin _ _ => ([], [])
  | .vmax _ _ => ([], [])
  | .vabs _ _ => ([], [])
  | .vneg _ _ => ([], [])
  | .vexp2 _ _ => ([], [])
  | .vlog2 _ _ => ([], [])
  | .vrcp _ _ => ([], [])
  | .vrsqrt _ _ => ([], [])
  | .vtanh _ _ => ([], [])
  | .vand _ _ => ([], [])
  | .vor _ _ => ([], [])
  | .vxor _ _ => ([], [])
  | .vshl _ _ => ([], [])
  | .vshr _ _ => ([], [])
  | .vsra _ _ => ([], [])
  | .vcmpEq _ _ => ([], [])
  | .vcmpNe _ _ => ([], [])
  | .vcmpLt _ _ => ([], [])
  | .vcmpLe _ _ => ([], [])
  | .vsel _ _ => ([], [])
  | .vcvt _ _ => ([], [])
  | .vqblk _ _ => ([], [])
  | .vunpk _ _ => ([], [])
  | .vdrop _ _ => ([], [])
  | .vrsum _ _ => ([], [])
  | .vrmax _ _ => ([], [])
  | .vrmin _ _ => ([], [])
  | .vmov _ _ => ([], [])
  | .vshuf _ _ => ([], [])
  | .viota _ _ => ([], [])
  | .vsplat _ _ => ([], [])
  | .vld _ _ => ([], [])
  | .vst _ _ => ([], [])
  | .vldt _ _ => ([], [])
  | .vgath _ _ => ([], [])
  | .vrng _ _ => ([], [])
  | .vtrn _ _ => ([], [])
  | .alease _ _ => ([], [])
  | .arelease _ _ => ([], [])
  | .lds _ _ => ([], [])
  | .ldsP _ _ => ([], [])
  | .ldsCb _ _ => ([], [])
  | .ldsBs _ _ => ([], [])
  | .mswap _ _ => ([], [])
  | .mmul _ _ => ([], [])
  | .mmulBs _ _ => ([], [])
  | .mdrain _ _ => ([], [])
  | .mzero _ _ => ([], [])
  | .mcbt _ _ => ([], [])
  | .cpy e c => (c.sd :: regRun c.sn 8, predOf e.p)
  | .cpyLd e c => (c.sd :: regRun c.sn 8, predOf e.p)
  | .cpySt e c => (c.sd :: regRun c.sn 8, predOf e.p)
  | .cgath e c => (c.sd :: regRun c.sn 8, predOf e.p)
  | .cscat e c => (c.sd :: regRun c.sn 8, predOf e.p)
  | .cred e c => (c.sd :: regRun c.sn 8, predOf e.p)
  | .cpref e c => (c.sd :: regRun c.sn 8, c.pd :: predOf e.p)
  | .cring e c => (c.sd :: regRun c.sn 8, predOf e.p)
  | .collOpen e c => (c.sd :: regRun c.sn 2, c.pd :: predOf e.p)
  | .collAred e c => (c.sd :: regRun c.sn 6, predOf e.p)
  | .collAgath e c => (c.sd :: regRun c.sn 6, predOf e.p)
  | .collBcast e c => (c.sd :: regRun c.sn 6, predOf e.p)
  | .collClose e c => (c.sd :: regRun c.sn 1, predOf e.p)
  | .send e c => (c.sd :: regRun c.sn 6, predOf e.p)
  | .recv e c => (c.sd :: regRun c.sn 6, predOf e.p)
  | .japp e c => (c.sd :: regRun c.sn 6, predOf e.p)
  | .jwait e c => (c.sd :: regRun c.sn 3, c.pd :: predOf e.p)
  | .jfetch e c => (c.sd :: regRun c.sn 5, predOf e.p)
  | .glzPost e c => (c.sd :: regRun c.sn 1, predOf e.p)
  | .glzWait e c => (c.sd :: regRun c.sn 1, predOf e.p)
  | .binit e y => ([y.sa, y.sb], predOf e.p)
  | .bexpect e y => ([y.sa, y.sb], y.pd :: predOf e.p)
  | .barrive e y => ([y.sa, y.sb], y.pd :: predOf e.p)
  | .bwait e y => ([y.sa, y.sb], predOf e.p)
  | .btest e y => ([y.sa, y.sb], y.pd :: predOf e.p)
  | .rinit e y => (y.sa :: regRun y.sb 3, predOf e.p)
  | .rwaitf e y => ([y.sa, y.sb], predOf e.p)
  | .rrel e y => ([y.sa], predOf e.p)
  | .patch _ _ _ => ([], [])
  | .tload p sa => ([sa], predOf p)
  | .krules p sa => ([sa], predOf p)
  | .kneadGroupIssue _ => ([], [])
  | .engineInstructionCompletion _ _ => ([], [])
  | .asyncTrapEntry _ _ => ([], [])
  | .waittWake _ _ _ => ([], [])
  | .jwaitDeadline _ _ _ _ => ([], [])
  | .watchdogExpiry _ _ => ([], [])
  | .leaseGrant _ => ([], [])
  | .leaseLimit _ => ([], [])
  | .rampStep _ => ([], [])
  | .copyUnit _ _ => ([], [])
  | .copyCompletion _ _ => ([], [])
  | .reductionContextClaim => ([], [])
  | .fabricOpCompletion _ _ => ([], [])
  | .collectiveChunk _ => ([], [])
  | .sendData _ => ([], [])
  | .remoteAccess _ => ([], [])
  | .acknowledgement _ _ => ([], [])
  | .journalArrival _ _ _ _ => ([], [])
  | .jfetchRequest _ _ _ _ => ([], [])
  | .jappResend _ _ => ([], [])
  | .flitReceive _ _ => ([], [])
  | .retryRequest _ _ => ([], [])
  | .portRetrain _ _ => ([], [])
  | .glazeCardRun _ _ => ([], [])
  | .glazeCardCompletion _ _ => ([], [])
  | .translationWalk _ _ _ _ => ([], [])
  | .translationExpiry => ([], [])
  | .clockSkewDetection _ _ => ([], [])
  | .fqrespWrite _ => ([], [])
  | .fqheadWrite _ => ([], [])
  | .xrRootWrite _ _ _ => ([], [])
  | .fcmdWrite _ => ([], [])
  | .frameFormatComplete => ([], [])
  | .queueConfigWrite _ _ _ => ([], [])
  | .tailWrite _ _ => ([], [])
  | .abortWrite _ _ => ([], [])
  | .functionLevelReset _ => ([], [])
  | .launchRecordRead _ => ([], [])
  | .dispatch => ([], [])
  | .tilePreloadComplete _ => ([], [])
  | .taskCompletion _ => ([], [])
  | .launchCompletion _ => ([], [])
  | .accountRecordEviction _ => ([], [])
  | .accountCountOverflow _ => ([], [])
  | .priorityAging => ([], [])
  | .epochBoundary => ([], [])
  | .partitionExamination => ([], [])
  | .preemptWrite _ => ([], [])
  | .contextSave _ => ([], [])
  | .spillcfgWrite _ => ([], [])
  | .stagecfgWrite _ => ([], [])
  | .powerControlInterval _ _ _ => ([], [])
  | .pwrcfgWrite _ => ([], [])
  | .rowcapWrite _ => ([], [])
  | .uncorrectableError _ _ _ _ => ([], [])
  | .bootStart _ => ([], [])
  | .bootclr _ => ([], [])
  | .bootctl _ => ([], [])
  | .fwsvn _ => ([], [])
  | .attctlGo _ => ([], [])
  | .attestationReportComplete => ([], [])
  | .telesnap _ => ([], [])
  | .telesnapComplete => ([], [])
  | .counterBankWrite _ _ _ => ([], [])
  | .recorderConfigWrite _ _ _ => ([], [])
  | .registerWrite _ _ => ([], [])
  | .unassignedEncoding _ _ => ([], [])
  | .instructionFetchFault _ _ => ([], [])
  | .zeroingComplete _ => ([], [])
  | .clockCopyResync _ => ([], [])
  | .correctedSoftError _ _ _ _ => ([], [])
  | .cxlMemAccess _ _ _ => ([], [])

/-- The operation writes sd, and pd where it has one, when it completes (R243, R266, R267). -/
def lateWrites (opc : Nat) : Bool := opc == 6 || (0x10 ≤ opc && opc ≤ 0x13) || opc == 0x18 || opc == 0x19 ||
  opc == 0x20 || opc == 0x22

/-- The cause a reader of the operation's registers is charged while it waits. -/
def lateCharge (opc : Nat) : Nat := if opc = 6 then qMem else qColl

/-- The instruction touches a register or predicate that the operation has yet to write; s0 and p0 are written by
none. -/
def touches (o : AsyncOp) (u : List (BitVec 5) × List (BitVec 3)) : Bool :=
  (o.fields.sd != 0#5 && u.1.contains o.fields.sd) ||
    ((o.opc == 6 || o.opc == 0x10) && o.fields.pd != 0#3 && u.2.contains o.fields.pd)

/-- A load or atomic has yet to write a register that the instruction touches; one whose destination is lost writes
none. -/
def Late.holds (x : Late) (u : List (BitVec 5) × List (BitVec 3)) : Bool := !x.lost && x.sd != 0#5 && u.1.contains x.sd

/-- What the strand in focus waits for before it reads and writes registers u: the cause that is charged (07 R107). -/
def regWait (s : State) (u : List (BitVec 5) × List (BitVec 3)) : Option Nat :=
  let ops := if s.cur.2 = .c then s.myCrew.ops.filter fun o => lateWrites o.opc && !(o.opc == 0x10 && o.finished) && touches o u else []
  if ops.any fun o => lateCharge o.opc == qColl then some qColl
  else if !ops.isEmpty || s.me.late.any (fun x => x.holds u) then some qMem
  else none

/-- The registers that an instruction reads: those of regUse, without the first where that is its destination. -/
def regSources (i : Instr) : List (BitVec 5) :=
  match i with
  | .mtsr .. | .waitt .. | .qwr .. | .cmp .. | .cmpi .. | .jr .. | .loop .. | .stb .. | .sth .. | .stw .. | .std .. | .stx ..
  | .stxRel .. | .binit .. | .bexpect .. | .barrive .. | .bwait .. | .btest .. | .rinit .. | .rwaitf .. | .rrel .. | .tload ..
  | .krules .. => (regUse i).1
  | _ => (regUse i).1.drop 1

/-- What an instruction of the strand in focus waits for before it reads its registers. -/
def interlock (s : State) (i : Instr) : Option Nat := regWait s (regUse i)

/-- What it waits for before it reads its predicate: it then waits on no operand if the predicate does not hold (09
R141). -/
def predWait (s : State) (p : BitVec 4) : Option Nat := regWait s ([], predOf p)

end Sys2Proof.Machine
end

