-- ==== Sys2Proof/Machine/Ops.lean ====
section
/-! DEFINITION. The shared operations of every instruction: taking a trap and returning from one (spec 23 R357 to
R364), ending an instruction with its loop processing (10 R173), waiting, and the common order of checks
(09 R142). -/
namespace Sys2Proof.Machine

/-! ## Kill (R364) -/

/-- What a kill leaves of an operation (R364 step 3): its units that have passed their checks, the one being sent
among them; none if there is no such unit left. -/
def opPassed (o : AsyncOp) : Option AsyncOp :=
  if o.finished then some o
  else if o.sent && decide (o.opc < 8) then
    some { o with total := o.next + 1, cut := decide (o.next + 1 < o.total) }
  else none

/-- Stop every strand of a crew (R364 step 1): each is charged IDLE where it stopped, from the cycle after the one in
which its last slot was used. Units that have passed their checks complete, every other unit has no effect, held
operations are abandoned (13 R255), and no load of another device's bytes is awaited. -/
def killCrew (c : Crew) (cause : Nat) : Crew :=
  match c.ctx, c.killed with
  | some _, none =>
    let stop (c : Crew) (k : StrandKind) : Crew :=
      let x := c.str k
      c.setStr k (if x.exited then x else { x with
        cond := qIdle
        condPc := x.pc
        latch := none
        late := []
        slot := x.slot.map fun p => (p.1, p.2.1, min 1 p.2.2) })
    let c := allKinds.foldl stop c
    { c with killed := some cause, mark := none, ops := c.ops.filterMap opPassed }
  | _, _ => c

/-- Strand k of a crew waits on no fault record and no longer asks for bytes. -/
def dropStrand (s : State) (crew : Nat) (k : StrandKind) : State :=
  let s := dropWaiter (dropWaiter (dropWaiter s (.strand crew k)) (.look crew k)) (.fetch crew k)
  dropAsked (dropAsked (dropAsked s (.strand crew k)) (.look crew k)) (.fetch crew k)

/-- The matrix strand of a crew withdraws its request for the lease (12 R219). -/
def withdraw (s : State) (crew : Nat) : State :=
  let u := s.cu (cuOf crew)
  s.setCu (cuOf crew) { u with requests := u.requests.filter fun j => j ≠ crew % 4 }

/-- Kill the context on a crew with a cause (R364). -/
def killContext (s : State) (crew cause : Nat) : State :=
  let s := s.setCrew crew (killCrew (s.crew crew) cause)
  withdraw (allKinds.foldl (fun s k => dropStrand s crew k) s) crew

/-! ## Taking a trap (R357) -/

/-- The registers of trap level n. -/
def Strand.trapRegs (x : Strand) (n : Nat) : TrapRegs := if n = 1 then x.t1 else x.t2

/-- The strand with other registers of trap level n. -/
def Strand.setTrapRegs (x : Strand) (n : Nat) (t : TrapRegs) : Strand :=
  if n = 1 then { x with t1 := t } else { x with t2 := t }

/-- TVEC.handler times 4 (R359). -/
def handlerPc (tvec : Word) : Word := tvec &&& 0x01FFFFFFFFFFFFFC#64

/-- Four rows of zero bits (11 R194). -/
def zeroRing : List RingEnt := List.replicate 4 {}

/-- Trap entry on strand k of a crew (R357): flags are bits 10:8 of TCAUSE, members the Knead count where a group
traps (18 R300). Entering a third level, or with TVEC.en 0, kills the context with the cause. The wait of the
strand is abandoned (R362); a waiting alease withdraws its request (12 R219). -/
def takeTrap (s : State) (crew : Nat) (k : StrandKind) (cause flags : Nat) (val epc : Word)
    (members : Option Nat := none) : State :=
  let c := s.crew crew
  let x := c.str k
  let n := x.level + 1
  if n = 3 ∨ x.tvec.getLsbD 0 = false then killContext s crew cause
  else
    let t := x.trapRegs n
    let t := { t with
      epc := epc
      cause := BitVec.ofNat 64 (flags + cause)
      val := val
      members := members.getD t.members
      ring := if k = .v then c.ring else t.ring }
    let x := { x.setTrapRegs n t with
      level := n
      pc := handlerPc x.tvec
      latch := none
      waited := false
      cond := qFetch
      condPc := handlerPc x.tvec }
    let c := c.setStr k x
    let c := if k = .v then { c with ring := zeroRing } else c
    let s := dropStrand (s.setCrew crew c) crew k
    if k = .m then withdraw s crew else s

/-! ## Hardware loops (02 R38 to R40, 10 R173) -/

/-- The stage predicates of iteration i (02 R39): p(4+k) is set exactly when 0 ≤ i - k < N. -/
def stagePreds (x : Strand) (stages trips i : Nat) : Strand :=
  (List.range stages).foldl
    (fun x k => x.setPred (BitVec.ofNat 3 (4 + k)) (decide (k ≤ i ∧ i - k < trips))) x

/-- The iterations of a loop: N, or N + S - 1 (R173). -/
def Loop.total (l : Loop) : Nat := if l.stages = 0 then l.trips else l.trips + l.stages - 1

/-- The stage of a triple: the highest k whose stage predicate is true in iteration i, 0 without stages (07 R113). -/
def topStage (stages trips i : Nat) : Nat :=
  (List.range stages).foldl (fun a k => if k ≤ i ∧ i - k < trips then k else a) 0

/-- A loop triple as 64 bits (07 R113). -/
def Loop.triple (l : Loop) (id : Nat) : Word :=
  BitVec.ofNat 64 (l.i % 2 ^ 40 * 256 + id % 4 * 4 + topStage l.stages l.trips l.i)

/-- The loop instruction of a level stands before its body (10 R172). -/
def Loop.pc (l : Loop) : Word := l.start - 4#64

/-- What a loop exit reports for the bank snapshot: the triple and the loop instruction. -/
abbrev Exits := List (Word × Word)

/-- The strand with every loop level changed. -/
def Strand.mapLoops (x : Strand) (f : Loop → Loop) : Strand := { x with loops := Vector.ofFn fun id => f (x.loops.get id) }

/-- Loop level id. -/
def Strand.loop (x : Strand) (id : Fin 4) : Loop := x.loops.get id

/-- The strand with another loop level id. -/
def Strand.setLoop (x : Strand) (id : Fin 4) (l : Loop) : Strand := { x with loops := x.loops.set id.val l id.isLt }

/-- A pc lies in the body of a loop. -/
def Loop.within (l : Loop) (pc : Word) : Bool := l.start.toNat ≤ pc.toNat && pc.toNat ≤ l.last.toNat

/-- n slots of the instruction at the PC are used: ISSUE, or TRAP above level 0 (07 R107, R108; 18 R302; 19 R309). -/
def Strand.useSlot (x : Strand) (n : Nat := 1) : Strand := { x with slot := some (effCause x.level qIssue, x.pc, n) }

/-- An instruction of the strand has issued: the iterations that hold it have begun (07 R114). -/
def Strand.begun (x : Strand) : Strand :=
  x.mapLoops fun l => if l.level == x.level && l.within x.pc then { l with fresh := false } else l

/-- A synchronous trap of the instruction of the strand in focus: the slot stays charged (07 R108). -/
def trapMe (s : State) (cause : Nat) (val : Word) : State :=
  let x := s.me
  takeTrap (s.setMe x.useSlot.begun) s.cur.1 s.cur.2 cause 0 val x.pc

/-- The active loop that ends at pc at this trap level and started last: the innermost (R173), none if there is none. -/
def innermostAt (x : Strand) (pc : Word) : Option (Fin 4) :=
  ([0, 1, 2, 3] : List (Fin 4)).foldl
    (fun a id =>
      let l := x.loop id
      if l.active && l.level == x.level && l.last == pc then
        match a with
        | none => some id
        | some b => if (x.loop b).start.toNat < l.start.toNat then some id else some b
      else a) none

/-- Each time the instruction at the end address completes without a transfer (R173): the innermost loop decides
first; a loop that becomes inactive lets the next one with the same end decide. next is the address after it. -/
def loopEnd : Nat → Strand → Word → Word → Exits → Strand × Exits
  | 0, x, _, next, ex => ({ x with pc := next }, ex)
  | n + 1, x, pc, next, ex =>
    match innermostAt x pc with
    | none => ({ x with pc := next }, ex)
    | some id =>
      let l := x.loop id
      if l.i + 1 < l.total then
        let l' := { l with i := l.i + 1, fresh := true }
        let x := stagePreds (x.setLoop id l') l.stages l.trips (l.i + 1)
        ({ x with pc := l.start }, ex)
      else loopEnd n (x.setLoop id { l with active := false, fresh := false }) pc next (ex ++ [(l.triple id.val, l.pc)])

/-- A taken br, jmp or jr from pc to target ends every active loop that holds pc and not target, and the loops
within it (R174). Their snapshots follow in the order of the loop ids (the spec gives none: DESIGN CHOICE, assumption
log 87). -/
def leaveLoops (x : Strand) (pc target : Word) : Strand × Exits :=
  let ends (l : Loop) : Bool := l.active && l.level == x.level && l.within pc && !l.within target
  let outer := ([0, 1, 2, 3] : List (Fin 4)).filter fun id => ends (x.loop id)
  let inside (l : Loop) : Bool := outer.any fun id =>
    (x.loop id).start.toNat ≤ l.start.toNat && l.last.toNat ≤ (x.loop id).last.toNat
  ([0, 1, 2, 3] : List (Fin 4)).foldl
    (fun (r : Strand × Exits) id =>
      let l := x.loop id
      if l.active && l.level == x.level && inside l then
        (r.1.setLoop id { l with active := false, fresh := false }, r.2 ++ [(l.triple id.val, l.pc)])
      else r) (x, [])

/-- The snapshots of loop exits of the strand in focus (07 R112). -/
def snapshots (s : State) (ex : Exits) : State :=
  ex.foldl (fun s e => takeSnapshot s s.cur.1 (kindNum s.cur.2) e.1 e.2) s

/-! ## Ending an instruction -/

/-- One instruction has issued on the strand: the latched patch is used up, an iteration has begun, the suppression of
grouping counts down (18 R301), the strand no longer waits, and an arrival kept at its trap level is over (02 R29). -/
def Strand.issued (x : Strand) : Strand :=
  { x.begun with
    latch := none
    waited := false
    gsyncs := x.gsyncs.filter fun a => a.level != x.level
    suppress := x.suppress - 1 }

/-- The strand now has no decoded instruction until it issues again (07 R107 FETCH). -/
def Strand.fetching (x : Strand) : Strand := { x with cond := qFetch, condPc := x.pc }

/-- The length of the instruction at the PC: 4 when it came from a patch word (09 R149). -/
def Strand.lenOf (x : Strand) (i : Instr) : Nat := if x.latch.isSome then 4 else i.bytes

/-- The instruction completes without a transfer: the PC goes on, past loop ends (R173). -/
def retire (i : Instr) (s : State) (slots : Nat := 1) : State :=
  let x := s.me
  let next := x.pc + BitVec.ofNat 64 (x.lenOf i)
  let (y, ex) := loopEnd 4 (x.useSlot slots).issued x.pc next []
  snapshots (s.setMe y.fetching) ex

/-- The instruction transfers control: the PC becomes the target. No group is suppressed any more (18 R301). -/
def transfer (target : Word) (s : State) : State :=
  let x := s.me.useSlot.issued
  s.setMe { x with pc := target, suppress := 0 }.fetching

/-- The strand waits at its instruction, charged to a cause (07 R107); nothing has issued. -/
def holdMe (charge : Nat) (s : State) : State :=
  let x := s.me
  s.setMe { x with waited := true, cond := charge, condPc := x.pc }

/-! ## The common order of checks (09 R142) -/

/-- Where control goes at the end of a body: on, or to a target. -/
abbrev Body := State → Res (State × Option Word)

/-- The ending of a body's answer; s0 is the state before it. -/
def finish (i : Instr) (s0 : State) (slots : Nat) : Res (State × Option Word) → Outcome
  | .ok (s, none) => .next (retire i s slots)
  | .ok (s, some t) => .next (transfer t s)
  | .error (.trap c v) => .next (trapMe s0 c v)
  | .error (.xtrap c v s) => .next (trapMe s c v)
  | .error (.wait q s) => .next (holdMe q s)
  | .error (.fault f) => .fault f

/-- TVAL of an ILLEGAL for the instruction's words (R142). -/
def wordsVal (i : Instr) : Word := wordsOf (encode i)

/-- A vector instruction that does not execute pushes a row of zero bits (R141, 11 R194). -/
def pushRing (c : Crew) (e : RingEnt) : Crew := { c with ring := e :: c.ring.take 3 }

/-- What an instruction is charged that waits for a register with cause q: its body's own cause if that comes first (07
R107); blind says that a register that it reads is missing, and then only its tiles and tokens are known. -/
def holdCause (q : Nat) (blind : Bool) {α : Type} : Res α → Nat
  | .error (.wait r _) => if blind && r != qTile && r != qToken then q else firstCause q r
  | _ => q

/-- R142 steps 2 to 4 for an instruction that strands of the given kinds may execute, with the interlock of 10 R162
first for its predicate and, if that holds, for its operands (09 R141), with predicate field p; offRing says that it
pushes a zero row when it does not execute, slots how many issue slots it takes. -/
def issue (i : Instr) (kinds : List StrandKind) (p : BitVec 4) (offRing : Bool) (body : Body) (s : State)
    (slots : Nat := 1) : Outcome :=
  if !kinds.contains s.cur.2 then .next (trapMe s cIllegal (wordsVal i))
  else
    match predWait s p with
    | some q => .next (holdMe q s)
    | none =>
      if !s.me.predHolds p then .next (retire i (if offRing then s.setMyCrew (pushRing s.myCrew {}) else s))
      else
        match interlock s i with
        | some q => .next (holdMe (holdCause q (regWait s (regSources i, [])).isSome (body s)) s)
        | none => finish i s slots (body s)

/-- Every strand kind. -/
def anyKind : List StrandKind := [.s, .v, .m, .c]
/-- The strands with scalar memory (09 R152). -/
def memKinds : List StrandKind := [.s, .c]

/-- A body that only changes registers and predicates of its strand. -/
def pureBody (f : Strand → Strand) : Body := fun s => .ok (s.setMe (f s.me), none)

/-- ILLEGAL with the instruction's words in TVAL. -/
def illegalWords {α : Type} (i : Instr) : Res α := .error (.trap cIllegal (wordsVal i))

/-! ## Return from a trap (10 R184, 23 R357 to R359) -/

/-- Why a transfer target fails R171: one that is misaligned and in a wrong space raises MISALIGN (the spec gives no
order: DESIGN CHOICE, assumption log 89). -/
def targetTrap (t : Word) : Option Nat :=
  if t.bits 1 0 ≠ 0 then some cMisalign
  else if t.bits 63 57 ≠ 0 then some cSpace
  else none

/-- Loops started at level n end when a tret leaves it (R358). -/
def endLoopsOf (x : Strand) (n : Nat) : Strand :=
  x.mapLoops fun l => if l.active && l.level == n then { l with active := false, fresh := false } else l

/-- A held operation reported at level n is released by the tret that leaves level n (13 R255). -/
def releaseHeld (c : Crew) (n : Nat) : Crew :=
  { c with ops := c.ops.map fun o =>
      match o.held with
      | some h => if h.reported = some n then { o with held := none } else o
      | none => o }

/-- The arrivals that a return from level n to pc keeps (02 R29): a gsync that runs again is the same arrival, and one
that has been passed by is over. -/
def keepArrivals (x : Strand) (n : Nat) (pc : Word) : List GsyncArr :=
  x.gsyncs.filter fun a => decide (a.level + 1 < n) || (a.level + 1 == n && a.pc == pc)

/-- The return from trap level n of the strand in focus, its target checked: the PC, the level, the ring, loops, gsync
arrivals, held operations and the suppression of R301. -/
def trapReturn (s : State) : State :=
  let c := s.myCrew
  let x := s.me
  let n := x.level
  let t := x.trapRegs n
  let x := (endLoopsOf x n).useSlot.issued
  let x := { x with
    pc := t.epc
    level := n - 1
    gsyncs := keepArrivals x n t.epc
    suppress := if t.cause.getLsbD 8 then t.members else 0 }.fetching
  let c := c.setStr s.cur.2 x
  let c := if s.cur.2 = .v then { c with ring := t.ring } else c
  s.setMyCrew (if s.cur.2 = .c then releaseHeld c n else c)

end Sys2Proof.Machine
end

