-- ==== Sys2Proof/Machine/Access.lean ====
section
/-! DEFINITION. Memory accesses of a strand: the checks of 10 R176 and 11 R213, ordering classes where an earlier
access is on its way to another device (spec 04 R59 to R66), loads and stores, and atomics. An access to this device's
memory is performed whole in its own step (assumption log 6). -/
namespace Sys2Proof.Machine

/-! ## Translation for the strand in focus -/

/-- The strand in focus as an agent. -/
def myAgent (s : State) : Agent :=
  { who := .strand s.cur.1 s.cur.2, crew := s.cur.1, cu := cuOf s.cur.1, fn := s.myCrew.tenant }

/-- The strand in focus as the agent of its instruction fetch. -/
def fetchAgent (s : State) : Agent := { myAgent s with who := .fetch s.cur.1 s.cur.2 }

/-- The places of an n-byte access at a by the strand in focus, after the pointer checks: ownership or translation
and permission of every byte, the lowest failing one reported (R45, R176, R213). -/
def placesOf (s : State) (a : Word) (n z : Nat) (need : BitVec 3) (margin : Nat := 0) : Res (State × List Place) :=
  if spaceOf a = 0 then agentPlaces (myAgent s) need qXlate margin (pagesOf n) a n s
  else
    let ps := padPlaces (cuOf s.cur.1) a z (n / 32 + 2) (ptrOff a) n
    match firstForeign s s.myCrew.tenant ps 0 with
    | some i => .error (.trap cPerm (a + BitVec.ofNat 64 i))
    | none => if zeroingHit s ps then .error (.wait qMem s) else .ok (s, ps)

/-- The first address beyond the field of a pointer (R213). -/
def beyond (a : Word) : Word := a - BitVec.ofNat 64 (ptrOff a) + BitVec.ofNat 64 (fieldSize a)

/-- The checks of R176 on the pointer of an n-byte access aligned to al: swizzle, space, alignment; TVAL for the
space check is val. -/
def pointerCheck (a : Word) (n z al : Nat) (val : Word) : Option (Nat × Word) :=
  if z ≠ 0 ∧ spaceOf a = 0 then some (cIllegal, a)
  else if !ptrOk a then some (cSpace, a)
  else if !endOk a n then some (cSpace, val)
  else if a.toNat % al ≠ 0 then some (cMisalign, a)
  else none

/-! ## Ordering classes (04 R59 to R66) -/

/-- The strand's own accesses that other devices have yet to perform. -/
def mine (s : State) : List RemoteWait := s.remote.filter fun r => r.crew == s.cur.1 && r.by_ == some (kindNum s.cur.2)

/-- An access of class c waits for an earlier one of the strand (R59, R62). -/
def classHeld (s : State) (c : Nat) : Bool := (mine s).any fun r => r.holds.getLsbD c

/-- An earlier access of the strand with a class of the mask has yet to be performed (R60, R62). -/
def maskHeld (s : State) (m : BitVec 16) : Bool := (mine s).any fun r => m.getLsbD r.cls

/-- The strand as the sender of its own access of class c; more are the further classes that wait for it. -/
def mySender (s : State) (c : Nat) (more : BitVec 16 := 0#16) : Sender :=
  { crew := s.cur.1, by_ := some (kindNum s.cur.2), cls := c, holds := more ||| (1#16 <<< c) }

/-- A body whose access has class c: it waits, charged to MEM_WAIT, for the earlier accesses that come before it; until
then it asks no other device for anything. The later replacement of a group is put off instead (18 R299). -/
def inClass (c : Nat) (body : Body) : Body := fun s =>
  match body s with
  | .ok r => if !s.myCrew.grouped && classHeld s c then .error (.wait qMem s) else .ok r
  | .error (.wait q u) => if !s.myCrew.grouped && classHeld s c then .error (.wait (firstCause q qMem) s) else .error (.wait q u)
  | e => e

/-! ## Loads and stores -/

/-- Load the bytes of places for the strand in focus, which waits for them. -/
def loadPlaces (s : State) (a : Word) (ps : List Place) (bytewise : Bool := false) : Res (State × List Byte) :=
  match agentLoad (myAgent s) s a ps bytewise with
  | .error e => .error e
  | .ok (s1, bs) => .ok (dropAsked s1 (.strand s.cur.1 s.cur.2), bs)

/-- Load n bytes of a table at a for the strand in focus, which waits for them, all checks made (R176); the lowest
failing byte address is reported (18 R304, 19 R306). -/
def loadBytes (s : State) (a : Word) (n z al : Nat) : Res (State × List Byte) :=
  match pointerCheck a n z al (beyond a) with
  | some (c, v) => .error (.trap c v)
  | none =>
    match placesOf s a n z 1#3 with
    | .error e => .error e
    | .ok (s1, ps) => loadPlaces s1 a ps true

/-- Store bytes at a with class c for the strand in focus, all checks made (R176). -/
def storeBytes (s : State) (a : Word) (bs : List Byte) (z al c : Nat) : Res State :=
  match pointerCheck a bs.length z al a with
  | some (q, v) => .error (.trap q v)
  | none =>
    match placesOf s a bs.length z 2#3 with
    | .error e => .error e
    | .ok (s1, ps) =>
      if ps.all (storeReady s1) then .ok (storePlaces (mySender s1 c) ps bs (countPlaces s1 s1.myCrew.tenant true ps))
      else .error (.wait qMem s1)

/-- The number of n little-endian bytes, extended to 64 bits (spec 10 R175). -/
def extend (sext : Bool) (n : Nat) (bs : List Byte) : Word :=
  let v := leNat bs
  if sext && v / 2 ^ (8 * n - 1) % 2 = 1 then BitVec.ofNat 64 (v + (2 ^ 64 - 2 ^ (8 * n))) else BitVec.ofNat 64 v

/-! ## Loads and atomics that another device answers (10 R162) -/

/-- The requests of a load or atomic are sent one by one: the parts that stand for them, and this device's bytes between
them. -/
def sendParts (w : Sender) : List Place → List Ask → State → State × List (Nat × List Byte)
  | [], _, s => (s, [])
  | p :: r, as_, s =>
    if isWindowKey p.1 then
      match as_ with
      | [] => sendParts w r [] s
      | q :: more =>
        let rest := sendParts w r more (sendAsk w s q)
        (rest.1, (s.remoteSeq + 1, []) :: rest.2)
    else
      let rest := sendParts w r as_ s
      (rest.1, (0, memBytes s.mem p.1 p.2) :: rest.2)

/-- A load or atomic goes on while other devices answer it (R162): sd is written when the last answer is here. A lost
target raises XLATE_PERM with the pointer (26 R387). -/
def lateAccess (s : State) (a : Word) (ps : List Place) (reqs : List Ask) (sd : BitVec 5) (size : Nat) (sext : Bool)
    (c : Nat) (more : BitVec 16) : Res State :=
  match reqs.findSome? (askFault s s.cur.1) with
  | some f => .error (.xtrap f.1 a f.2)
  | none =>
    if !reqs.all (askReady s) then .error (.wait qMem s)
    else
      let r := sendParts (mySender s c more) ps reqs s
      let x := r.1.me
      .ok (r.1.setMe { x with late := x.late ++
        [{ sd, size, sext, pc := s.me.pc, ptr := a, level := s.me.level, parts := r.2 }] })

/-- A scalar load of n bytes at a into sd, all checks made (R176): class c, and the further classes that wait for it. -/
def loadReg (s : State) (a : Word) (n z : Nat) (sd : BitVec 5) (sext : Bool) (c : Nat) (more : BitVec 16) : Res State :=
  match pointerCheck a n z n a with
  | some (q, v) => .error (.trap q v)
  | none =>
    match placesOf s a n z 1#3 with
    | .error e => .error e
    | .ok (s1, ps) =>
      let s2 := countPlaces s1 s1.myCrew.tenant false ps
      match ps.filter fun q => isWindowKey q.1 with
      | [] => .ok (s2.setMe (s2.me.setReg sd (extend sext n (readPlaces s1.mem ps))))
      | far => lateAccess s2 a ps (far.map askOf) sd n sext c more

/-- The value of a load whose bytes are all here. -/
def Late.value (x : Late) : Word := extend x.sext x.size (x.parts.flatMap Prod.snd)

/-- Bytes that answer message tag. -/
def Late.fill (tag : Nat) (bs : List Byte) (x : Late) : Late :=
  { x with parts := x.parts.map fun p => if p.1 = tag + 1 then (0, bs) else p }

/-- Every byte is here. -/
def Late.whole (x : Late) : Bool := x.parts.all fun p => p.1 == 0

/-- The strand with the registers of its answered loads written, oldest first. -/
def Strand.settle (x : Strand) : Strand :=
  let y := (x.late.filter Late.whole).foldl (fun x l => x.setReg l.sd l.value) x
  { y with late := x.late.filter fun l => !l.whole }

/-- The lost load or atomic that the strand reports at this boundary (26 R387; DEDUCED, assumption log 61). -/
def lostLate (x : Strand) : Option Late := x.late.find? fun l => l.lost && l.level == x.level

/-- XLATE_PERM at a load or atomic whose destination was lost on the way, with the pointer in TVAL (R387). -/
def lostTrap (s : State) (l : Late) : State :=
  let x := s.me
  takeTrap (s.setMe { x with late := x.late.filter fun y => y ≠ l }) s.cur.1 s.cur.2 cPerm 0 l.ptr l.pc

/-! ## Atomics (04 R66, 10 R178) -/

/-- The new value of an atomic on n bytes: function code, old value, operand, and the new value of cas; none when
no write is performed. -/
def amoNew (fn n : Nat) (old b c : Nat) : Option Nat :=
  let w := 8 * n
  let toI (x : Nat) : Int := (BitVec.ofNat w x).toInt
  match fn with
  | 0 => some ((old + b) % 2 ^ w)
  | 1 => some (if toI b < toI old then b else old)
  | 2 => some (if toI old < toI b then b else old)
  | 3 => some (min old b)
  | 4 => some (max old b)
  | 5 => some (old &&& b)
  | 6 => some (old ||| b)
  | 7 => some (old ^^^ b)
  | 8 => some b
  | 9 => if old = b then some c else none
  | _ => some (rne32 (Val.add (fp32 old) (fp32 b)))

/-- The atomic at local key k: the old value and the memory after it. -/
def amoAt (m : List Host.Cell) (fn n k b c : Nat) : Nat × List Host.Cell :=
  let old := leNat (memBytes m k n)
  match amoNew fn n old b c with
  | some v => (old, memWrite m k (leBytes n v))
  | none => (old, m)

/-- An atomic of the strand in focus with class cls (R178): the checks of R176 with those of R43 and R66. The old value,
zero-extended, goes to sd. -/
def atomic (s : State) (a : Word) (fn n b c : Nat) (sd : BitVec 5) (cls : Nat) : Res State :=
  if !ptrOk a then .error (.trap cSpace a)
  else if spaceOf a = 2 ∨ spaceOf a = 3 then .error (.trap cSpace a)
  else
    match pointerCheck a n 0 n a with
    | some (q, v) => .error (.trap q v)
    | none =>
      match placesOf s a n 0 3#3 with
      | .error e => .error e
      | .ok (s1, ps) =>
        match ps with
        | [] => .ok s1
        | (k, m) :: _ =>
          if isWindowKey k then
            match winEntry s1 (placeWindow (k, m)) with
            | none => .error (.xtrap cNotPresent a s1)
            | some w =>
              if w.target = allMembers then .error (.xtrap cPerm a s1)
              else
                lateAccess s1 a [(k, m)]
                  [{ win := w.index, nums := [2, fn, k % 2 ^ 32, n], data := leBytes 8 b ++ leBytes 8 c, place := (k, n) }]
                  sd n false cls 0#16
          else
            let r := amoAt s1.mem fn n k b c
            let s2 := countPlaces (countPlaces s1 s1.myCrew.tenant false ps) s1.myCrew.tenant true ps
            .ok ({ s2 with mem := r.2 }.setMe (s2.me.setReg sd (BitVec.ofNat 64 r.1)))

end Sys2Proof.Machine
end

