-- ==== Sys2Proof/Machine/Operands.lean ====
section
/-! DEFINITION. The operand forms of the engine instructions: row specifiers (spec 09 R147, R148), register row
indices (03 R48), the ring (11 R194), the full-empty and token gates (02 R16, R17, R21), and starting an instruction
that completes later (02 R21). -/
namespace Sys2Proof.Machine

/-- What a 12-bit specifier or a src2 field names (R147, R148). -/
inductive RowSpec where
  | tile (sel row : Nat)
  | tileReg (sel : Nat) (r : BitVec 5)
  | ring (d : Nat)
  | none
  deriving DecidableEq, Repr

/-- The specifier's operand (R147). -/
def rowSpec (sp : BitVec 12) : RowSpec :=
  let sel := sp.toNat / 128
  let row := sp.toNat % 128
  if sel < 16 then
    if row < 64 then .tile sel row
    else if row < 96 then .tileReg sel (BitVec.ofNat 5 (row - 64))
    else if row < 100 then .ring (row - 95)
    else .none
  else if sel < 24 then .tile sel row
  else .tileReg (sel - 8) (BitVec.ofNat 5 row)

/-- The operand of a src2 short field: a ring row, or a tile at the row of src1 (R148). -/
def src2Spec (v : VFields) : RowSpec :=
  let x := v.x.toNat
  if x < 32 then (if x = 0 then .none else .ring x)
  else
    match rowSpec v.src1 with
    | .tile _ row => .tile (x - 32) row
    | .tileReg _ r => .tileReg (x - 32) r
    | s => s

/-- The full-empty index of the operand, if it is a tile. -/
def RowSpec.sel : RowSpec → Option Nat
  | .tile s _ => some s
  | .tileReg s _ => some s
  | _ => Option.none

/-- The tile and row of a specifier, none for the ring and "no tile"; a register index beyond the last row raises
ILLEGAL with the index in TVAL (R48). -/
def RowSpec.place (x : Strand) : RowSpec → Res (Option (Nat × Nat))
  | .tile s r => .ok (some (s, r))
  | .tileReg s r =>
    if (x.reg r).toNat < tileRows s then .ok (some (s, (x.reg r).toNat)) else .error (.trap cIllegal (x.reg r))
  | _ => .ok Option.none

/-- A ring row whose producer has not completed makes its reader wait (R194); not one that an earlier replacement of its
group has produced (18 R299). -/
def ringWaits (c : Crew) (sp : RowSpec) : Bool :=
  match sp with
  | .ring d => ((c.ring[d - 1]?).bind RingEnt.op).any fun id => !(c.grouped && id + 1 == c.seq)
  | _ => false

/-- The row that a source names. -/
def readRow (c : Crew) (x : Strand) (sp : RowSpec) : Res Row :=
  match sp with
  | .ring d => .ok ((c.ring[d - 1]?).elim 0#8192 RingEnt.row)
  | _ =>
    match sp.place x with
    | .error e => .error e
    | .ok (some (s, r)) => .ok (c.row s r)
    | .ok Option.none => .ok 0#8192

/-- The tile operands of an instruction: full-empty indices read, with their :e, and the one written, with its :f. -/
structure TileUse where
  reads : List (Nat × Bool) := []
  write : Option (Nat × Bool) := none
  deriving DecidableEq, Repr

/-- The instruction takes its written operand to EMPTY before it writes it (02 R17). -/
def TileUse.emptied (u : TileUse) (i : Nat) : Bool := u.reads.any fun r => r.1 == i && r.2

/-- Some operand makes the instruction wait (R16, R17); not one that an earlier replacement of its group has written (18
R299). -/
def TileUse.waits (u : TileUse) (c : Crew) (k : StrandKind) : Bool :=
  u.reads.any (fun r => !c.excused.contains r.1 && c.readWaits r.1 r.2) ||
    (match u.write with
     | some (i, f) => !c.excused.contains i && c.writeWaits k i (f && !u.emptied i)
     | none => false)

/-- The state the written operand ends in (R16, R17). -/
def TileUse.ends (u : TileUse) (c : Crew) : Option (Nat × Fe) :=
  u.write.map fun w => (w.1, c.writeEnd w.1 w.2 (u.emptied w.1))

/-- The gate of an engine instruction: TILE_WAIT before TOKEN_WAIT (07 R107); a crew that is being zeroed makes it wait
for its tiles (03 R54). -/
def engGate (s : State) (e : Eng) (u : TileUse) (more : Bool) : Res Unit :=
  let c := s.myCrew
  if c.zeroing || u.waits c s.cur.2 || more then .error (.wait qTile s)
  else if !c.canTake s.cur.2 e.wait then .error (.wait qToken s)
  else .ok ()

/-- The instruction starts (R16, R21): it takes its tokens, the written operand is FILLING, and the operation is in
flight under the crew's next number. -/
def startOp (s : State) (e : Eng) (u : TileUse) (o : EngOp) : State :=
  let c := s.myCrew
  let ends := u.ends c
  let c := c.take s.cur.2 e.wait
  let o := { o with id := c.seq, kind := s.cur.2, reads := u.reads, dst := ends, post := e.post, after := s.remoteSeq }
  let c := match ends with
    | some (i, _) => c.setFe i .filling
    | none => c
  s.setMyCrew { c with
    inflight := c.inflight ++ [o]
    seq := c.seq + 1 }

/-- The read and written selectors of specifiers as tile operands. -/
def useOf (reads : List (RowSpec × BitVec 1)) (dst : RowSpec) (f : BitVec 1) : TileUse :=
  { reads := reads.filterMap fun r => r.1.sel.map fun i => (i, r.2 == 1#1)
    write := dst.sel.map fun i => (i, f == 1#1) }

/-- Rows of sources, in order. -/
def readRows (c : Crew) (x : Strand) : List RowSpec → Res (List Row)
  | [] => .ok []
  | sp :: r =>
    match readRow c x sp with
    | .error e => .error e
    | .ok v =>
      match readRows c x r with
      | .error e => .error e
      | .ok vs => .ok (v :: vs)

/-- A vector instruction starts with its result row: the row enters the ring, and the destination row is written at
completion (R194, R195). -/
def startVector (s : State) (e : Eng) (u : TileUse) (dst : Option (Nat × Nat)) (row : Row) : State :=
  let id := s.myCrew.seq
  let s := startOp s e u {
    id
    kind := s.cur.2
    unit := .vector
    rows := dst.toList.map fun p => (128 * p.1 + p.2, row) }
  s.setMyCrew (pushRing s.myCrew { row, op := some id })

/-- What a vector instruction computes from the strand and its source rows when it issues: the row and the strand
after its draws, or a trap. -/
abbrev VCalc := Strand → List Row → Res (Row × Strand)

/-- The common course of the V group (R193 to R196): gates, register indices, the computation, the start. reads are
the source specifiers with their :e. Of several conditions that fail at once the sources are reported first, then the
destination, then the values (DESIGN CHOICE, assumption log 64). -/
def vBody (e : Eng) (v : VFields) (reads : List (RowSpec × BitVec 1)) (comp : VCalc) : Body := fun s =>
  let dst := rowSpec v.dst
  let u := useOf reads dst v.f
  match engGate s e u (reads.any fun r => ringWaits s.myCrew r.1) with
  | .error w => .error w
  | .ok _ =>
    match readRows s.myCrew s.me (reads.map Prod.fst) with
    | .error w => .error w
    | .ok rows =>
      match dst.place s.me with
      | .error w => .error w
      | .ok d =>
        match comp s.me rows with
        | .error w => .error w
        | .ok (row, x) => .ok (startVector (s.setMe x) e u d row, none)

/-- The sources of a form with src1 only. -/
def srcs1 (v : VFields) : List (RowSpec × BitVec 1) := [(rowSpec v.src1, v.e)]

/-- The sources of a form with src1 and src2. -/
def srcs2 (v : VFields) : List (RowSpec × BitVec 1) := [(rowSpec v.src1, v.e), (src2Spec v, 0#1)]

/-- A computation on one row without registers or draws. -/
def calc1 (f : Row → Row) : VCalc := fun x rows => .ok (f (rows.getD 0 0#8192), x)

/-- A computation on two rows. -/
def calc2 (f : Row → Row → Row) : VCalc := fun x rows => .ok (f (rows.getD 0 0#8192) (rows.getD 1 0#8192), x)

/-- A computation on three rows. -/
def calc3 (f : Row → Row → Row → Row) : VCalc :=
  fun x rows => .ok (f (rows.getD 0 0#8192) (rows.getD 1 0#8192) (rows.getD 2 0#8192), x)

end Sys2Proof.Machine
end

