-- ==== Sys2Proof/Machine/Barrier.lean ====
section
/-! DEFINITION. Barrier objects and rings: spec 04 R67 to R73, 14 R258 to R263. -/
namespace Sys2Proof.Machine

/-! ## Instructions that hold their strand until they complete (02 R21) -/

/-- What an instruction that its strand waits at has to wait for in the memory of other devices: the class of its
access and, for a release, every earlier access (02 R22). -/
structure Order where
  cls : Nat
  release : Bool := false

/-- The strand's earlier accesses that come before the instruction have not all been performed. -/
def Order.held (o : Order) (s : State) : Bool := classHeld s o.cls || (o.release && !(mine s).isEmpty)

/-- What keeps an instruction that has had its effect from making its posts (02 R21, R22): a counter at 15, or an access
that the post covers and that has not been performed. -/
def postWait (s : State) (m : BitVec 3) : Option Nat :=
  if !s.myCrew.canPost s.cur.2 m then some qToken else if m ≠ 0#3 ∧ (mine s).isEmpty = false then some qMem else none

/-- An instruction that its strand waits at: its wait tokens, its effect, then its posts, or it holds its strand with
its effect done until they can be made. Tokens it lacks are charged after a tile and before every other wait (07
R107). While an earlier access holds it back it asks no other device for anything. -/
def heldBody (e : Eng) (o : Order) (body : State → Res State) : Body := fun s =>
  if !s.myCrew.canTake s.cur.2 e.wait then
    (match body s with
     | .error (.wait q _) => .error (.wait (firstCause q qToken) s)
     | _ => .error (.wait qToken s))
  else
    match body s with
    | .error (.wait q s1) => if o.held s then .error (.wait (firstCause q qMem) s) else .error (.wait q s1)
    | .error w => .error w
    | .ok s1 =>
      if o.held s then .error (.wait qMem s)
      else
        let s2 := s1.setMyCrew (s1.myCrew.take s1.cur.2 e.wait)
        match postWait s2 e.post with
        | none => .ok (s2.setMyCrew (s2.myCrew.post s2.cur.2 e.post), none)
        | some q => .error (.wait q (s2.setMe { s2.me with owed := true }))

/-- The rest of an instruction that has completed but for its posts. -/
def payPosts (i : Instr) (e : Eng) (s : State) : Outcome :=
  match postWait s e.post with
  | none =>
    let s1 := s.setMyCrew (s.myCrew.post s.cur.2 e.post)
    .next (retire i (s1.setMe { s1.me with owed := false }))
  | some q => .next (holdMe q s)

/-- R142 for an instruction that its strand waits at. -/
def heldIssue (i : Instr) (e : Eng) (kinds : List StrandKind) (body : State → Res State) (s : State)
    (release : Bool := false) : Outcome :=
  if s.me.owed then payPosts i e s else issue i kinds e.p false (heldBody e { cls := e.cls.toNat, release } body) s

/-! ## Objects -/

/-- The little-endian number of n bytes at a key. -/
def memNat (m : List Host.Cell) (k n : Nat) : Nat := leNat (memBytes m k n)

/-- A number as signed in n bytes. -/
def signedNat (n v : Nat) : Int := (BitVec.ofNat (8 * n) v).toInt

/-- The pointer checks of R258 steps 2 to 4 on an object of al bytes: the key of its first byte. -/
def objectKey (s : State) (p : Word) (al : Nat) : Res Nat :=
  if !isPad p || !ptrOk p || !endOk p al then .error (.trap cSpace p)
  else if p.toNat % al ≠ 0 then .error (.trap cMisalign p)
  else
    match placesOf s p al 0 2#3 with
    | .error e => .error e
    | .ok (_, ps) => .ok ((ps.headD (0, 0)).1)

/-- A reserved field of a barrier object is nonzero (R67). -/
def barReserved (m : List Host.Cell) (k : Nat) : Bool :=
  memNat m (k + 10) 2 ≠ 0 || 2 ≤ memNat m (k + 8) 1 || 2 ≤ memNat m (k + 9) 1

/-- The phase bit (R67). -/
def barPhase (m : List Host.Cell) (k : Nat) : Nat := memNat m (k + 8) 1 % 2

/-- The pending count (R67). -/
def barPending (m : List Host.Cell) (k : Nat) : Int := signedNat 4 (memNat m (k + 4) 4)

/-- Change the crew state of a context, on its crew or descheduled; nothing once it has ended. -/
def mapContext (s : State) (crew launch task : Nat) (f : Crew → Crew) : State :=
  let here := match (s.crew crew).ctx with
    | some x => x.launch == launch && x.task == task
    | none => false
  if here then s.setCrew crew (f (s.crew crew))
  else
    let on (e : PoolEnt) : PoolEnt :=
      if e.launch = launch ∧ e.task = task then { e with saved := e.saved.map fun v => (v.1, v.2.1, v.2.2.1, f v.2.2.2) }
      else e
    { s with pool := s.pool.map on }

/-- BARRIER_OVERRUN for the scalar strand of a context (R70). -/
def notifyOverrun (s : State) (crew launch task : Nat) (p : Word) : State :=
  mapContext s crew launch task fun c =>
    { c with ss := { c.ss with pend := { c.ss.pend with overrun := c.ss.pend.overrun ++ [p] } } }

/-- One arrival of n bytes at the object at key k, named by pointer p (R68, R70): the state and whether the phase
flipped. -/
def arrive (s : State) (k : Nat) (p : Word) (n : Int) : State × Bool :=
  let m := s.mem
  let q := barPending m k - n
  if 0 < q then ({ s with mem := memWrite m (k + 4) (leBytes 4 q.toNat) }, false)
  else
    let ph := memNat m (k + 8) 1
    let m1 := memWrite m (k + 4) (memBytes m k 4)
    let m2 := memWrite m1 (k + 8) (leBytes 1 (ph ^^^ 1))
    if q = 0 then ({ s with mem := m2 }, true)
    else
      let more := min (memNat m (k + 12) 4 + q.natAbs) 0xFFFFFFFF
      let m3 := memWrite m2 (k + 9) (leBytes 1 (memNat m (k + 9) 1 ||| 1))
      let s1 := { s with mem := memWrite m3 (k + 12) (leBytes 4 more) }
      match sget? s.inits k with
      | some (crew, launch, task) => (notifyOverrun s1 crew launch task p, true)
      | none => (s1, true)

/-- An arrival of an engine of a CU at the object that pointer p names; 0 names none. -/
def arriveAt (s : State) (cu : Nat) (p : Word) (n : Nat) : State :=
  if p = 0#64 then s
  else
    let b := padByte cu p (ptrOff p)
    (arrive s (sliceKey b.1 b.2) p n).1

/-- The check of a barrier pointer by a drain, in the order of 12 R234: 0 names none. -/
def barPointerCheck (s : State) (p : Word) : Option (Nat × Word) :=
  if p = 0#64 then none
  else if !isPad p || !ptrOk p || !endOk p 16 then some (cSpace, p)
  else if p.toNat % 16 ≠ 0 then some (cMisalign, p)
  else
    let b := padByte (cuOf s.cur.1) p (ptrOff p)
    if segOwner s (segOf (sliceKey b.1 b.2)) ≠ s.myCrew.tenant then some (cPerm, p) else none

/-- The object that pointer p names lies in a segment that is still being zeroed (03 R54); 0 names none. -/
def barZeroing (s : State) (cu : Nat) (p : Word) : Bool :=
  p != 0#64 &&
    (let b := padByte cu p (ptrOff p)
     zeroingHit s [(sliceKey b.1 b.2, 16)])

/-- A post of a strand of a crew covers an access that has not been performed (02 R22): one of its own whose message
comes before number after. -/
def postHeld (s : State) (crew : Nat) (k : StrandKind) (post : BitVec 3) (after : Nat) : Bool :=
  post != 0#3 && s.remote.any fun r => r.crew == crew && r.by_ == some (kindNum k) && decide (r.tag < after)

/-! ## Barrier instructions (R259 to R261) -/

/-- The common checks of a barrier instruction whose operand limit is lim (R258). -/
def barObject (i : Instr) (s : State) (y : SyFields) (lim : Word → Bool) : Res Nat :=
  let p := s.me.reg y.sa
  match objectKey s p 16 with
  | .error e => .error e
  | .ok k =>
    if !lim (s.me.reg y.sb) then illegalWords i
    else if barReserved s.mem k then .error (.trap cIllegal p)
    else .ok k

/-- binit (R259). -/
def binitBody (i : Instr) (y : SyFields) (s : State) : Res State :=
  match barObject i s y fun v => decide (1 ≤ v.toNat ∧ v.toNat < 2 ^ 31) with
  | .error e => .error e
  | .ok k =>
    let v := (s.me.reg y.sb).toNat
    let s1 := { s with mem := memWrite s.mem k (leBytes 4 v ++ leBytes 4 v ++ leBytes 8 0) }
    match s.myCrew.ctx with
    | some c => .ok { s1 with inits := sput s1.inits k (s.cur.1, c.launch, c.task) }
    | none => .ok { s1 with inits := sdel s1.inits k }

/-- bexpect (R260). -/
def bexpectBody (i : Instr) (y : SyFields) (s : State) : Res State :=
  match barObject i s y fun v => decide (-(2 ^ 31) ≤ v.toInt ∧ v.toInt < 2 ^ 31) with
  | .error e => .error e
  | .ok k =>
    let v := (s.me.reg y.sb).toInt
    if 2 ^ 31 - 1 < barPending s.mem k + v then .error (.trap cIllegal (s.me.reg y.sa))
    else
      let r := arrive s k (s.me.reg y.sa) (-v)
      .ok (r.1.setMe (r.1.me.setPred y.pd r.2))

/-- barrive (R260); it is a release (02 R22). -/
def barriveBody (i : Instr) (y : SyFields) (s : State) : Res State :=
  match barObject i s y fun v => decide (v.toNat < 2 ^ 31) with
  | .error e => .error e
  | .ok k =>
    let r := arrive s k (s.me.reg y.sa) (s.me.reg y.sb).toNat
    .ok (r.1.setMe (r.1.me.setPred y.pd r.2))

/-- bwait (R261, R69). -/
def bwaitBody (i : Instr) (y : SyFields) (s : State) : Res State :=
  match barObject i s y fun v => decide (v.toNat < 2) with
  | .error e => .error e
  | .ok k => if barPhase s.mem k = (s.me.reg y.sb).toNat then .error (.wait qBarrier s) else .ok s

/-- btest (R261). -/
def btestBody (i : Instr) (y : SyFields) (s : State) : Res State :=
  match barObject i s y fun v => decide (v.toNat < 2) with
  | .error e => .error e
  | .ok k => .ok (s.setMe (s.me.setPred y.pd (barPhase s.mem k != (s.me.reg y.sb).toNat)))

/-- BINIT (R259). -/
def execBinit (e : Eng) (y : SyFields) (s : State) : Outcome :=
  heldIssue (.binit e y) e memKinds (binitBody (.binit e y) y) s

/-- BEXPECT (R260). -/
def execBexpect (e : Eng) (y : SyFields) (s : State) : Outcome :=
  heldIssue (.bexpect e y) e memKinds (bexpectBody (.bexpect e y) y) s

/-- BARRIVE (R260). -/
def execBarrive (e : Eng) (y : SyFields) (s : State) : Outcome :=
  heldIssue (.barrive e y) e memKinds (barriveBody (.barrive e y) y) s true

/-- BWAIT (R261). -/
def execBwait (e : Eng) (y : SyFields) (s : State) : Outcome :=
  heldIssue (.bwait e y) e memKinds (bwaitBody (.bwait e y) y) s

/-- BTEST (R261). -/
def execBtest (e : Eng) (y : SyFields) (s : State) : Outcome :=
  heldIssue (.btest e y) e memKinds (btestBody (.btest e y) y) s

/-! ## Rings (R262, R263; 04 R71 to R73) -/

/-- The fields of a ring object at key k (R71). -/
def ringRead (m : List Host.Cell) (k : Nat) : Nat := memNat m (k + 24) 8
/-- write_index. -/
def ringWrite (m : List Host.Cell) (k : Nat) : Nat := memNat m (k + 16) 8
/-- slot_count. -/
def ringCount (m : List Host.Cell) (k : Nat) : Nat := memNat m (k + 12) 4
/-- slot_size. -/
def ringSize (m : List Host.Cell) (k : Nat) : Nat := memNat m (k + 8) 4
/-- base. -/
def ringBase (m : List Host.Cell) (k : Nat) : Word := BitVec.ofNat 64 (memNat m k 8)

/-- The checks of a ring instruction other than rinit: a slot_count of 0 raises ILLEGAL with the pointer. -/
def ringObject (s : State) (p : Word) : Res Nat :=
  match objectKey s p 32 with
  | .error e => .error e
  | .ok k => if ringCount s.mem k = 0 then .error (.trap cIllegal p) else .ok k

/-- rinit (R262). It does not look at the object's old slot_count (DEDUCED, assumption log 9). -/
def rinitBody (i : Instr) (y : SyFields) (s : State) : Res State :=
  match objectKey s (s.me.reg y.sa) 32 with
  | .error e => .error e
  | .ok k =>
    let base := s.me.reg y.sb
    let size := (s.me.regN (y.sb.toNat + 1)).toNat
    let count := (s.me.regN (y.sb.toNat + 2)).toNat
    if !ptrOk base then .error (.trap cSpace base)
    else if base.toNat % 32 ≠ 0 then .error (.trap cMisalign base)
    else if size % 32 ≠ 0 ∨ size < 32 ∨ 2 ^ 32 ≤ size ∨ count = 0 ∨ 2 ^ 32 ≤ count then illegalWords i
    else
      let bs := leBytes 8 base.toNat ++ leBytes 4 size ++ leBytes 4 count ++ leBytes 16 0
      .ok { s with
        mem := memWrite s.mem k bs
        ringFills := sdel s.ringFills k }

/-- rwaitf (R263, R73). -/
def rwaitfBody (y : SyFields) (s : State) : Res State :=
  let p := s.me.reg y.sa
  let n := (s.me.reg y.sb).toNat
  match ringObject s p with
  | .error e => .error e
  | .ok k =>
    if n < ringRead s.mem k then .error (.trap cIllegal p)
    else if ringWrite s.mem k ≤ n then .error (.wait qBarrier s)
    else .ok s

/-- rrel (R263, R73); it is a release. -/
def rrelBody (i : Instr) (y : SyFields) (s : State) : Res State :=
  match ringObject s (s.me.reg y.sa) with
  | .error e => .error e
  | .ok k =>
    let r := ringRead s.mem k
    if ringWrite s.mem k < r + 1 then illegalWords i
    else .ok { s with mem := memWrite s.mem (k + 24) (leBytes 8 (r + 1)) }

/-- RINIT (R262). -/
def execRinit (e : Eng) (y : SyFields) (s : State) : Outcome :=
  heldIssue (.rinit e y) e memKinds (rinitBody (.rinit e y) y) s

/-- RWAITF (R263). -/
def execRwaitf (e : Eng) (y : SyFields) (s : State) : Outcome :=
  heldIssue (.rwaitf e y) e memKinds (rwaitfBody y) s

/-- RREL (R263). -/
def execRrel (e : Eng) (y : SyFields) (s : State) : Outcome :=
  heldIssue (.rrel e y) e memKinds (rrelBody (.rrel e y) y) s true

end Sys2Proof.Machine
end

