-- ==== Sys2Proof/Machine/Crypto.lean ====
section
/-! DEFINITION. The digests and signatures that spec 25 R376 and R378 name, as their standards define them: SHA-384
and SHA-256 (FIPS 180-4), ECDSA on P-384 (FIPS 186-5), and LMS with LMS_SHA256_M32_H20 and LMOTS_SHA256_N32_W8 (RFC
8554). What the keys are is left open (Config). -/
namespace Sys2Proof.Machine

/-! ## Byte order of the standards -/

/-- The number of a byte string, the first byte highest. -/
def beNat (bs : List Byte) : Nat := leNat bs.reverse

/-- n bytes of a number, the highest first. -/
def beBytes (n v : Nat) : List Byte := (leBytes n v).reverse

/-! ## SHA-2 -/

/-- The round constants: the first 64 bits of the fractions of the cube roots of the first 80 primes (FIPS 180-4);
SHA-256 uses the upper halves of the first 64. -/
def shaK : List Word :=
  [0x428A2F98D728AE22#64, 0x7137449123EF65CD#64, 0xB5C0FBCFEC4D3B2F#64, 0xE9B5DBA58189DBBC#64, 0x3956C25BF348B538#64,
   0x59F111F1B605D019#64, 0x923F82A4AF194F9B#64, 0xAB1C5ED5DA6D8118#64, 0xD807AA98A3030242#64, 0x12835B0145706FBE#64,
   0x243185BE4EE4B28C#64, 0x550C7DC3D5FFB4E2#64, 0x72BE5D74F27B896F#64, 0x80DEB1FE3B1696B1#64, 0x9BDC06A725C71235#64,
   0xC19BF174CF692694#64, 0xE49B69C19EF14AD2#64, 0xEFBE4786384F25E3#64, 0x0FC19DC68B8CD5B5#64, 0x240CA1CC77AC9C65#64] ++
  [0x2DE92C6F592B0275#64, 0x4A7484AA6EA6E483#64, 0x5CB0A9DCBD41FBD4#64, 0x76F988DA831153B5#64, 0x983E5152EE66DFAB#64,
   0xA831C66D2DB43210#64, 0xB00327C898FB213F#64, 0xBF597FC7BEEF0EE4#64, 0xC6E00BF33DA88FC2#64, 0xD5A79147930AA725#64,
   0x06CA6351E003826F#64, 0x142929670A0E6E70#64, 0x27B70A8546D22FFC#64, 0x2E1B21385C26C926#64, 0x4D2C6DFC5AC42AED#64,
   0x53380D139D95B3DF#64, 0x650A73548BAF63DE#64, 0x766A0ABB3C77B2A8#64, 0x81C2C92E47EDAEE6#64, 0x92722C851482353B#64] ++
  [0xA2BFE8A14CF10364#64, 0xA81A664BBC423001#64, 0xC24B8B70D0F89791#64, 0xC76C51A30654BE30#64, 0xD192E819D6EF5218#64,
   0xD69906245565A910#64, 0xF40E35855771202A#64, 0x106AA07032BBD1B8#64, 0x19A4C116B8D2D0C8#64, 0x1E376C085141AB53#64,
   0x2748774CDF8EEB99#64, 0x34B0BCB5E19B48A8#64, 0x391C0CB3C5C95A63#64, 0x4ED8AA4AE3418ACB#64, 0x5B9CCA4F7763E373#64,
   0x682E6FF3D6B2B8A3#64, 0x748F82EE5DEFB2FC#64, 0x78A5636F43172F60#64, 0x84C87814A1F0AB72#64, 0x8CC702081A6439EC#64] ++
  [0x90BEFFFA23631E28#64, 0xA4506CEBDE82BDE9#64, 0xBEF9A3F7B2C67915#64, 0xC67178F2E372532B#64, 0xCA273ECEEA26619C#64,
   0xD186B8C721C0C207#64, 0xEADA7DD6CDE0EB1E#64, 0xF57D4F7FEE6ED178#64, 0x06F067AA72176FBA#64, 0x0A637DC5A2C898A6#64,
   0x113F9804BEF90DAE#64, 0x1B710B35131C471B#64, 0x28DB77F523047D84#64, 0x32CAAB7B40C72493#64, 0x3C9EBE0A15C9BEBC#64,
   0x431D67C49C100D4C#64, 0x4CC5D4BECB3E42B6#64, 0x597F299CFC657E2A#64, 0x5FCB6FAB3AD6FAEC#64, 0x6C44198C4A475817#64]

/-- The first 64 bits of the fractions of the square roots of the first 16 primes (FIPS 180-4): SHA-256 starts from
the upper halves of the first eight, SHA-384 from the last eight. -/
def shaRoots : List Word :=
  [0x6A09E667F3BCC908#64, 0xBB67AE8584CAA73B#64, 0x3C6EF372FE94F82B#64, 0xA54FF53A5F1D36F1#64, 0x510E527FADE682D1#64,
   0x9B05688C2B3E6C1F#64, 0x1F83D9ABFB41BD6B#64, 0x5BE0CD19137E2179#64, 0xCBBB9D5DC1059ED8#64, 0x629A292A367CD507#64,
   0x9159015A3070DD17#64, 0x152FECD8F70E5939#64, 0x67332667FFC00B31#64, 0x8EB44A8768581511#64, 0xDB0C2E0D64F98FA7#64,
   0x47B5481DBEFA4FA4#64]

/-- What the SHA-2 functions differ in: the constants, the amounts of the two big sigmas and of the two small ones. -/
structure Sha2 (w : Nat) where
  k : List (BitVec w)
  init : List (BitVec w)
  big0 : Nat × Nat × Nat
  big1 : Nat × Nat × Nat
  small0 : Nat × Nat × Nat
  small1 : Nat × Nat × Nat

/-- The upper half of a word. -/
def upper (x : Word) : BitVec 32 := x.extractLsb' 32 32

/-- SHA-256. -/
def sha256Kind : Sha2 32 :=
  { k := (shaK.take 64).map upper, init := (shaRoots.take 8).map upper,
    big0 := (2, 13, 22), big1 := (6, 11, 25), small0 := (7, 18, 3), small1 := (17, 19, 10) }

/-- SHA-384. -/
def sha384Kind : Sha2 64 :=
  { k := shaK, init := shaRoots.drop 8,
    big0 := (28, 34, 39), big1 := (14, 18, 41), small0 := (1, 8, 7), small1 := (19, 61, 6) }

/-- A big sigma: three rotations. -/
def bigSigma {w : Nat} (r : Nat × Nat × Nat) (x : BitVec w) : BitVec w :=
  x.rotateRight r.1 ^^^ x.rotateRight r.2.1 ^^^ x.rotateRight r.2.2

/-- A small sigma: two rotations and a shift. -/
def smallSigma {w : Nat} (r : Nat × Nat × Nat) (x : BitVec w) : BitVec w :=
  x.rotateRight r.1 ^^^ x.rotateRight r.2.1 ^^^ (x >>> r.2.2)

/-- n more words of the message schedule, the newest first. -/
def Sha2.schedule {w : Nat} (c : Sha2 w) : Nat → List (BitVec w) → List (BitVec w)
  | 0, l => l
  | n + 1, l =>
    c.schedule n ((smallSigma c.small1 (l.getD 1 0) + l.getD 6 0 + smallSigma c.small0 (l.getD 14 0) + l.getD 15 0) :: l)

/-- One round: k is the round's constant and word. -/
def Sha2.round {w : Nat} (c : Sha2 w) (s : List (BitVec w)) (k : BitVec w × BitVec w) : List (BitVec w) :=
  match s with
  | [a, b, d, e, f, g, h, i] =>
    let t := i + bigSigma c.big1 f + ((f &&& g) ^^^ (~~~f &&& h)) + k.1 + k.2
    [t + (bigSigma c.big0 a + ((a &&& b) ^^^ (a &&& d) ^^^ (b &&& d))), a, b, d, e + t, f, g, h]
  | s => s

/-- One block of 16 words. -/
def Sha2.block {w : Nat} (c : Sha2 w) (s m : List (BitVec w)) : List (BitVec w) :=
  let ws := (c.schedule (c.k.length - 16) m.reverse).reverse
  List.zipWith (· + ·) s ((c.k.zip ws).foldl c.round s)

/-- The words of a byte string. -/
def wordsBE (w : Nat) : Nat → List Byte → List (BitVec w)
  | 0, _ => []
  | n + 1, bs => BitVec.ofNat w (beNat (bs.take (w / 8))) :: wordsBE w n (bs.drop (w / 8))

/-- The blocks of a padded message. -/
def Sha2.blocks {w : Nat} (c : Sha2 w) : Nat → List Byte → List (BitVec w) → List (BitVec w)
  | 0, _, s => s
  | n + 1, bs, s => c.blocks n (bs.drop (2 * w)) (c.block s (wordsBE w 16 (bs.take (2 * w))))

/-- A message with its padding: a one bit, zeros, and its length in bits. -/
def shaPad (w : Nat) (bs : List Byte) : List Byte :=
  let n := bs.length
  bs ++ [0x80#8] ++ List.replicate ((2 * w - (n + 1 + w / 4) % (2 * w)) % (2 * w)) 0#8 ++ beBytes (w / 4) (8 * n)

/-- The digest of a message: n words. -/
def Sha2.digest {w : Nat} (c : Sha2 w) (n : Nat) (bs : List Byte) : List Byte :=
  let m := shaPad w bs
  ((c.blocks (m.length / (2 * w)) m c.init).take n).flatMap fun x => beBytes (w / 8) x.toNat

/-- SHA-384, 48 bytes. -/
def sha384 (bs : List Byte) : List Byte := sha384Kind.digest 6 bs

/-- SHA-256, 32 bytes. -/
def sha256 (bs : List Byte) : List Byte := sha256Kind.digest 8 bs

/-! ## ECDSA on P-384 -/

/-- The field prime of P-384. -/
def p384P : Nat := 2 ^ 384 - 2 ^ 128 - 2 ^ 96 + 2 ^ 32 - 1
/-- The coefficient b of y² = x³ - 3x + b. -/
def p384B : Nat :=
  0xB3312FA7E23EE7E4988E056BE3F82D19181D9C6EFE8141120314088F5013875AC656398D8A2ED19D2A85C8EDD3EC2AEF
/-- The order of the base point. -/
def p384N : Nat :=
  0xFFFFFFFFFFFFFFFFFFFFFFFFFFFFFFFFFFFFFFFFFFFFFFFFC7634D81F4372DDF581A0DB248B0A77AECEC196ACCC52973
/-- The base point. -/
def p384G : Nat × Nat :=
  (0xAA87CA22BE8B05378EB1C71EF320AD746E1D3B628BA79B9859F741E082542A385502F25DBF55296C3A545E3872760AB7,
   0x3617DE4A96262C6F5D9E98BF9292DC29F8F41DBD289A147CE9DA3113B5F0B8C00A60B1CE1D7E819D7A431D7C90EA0E5F)

/-- The powers that square and multiply needs: bits of the exponent from the lowest on, n of them. -/
def powMod (m : Nat) : Nat → Nat → Nat → Nat → Nat
  | 0, _, _, acc => acc
  | n + 1, b, e, acc => powMod m n (b * b % m) (e / 2) (if e % 2 = 1 then acc * b % m else acc)

/-- The inverse modulo a prime of 384 bits. -/
def invMod (m x : Nat) : Nat := powMod m 384 (x % m) (m - 2) 1

/-- The third point of a line of slope l through p, mirrored; x is the other point's coordinate. -/
def p384Third (p : Nat × Nat) (x l : Nat) : Nat × Nat :=
  let u := (l * l + 2 * p384P - p.1 - x) % p384P
  (u, (l * (p.1 + p384P - u) + p384P - p.2) % p384P)

/-- The sum of two points; none is the point at infinity. -/
def p384Add : Option (Nat × Nat) → Option (Nat × Nat) → Option (Nat × Nat)
  | none, q => q
  | p, none => p
  | some p, some q =>
    if p.1 = q.1 then
      if (p.2 + q.2) % p384P = 0 then none
      else some (p384Third p p.1 ((3 * p.1 * p.1 + p384P - 3) * invMod p384P (2 * p.2)))
    else some (p384Third p q.1 ((q.2 + p384P - p.2) * invMod p384P (q.1 + p384P - p.1)))

/-- A multiple of a point, from n bits of the factor. -/
def p384Mul : Nat → Nat → Option (Nat × Nat) → Option (Nat × Nat) → Option (Nat × Nat)
  | 0, _, _, acc => acc
  | n + 1, k, p, acc => p384Mul n (k / 2) (p384Add p p) (if k % 2 = 1 then p384Add acc p else acc)

/-- k times a point. -/
def p384Times (k : Nat) (p : Nat × Nat) : Option (Nat × Nat) := p384Mul 384 k (some p) none

/-- A point lies on the curve. -/
def p384On (q : Nat × Nat) : Bool :=
  decide (q.1 < p384P) && decide (q.2 < p384P) &&
    (q.2 * q.2) % p384P == (q.1 * q.1 * q.1 + p384B + 3 * p384P - 3 * q.1) % p384P

/-- An ECDSA P-384 signature, r then s, over a digest verifies under a public key. -/
def ecdsaVerifies (key : Nat × Nat) (digest sig : List Byte) : Bool :=
  let r := beNat (sig.take 48)
  let t := beNat ((sig.drop 48).take 48)
  let w := invMod p384N t
  let at_ := p384Add (p384Times (beNat digest * w % p384N) p384G) (p384Times (r * w % p384N) key)
  p384On key && decide (1 ≤ r ∧ r < p384N ∧ 1 ≤ t ∧ t < p384N) &&
    (match at_ with
     | none => false
     | some q => q.1 % p384N == r)

/-- The ECDSA P-384 signature over a digest by a private key with a nonce. -/
def ecdsaSign (key nonce : Nat) (digest : List Byte) : List Byte :=
  let r := ((p384Times nonce p384G).map Prod.fst).getD 0 % p384N
  beBytes 48 r ++ beBytes 48 (invMod p384N nonce * (beNat digest + r * key) % p384N)

/-! ## LMS -/

/-- The levels of the tree of LMS_SHA256_M32_H20. -/
def lmsHeight : Nat := 20

/-- The chains of LMOTS_SHA256_N32_W8. -/
def otsChains : Nat := 34

/-- What a hash of the scheme begins with: the key's identifier and the leaf or node. -/
def lmsHash (i : List Byte) (q : Nat) (rest : List Byte) : List Byte := sha256 (i ++ beBytes 4 q ++ rest)

/-- The digits of a message: its hash and the checksum. -/
def otsDigits (i : List Byte) (q : Nat) (c msg : List Byte) : List Nat :=
  let h := (lmsHash i q (beBytes 2 0x8181 ++ c ++ msg)).map BitVec.toNat
  let sum := h.foldl (fun a b => a + (255 - b)) 0
  h ++ [sum / 256, sum % 256]

/-- Chain k of a one-time key from digit j on, n steps. -/
def otsChain (i : List Byte) (q k : Nat) : Nat → Nat → List Byte → List Byte
  | 0, _, x => x
  | n + 1, j, x => otsChain i q k n (j + 1) (lmsHash i q (beBytes 2 k ++ beBytes 1 j ++ x))

/-- The public value of a one-time key from the ends of its chains. -/
def otsPublic (i : List Byte) (q : Nat) (ends : List (List Byte)) : List Byte :=
  lmsHash i q (beBytes 2 0x8080 ++ ends.flatten)

/-- The root from node r with value x and the path above it. -/
def lmsRoot (i : List Byte) : List (List Byte) → Nat → List Byte → List Byte
  | [], _, x => x
  | y :: rest, r, x =>
    lmsRoot i rest (r / 2) (lmsHash i (r / 2) (beBytes 2 0x8383 ++ (if r % 2 = 1 then y ++ x else x ++ y)))

/-- A leaf of the tree. -/
def lmsLeaf (i : List Byte) (q : Nat) (ots : List Byte) : List Byte :=
  lmsHash i (2 ^ lmsHeight + q) (beBytes 2 0x8282 ++ ots)

/-- k strings of n bytes. -/
def piecesOf (n : Nat) : Nat → List Byte → List (List Byte)
  | 0, _ => []
  | k + 1, bs => bs.take n :: piecesOf n k (bs.drop n)

/-- An LMS signature of 1,772 bytes over a message verifies under the key with identifier i and a root. -/
def lmsVerifies (i root msg sig : List Byte) : Bool :=
  let q := beNat (sig.take 4)
  let c := (sig.drop 8).take 32
  let ys := piecesOf 32 otsChains (sig.drop 40)
  let ds := otsDigits i q c msg
  let ends := (ys.zip ds).zipIdx.map fun p => otsChain i q p.2 (255 - p.1.2) p.1.2 p.1.1
  decide (q < 2 ^ lmsHeight) && beNat ((sig.drop 4).take 4) == 4 && beNat ((sig.drop 1128).take 4) == 8 &&
    lmsRoot i (piecesOf 32 lmsHeight (sig.drop 1132)) (2 ^ lmsHeight + q) (lmsLeaf i q (otsPublic i q ends)) == root

/-- A key's secret start of each chain of each leaf. -/
abbrev LmsSecret := Nat → Nat → List Byte

/-- The node at a height above the leaves whose leaves begin at index a of that height. -/
def lmsNode (i : List Byte) (x : LmsSecret) : Nat → Nat → List Byte
  | 0, a => lmsLeaf i a (otsPublic i a ((List.range otsChains).map fun k => otsChain i a k 255 0 (x a k)))
  | h + 1, a =>
    lmsHash i (2 ^ (lmsHeight - (h + 1)) + a) (beBytes 2 0x8383 ++ lmsNode i x h (2 * a) ++ lmsNode i x h (2 * a + 1))

/-- The LMS signature of 1,772 bytes over a message by a key with leaf q and the random string c. -/
def lmsSign (i : List Byte) (x : LmsSecret) (q : Nat) (c msg : List Byte) : List Byte :=
  let ys := (otsDigits i q c msg).zipIdx.map fun d => otsChain i q d.2 d.1 0 (x q d.2)
  let path := (List.range lmsHeight).map fun h => lmsNode i x h ((q / 2 ^ h) ^^^ 1)
  beBytes 4 q ++ beBytes 4 4 ++ c ++ ys.flatten ++ beBytes 4 8 ++ path.flatten

end Sys2Proof.Machine
end

