-- ==== Sys2Proof/Machine/Throttle.lean ====
section
/-! DEFINITION. The matrix throttle as programs see it: spec 07 R116, R117 and 27 R398. -/
namespace Sys2Proof.Machine

/-- The compute die of a CU (spec 01 R8). -/
def dieOf (cu : Nat) : Nat := if cu < 48 then 0 else 1

/-- The module power limit in force (27 R397). -/
def effCap (s : State) : Nat := min s.power.cap s.power.rowcap

/-- The row step in force: a new step takes effect 16 cycles after its boundary (27 R398). -/
def rowStep (s : State) : Nat := if s.power.stepAt ≤ s.cycle then s.power.row else s.power.rowF

/-- The thermal step of a die in force. -/
def thermStep (s : State) (die : Nat) : Nat :=
  if s.power.stepAt ≤ s.cycle then (if die = 0 then s.power.th0 else s.power.th1)
  else if die = 0 then s.power.th0F else s.power.th1F

/-- The ramp level in force: a change counts from the next cycle that is a multiple of 16 (R116);
with W = 0 the level is 0 (R117). -/
def rampStepOf (s : State) (cu : Nat) : Nat :=
  let c := s.cu cu
  if s.power.rampw = 0 then 0
  else if (c.rampAt + 15) / 16 * 16 ≤ s.cycle then c.ramp else c.rampOld

/-- The effective step of a CU (R116). -/
def stepOf (s : State) (cu : Nat) : Nat := max (max (rowStep s) (thermStep s (dieOf cu))) (rampStepOf s cu)

/-- The reason bits 10:8 of MXTHROT: every source that sets a step above 0 (R116, 27 R398). -/
def throttleReason (s : State) (cu : Nat) : Nat :=
  let st := stepOf s cu
  if st = 0 then 0
  else
    (if rowStep s = st then 1 else 0) + (if thermStep s (dieOf cu) = st then 2 else 0) +
      (if rampStepOf s cu = st then 4 else 0)

/-- MXTHROT (R116). -/
def mxthrot (s : State) (cu : Nat) : Word :=
  BitVec.ofNat 64 (effCap s * 2 ^ 32 + throttleReason s cu * 256 + stepOf s cu)

/-- An array cycle may be used (R116). -/
def arrayOpen (s : State) (cu : Nat) : Bool := decide (s.cycle % 16 < 16 - stepOf s cu)

/-- The cycles between two moves of the ramp: W / 16 (R117). -/
def rampInterval (s : State) : Nat := s.power.rampw

/-- A CU's ramp when its direction may have changed: a lease held or requested turns it downward; with W = 0 the
level is 0 (R117). The next move comes one interval from now when the direction is new. -/
def rampTurn (s : State) (cu : Nat) (before : Bool) : State :=
  let c := s.cu cu
  let now := c.lease.isSome || !c.requests.isEmpty
  if now = before then s
  else if s.power.rampw = 0 then s.setCu cu { c with ramp := 0 }
  else s.setCu cu { c with rampNext := s.cycle + rampInterval s }

end Sys2Proof.Machine
end

