-- ==== Sys2Proof/Machine/Lease.lean ====
section
/-! DEFINITION. The array lease: spec 02 R23 to R25, 12 R218 to R220, 03 R53, R54; and its events LEASE_GRANT,
LEASE_LIMIT and RAMP_STEP. -/
namespace Sys2Proof.Machine

/-- The limits of a lease (02 R24). -/
def leaseMaxOps : Nat := 64
/-- The cycles of a lease (02 R24). -/
def leaseMaxCycles : Nat := 32768

/-- Crew n holds its CU's array lease. -/
def holdsLease (s : State) (crew : Nat) : Bool :=
  match (s.cu (cuOf crew)).lease with
  | some l => l.crew == crew
  | none => false

/-- The limit of a lease has been reached (02 R24). -/
def limitReached (s : State) (l : Lease) : Bool := leaseMaxOps ≤ l.used || l.grant + leaseMaxCycles ≤ s.cycle

/-- The lease is ending: its limit has been reached and a request is waiting (02 R24). -/
def leaseEnding (s : State) (cu : Nat) : Bool :=
  match (s.cu cu).lease with
  | some l => l.ending || (limitReached s l && !(s.cu cu).requests.isEmpty)
  | none => false

/-- The holder has started array instructions that have not completed. -/
def arrayBusy (c : Crew) : Bool := c.inflight.any fun o => o.isArray

/-- What a wait for the array instructions of the matrix strand is charged (12 R221, R222): THROTTLE while it is for the
array in a cycle that the throttle or the ramp withholds (assumption log 83). -/
def unitCause (s : State) : Nat :=
  if (s.myCrew.inflight.any fun o => o.unit == .array) && !arrayOpen s (cuOf s.cur.1) then qThrottle else qTile

/-- The requester that comes first after crew j of the CU in the order j+1, j+2, j+3, j (02 R24, R25). -/
def nextRequest (req : List Nat) (j : Nat) : Option Nat :=
  [(j + 1) % 4, (j + 2) % 4, (j + 3) % 4, j % 4].find? fun k => req.contains k

/-- The lease passes on: none holds it, and its last holder is remembered (02 R25). -/
def endLease (s : State) (cu : Nat) : State :=
  let c := s.cu cu
  match c.lease with
  | none => s
  | some l => rampTurn (s.setCu cu { c with lease := none, lastHolder := l.crew % 4 }) cu true

/-- A plane owned by another tenant than n (12 R218). -/
def foreignPlane (p : Plane) (n : Nat) : Bool :=
  match p.tag with
  | some t => t.tenant != n
  | none => false

/-- The grant to crew j of the CU (02 R24, 03 R53): both planes are zeroed when either owner tag records another
tenant, and the holder then waits for the zeroing (R54). -/
def grantLease (s : State) (cu j : Nat) : State :=
  let c := s.cu cu
  let crew := 4 * cu + j
  let n := (s.crew crew).tenant
  let z := foreignPlane c.active n || foreignPlane c.shadow n
  let c := if z then { c with active := {}, shadow := {} } else c
  let s := s.setCu cu { c with
    lease := some { crew, grant := s.cycle, zeroing := z }
    requests := c.requests.filter fun k => k ≠ j }
  s.setCrew crew { s.crew crew with leased := true }

/-- The lease ends now: it is ending, or its holder's context has been killed, and the holder's started array
instructions have completed (02 R24; 12 R220). -/
def leaseOver (s : State) (cu : Nat) : Bool :=
  match (s.cu cu).lease with
  | some l => (leaseEnding s cu || (s.crew l.crew).killed.isSome) && !arrayBusy (s.crew l.crew)
  | none => false

/-- The arbiter grants the free array to the next requester; a lease that is over ends first (02 R24, R25). -/
def arbitrate (s : State) (cu : Nat) : State :=
  let c := s.cu cu
  match c.lease with
  | some l =>
    if leaseOver s cu then
      match nextRequest c.requests (l.crew % 4) with
      | some j => grantLease (s.setCu cu { c with lease := none, lastHolder := l.crew % 4 }) cu j
      | none => endLease s cu
    else s
  | none =>
    match nextRequest c.requests c.lastHolder with
    | some j => grantLease s cu j
    | none => s

/-- LEASE_GRANT (02 R24, R25): the array passes to the next requester; a lease that is over ends though nobody waits. -/
def execLeaseGrant (cu : Nat) (s : State) : Outcome :=
  let c := s.cu cu
  if leaseOver s cu || (c.lease.isNone && !c.requests.isEmpty) then .next (arbitrate s cu) else notEnabled "LEASE_GRANT"

/-- LEASE_LIMIT (02 R24): the lease is ending from the first cycle in which its limit has been reached and a
request is waiting. -/
def execLeaseLimit (cu : Nat) (s : State) : Outcome :=
  let c := s.cu cu
  match c.lease with
  | some l =>
    if limitReached s l && !c.requests.isEmpty && !l.ending then
      .next (s.setCu cu { c with lease := some { l with ending := true } })
    else notEnabled "LEASE_LIMIT"
  | none => notEnabled "LEASE_LIMIT"

/-- The ramp of a CU is due to move (07 R117). -/
def rampDue (s : State) (cu : Nat) : Bool :=
  let c := s.cu cu
  let busy := c.lease.isSome || !c.requests.isEmpty
  decide (s.power.rampw ≠ 0) && decide (c.rampNext ≤ s.cycle) &&
    (if busy then decide (0 < c.ramp) else decide (c.ramp < 15))

/-- RAMP_STEP (07 R117): the level falls while a lease is held or requested and rises otherwise. -/
def execRampStep (cu : Nat) (s : State) : Outcome :=
  if rampDue s cu then
    let c := s.cu cu
    let busy := c.lease.isSome || !c.requests.isEmpty
    .next (s.setCu cu { c with
      ramp := if busy then c.ramp - 1 else c.ramp + 1
      rampOld := rampStepOf s cu
      rampAt := s.cycle
      rampNext := s.cycle + rampInterval s })
  else notEnabled "RAMP_STEP"

end Sys2Proof.Machine
end

