-- ==== Sys2Proof/Machine/Special.lean ====
section
/-! DEFINITION. The special functions of spec 05 R88: each the single rounding of the exact function value. The
value is computed with far more bits than FP32 holds and an odd last bit that marks "not exact", so that its
rounding is that of the exact value (assumption log 17). -/
namespace Sys2Proof.Machine

/-- The integer square root of n, built from bit i downwards. -/
def isqrtFrom : Nat → Nat → Nat → Nat
  | 0, _, r => r
  | i + 1, n, r =>
    let c := r + 2 ^ i
    isqrtFrom i n (if c * c ≤ n then c else r)

/-- floor of the square root of n. -/
def isqrt (n : Nat) : Nat := isqrtFrom (Nat.log2 n / 2 + 1) n 0

/-- The fraction bits of vexp2's products. -/
def expBits : Nat := 192

/-- The product of 2^(2^-i) over the set bits of the fraction f of width w, from its top bit down; c is the
current constant with expBits fraction bits. -/
def exp2Frac : Nat → Nat → Nat → Nat → Nat
  | 0, _, _, p => p
  | w + 1, f, c, p =>
    let p' := if f / 2 ^ w % 2 = 1 then (p * c) >>> expBits else p
    exp2Frac w f (isqrt (c <<< expBits)) p'

/-- 2^x (R88). -/
def exp2Val : Val → Val
  | .nan => .nan
  | .inf true => .fin false 0 0
  | .inf false => .inf false
  | .fin neg m e =>
    if m = 0 then .fin false 1 0
    else
      let lg : Int := (Nat.log2 m : Int) + e
      if lg < -26 then .fin false 1 0
      else if 8 ≤ lg then (if neg then .fin false 0 0 else .inf false)
      else
        let w := (-e).toNat
        let z : Int := if neg then -((m <<< e.toNat : Nat) : Int) else ((m <<< e.toNat : Nat) : Int)
        let n := z / 2 ^ w
        let f := (z % 2 ^ w).toNat
        if f = 0 then .fin false 1 n
        else
          let c1 := isqrt (2 <<< (2 * expBits))
          .fin false (2 * exp2Frac w f c1 (2 ^ expBits) + 1) (n - expBits - 1)

/-- The binary digits of log2 of y in [1, 2), y with 256 fraction bits. -/
def log2Digits : Nat → Nat → Nat → Nat
  | 0, _, b => b
  | n + 1, y, b =>
    let s := (y * y) >>> 256
    if 2 ^ 257 ≤ s then log2Digits n (s / 2) (2 * b + 1) else log2Digits n s (2 * b)

/-- log2 x (R88). -/
def log2Val : Val → Val
  | .nan => .nan
  | .inf true => .nan
  | .inf false => .inf false
  | .fin neg m e =>
    if m = 0 then .inf true
    else if neg then .nan
    else
      let l := Nat.log2 m
      let n : Int := (l : Int) + e
      if m = 2 ^ l then Val.ofInt n
      else
        let z : Int := n * 2 ^ 110 + ((log2Digits 110 (m <<< (256 - l)) 0 : Nat) : Int)
        .fin (2 * z + 1 < 0) (2 * z + 1).natAbs (-111)

/-- 1 / x (R88). -/
def rcpVal : Val → Val
  | .nan => .nan
  | .inf neg => .fin neg 0 0
  | .fin neg m e =>
    if m = 0 then .inf neg
    else
      let k := Nat.log2 m + 64
      let q := 2 ^ k / m
      .fin neg (2 * q + (if q * m = 2 ^ k then 0 else 1)) (-e - k - 1)

/-- 1 / sqrt x (R88). -/
def rsqrtVal : Val → Val
  | .nan => .nan
  | .inf true => .nan
  | .inf false => .fin false 0 0
  | .fin neg m e =>
    if m = 0 then .inf neg
    else if neg then .nan
    else
      let (m', e') := if e % 2 = 0 then (m, e) else (2 * m, e - 1)
      let k := Nat.log2 m' + 64
      let q := isqrt (2 ^ (2 * k) / m')
      .fin false (2 * q + (if q * q * m' = 2 ^ (2 * k) then 0 else 1)) (-(e' / 2) - k - 1)

/-- The sum of t^j / j! from term j on, fixed point with 256 fraction bits. -/
def expTaylor : Nat → Nat → Nat → Nat → Nat → Nat
  | 0, _, _, _, acc => acc
  | n + 1, j, t, term, acc =>
    let term' := ((term * t) >>> 256) / j
    expTaylor n (j + 1) t term' (acc + term')

/-- Square n times, fixed point with 256 fraction bits. -/
def squareN : Nat → Nat → Nat
  | 0, x => x
  | n + 1, x => squareN n ((x * x) >>> 256)

/-- The bits of RZ32 (tanh x) (R88). -/
def tanhBits (b : Nat) : Nat :=
  match fp32 b with
  | .nan => canonicalNaN 0
  | .inf neg => withSign 0 neg 0x3F800000
  | .fin neg m e =>
    if m = 0 then withSign 0 neg 0
    else
      let lg : Int := (Nat.log2 m : Int) + e
      if lg < -12 ∨ (lg = -12 ∧ m = 2 ^ Nat.log2 m) then b - 1
      else if 4 ≤ lg then withSign 0 neg 0x3F7FFFFF
      else
        let t := if 0 ≤ e + 251 then m <<< (e + 251).toNat else m >>> (-(e + 251)).toNat
        let ex := squareN 6 (expTaylor 70 1 t (2 ^ 256) (2 ^ 256))
        let q := (ex - 2 ^ 256) * 2 ^ 200 / (ex + 2 ^ 256)
        roundTo 0 .rz (.fin neg (2 * q + 1) (-201))

/-- The five special functions on FP32 bits (R88): 0 vexp2, 1 vlog2, 2 vrcp, 3 vrsqrt, 4 vtanh. -/
def specialFn (f : Nat) (b : Nat) : Nat :=
  match f with
  | 0 => rne32 (exp2Val (fp32 b))
  | 1 => rne32 (log2Val (fp32 b))
  | 2 => rne32 (rcpVal (fp32 b))
  | 3 => rne32 (rsqrtVal (fp32 b))
  | _ => tanhBits (b % 2 ^ 32)

end Sys2Proof.Machine
end

