-- ==== Sys2Proof/Machine/Vector.lean ====
section
/-! DEFINITION. The vector instructions: spec 11 R193 to R214. Each instruction has a body (its course once it
executes), which the Knead stage also uses, and a meaning that puts the checks of 09 R142 around it. -/
namespace Sys2Proof.Machine

/-! ## Element functions -/

/-- The signed value of an element. -/
def sElem (ty : Ty) (b : Nat) : Int := (BitVec.ofNat (tyBits ty) b).toInt

/-- An integer modulo 2^w. -/
def wrapElem (ty : Ty) (z : Int) : Nat := (BitVec.ofInt (tyBits ty) z).toNat

/-- A binary element operation: on a floating type one RNE of the exact result, on an integer type modulo 2^w
(R199). -/
def arith2 (ty : Ty) (fv : Val → Val → Val) (fi : Int → Int → Int) (x y : Nat) : Nat :=
  if tyIsInt ty then wrapElem ty (fi (sElem ty x) (sElem ty y)) else roundTo ty .rne (fv (valueOf ty x) (valueOf ty y))

/-- A row from two, element by element. -/
def map2 (ty : Ty) (f : Nat → Nat → Nat) (a b : Row) : Row := buildRow ty fun k => f (rowElem ty a k) (rowElem ty b k)

/-- A row from one, element by element. -/
def map1 (ty : Ty) (f : Nat → Nat) (a : Row) : Row := buildRow ty fun k => f (rowElem ty a k)

/-- vfma (R199): d + x y with one rounding. -/
def fmaElem (ty : Ty) (x y d : Nat) : Nat :=
  if tyIsInt ty then wrapElem ty (sElem ty d + sElem ty x * sElem ty y)
  else roundTo ty .rne (Val.add (valueOf ty d) (Val.mul (valueOf ty x) (valueOf ty y)))

/-- vabs and vneg (R199). -/
def arith1 (ty : Ty) (fv : Val → Val) (fi : Int → Int) (x : Nat) : Nat :=
  if tyIsInt ty then wrapElem ty (fi (sElem ty x)) else roundTo ty .rne (fv (valueOf ty x))

/-- A shift count: the element's low bits (R201). -/
def shiftCount (ty : Ty) (y : Nat) : Nat := y % tyBits ty

/-- All bits of an element set or clear (R202). -/
def maskElem (ty : Ty) (b : Bool) : Nat := if b then 2 ^ tyBits ty - 1 else 0

/-- vcmp (R202). -/
def cmpRow (ty : Ty) (cond : Nat) : Row → Row → Row :=
  map2 ty fun x y => maskElem ty (valCond cond (valueOf ty x) (valueOf ty y))

/-- vsel (R203): the mask row is the third. -/
def selRow (ty : Ty) (a b m : Row) : Row :=
  buildRow ty fun k => if rowElem ty m k ≠ 0 then rowElem ty a k else rowElem ty b k

/-! ## Random values (R205, R208, R209; 06 R94, R95) -/

/-- The n-th next draw of the strand's context stream. -/
def ctxDraw (x : Strand) (n : Nat) : Word := rngOut x.rngkey dContext 0 (x.rngctr.toNat + n)

/-- The strand after n draws. -/
def Strand.drew (x : Strand) (n : Nat) : Strand := { x with rngctr := x.rngctr + BitVec.ofNat 40 n }

/-- The tensor descriptor in s16 to s19 is legal (R205). -/
def descOk (x : Strand) : Bool :=
  (x.regN 17).bits 63 24 == 0 && (x.regN 18).bits 63 44 == 0 && (x.regN 19).bits 63 22 == 0 && (x.regN 19).bits 21 0 != 0

/-- The descriptor's value for output element j in a domain (R205). -/
def descDraw (x : Strand) (d : Word) (j : Nat) : Word :=
  let e := ((x.regN 18).bits 21 0 * (x.regN 19).bits 21 0 + (x.regN 18).bits 43 22 + j) % 2 ^ 44
  rngOut (x.regN 16) d ((x.regN 17).bits 23 0) e

/-- The source of one value per element: the descriptor or the context stream. -/
def drawOf (x : Strand) (desc : Bool) (d : Word) (j n : Nat) : Nat :=
  if desc then (descDraw x d j).toNat else (ctxDraw x n).toNat

/-- vdrop (R208). -/
def dropCalc (i : Instr) (v : VFields) : VCalc := fun x rows =>
  let ty := v.ty.toNat
  let desc := v.x.getLsbD 5
  let t := x.reg (v.x.extractLsb' 0 5)
  if t.bits 63 16 ≠ 0 then illegalWords i
  else if desc && !descOk x then illegalWords i
  else
    let a := rows.getD 0 0#8192
    .ok (buildRow ty fun k => if drawOf x desc dDrop k k % 2 ^ 16 < t.toNat then 0 else rowElem ty a k,
      if desc then x else x.drew (perRow ty))

/-- One element of vrng (R209). -/
def rngElem (ty : Ty) (r : Nat) : Nat := if ty = 0 then roundTo 0 .rne (.fin false (r / 2 ^ 40) (-24)) else r % 2 ^ tyBits ty

/-- vrng (R209). -/
def vrngCalc (i : Instr) (v : VFields) : VCalc := fun x _ =>
  let ty := v.ty.toNat
  let desc := v.x.getLsbD 5
  if desc && !descOk x then illegalWords i
  else .ok (buildRow ty fun k => rngElem ty (drawOf x desc dDrop k k), if desc then x else x.drew (perRow ty))

/-! ## Conversions -/

/-- vcvt (R204). -/
def cvtCalc (i : Instr) (v : VFields) : VCalc := fun x rows =>
  let ty := v.ty.toNat
  let mode := v.x.toNat / 8 % 4
  let part := v.x.toNat % 4
  let a := rows.getD 0 0#8192
  if v.x.toNat < 32 then
    if mode = 3 && !descOk x then illegalWords i
    else
      let rnd (k : Nat) : Round :=
        match mode with
        | 0 => .rne
        | 1 => .rz
        | m => .sr (drawOf x (m == 3) dRound (256 * part + k) k) true
      .ok (buildRow ty fun j =>
          if j / 256 = part then roundTo ty (rnd (j % 256)) (fp32 (rowElem 0 a (j % 256))) else 0,
        if mode = 2 then x.drew 256 else x)
  else
    .ok (buildRow 0 fun k => roundTo 0 (if mode = 1 then .rz else .rne) (valueOf ty (rowElem ty a (256 * part + k))), x)

/-- The code nearest to u under special byte S (05 R80): u in units of 2^g, cand the value of a code in the same
units. -/
def nearestCode (cand : Nat → Int) (special : Bool) (u : Int) : Nat :=
  let grid := [0, 1, 2, 3, 4, 5, 6, 7, 9, 10, 11, 12, 13, 14, 15]
  let best := grid.foldl
    (fun (b : Nat × Nat) c =>
      let d := (u - cand c).natAbs
      if d < b.2 || (d == b.2 && c % 2 == 0) then (c, d) else b) (0, (u - cand 0).natAbs)
  let c := if special && decide ((u - cand 8).natAbs < best.2) then 8 else best.1
  if cand c = 0 then 0 else c

/-- The encoding of a block of 32 FP32 values (05 R80): codes, scale and special byte. -/
def encodeBlock (vs : List Nat) : List Nat × Nat × Nat :=
  let xs := vs.map fp32
  let isFin : Val → Bool
    | .fin _ _ _ => true
    | _ => false
  if !xs.all isFin then (vs.map fun _ => 0, 0xFF, 0)
  else
    let me : Val → Bool × Nat × Int
      | .fin n m e => (n, m, e)
      | _ => (false, 0, 0)
    let ts := xs.map me
    -- magnitudes in units of 2^-149, the least FP32 spacing
    let mags := ts.map fun t => t.2.1 <<< (t.2.2 + 149).toNat
    let amax := mags.foldl max 0
    let lg : Int := (Nat.log2 amax : Int) - 149
    let X := if amax = 0 then 0 else (min (max (lg - 2 + 127) 0) 254).toNat
    -- u in units of 2^(127 - X - 149), a quarter in units of the same: both times 2^up keep integers
    let g : Int := 127 - (X : Int) - 149
    let upU := (g + 2).toNat
    let upQ := (-2 - g).toNat
    let us := (ts.zip mags).map fun t =>
      let k : Int := ((t.2 <<< upU : Nat) : Int)
      if t.1.1 then -k else k
    let neg := ((ts.zip mags).find? fun t => t.2 = amax).any fun t => t.1.1
    let enc (sel : Nat) : Nat × Nat × List Nat :=
      let S := if sel = 0 then 0 else (if neg && amax != 0 then 8 else 0) + sel
      let cand (c : Nat) : Int := e2m1Quarters c S * 2 ^ upQ
      let cs := us.map (nearestCode cand (sel != 0))
      let err := ((us.zip cs).map fun p => (p.1 - cand p.2).natAbs ^ 2).foldl (· + ·) 0
      (err, S, cs)
    let best := (List.range 7).foldl
      (fun b k =>
        let c := enc (k + 1)
        if c.1 < b.1 then c else b) (enc 0)
    (best.2.2, X, best.2.1)

/-- vqblk (R206). -/
def qblkRow (side : Bool) (part : Nat) (a : Row) : Row :=
  let blocks := (List.range 8).map fun b => encodeBlock ((List.range 32).map fun i => rowElem 0 a (32 * b + i))
  let blk (b : Nat) : List Nat × Nat × Nat := blocks.getD b ([], 0, 0)
  if side then
    buildRow 6 fun j =>
      if j / 8 = part then (blk (j % 8)).2.1 else if j / 8 = 8 + part then (blk (j % 8)).2.2 else 0
  else
    buildRow 5 fun j => if j / 256 = part then (blk (j % 256 / 32)).1.getD (j % 32) 0 else 0

/-- vunpk (R207). -/
def unpkRow (ty : Ty) (sx : Bool) (part : Nat) (a : Row) : Row :=
  if ty = 5 then
    buildRow 6 fun k =>
      let n := rowElem 5 a (1024 * part + k)
      if sx && decide (8 ≤ n) then n + 0xF0 else n
  else
    buildRow 7 fun k =>
      let n := rowElem 6 a (256 * part + k)
      if sx && decide (128 ≤ n) then n + 0xFFFFFF00 else n

/-! ## Reductions (R210) -/

/-- One level of the pairwise tree. -/
def pairSums : List Val → List Val
  | a :: b :: r => rne32v (Val.add a b) :: pairSums r
  | r => r

/-- The pairwise tree; fuel is the number of levels. -/
def treeSum : Nat → List Val → Val
  | 0, l => l.headD (.fin false 0 0)
  | n + 1, l => treeSum n (pairSums l)

/-- The elements of a row as values. -/
def rowVals (ty : Ty) (a : Row) : List Val := (List.range (perRow ty)).map fun k => valueOf ty (rowElem ty a k)

/-- The signed elements of a row. -/
def rowInts (ty : Ty) (a : Row) : List Int := (List.range (perRow ty)).map fun k => sElem ty (rowElem ty a k)

/-- A reduction's result in every 4-byte element. -/
def reduceRow (ty : Ty) (fv : List Val → Val) (fi : List Int → Int) (a : Row) : Row :=
  let r := if tyIsInt ty then wrapElem 7 (fi (rowInts ty a)) else rne32 (fv (rowVals ty a))
  buildRow 7 fun _ => r

/-- vrsum on values. -/
def sumVals (ty : Ty) (l : List Val) : Val := treeSum (Nat.log2 (perRow ty)) l

/-- A left fold over a list that is not empty. -/
def foldFirst {α : Type} (f : α → α → α) (d : α) : List α → α
  | [] => d
  | a :: r => r.foldl f a

/-! ## Moves (R211) -/

/-- vshuf. -/
def shufRow (ty : Ty) (a b : Row) : Row := buildRow ty fun k => rowElem ty a (rowElem ty b k % perRow ty)

/-- vtrn. -/
def trnRow (ty : Ty) (a : Row) : Row :=
  let c := perRow ty / 16
  buildRow ty fun j => rowElem ty a (c * (j % 16) + j / 16)

/-- viota. -/
def iotaRow (ty : Ty) : Row :=
  buildRow ty fun k => if tyIsInt ty then k % 2 ^ tyBits ty else roundTo ty .rne (.fin false k 0)

/-! ## Memory forms (R212 to R214) -/

/-- The bytes of a row, byte 0 first. -/
def rowBytes (r : Row) : List Byte := leBytes 1024 r.toNat

/-- The row of up to 1,024 bytes. -/
def bytesRow (bs : List Byte) : Row := BitVec.ofNat 8192 (leNat bs)

/-- The address sa + 32 off (R213). -/
def vmAddr (x : Strand) (v : VmFields) : Word := x.reg v.sa + (v.off.signExtend 64) * 32#64

/-- The places of pieces of n bytes, each after the pointer checks of R213. -/
def piecePlaces (n z : Nat) : List Word → State → Res (State × List Place)
  | [], s => .ok (s, [])
  | a :: r, s =>
    match placesOf s a n z 1#3 with
    | .error e => .error e
    | .ok (s1, ps) =>
      match piecePlaces n z r s1 with
      | .error e => .error e
      | .ok (s2, qs) => .ok (s2, ps ++ qs)

/-- The first trap of the pointer checks over pieces that lie at rising addresses. -/
def pieceCheck (n z : Nat) (a : Word) (span al : Nat) : Option (Nat × Word) :=
  if z ≠ 0 ∧ spaceOf a = 0 then some (cIllegal, a)
  else if !ptrOk a then some (cSpace, a)
  else if !endOk a (span + n) then some (cSpace, beyond a)
  else if a.toNat % al ≠ 0 then some (cMisalign, a)
  else none

/-- The course of vld and vldt: gates, register index, address, the bytes in the order of the row. Of several
conditions that fail at once the row index is reported before the memory (DESIGN CHOICE, assumption log 64). Bytes of
another device hold the instruction (assumption log 65). -/
def vLoadBody (e : Eng) (v : VmFields) (n al : Nat) (pieces : Nat) (arrange : Row → Row) : Body := inClass e.cls.toNat fun s =>
  let dst := rowSpec v.spec
  let u := useOf [] dst v.flag
  match engGate s e u false with
  | .error w => .error w
  | .ok _ =>
    match dst.place s.me with
    | .error w => .error w
    | .ok d =>
      let a := vmAddr s.me v
      match pieceCheck n v.z.toNat a (1024 * (pieces - 1)) al with
      | some (c, t) => .error (.trap c t)
      | none =>
        match piecePlaces n v.z.toNat ((List.range pieces).map fun r => a + BitVec.ofNat 64 (1024 * r)) s with
        | .error w => .error w
        | .ok (s1, ps) =>
          match loadPlaces s1 a ps with
          | .error w => .error w
          | .ok (s2, bs) => .ok (startVector s2 e u d (arrange (bytesRow bs)), none)

/-- vld (R213). -/
def vldB (e : Eng) (v : VmFields) : Body := vLoadBody e v 1024 32 1 id

/-- vldt (R213): unit 16 c + r comes from piece r, unit c. -/
def vldtB (e : Eng) (v : VmFields) : Body :=
  vLoadBody e v 64 64 16 fun a => buildRow 7 fun j => rowElem 7 a (16 * (j % 16) + j / 16)

/-- vst (R213). -/
def vstB (e : Eng) (v : VmFields) : Body := inClass e.cls.toNat fun s =>
  let src := rowSpec v.spec
  let u := useOf [(src, v.flag)] .none 0#1
  match engGate s e u (ringWaits s.myCrew src) with
  | .error w => .error w
  | .ok _ =>
    match readRow s.myCrew s.me src with
    | .error w => .error w
    | .ok row =>
      let a := vmAddr s.me v
      match pieceCheck 1024 v.z.toNat a 0 32 with
      | some (c, t) => .error (.trap c t)
      | none =>
        match placesOf s a 1024 v.z.toNat 2#3 with
        | .error w => .error w
        | .ok (s1, ps) =>
          if ps.all (storeReady s1) then
            let s2 := storePlaces (mySender s1 e.cls.toNat) ps (rowBytes row) (countPlaces s1 s1.myCrew.tenant true ps)
            .ok (startVector s2 e u none row, none)
          else .error (.wait qMem s1)

/-- The places of the elements of vgath, each checked as a 4-byte load, lowest k first (R214). -/
def gatherPlaces : List Word → State → Res (State × List Place)
  | [], s => .ok (s, [])
  | a :: r, s =>
    match pointerCheck a 4 0 4 a with
    | some (c, v) => .error (.trap c v)
    | none =>
      match placesOf s a 4 0 1#3 with
      | .error e => .error e
      | .ok (s1, ps) =>
        match gatherPlaces r s1 with
        | .error e => .error e
        | .ok (s2, qs) => .ok (s2, ps ++ qs)

/-- vgath (R214). Of several conditions that fail at once the source is reported first, then the destination, then the
memory (DESIGN CHOICE, assumption log 64); an element on a lost member reports sb, which stands in the instruction (26
R387 says the pointer; DESIGN CHOICE, assumption log 64). -/
def vgathB (e : Eng) (v : VFields) : Body := inClass e.cls.toNat fun s =>
  let dst := rowSpec v.dst
  let src := rowSpec v.src1
  let u := useOf [(src, v.e)] dst v.f
  match engGate s e u (ringWaits s.myCrew src) with
  | .error w => .error w
  | .ok _ =>
    match readRow s.myCrew s.me src, dst.place s.me with
    | .error w, _ => .error w
    | _, .error w => .error w
    | .ok row, .ok d =>
      let sb := s.me.reg (v.x.extractLsb' 0 5)
      let addrs := (List.range 256).map fun k => sb + BitVec.ofInt 64 (4 * sElem 7 (rowElem 7 row k))
      match gatherPlaces addrs s with
      | .error w => .error w
      | .ok (s1, ps) =>
        match loadPlaces s1 sb ps with
        | .error w => .error w
        | .ok (s2, bs) => .ok (startVector s2 e u d (bytesRow bs), none)

/-! ## Bodies of the V group -/

/-- vadd (R199). -/
def vaddB (e : Eng) (v : VFields) : Body :=
  vBody e v (srcs2 v)
    (calc2 (map2 v.ty.toNat (arith2 v.ty.toNat Val.add (· + ·))))

/-- vsub (R199). -/
def vsubB (e : Eng) (v : VFields) : Body :=
  vBody e v (srcs2 v)
    (calc2 (map2 v.ty.toNat (arith2 v.ty.toNat (fun x y => Val.add x y.neg) (· - ·))))

/-- vmul (R199). -/
def vmulB (e : Eng) (v : VFields) : Body :=
  vBody e v (srcs2 v)
    (calc2 (map2 v.ty.toNat (arith2 v.ty.toNat Val.mul (· * ·))))

/-- vfma (R199). -/
def vfmaB (e : Eng) (v : VFields) : Body :=
  vBody e v (srcs2 v ++ [(rowSpec v.dst, 0#1)])
    (calc3 fun a b d => buildRow v.ty.toNat fun k => fmaElem v.ty.toNat (rowElem v.ty.toNat a k) (rowElem v.ty.toNat b k) (rowElem v.ty.toNat d k))

/-- vmin (R199). -/
def vminB (e : Eng) (v : VFields) : Body :=
  vBody e v (srcs2 v)
    (calc2 (map2 v.ty.toNat (arith2 v.ty.toNat Val.min' min)))

/-- vmax (R199). -/
def vmaxB (e : Eng) (v : VFields) : Body :=
  vBody e v (srcs2 v)
    (calc2 (map2 v.ty.toNat (arith2 v.ty.toNat Val.max' max)))

/-- vabs (R199). -/
def vabsB (e : Eng) (v : VFields) : Body :=
  vBody e v (srcs1 v)
    (calc1 (map1 v.ty.toNat (arith1 v.ty.toNat Val.abs fun z => (z.natAbs : Int))))

/-- vneg (R199). -/
def vnegB (e : Eng) (v : VFields) : Body :=
  vBody e v (srcs1 v)
    (calc1 (map1 v.ty.toNat (arith1 v.ty.toNat Val.neg fun z => -z)))

/-- vexp2 (R200). -/
def vexp2B (e : Eng) (v : VFields) : Body :=
  vBody e v (srcs1 v)
    (calc1 (map1 0 (specialFn 0)))

/-- vlog2 (R200). -/
def vlog2B (e : Eng) (v : VFields) : Body :=
  vBody e v (srcs1 v)
    (calc1 (map1 0 (specialFn 1)))

/-- vrcp (R200). -/
def vrcpB (e : Eng) (v : VFields) : Body :=
  vBody e v (srcs1 v)
    (calc1 (map1 0 (specialFn 2)))

/-- vrsqrt (R200). -/
def vrsqrtB (e : Eng) (v : VFields) : Body :=
  vBody e v (srcs1 v)
    (calc1 (map1 0 (specialFn 3)))

/-- vtanh (R200). -/
def vtanhB (e : Eng) (v : VFields) : Body :=
  vBody e v (srcs1 v)
    (calc1 (map1 0 (specialFn 4)))

/-- vand (R201). -/
def vandB (e : Eng) (v : VFields) : Body :=
  vBody e v (srcs2 v)
    (calc2 fun a b => a &&& b)

/-- vor (R201). -/
def vorB (e : Eng) (v : VFields) : Body :=
  vBody e v (srcs2 v)
    (calc2 fun a b => a ||| b)

/-- vxor (R201). -/
def vxorB (e : Eng) (v : VFields) : Body :=
  vBody e v (srcs2 v)
    (calc2 fun a b => a ^^^ b)

/-- vshl (R201). -/
def vshlB (e : Eng) (v : VFields) : Body :=
  vBody e v (srcs2 v)
    (calc2 (map2 v.ty.toNat fun x y => x <<< shiftCount v.ty.toNat y))

/-- vshr (R201). -/
def vshrB (e : Eng) (v : VFields) : Body :=
  vBody e v (srcs2 v)
    (calc2 (map2 v.ty.toNat fun x y => x >>> shiftCount v.ty.toNat y))

/-- vsra (R201). -/
def vsraB (e : Eng) (v : VFields) : Body :=
  vBody e v (srcs2 v)
    (calc2 (map2 v.ty.toNat fun x y => wrapElem v.ty.toNat (sElem v.ty.toNat x / 2 ^ shiftCount v.ty.toNat y)))

/-- vcmpEq (R202). -/
def vcmpEqB (e : Eng) (v : VFields) : Body :=
  vBody e v (srcs2 v)
    (calc2 (cmpRow v.ty.toNat 0))

/-- vcmpNe (R202). -/
def vcmpNeB (e : Eng) (v : VFields) : Body :=
  vBody e v (srcs2 v)
    (calc2 (cmpRow v.ty.toNat 1))

/-- vcmpLt (R202). -/
def vcmpLtB (e : Eng) (v : VFields) : Body :=
  vBody e v (srcs2 v)
    (calc2 (cmpRow v.ty.toNat 2))

/-- vcmpLe (R202). -/
def vcmpLeB (e : Eng) (v : VFields) : Body :=
  vBody e v (srcs2 v)
    (calc2 (cmpRow v.ty.toNat 3))

/-- vsel (R203). -/
def vselB (e : Eng) (v : VFields) : Body :=
  vBody e v (srcs2 v ++ [(.ring 1, 0#1)])
    (calc3 (selRow v.ty.toNat))

/-- vcvt (R204). -/
def vcvtB (e : Eng) (v : VFields) : Body :=
  vBody e v (srcs1 v)
    (cvtCalc (.vcvt e v) v)

/-- vqblk (R206). -/
def vqblkB (e : Eng) (v : VFields) : Body :=
  vBody e v (srcs1 v)
    (calc1 (qblkRow (v.x.getLsbD 3) (v.x.toNat % 8)))

/-- vunpk (R207). -/
def vunpkB (e : Eng) (v : VFields) : Body :=
  vBody e v (srcs1 v)
    (calc1 (unpkRow v.ty.toNat (v.x.getLsbD 2) (v.x.toNat % 4)))

/-- vdrop (R208). -/
def vdropB (e : Eng) (v : VFields) : Body :=
  vBody e v (srcs1 v)
    (dropCalc (.vdrop e v) v)

/-- vrsum (R210). -/
def vrsumB (e : Eng) (v : VFields) : Body :=
  vBody e v (srcs1 v)
    (calc1 (reduceRow v.ty.toNat (sumVals v.ty.toNat) fun l => l.foldl (· + ·) 0))

/-- vrmax (R210). -/
def vrmaxB (e : Eng) (v : VFields) : Body :=
  vBody e v (srcs1 v)
    (calc1 (reduceRow v.ty.toNat (foldFirst Val.max' .nan) (foldFirst max 0)))

/-- vrmin (R210). -/
def vrminB (e : Eng) (v : VFields) : Body :=
  vBody e v (srcs1 v)
    (calc1 (reduceRow v.ty.toNat (foldFirst Val.min' .nan) (foldFirst min 0)))

/-- vmov (R211). -/
def vmovB (e : Eng) (v : VFields) : Body :=
  vBody e v (srcs1 v)
    (calc1 id)

/-- vshuf (R211). -/
def vshufB (e : Eng) (v : VFields) : Body :=
  vBody e v (srcs2 v)
    (calc2 (shufRow v.ty.toNat))

/-- viota (R211). -/
def viotaB (e : Eng) (v : VFields) : Body :=
  vBody e v []
    (fun x _ => .ok (iotaRow v.ty.toNat, x))

/-- vsplat (R211). -/
def vsplatB (e : Eng) (v : VFields) : Body :=
  vBody e v []
    (fun x _ => .ok (buildRow v.ty.toNat fun _ => (x.reg (v.x.extractLsb' 0 5)).toNat, x))

/-- vrng (R209). -/
def vrngB (e : Eng) (v : VFields) : Body :=
  vBody e v []
    (vrngCalc (.vrng e v) v)

/-- vtrn (R211). -/
def vtrnB (e : Eng) (v : VFields) : Body :=
  vBody e v (srcs1 v)
    (calc1 (trnRow v.ty.toNat))

/-! ## Meanings -/

/-- VADD (R199). -/
def execVadd (e : Eng) (v : VFields) (s : State) : Outcome :=
  issue (.vadd e v) [.v] e.p true (vaddB e v) s

/-- VSUB (R199). -/
def execVsub (e : Eng) (v : VFields) (s : State) : Outcome :=
  issue (.vsub e v) [.v] e.p true (vsubB e v) s

/-- VMUL (R199). -/
def execVmul (e : Eng) (v : VFields) (s : State) : Outcome :=
  issue (.vmul e v) [.v] e.p true (vmulB e v) s

/-- VFMA (R199). -/
def execVfma (e : Eng) (v : VFields) (s : State) : Outcome :=
  issue (.vfma e v) [.v] e.p true (vfmaB e v) s

/-- VMIN (R199). -/
def execVmin (e : Eng) (v : VFields) (s : State) : Outcome :=
  issue (.vmin e v) [.v] e.p true (vminB e v) s

/-- VMAX (R199). -/
def execVmax (e : Eng) (v : VFields) (s : State) : Outcome :=
  issue (.vmax e v) [.v] e.p true (vmaxB e v) s

/-- VABS (R199). -/
def execVabs (e : Eng) (v : VFields) (s : State) : Outcome :=
  issue (.vabs e v) [.v] e.p true (vabsB e v) s

/-- VNEG (R199). -/
def execVneg (e : Eng) (v : VFields) (s : State) : Outcome :=
  issue (.vneg e v) [.v] e.p true (vnegB e v) s

/-- VEXP2 (R200). -/
def execVexp2 (e : Eng) (v : VFields) (s : State) : Outcome :=
  issue (.vexp2 e v) [.v] e.p true (vexp2B e v) s

/-- VLOG2 (R200). -/
def execVlog2 (e : Eng) (v : VFields) (s : State) : Outcome :=
  issue (.vlog2 e v) [.v] e.p true (vlog2B e v) s

/-- VRCP (R200). -/
def execVrcp (e : Eng) (v : VFields) (s : State) : Outcome :=
  issue (.vrcp e v) [.v] e.p true (vrcpB e v) s

/-- VRSQRT (R200). -/
def execVrsqrt (e : Eng) (v : VFields) (s : State) : Outcome :=
  issue (.vrsqrt e v) [.v] e.p true (vrsqrtB e v) s

/-- VTANH (R200). -/
def execVtanh (e : Eng) (v : VFields) (s : State) : Outcome :=
  issue (.vtanh e v) [.v] e.p true (vtanhB e v) s

/-- VAND (R201). -/
def execVand (e : Eng) (v : VFields) (s : State) : Outcome :=
  issue (.vand e v) [.v] e.p true (vandB e v) s

/-- VOR (R201). -/
def execVor (e : Eng) (v : VFields) (s : State) : Outcome :=
  issue (.vor e v) [.v] e.p true (vorB e v) s

/-- VXOR (R201). -/
def execVxor (e : Eng) (v : VFields) (s : State) : Outcome :=
  issue (.vxor e v) [.v] e.p true (vxorB e v) s

/-- VSHL (R201). -/
def execVshl (e : Eng) (v : VFields) (s : State) : Outcome :=
  issue (.vshl e v) [.v] e.p true (vshlB e v) s

/-- VSHR (R201). -/
def execVshr (e : Eng) (v : VFields) (s : State) : Outcome :=
  issue (.vshr e v) [.v] e.p true (vshrB e v) s

/-- VSRA (R201). -/
def execVsra (e : Eng) (v : VFields) (s : State) : Outcome :=
  issue (.vsra e v) [.v] e.p true (vsraB e v) s

/-- VCMP_EQ (R202). -/
def execVcmpEq (e : Eng) (v : VFields) (s : State) : Outcome :=
  issue (.vcmpEq e v) [.v] e.p true (vcmpEqB e v) s

/-- VCMP_NE (R202). -/
def execVcmpNe (e : Eng) (v : VFields) (s : State) : Outcome :=
  issue (.vcmpNe e v) [.v] e.p true (vcmpNeB e v) s

/-- VCMP_LT (R202). -/
def execVcmpLt (e : Eng) (v : VFields) (s : State) : Outcome :=
  issue (.vcmpLt e v) [.v] e.p true (vcmpLtB e v) s

/-- VCMP_LE (R202). -/
def execVcmpLe (e : Eng) (v : VFields) (s : State) : Outcome :=
  issue (.vcmpLe e v) [.v] e.p true (vcmpLeB e v) s

/-- VSEL (R203). -/
def execVsel (e : Eng) (v : VFields) (s : State) : Outcome :=
  issue (.vsel e v) [.v] e.p true (vselB e v) s

/-- VCVT (R204). -/
def execVcvt (e : Eng) (v : VFields) (s : State) : Outcome :=
  issue (.vcvt e v) [.v] e.p true (vcvtB e v) s

/-- VQBLK (R206). -/
def execVqblk (e : Eng) (v : VFields) (s : State) : Outcome :=
  issue (.vqblk e v) [.v] e.p true (vqblkB e v) s

/-- VUNPK (R207). -/
def execVunpk (e : Eng) (v : VFields) (s : State) : Outcome :=
  issue (.vunpk e v) [.v] e.p true (vunpkB e v) s

/-- VDROP (R208). -/
def execVdrop (e : Eng) (v : VFields) (s : State) : Outcome :=
  issue (.vdrop e v) [.v] e.p true (vdropB e v) s

/-- VRSUM (R210). -/
def execVrsum (e : Eng) (v : VFields) (s : State) : Outcome :=
  issue (.vrsum e v) [.v] e.p true (vrsumB e v) s

/-- VRMAX (R210). -/
def execVrmax (e : Eng) (v : VFields) (s : State) : Outcome :=
  issue (.vrmax e v) [.v] e.p true (vrmaxB e v) s

/-- VRMIN (R210). -/
def execVrmin (e : Eng) (v : VFields) (s : State) : Outcome :=
  issue (.vrmin e v) [.v] e.p true (vrminB e v) s

/-- VMOV (R211). -/
def execVmov (e : Eng) (v : VFields) (s : State) : Outcome :=
  issue (.vmov e v) [.v] e.p true (vmovB e v) s

/-- VSHUF (R211). -/
def execVshuf (e : Eng) (v : VFields) (s : State) : Outcome :=
  issue (.vshuf e v) [.v] e.p true (vshufB e v) s

/-- VIOTA (R211). -/
def execViota (e : Eng) (v : VFields) (s : State) : Outcome :=
  issue (.viota e v) [.v] e.p true (viotaB e v) s

/-- VSPLAT (R211). -/
def execVsplat (e : Eng) (v : VFields) (s : State) : Outcome :=
  issue (.vsplat e v) [.v] e.p true (vsplatB e v) s

/-- VLD (R213). -/
def execVld (e : Eng) (v : VmFields) (s : State) : Outcome :=
  issue (.vld e v) [.v] e.p true (vldB e v) s

/-- VST (R213). -/
def execVst (e : Eng) (v : VmFields) (s : State) : Outcome :=
  issue (.vst e v) [.v] e.p true (vstB e v) s

/-- VLDT (R213). -/
def execVldt (e : Eng) (v : VmFields) (s : State) : Outcome :=
  issue (.vldt e v) [.v] e.p true (vldtB e v) s

/-- VGATH (R214). -/
def execVgath (e : Eng) (v : VFields) (s : State) : Outcome :=
  issue (.vgath e v) [.v] e.p true (vgathB e v) s

/-- VRNG (R209). -/
def execVrng (e : Eng) (v : VFields) (s : State) : Outcome :=
  issue (.vrng e v) [.v] e.p true (vrngB e v) s

/-- VTRN (R211). -/
def execVtrn (e : Eng) (v : VFields) (s : State) : Outcome :=
  issue (.vtrn e v) [.v] e.p true (vtrnB e v) s

end Sys2Proof.Machine
end

