-- ==== Sys2Proof/Machine/Matrix.lean ====
section
/-! DEFINITION. The matrix instructions: spec 12 R216 to R235, with 05 R85, R86 and 06 R91 to R93; and the event
ENGINE_INSTRUCTION_COMPLETION (02 R21). -/
namespace Sys2Proof.Machine

/-! ## Planes (R216 to R218) -/

/-- Bits of a plane element. -/
def planeBits (fmt : Nat) : Nat := if fmt = 5 then 4 else tyBits fmt

/-- Bytes of a plane row. -/
def planeRowBytes (fmt : Nat) : Nat := if fmt = 1 ∨ fmt = 2 then 512 else 256

/-- Row i of a plane. -/
def Plane.row (p : Plane) (i : Nat) : PRow := sget 0#4096 p.rows i

/-- Element j of plane row i. -/
def Plane.elem (p : Plane) (fmt i j : Nat) : Nat := elemOf (planeBits fmt) j (p.row i).toNat

/-- Scale byte b of plane row i: 0x7F where nothing is recorded (R218). -/
def Plane.scale (p : Plane) (i b : Nat) : Nat :=
  elemOf 8 b (sget (BitVec.ofNat 128 0x7F7F7F7F7F7F7F7F7F7F7F7F7F7F7F7F) p.scales i).toNat

/-- Special byte b of plane row i. -/
def Plane.special (p : Plane) (i b : Nat) : Nat := elemOf 8 b (sget 0#128 p.specials i).toNat

/-- The shadow plane after a load of a part by a crew of a tenant (R218). -/
def loadPart (p : Plane) (tenant crew : Nat) (part : PlanePart) : Plane :=
  let p : Plane := if p.fmt = some part.fmt then p else { fmt := some part.fmt, tag := p.tag }
  let mask := match p.tag with
    | some t => if t.tenant = tenant ∧ t.crew = crew then t.mask else 0#8
    | none => 0#8
  { p with
    tag := some { tenant, crew, mask := mask ||| part.mask }
    rows := part.rows.foldl (fun a r => sputD 0#4096 a r.1 r.2) p.rows
    scales := part.scales.foldl (fun a r => sput a r.1 r.2) p.scales
    specials := part.specials.foldl (fun a r => sput a r.1 r.2) p.specials }

/-- The active plane is complete for a crew that runs for a tenant (R218). -/
def planeComplete (p : Plane) (tenant crew : Nat) : Bool :=
  match p.tag with
  | some t => t.tenant == tenant && t.crew == crew && t.mask == 0xFF#8
  | none => false

/-- Chunk n of B bytes of a tile's byte stream as a number; B divides 1,024. -/
def tileChunk (c : Crew) (sel bytes n : Nat) : Nat :=
  (c.row sel (n * bytes / 1024)).toNat >>> (8 * (n * bytes % 1024)) % 2 ^ (8 * bytes)

/-- The rows of a part of the plane formats with one element of whole bytes (R217). -/
def partRows (fmt part : Nat) : List Nat :=
  if fmt = 1 ∨ fmt = 2 then (List.range 128).map fun i => 128 * part + i else List.range 256

/-- The eighths of a part (R217). -/
def partMask (fmt part : Nat) : BitVec 8 :=
  if fmt = 1 ∨ fmt = 2 then (if part = 0 then 0x0F#8 else 0xF0#8) else 0xFF#8

/-- The tile chunk from which lds takes plane row i (R217). -/
def ldsChunk (c : Crew) (sel fmt i : Nat) : Nat :=
  let b := planeRowBytes fmt
  tileChunk c sel b (if b = 512 then i % 128 else i)

/-- lds (R224). -/
def ldsPart (c : Crew) (x : XFields) : PlanePart :=
  let fmt := x.fmt.toNat
  { fmt
    mask := partMask fmt x.row.toNat
    rows := (partRows fmt x.row.toNat).map fun i => (i, BitVec.ofNat 4096 (ldsChunk c x.ta.toNat fmt i)) }

/-- The four registers of lds.p are legal (06 R91). -/
def ldsPOk (r : List Word) : Bool :=
  let a := r.getD 1 0#64
  a.bits 63 37 == 0 && decide (a.bits 35 32 < 2) && a.bits 31 24 != 0xFF && (r.getD 2 0#64).bits 63 44 == 0 &&
    (r.getD 3 0#64).bits 63 22 == 0 && (r.getD 3 0#64).bits 21 0 != 0

/-- The perturbed weight w' (06 R92, R93) of element (i, j). -/
def perturbed (fmt : Nat) (r : List Word) (w i j : Nat) : Nat :=
  let a := r.getD 1 0#64
  let b := r.getD 2 0#64
  let e := ((b.bits 21 0 + i) * (r.getD 3 0#64).bits 21 0 + (b.bits 43 22 + j)) % 2 ^ 44
  let n := noiseVal (a.bits 35 32) (noiseNibble (r.getD 0 0#64) (a.bits 23 0) e)
  let n := n.scale ((a.bits 31 24 : Int) - 127)
  roundTo fmt .rne (Val.add (valueOf fmt w) (if a.bits 36 36 = 1 then n.neg else n))

/-- lds.p (R225). -/
def ldsPPart (c : Crew) (x : XFields) (r : List Word) : PlanePart :=
  let fmt := x.fmt.toNat
  let w := planeBits fmt
  { fmt
    mask := partMask fmt x.row.toNat
    rows := (partRows fmt x.row.toNat).map fun i =>
      let v := ldsChunk c x.ta.toNat fmt i
      (i, BitVec.ofNat 4096 (packFrom w (fun j => perturbed fmt r (elemOf w j v) i j) 256 0)) }

/-- lds.cb (R226): eighth p, indices of three bits, tables of CBTn. -/
def ldsCbPart (c : Crew) (x : XFields) : PlanePart :=
  let p := x.row.toNat
  let stream := tileChunk c x.ta.toNat 1024 (3 * p) + 2 ^ 8192 * tileChunk c x.ta.toNat 1024 (3 * p + 1) +
    2 ^ 16384 * tileChunk c x.ta.toNat 1024 (3 * p + 2)
  let table := (c.row (24 + x.tb.toNat) 0).toNat
  let elem (i j : Nat) : Nat :=
    let f := 256 * i + j
    elemOf 16 (8 * (f / 128) + elemOf 3 f stream) table
  { fmt := x.fmt.toNat
    mask := 1#8 <<< p
    rows := (List.range 32).map fun i => (32 * p + i, BitVec.ofNat 4096 (packFrom 16 (elem i) 256 0)) }

/-- lds.bs (R228). -/
def ldsBsPart (c : Crew) (x : XFields) : PlanePart :=
  let side (i base : Nat) : BitVec 128 :=
    BitVec.ofNat 128 ((c.row x.tb.toNat (i / 4)).toNat >>> (8 * (base + 16 * (i % 4))))
  { fmt := 5
    mask := 0xFF#8
    rows := (List.range 256).map fun i => (i, BitVec.ofNat 4096 (tileChunk c x.ta.toNat 256 i))
    scales := (List.range 256).map fun i => (i, side i 0)
    specials := (List.range 256).map fun i => (i, side i 64) }

/-! ## The lease (R219, R220) -/

/-- LEASE_OVERRUN (R220). -/
def leaseCheck (s : State) : Res Unit :=
  let crew := s.cur.1
  if holdsLease s crew then
    if leaseEnding s (cuOf crew) then .error (.trap cLease 1#64) else .ok ()
  else .error (.trap cLease (if s.myCrew.leased then 1#64 else 0#64))

/-- The planes are being zeroed for the holder (03 R54). -/
def planesZeroing (s : State) : Bool :=
  match (s.cu (cuOf s.cur.1)).lease with
  | some l => l.zeroing
  | none => false

/-- One more array instruction of the lease has started (R220). -/
def countArray (s : State) : State :=
  let cu := cuOf s.cur.1
  let c := s.cu cu
  s.setCu cu { c with lease := c.lease.map fun l => { l with used := l.used + 1 } }

/-- alease (R219). -/
def aleaseBody (x : XFields) (s : State) : Res State :=
  let crew := s.cur.1
  let cu := cuOf crew
  let c := s.cu cu
  if holdsLease s crew then
    if planesZeroing s then .error (.wait qLease s)
    else .ok (s.setMe (s.me.setPred x.pd (planeComplete c.active s.myCrew.tenant crew)))
  else if c.requests.contains (crew % 4) then .error (.wait qLease s)
  else
    let busy := c.lease.isSome || !c.requests.isEmpty
    .error (.wait qLease (rampTurn (s.setCu cu { c with requests := c.requests ++ [crew % 4] }) cu busy))

/-- arelease (R219); no lease has been granted since (R220). -/
def areleaseBody (s : State) : Res State :=
  if arrayBusy s.myCrew then .error (.wait (unitCause s) s)
  else
    let s1 := if holdsLease s s.cur.1 then endLease s (cuOf s.cur.1) else s
    .ok (s1.setMyCrew { s1.myCrew with leased := false })

/-! ## Starting matrix instructions (R221) -/

/-- A unit of the crew's matrix strand is busy. -/
def unitBusy (c : Crew) (u : Unit') : Bool := c.inflight.any fun o => o.kind == .m && o.unit == u

/-- The common course of a matrix instruction: for an array instruction the lease, then tile operands, units and
tokens, then the planes' zeroing, then its own checks and its operation. busy is what a wait for its units is charged
while they are busy; the later replacement of a group starts on its unit when that is free (18 R299). -/
def mBody (e : Eng) (u : TileUse) (array : Bool) (busy : State → Option Nat) (op : State → Res (State × EngOp)) : Body :=
  fun s =>
    match (if array then leaseCheck s else .ok ()) with
    | .error w => .error w
    | .ok _ =>
      let b := if s.myCrew.grouped then none else busy s
      match (if b = some qThrottle then .error (.wait qThrottle s) else engGate s e u b.isSome) with
      | .error w => .error w
      | .ok _ =>
        if array && planesZeroing s then .error (.wait qLease s)
        else
          match op s with
          | .error w => .error w
          | .ok (s1, o) =>
            let s2 := startOp s1 e u { o with isArray := array }
            .ok (if array then countArray s2 else s2, none)

/-- A wait for units of the matrix strand that are busy, charged to TILE_WAIT (07 R107). -/
def unitsWait (us : List Unit') (s : State) : Option Nat := if us.any (unitBusy s.myCrew) then some qTile else none

/-- A wait for every array instruction of the crew (R221). -/
def arrayWait (s : State) : Option Nat := if arrayBusy s.myCrew then some (unitCause s) else none

/-- An lds form: the load path is free and no swap runs (R221). -/
def ldsBody (e : Eng) (u : TileUse) (part : State → Res PlanePart) : Body :=
  mBody e u true (unitsWait [.load, .swap]) fun s =>
    match part s with
    | .error w => .error w
    | .ok p => .ok (s, { id := 0, kind := .m, unit := .load, part := some p })

/-- ta as a read operand. -/
def readTa (x : XFields) : Nat × Bool := (x.ta.toNat, x.e == 1#1)

/-- lds (R224). -/
def ldsB (e : Eng) (x : XFields) : Body := ldsBody e { reads := [readTa x] } fun s => .ok (ldsPart s.myCrew x)

/-- lds.p (R225). -/
def ldsPB (e : Eng) (x : XFields) : Body :=
  ldsBody e { reads := [readTa x] } fun s =>
    let r := s.me.regsFrom x.sn 4
    if ldsPOk r then .ok (ldsPPart s.myCrew x r) else illegalWords (.ldsP e x)

/-- lds.cb (R226): the codebook is read as with :e. -/
def ldsCbB (e : Eng) (x : XFields) : Body :=
  ldsBody e { reads := [readTa x, (24 + x.tb.toNat, true)] } fun s => .ok (ldsCbPart s.myCrew x)

/-- lds.bs (R228). -/
def ldsBsB (e : Eng) (x : XFields) : Body :=
  ldsBody e { reads := [readTa x, (x.tb.toNat, false)] } fun s => .ok (ldsBsPart s.myCrew x)

/-- mswap (R229). -/
def mswapB (e : Eng) : Body :=
  mBody e {} true arrayWait fun s => .ok (s, { id := 0, kind := .m, unit := .swap })

/-! ## Products (R230, R231; 05 R85) -/

/-- The active plane and the activation format form a pair of R230. -/
def pairOk (bs : Bool) (plane : Option Nat) (fmt : Nat) : Bool :=
  match plane with
  | none => false
  | some p =>
    if bs then p == 5 && fmt == 5
    else if fmt = 3 ∨ fmt = 4 then p == 3 || p == 4
    else p == fmt && (fmt == 6 || fmt == 1 || fmt == 2)

/-- Exact sum of values; the start is the identity of addition. -/
def sumExact (l : List Val) : Val := l.foldl Val.add (.fin true 0 0)

/-- Element k of activation vector v in a tile's byte stream (R231). -/
def actElem (c : Crew) (sel fmt v : Nat) : Nat → Nat :=
  let b := planeRowBytes fmt
  let chunk := tileChunk c sel b v
  fun k => elemOf (planeBits fmt) k chunk

/-- One column of a product on floating formats: val gives the activation and weight values (R85). -/
def columnSum (groups : Nat) (act wt : Nat → Val) (acc : Val) : Val :=
  (List.range groups).foldl
    (fun a g => rne32v (Val.add a (sumExact ((List.range 32).map fun k => Val.mul (act (32 * g + k)) (wt (32 * g + k))))))
    acc

/-- One column of an INT8 product (R85). -/
def columnInt (act wt : Nat → Int) (acc : Int) : Int :=
  (List.range 256).foldl (fun a k => a + act k * wt k) acc

/-- Accumulator row v after the product (R231). -/
def mmulRow (c : Crew) (p : Plane) (pf : Nat) (x : XFields) (v : Nat) : Row :=
  let fmt := x.fmt.toNat
  let ta := x.ta.toNat
  let old := c.row x.tb.toNat v
  let acc (i : Nat) : Nat := if x.acc = 1#1 then rowElem 0 old i else 0
  let a := actElem c ta fmt v
  if fmt = 6 then
    let act := ((List.range 256).map fun k => sElem 6 (a k)).toArray
    buildRow 7 fun i =>
      let w := (p.row i).toNat
      wrapElem 7 (columnInt (fun k => act.getD k 0) (fun k => sElem 6 (elemOf 8 k w)) (sElem 7 (acc i)))
  else if fmt = 5 then
    let r := v / 4
    let side := (c.row ta (32 + r)).toNat
    let xs (k : Nat) : Nat := (512 * v + k) / 32 % 64
    let act := ((List.range 512).map fun k => e2m1Value (a k) (elemOf 8 (xs k) side) (elemOf 8 (64 + xs k) side)).toArray
    buildRow 0 fun i =>
      let w := (p.row i).toNat
      let wt (k : Nat) : Val := e2m1Value (elemOf 4 k w) (p.scale i (k / 32)) (p.special i (k / 32))
      rne32 (columnSum 16 (fun k => act.getD k .nan) wt (fp32 (acc i)))
  else
    let act := ((List.range 256).map fun k => valueOf fmt (a k)).toArray
    buildRow 0 fun i =>
      let w := (p.row i).toNat
      rne32 (columnSum 8 (fun k => act.getD k .nan) (fun k => valueOf pf (elemOf (planeBits pf) k w)) (fp32 (acc i)))

/-- An mmul form (R230, R231): the array is gated by the throttle, and its array cycles are counted (R222, 27 R400). -/
def mmulBody (i : Instr) (e : Eng) (x : XFields) (bs : Bool) : Body :=
  mBody e { reads := [readTa x], write := some (x.tb.toNat, x.f == 1#1) } true (unitsWait [.swap]) fun s =>
    let cu := cuOf s.cur.1
    let p := (s.cu cu).active
    if !pairOk bs p.fmt x.fmt.toNat then illegalWords i
    else if !s.myCrew.grouped && !arrayOpen s cu then .error (.wait qThrottle s)
    else
      let c := s.myCrew
      let pf := p.fmt.getD 0
      let rows := (List.range (x.row.toNat + 1)).map fun v => (128 * x.tb.toNat + v, mmulRow c p pf x v)
      let cycles := (x.row.toNat + 1) * (if x.fmt.toNat = 1 ∨ x.fmt.toNat = 2 then 4 else 1)
      .ok (countFor s c.tenant 2 cycles, { id := 0, kind := .m, unit := .array, rows })

/-- mmul (R230). -/
def mmulB (e : Eng) (x : XFields) : Body := mmulBody (.mmul e x) e x false

/-- mmul.bs (R230). -/
def mmulBsB (e : Eng) (x : XFields) : Body := mmulBody (.mmulBs e x) e x true

/-! ## Drain (R232 to R234; 05 R86) -/

/-- A value is a finite FP32 value (05 R82). -/
def isFp32 (v : Val) : Bool :=
  match v with
  | .fin _ _ _ => Val.cmp (rne32v v) v == .eq
  | _ => false

/-- The drained value before rounding, and whether it was NaN before the clip (05 R86). -/
def drainVal (int : Bool) (x lo hi a : Nat) : Val × Bool :=
  let v := if int then valueOf 7 a else fp32 a
  let y := if x = 255 then .nan else v.scale ((x : Int) - 127)
  (Val.clip y (fp32 lo) (fp32 hi), y.isNaN)

/-- Bytes of a target row (R232). -/
def drainBytes (fmt : Nat) : Nat := 32 * tyBits fmt

/-- The five registers of mdrain are legal (R232). -/
def drainOk (r : List Word) (fmt n : Nat) (toMem : Bool) : Bool :=
  let a := r.getD 0 0#64
  let d := r.getD 3 0#64
  let z := a.bits 11 9
  let s := drainBytes fmt
  a.bits 63 12 == 0 && d.bits 63 32 == 0 && z != 7 &&
    (if toMem then d.bits 31 0 % 32 == 0 && decide (s ≤ d.bits 31 0) else z == 0 && decide (n * s ≤ 65536))

/-- The output rows of a drain as numbers, and whether a NaN was met (R233): x0 is the strand whose stream is drawn. -/
def drainRows (c : Crew) (x0 : Strand) (x : XFields) (r : List Word) : List Nat × Bool :=
  let fmt := x.fmt.toNat
  let a := r.getD 0 0#64
  let b := r.getD 1 0#64
  let one (v i : Nat) : Val × Bool :=
    drainVal (a.bits 8 8 == 1) (a.bits 7 0) (b.bits 31 0) (b.bits 63 32) (rowElem 0 (c.row x.ta.toNat v) i)
  let out (v i : Nat) : Nat :=
    let y := (one v i).1
    roundTo fmt (if x.sr = 1#1 then .sr (ctxDraw x0 (256 * v + i)).toNat (isFp32 y) else .rne) y
  let n := x.row.toNat + 1
  ((List.range n).map fun v => packFrom (tyBits fmt) (out v) 256 0,
    (List.range n).any fun v => (List.range 256).any fun i => (one v i).2)

/-- The rows of the tile destination: whole tile rows, with the bytes beyond the output kept (R233). -/
def drainTile (c : Crew) (dst size : Nat) (out : List Nat) : List (Nat × Row) :=
  let per := 1024 / size
  (List.range ((out.length + per - 1) / per)).map fun r =>
    let old := (c.row dst r).toNat
    let f (j : Nat) : Nat := (out[per * r + j]?).getD (elemOf (8 * size) j old)
    (128 * dst + r, BitVec.ofNat 8192 (packFrom (8 * size) f per 0))

/-- The lowest address of the drain beyond its field (R42). -/
def drainBeyond (dest : Word) (pitch s n : Nat) : Option Word :=
  let off := ptrOff dest
  let lim := fieldSize dest
  ((List.range n).find? fun v => decide (lim < off + pitch * v + s)).map fun v =>
    if lim ≤ off + pitch * v then dest + BitVec.ofNat 64 (pitch * v) else beyond dest

/-- The pointer checks of a drain to memory (R234). -/
def drainCheck (dest : Word) (z pitch s n : Nat) : Option (Nat × Word) :=
  if z ≠ 0 ∧ spaceOf dest = 0 then some (cIllegal, dest)
  else if !ptrOk dest then some (cSpace, dest)
  else
    match drainBeyond dest pitch s n with
    | some t => some (cSpace, t)
    | none => if dest.toNat % 32 ≠ 0 then some (cMisalign, dest) else none

/-- The places of every row, with the fresh walks of R234. -/
def drainPlaces (dest : Word) (z pitch s : Nat) : List Nat → State → Res (State × List (List Place))
  | [], st => .ok (st, [])
  | v :: r, st =>
    match placesOf st (dest + BitVec.ofNat 64 (pitch * v)) s z 2#3 8192 with
    | .error e => .error e
    | .ok (st1, ps) =>
      match drainPlaces dest z pitch s r st1 with
      | .error e => .error e
      | .ok (st2, qs) => .ok (st2, ps :: qs)

/-- The cycle until which the translation of va that a drain has taken serves: its expiry, or for one of single use the
bound of R345; none in scratchpad. -/
def serves (s : State) (va : Word) : Option Nat :=
  if spaceOf va ≠ 0 then none
  else
    let cu := cuOf s.cur.1
    some (((cached (s.cu cu).tlb s.myCrew.tenant (va.toNat / 4096) (s.cuCycle cu) 0).map Tlb.expiry).getD
      (s.cuCycle cu + 4088))

/-- The parts of a drain's row from address va on. -/
def rowParts (s : State) (row : Nat) : Word → List Place → List Byte → List RowPart
  | _, [], _ => []
  | va, (k, c) :: r, bs =>
    { row, va, key := k, bs := bs.take c, till := serves s va } :: rowParts s row (va + BitVec.ofNat 64 c) r (bs.drop c)

/-- The parts of the rows of a drain to dest (R234). -/
def drainParts (s : State) (dest : Word) (pitch size : Nat) (ps : List (List Place)) (out : List Nat) : List RowPart :=
  (ps.zip out).zipIdx.flatMap fun p => rowParts s p.2 (dest + BitVec.ofNat 64 (pitch * p.2)) p.1.1 (leBytes size p.1.2)

/-- The check of the whole access of a drain to memory: barrier, pointer, bytes (R234). -/
def drainMem (s : State) (r : List Word) (size n : Nat) : Res (State × List (List Place)) :=
  let z := (r.getD 0 0#64).bits 11 9
  let pitch := (r.getD 3 0#64).bits 31 0
  match barPointerCheck s (r.getD 4 0#64) with
  | some (c, v) => .error (.trap c v)
  | none =>
    match drainCheck (r.getD 2 0#64) z pitch size n with
    | some (c, v) => .error (.trap c v)
    | none =>
      match drainPlaces (r.getD 2 0#64) z pitch size (List.range n) s with
      | .error e => .error e
      | .ok a => if barZeroing s (cuOf s.cur.1) (r.getD 4 0#64) then .error (.wait qMem s) else .ok a

/-- The operand uses of mdrain (R232). -/
def drainUse (x : XFields) : TileUse :=
  { reads := [readTa x], write := if x.tb = 16#5 then none else some (x.tb.toNat, x.f == 1#1) }

/-- mdrain (R232 to R234). -/
def mdrainB (e : Eng) (x : XFields) : Body :=
  mBody e (drainUse x) false (unitsWait [.drain]) fun s =>
    let c := s.myCrew
    let r := s.me.regsFrom x.sn 5
    let n := x.row.toNat + 1
    let size := drainBytes x.fmt.toNat
    let toMem := x.tb == 16#5
    if !drainOk r x.fmt.toNat n toMem then illegalWords (.mdrain e x)
    else
      match (if toMem then drainMem s r size n else .ok (s, [])) with
      | .error w => .error w
      | .ok (s1, ps) =>
        let (out, nan) := drainRows c s.me x r
        let s2 := if x.sr = 1#1 then s1.setMe (s1.me.drew (256 * n)) else s1
        let o : EngOp := { id := 0, kind := .m, unit := .drain, nanTile := if nan then some (x.ta.toNat - 16) else none }
        .ok (s2,
          if toMem then
            { o with
              left := drainParts s1 (r.getD 2 0#64) ((r.getD 3 0#64).bits 31 0) size ps out
              bar := r.getD 4 0#64
              arrive := size
              arrivals := n }
          else { o with rows := drainTile c x.tb.toNat size out })

/-- mzero (R235). -/
def mzeroB (e : Eng) (x : XFields) : Body :=
  mBody e { write := some (x.tb.toNat, x.f == 1#1) } false (unitsWait []) fun s =>
    let rows := (List.range (tileRows x.tb.toNat)).map fun r => (128 * x.tb.toNat + r, 0#8192)
    .ok (s, { id := 0, kind := .m, unit := .self, rows })

/-- mcbt (R227). -/
def mcbtB (e : Eng) (x : XFields) : Body :=
  mBody e { reads := [readTa x], write := some (24 + x.tb.toNat, x.f == 1#1) } false (unitsWait []) fun s =>
    .ok (s, { id := 0, kind := .m, unit := .self,
              rows := [(128 * (24 + x.tb.toNat), s.myCrew.row x.ta.toNat x.row.toNat)] })

/-! ## Meanings -/

/-- ALEASE (R219). -/
def execAlease (e : Eng) (x : XFields) (s : State) : Outcome := heldIssue (.alease e x) e [.m] (aleaseBody x) s

/-- ARELEASE (R219). -/
def execArelease (e : Eng) (x : XFields) (s : State) : Outcome := heldIssue (.arelease e x) e [.m] areleaseBody s

/-- LDS (R224). -/
def execLds (e : Eng) (x : XFields) (s : State) : Outcome := issue (.lds e x) [.m] e.p false (ldsB e x) s

/-- LDS_P (R225). -/
def execLdsP (e : Eng) (x : XFields) (s : State) : Outcome := issue (.ldsP e x) [.m] e.p false (ldsPB e x) s

/-- LDS_CB (R226). -/
def execLdsCb (e : Eng) (x : XFields) (s : State) : Outcome := issue (.ldsCb e x) [.m] e.p false (ldsCbB e x) s

/-- LDS_BS (R228). -/
def execLdsBs (e : Eng) (x : XFields) (s : State) : Outcome := issue (.ldsBs e x) [.m] e.p false (ldsBsB e x) s

/-- MSWAP (R229). -/
def execMswap (e : Eng) (x : XFields) (s : State) : Outcome := issue (.mswap e x) [.m] e.p false (mswapB e) s

/-- MMUL (R230, R231). -/
def execMmul (e : Eng) (x : XFields) (s : State) : Outcome := issue (.mmul e x) [.m] e.p false (mmulB e x) s

/-- MMUL_BS (R230, R231). -/
def execMmulBs (e : Eng) (x : XFields) (s : State) : Outcome := issue (.mmulBs e x) [.m] e.p false (mmulBsB e x) s

/-- MDRAIN (R232 to R234). -/
def execMdrain (e : Eng) (x : XFields) (s : State) : Outcome := issue (.mdrain e x) [.m] e.p false (mdrainB e x) s

/-- MZERO (R235). -/
def execMzero (e : Eng) (x : XFields) (s : State) : Outcome := issue (.mzero e x) [.m] e.p false (mzeroB e x) s

/-- MCBT (R227). -/
def execMcbt (e : Eng) (x : XFields) (s : State) : Outcome := issue (.mcbt e x) [.m] e.p false (mcbtB e x) s

/-! ## Completion (02 R16, R21; 11 R194) -/

/-- Operation id of the ring has completed. -/
def ringDone (id : Nat) (l : List RingEnt) : List RingEnt :=
  l.map fun r => if r.op = some id then { r with op := none } else r

/-- The read of an operand with :e ends (R16). Where a later instruction of the crew is writing the operand, the
EMPTY state becomes the one that write ends in (DEDUCED, assumption log 10). -/
def endRead (c : Crew) (i : Nat) : Crew :=
  if c.feOf i = .filling then
    { c with inflight := c.inflight.map fun o =>
        match o.dst with
        | some (j, .full) => { o with dst := if j = i then some (j, .full) else o.dst }
        | some (j, f) => { o with dst := some (j, if j = i then .empty else f) }
        | none => o }
  else c.setFe i .empty

/-- The crew after the completion of an operation that is no longer in flight: rows, ASTAT, states, ring, tokens. -/
def crewDone (c : Crew) (o : EngOp) : Crew :=
  let c := o.rows.foldl (fun c r => { c with tiles := sputD 0#8192 c.tiles r.1 r.2 }) c
  let c := match o.nanTile with
    | some k => setAstat c k
    | none => c
  let own (i : Nat) : Bool := match o.dst with
    | some (j, _) => i == j
    | none => false
  let c := (o.reads.filter fun r => r.2 && !own r.1).foldl (fun c r => endRead c r.1) c
  let c := match o.dst with
    | some (i, f) => c.setFe i f
    | none => c
  let c := if o.unit = .vector then
      { c with
        ring := ringDone o.id c.ring
        sv := { c.sv with
          t1 := { c.sv.t1 with ring := ringDone o.id c.sv.t1.ring }
          t2 := { c.sv.t2 with ring := ringDone o.id c.sv.t2.ring } } }
    else c
  c.post o.kind o.post

/-- The plane effects of an operation of a crew. -/
def planesDone (s : State) (crew : Nat) (o : EngOp) : State :=
  let cu := cuOf crew
  let u := s.cu cu
  match o.unit with
  | .swap => s.setCu cu { u with
      active := u.shadow
      shadow := u.active }
  | _ =>
    match o.part with
    | some p => s.setCu cu { u with shadow := loadPart u.shadow (s.crew crew).tenant crew p }
    | none => s

/-- A drain as the agent of its rows. -/
def drainAgent (s : State) (crew : Nat) (o : EngOp) : Agent :=
  { who := .op crew o.id, crew, cu := cuOf crew, fn := (s.crew crew).tenant }

/-- The places of a part of a drain that leaves now: those that its checks found while their translation serves, and
else those that a fresh translation gives (22 R345). -/
def partPlaces (s : State) (crew : Nat) (o : EngOp) (p : RowPart) : Res (State × List Place) :=
  if p.till.all fun t => decide (s.cuCycle (cuOf crew) < t) then .ok (s, [(p.key, p.bs.length)])
  else agentPlaces (drainAgent s crew o) 2#3 qXlate 0 (pagesOf p.bs.length) p.va p.bs.length s

/-- What becomes of a part of a drain now (R234; 22 R345). It is stored where its messages can leave and no frame of it
is being formatted (22 R355). Rows are unordered among themselves: where one meets those stored before it, either value
can stay (assumption log 7). A part whose fresh translation faults is dropped with an error record (DESIGN CHOICE,
assumption log 95). -/
def storePart (crew : Nat) (a : State × EngOp) (p : RowPart) : State × EngOp :=
  let s := a.1
  let o := a.2
  let gone := { o with left := o.left.erase p }
  match partPlaces s crew o p with
  | .ok (s1, ps) =>
    if ps.all (storeReady s1) && !ps.any fun q => formatting s1 q.1 then
      let bs := settlePlaces (memByte s1.mem) o.stored s1.fresh p.row ps p.bs
      (storePlaces { crew, op := some o.id } ps bs (countPlaces s1 (s1.crew crew).tenant true ps),
        { gone with stored := ps ++ o.stored })
    else (s1, o)
  | .error (.wait _ s1) => (s1, o)
  | .error e => (pushErr (e.left s (.op crew o.id)) 3 4 (s.crew crew).tenant crew 0, gone)

/-- The parts of a drain that can leave now are stored. -/
def memSend (s : State) (crew : Nat) (o : EngOp) : State × EngOp :=
  let r := o.left.foldl (storePart crew) (s, o)
  ({ r.1 with fresh := r.1.fresh + 1 }, r.2)

/-- A part of a drain gets somewhere now: it leaves, or it is dropped, or a fault record is made for it. -/
def partReady (s : State) (crew : Nat) (o : EngOp) (p : RowPart) : Bool :=
  match partPlaces s crew o p with
  | .ok (s1, ps) => ps.all (storeReady s1) && !ps.any fun q => formatting s1 q.1
  | .error (.wait _ s1) => (faultOf s (.op crew o.id)).isNone && (faultOf s1 (.op crew o.id)).isSome
  | .error _ => true

/-- The arrivals of a drain whose rows have been performed, each with S bytes (R234). -/
def memArrive (s : State) (crew : Nat) (o : EngOp) : State :=
  (List.range o.arrivals).foldl (fun s _ => arriveAt s (cuOf crew) o.bar o.arrive) s

/-- Rows that the operation has sent to another device have yet to be performed. -/
def rowsOut (s : State) (crew : Nat) (o : EngOp) : Bool := s.remote.any fun r => r.crew == crew && r.op == some o.id

/-- The operation can complete: every row has been performed, the object of its arrivals can be written (03 R54), and
its post covers nothing that is not performed (02 R22). -/
def opDone (s : State) (crew : Nat) (o : EngOp) : Bool :=
  o.left.isEmpty && !rowsOut s crew o && !barZeroing s (cuOf crew) o.bar && !postHeld s crew o.kind o.post o.after

/-- The operation can go on now: parts of its rows can leave (while the clocks that translate agree, 22 R348), or it can
complete. -/
def opReady (s : State) (crew : Nat) (o : EngOp) : Bool :=
  if o.left.isEmpty then opDone s crew o else clockOk s (cuOf crew) && o.left.any (partReady s crew o)

/-- Complete a started operation of a crew whose rows have been performed. -/
def completeOp (s : State) (crew : Nat) (o : EngOp) : State :=
  let c := s.crew crew
  let s := s.setCrew crew { c with inflight := c.inflight.filter fun x => x.id ≠ o.id }
  let s := memArrive (planesDone s crew o) crew o
  s.setCrew crew (crewDone (s.crew crew) o)

/-- The crew with a started operation replaced. -/
def Crew.putInflight (c : Crew) (o : EngOp) : Crew :=
  { c with inflight := c.inflight.map fun x => if x.id = o.id then o else x }

/-- The next thing an operation does: what it can store of its rows, then, at once or when other devices have performed
them, it completes. -/
def advanceOp (s : State) (crew : Nat) (o : EngOp) : State :=
  let r := if o.left.isEmpty then (s, o) else memSend s crew o
  let s1 := if r.2.left.isEmpty then dropWaiter r.1 (.op crew o.id) else r.1
  if opDone s1 crew r.2 then completeOp s1 crew r.2 else s1.setCrew crew ((s1.crew crew).putInflight r.2)

/-- The operations of a crew that may complete next: the oldest of each unit (R221). -/
def firstOfUnit (c : Crew) (o : EngOp) : Bool :=
  c.inflight.all fun x => !(x.kind == o.kind && x.unit == o.unit && decide (x.id < o.id))

/-- ENGINE_INSTRUCTION_COMPLETION (02 R21). -/
def execEngineInstructionCompletion (crew op : Nat) (s : State) : Outcome :=
  match (s.crew crew).inflight.find? fun o => o.id = op with
  | some o =>
    if firstOfUnit (s.crew crew) o && opReady s crew o then .next (advanceOp s crew o) else notEnabled "ENGINE_INSTRUCTION_COMPLETION"
  | none => notEnabled "ENGINE_INSTRUCTION_COMPLETION"

end Sys2Proof.Machine
end

