-- ==== Sys2Proof/Machine/Copy.lean ====
section
/-! DEFINITION. Copies: spec 13 R237 to R256; and the events COPY_UNIT and COPY_COMPLETION. A unit makes its checks
and its accesses in one step (assumption logs 4, 6); a unit that touches another device sends its messages and goes
on when they are answered (26 R386 to R389). -/
namespace Sys2Proof.Machine

/-! ## The descriptor (R239, R240), as the list of the eight registers -/

/-- Register k of the descriptor. -/
def dReg (r : List Word) (k : Nat) : Word := r.getD k 0#64
/-- planes. -/
def dPlanes (r : List Word) : Nat := (dReg r 2).bits 63 48
/-- rows. -/
def dRows (r : List Word) : Nat := (dReg r 2).bits 47 32
/-- len. -/
def dLen (r : List Word) : Nat := (dReg r 2).bits 31 0
/-- The stream length T (R240). -/
def dTotal (r : List Word) : Nat := dPlanes r * dRows r * dLen r
/-- src_pitch. -/
def dSrcPitch (r : List Word) : Int := (BitVec.ofNat 32 ((dReg r 3).bits 31 0)).toInt
/-- dst_pitch. -/
def dDstPitch (r : List Word) : Int := (BitVec.ofNat 32 ((dReg r 3).bits 63 32)).toInt
/-- src_ppitch; the index list forms have one plane. -/
def dSrcPlane (opc : Nat) (r : List Word) : Int := if opc = 3 ∨ opc = 4 then 0 else (dReg r 4).toInt
/-- dst_ppitch. -/
def dDstPlane (opc : Nat) (r : List Word) : Int :=
  if opc = 0 ∨ opc = 1 ∨ opc = 2 ∨ opc = 5 then (dReg r 5).toInt else 0
/-- The barrier pointer. -/
def dBar (r : List Word) : Word := dReg r 6
/-- prom. -/
def dProm (r : List Word) : Bool := (dReg r 7).getLsbD 39
/-- The size of an index. -/
def dIdxSize (r : List Word) : Nat := if (dReg r 7).getLsbD 36 then 8 else 4
/-- rop. -/
def dRop (r : List Word) : Nat := (dReg r 7).bits 35 32
/-- rty. -/
def dRty (r : List Word) : Nat := (dReg r 7).bits 31 28

/-- The bytes of an element of type code 0, 1, 2 or 7. -/
def elemBytes (ty : Nat) : Nat := if ty = 1 ∨ ty = 2 then 2 else 4

/-- The largest and smallest of plane and row steps of a linear side: 0 and the full step. -/
def spanOf (n : Nat) (step : Int) : Int × Int :=
  let d := ((n - 1 : Nat) : Int) * step
  (min 0 d, max 0 d)

/-- Every stream byte of a tile side lies in the tile (R241). -/
def tileSideOk (sel : Nat) (base : Nat) (r : List Word) (pitch plane : Int) : Bool :=
  let a := spanOf (dPlanes r) plane
  let b := spanOf (dRows r) pitch
  let lo := (base : Int) + a.1 + b.1
  let hi := (base : Int) + a.2 + b.2 + (dLen r : Int) - 1
  decide (0 ≤ lo) && decide (hi < (tileRows sel * 1024 : Nat))

/-- The reserved bits of the descriptor for a form (R239, R241, R252). -/
def dReserved (opc : Nat) (r : List Word) : Bool :=
  let o := dReg r 7
  o.bits 63 40 ≠ 0 || o.bits 38 37 ≠ 0 || o.bits 27 0 ≠ 0 ||
    (opc ≠ 3 && opc ≠ 4 && o.getLsbD 36) ||
    (opc ≠ 5 && (dRop r ≠ 0 || dRty r ≠ 0)) ||
    (opc == 1 && (dReg r 1).bits 63 17 ≠ 0) || (opc == 2 && (dReg r 0).bits 63 17 ≠ 0) ||
    ((opc == 3 || opc == 4 || opc == 6) && dReg r 5 ≠ 0#64) ||
    (opc == 6 && (dReg r 1 ≠ 0#64 || dBar r ≠ 0#64)) ||
    (opc == 7 && dDstPitch r ≠ 0)

/-- A multiple of an element size. -/
def multOf (z : Int) (n : Nat) : Bool := z % (n : Int) == 0

/-- The conditions of R241 that raise ILLEGAL with the words. -/
def dIllegal (opc : Nat) (c : CpFields) (r : List Word) : Bool :=
  let es := elemBytes (dRty r)
  dReserved opc r || dPlanes r == 0 || dRows r == 0 || dLen r == 0 || decide (2 ^ 40 < dTotal r) ||
    ((opc == 3 || opc == 4) && dPlanes r ≠ 1) || (opc == 6 && dProm r) ||
    (opc == 5 && (decide (3 ≤ dRop r) || !([0, 1, 2, 7].contains (dRty r)) || dLen r % es ≠ 0 ||
      !multOf (dSrcPitch r) es || !multOf (dDstPitch r) es || !multOf (dSrcPlane opc r) es ||
      !multOf (dDstPlane opc r) es)) ||
    (opc == 1 && !tileSideOk c.tile.toNat (dReg r 1).toNat r (dDstPitch r) (dDstPlane opc r)) ||
    (opc == 2 && !tileSideOk c.tile.toNat (dReg r 0).toNat r (dSrcPitch r) (dSrcPlane opc r)) ||
    (c.zs ≠ 0#3 && (opc == 2 || spaceOf (dReg r 0) == 0)) ||
    (c.zd ≠ 0#3 && (opc == 1 || (opc ≠ 6 && opc ≠ 7 && spaceOf (dReg r 1) == 0)))

/-- The pointers a form has, in the order src, dst, aux, bar (R241). -/
def dPointers (opc : Nat) (r : List Word) : List Word :=
  (if opc = 2 then [] else [dReg r 0]) ++ (if opc = 1 ∨ opc = 6 then [] else [dReg r 1]) ++
    (if opc = 3 ∨ opc = 4 then [dReg r 4] else []) ++ (if dBar r = 0#64 then [] else [dBar r])

/-- The objects a form names: bar and the ring object (R241). -/
def dObjects (opc : Nat) (r : List Word) : List Word :=
  (if dBar r = 0#64 then [] else [dBar r]) ++ (if opc = 7 then [dReg r 1] else [])

/-- The key of the byte that a scratchpad pointer names, for a crew of CU cu. -/
def padKey (cu : Nat) (p : Word) : Nat :=
  let b := padByte cu p (ptrOff p)
  sliceKey b.1 b.2

/-- The first pointer that fails the alignment of R241. -/
def dMisaligned (opc : Nat) (r : List Word) : Option Word :=
  let es := elemBytes (dRty r)
  let bad (p : Word) (n : Nat) : List Word := if p.toNat % n ≠ 0 then [p] else []
  ((if dBar r = 0#64 then [] else bad (dBar r) 16) ++ (if opc = 7 then bad (dReg r 1) 32 else []) ++
    (if opc = 5 then bad (dReg r 0) es ++ bad (dReg r 1) es else []) ++
    (if opc = 3 ∨ opc = 4 then bad (dReg r 4) (dIdxSize r) else [])).head?

/-- The checks of R241 up to the alignments, for a copy of the crew in focus. A base pointer whose SLICE cluster does
not exist is found at its unit; an object's is found here, as nothing else looks at it (DEDUCED, assumption log 66). -/
def dCheck (s : State) (i : Instr) (opc : Nat) (c : CpFields) (r : List Word) : Res Unit :=
  let cu := cuOf s.cur.1
  if dIllegal opc c r then illegalWords i
  else
    match (dPointers opc r).find? fun p => !(if (dObjects opc r).contains p then ptrOk p else ptrFields p) with
    | some p => .error (.trap cSpace p)
    | none =>
      match (dObjects opc r).find? fun p => !isPad p with
      | some p => .error (.trap cSpace p)
      | none =>
        match (dObjects opc r).find? fun p => segOwner s (segOf (padKey cu p)) ≠ s.myCrew.tenant with
        | some p => .error (.trap cPerm p)
        | none =>
          match dMisaligned opc r with
          | some p => .error (.trap cMisalign p)
          | none => .ok ()

/-- The ring object at a key fails the checks of 04 R71. -/
def ringBad (m : List Host.Cell) (k : Nat) : Bool := ringCount m k == 0 || ringSize m k % 32 != 0 || ringSize m k < 32

/-- The ring object of a cring as it stands at the start: base, slot_size, slot_count; after the last two rows of
R241. A swizzle of a slot in GLOBAL is found here, where the base is read. -/
def ringCheck (s : State) (i : Instr) (c : CpFields) (r : List Word) : Res (List Word) :=
  let k := padKey (cuOf s.cur.1) (dReg r 1)
  let base := ringBase s.mem k
  if ringBad s.mem k then .error (.trap cIllegal (dReg r 1))
  else if c.zd ≠ 0#3 ∧ spaceOf base = 0 then illegalWords i
  else if ringSize s.mem k < dTotal r ∨ (dReg r 5).toNat < ringWrite s.mem k then .error (.trap cIllegal (dReg r 1))
  else .ok [base, BitVec.ofNat 64 (ringSize s.mem k), BitVec.ofNat 64 (ringCount s.mem k)]

/-- The slot of a cring is not free yet (04 R72), where its ring object is one that it may look at. -/
def ringFull (s : State) (opc : Nat) (r : List Word) : Bool :=
  let p := dReg r 1
  let k := padKey (cuOf s.cur.1) p
  opc == 7 && isPad p && ptrOk p && segOwner s (segOf k) == s.myCrew.tenant && decide (p.toNat % 32 = 0) &&
    !ringBad s.mem k && decide (ringRead s.mem k + ringCount s.mem k ≤ (dReg r 5).toNat)

/-- The engine holds as many operations as it can (R242, 14 R265). -/
def engineFull (c : Crew) : Bool := decide (16 ≤ c.ops.length)

/-! ## Start (R242, R243) -/

/-- What keeps an operation of the engine from starting, after its tile and its tokens (R242, R244, 14 R265; 03 R54):
full says that its ring has no room, cls is its class and objs are the objects that it names. -/
def startWait (s : State) (full : Bool) (cls : Nat) (objs : List Word) : Option Nat :=
  if full then some qBarrier
  else if engineFull s.myCrew || classHeld s cls || objs.any fun p => isPad p && barZeroing s (cuOf s.cur.1) p then some qMem
  else none

/-- The tile operand of a copy (R238). -/
def copyUse (opc : Nat) (c : CpFields) : TileUse :=
  if opc = 1 then { write := some (c.tile.toNat, c.flag == 1#1) }
  else if opc = 2 then { reads := [(c.tile.toNat, c.flag == 1#1)] }
  else {}

/-- The operation enters the engine: it takes its tokens, and its destination tile is FILLING. -/
def enterEngine (s : State) (e : Eng) (u : TileUse) (o : AsyncOp) : State :=
  let c := s.myCrew
  let ends := u.ends c
  let c := c.take s.cur.2 e.wait
  let o := { o with
    id := c.seq
    post := e.post
    level := s.me.level
    dstFe := ends
    nonce := s.fresh
    after := s.remoteSeq }
  let c := match ends with
    | some (i, _) => c.setFe i .filling
    | none => c
  { s with fresh := s.fresh + 1 }.setMyCrew { c with
    ops := c.ops ++ [o]
    seq := c.seq + 1 }

/-- The promise of a copy (R243, 04 R74): a cycle not before CYCLE, otherwise free (assumption log 5). -/
def promiseOf (s : State) : Word :=
  BitVec.ofNat 64 (s.cuCycle (cuOf s.cur.1) + (Config.promiseDelay s.fresh).toNat)

/-- sd at the start of a copy, with its promise recorded (R243). -/
def startPromise (s : State) (id : Nat) (sd : BitVec 5) (opc : Nat) (r : List Word) : State :=
  if opc = 6 then s
  else if dProm r then
    let p := promiseOf s
    let c := s.myCrew
    let s := { s with fresh := s.fresh + 1 }
    let s := s.setMyCrew { c with promises := c.promises ++ [{ op := id, cycle := p }] }
    s.setMe (s.me.setReg sd p)
  else s.setMe (s.me.setReg sd 0#64)

/-- The start of a copy: what it waits for (R242), then its checks and its entry into the engine (R241, R243). -/
def copyBody (i : Instr) (opc : Nat) (e : Eng) (c : CpFields) : Body := fun s =>
  match engGate s e (copyUse opc c) false with
  | .error w => .error w
  | .ok _ =>
    let r := s.me.regsFrom c.sn 8
    match startWait s (ringFull s opc r) e.cls.toNat (dObjects opc r) with
    | some q => .error (.wait q s)
    | none =>
      match dCheck s i opc c r with
      | .error w => .error w
      | .ok _ =>
        match (if opc = 7 then ringCheck s i c r else .ok []) with
        | .error w => .error w
        | .ok ring =>
          let id := s.myCrew.seq
          let o : AsyncOp := { id := 0, opc, fields := c, regs := r, total := (dTotal r + 4095) / 4096, ring }
          .ok (startPromise (enterEngine s e (copyUse opc c) o) id c.sd opc r, none)

/-- CPY (R246). -/
def execCpy (e : Eng) (c : CpFields) (s : State) : Outcome := issue (.cpy e c) [.c] e.p false (copyBody (.cpy e c) 0 e c) s

/-- CPY_LD (R247). -/
def execCpyLd (e : Eng) (c : CpFields) (s : State) : Outcome :=
  issue (.cpyLd e c) [.c] e.p false (copyBody (.cpyLd e c) 1 e c) s

/-- CPY_ST (R247). -/
def execCpySt (e : Eng) (c : CpFields) (s : State) : Outcome :=
  issue (.cpySt e c) [.c] e.p false (copyBody (.cpySt e c) 2 e c) s

/-- CGATH (R248). -/
def execCgath (e : Eng) (c : CpFields) (s : State) : Outcome :=
  issue (.cgath e c) [.c] e.p false (copyBody (.cgath e c) 3 e c) s

/-- CSCAT (R248). -/
def execCscat (e : Eng) (c : CpFields) (s : State) : Outcome :=
  issue (.cscat e c) [.c] e.p false (copyBody (.cscat e c) 4 e c) s

/-- CRED (R249). -/
def execCred (e : Eng) (c : CpFields) (s : State) : Outcome :=
  issue (.cred e c) [.c] e.p false (copyBody (.cred e c) 5 e c) s

/-- CPREF (R251). -/
def execCpref (e : Eng) (c : CpFields) (s : State) : Outcome :=
  issue (.cpref e c) [.c] e.p false (copyBody (.cpref e c) 6 e c) s

/-- CRING (R252). -/
def execCring (e : Eng) (c : CpFields) (s : State) : Outcome :=
  issue (.cring e c) [.c] e.p false (copyBody (.cring e c) 7 e c) s

/-! ## Checks of an engine operation (R253, R254, R256) -/

/-- Why a step of an engine operation does not go through: it is held with a cause, a side and the address that a
stage-2 failure reports, it has changed the state but waits, nothing can happen yet, or the machine stops. -/
inductive Miss where
  | hold (s : State) (cause side : Nat) (va : Word := 0#64)
  | stall (s : State)
  | idle
  | fault (f : Fault)

/-- A check of an engine operation: the state with what it cached, the operation with what it uses, a result. -/
abbrev Chk (α : Type) := Except Miss (State × AsyncOp × α)

/-- The translation of a page that the operation has used. -/
def AsyncOp.usedOf (o : AsyncOp) (vpage : Nat) : Option Tlb := o.used.find? fun t => t.vpage == vpage

/-- The operation without its translation of a page. -/
def AsyncOp.forget (o : AsyncOp) (vpage : Nat) : AsyncOp := { o with used := o.used.filter fun t => t.vpage != vpage }

/-- The operation goes on to another unit, for which a translation of single use is walked afresh (22 R343). -/
def AsyncOp.anew (o : AsyncOp) : AsyncOp := { o with once := [] }

/-- The operation uses a translation; one of single use serves the unit in hand (22 R343). -/
def AsyncOp.uses (o : AsyncOp) (t : Tlb) : AsyncOp :=
  { o.forget t.vpage with
    used := t :: (o.forget t.vpage).used
    once := if t.single then t.vpage :: o.once else o.once }

/-- The operation's translation of a page has run out: its next use walks afresh and compares (R256). -/
def AsyncOp.expire (o : AsyncOp) (vpage : Nat) : AsyncOp :=
  { o with used := o.used.map fun t => if t.vpage = vpage then { t with expiry := 0 } else t }

/-- The driver has answered that the page of va stays unresolved for an operation (22 R353). -/
def opUnres (s : State) (crew id va : Nat) : Bool :=
  match faultOf s (.op crew id) with
  | some (f, v) => f.unres && v.toNat / 4096 == va / 4096
  | none => false

/-- What an answer of the translation means to an operation: a frame that is there may be used; a stall waits on a
fault record (22 R350 to R354). -/
def opAnswer (crew : Nat) (o : AsyncOp) (va : Nat) (need : BitVec 3) (side : Nat) : State × XAns → Chk Tlb
  | (s, .ok t) => if !t.gw && !s.has t.frame then .error (.fault (.physicalHole t.frame)) else .ok (s, o.uses t, t)
  | (s, .trap c _) => .error (.hold s c side (BitVec.ofNat 64 va))
  | (s, .stall l k pa ent frame) =>
    .error (.stall (joinFault s (s.crew crew).tenant (BitVec.ofNat 64 va) need l k pa ent frame
      (s.cuCycle (walkerOf (cuOf crew))) (.op crew o.id)))
  | (_, .busy) => .error .idle
  | (_, .noWalker) => .error .idle

/-- Renew the translation t of a page that the operation has used (R256). -/
def opRenew (s : State) (crew : Nat) (o : AsyncOp) (t : Tlb) (va : Nat) (need : BitVec 3) (side : Nat) : Chk Tlb :=
  opAnswer crew o va need side (rewalkIn s (cuOf crew) t va need)

/-- Translate va for an operation of a crew: the translation it uses already while its lease lasts (22 R346), for one of
single use within its unit (R343), one of the caches, or a walk. -/
def opXlate (s : State) (crew : Nat) (o : AsyncOp) (va : Nat) (need : BitVec 3) (side : Nat) : Chk Tlb :=
  let cu := cuOf crew
  if opUnres s crew o.id va then .error (.hold (dropWaiter s (.op crew o.id)) cStage2 side (BitVec.ofNat 64 va))
  else
    match o.usedOf (va / 4096) with
    | none => opAnswer crew o va need side (xlate s cu (s.crew crew).tenant va need)
    | some t =>
      if (if t.single then o.once.contains t.vpage else decide (s.cuCycle cu < t.expiry)) then
        opAnswer crew o va need side (s, tlbCheck s t need va)
      else opRenew s crew o t va need side

/-- The run of n bytes at the effective pointer a, which is decoded after the addition, stays in its field (03 R42). -/
def inField (a : Word) (n : Nat) : Bool := ptrOk a && endOk a n

/-- The places of n bytes of GLOBAL for an operation. -/
def opGlobal (crew : Nat) (need : BitVec 3) (side : Nat) : Nat → Nat → Nat → State → AsyncOp → Chk (List Place)
  | 0, _, _, s, o => .ok (s, o, [])
  | fuel + 1, va, n, s, o =>
    if n = 0 then .ok (s, o, [])
    else
      let c := min n (4096 - va % 4096)
      match opXlate s crew o va need side with
      | .error e => .error e
      | .ok (s1, o1, t) =>
        let k := t.key va
        if t.gw && entryBusy s1 ((k - 2 ^ 56) / 2 ^ 32) then .error .idle
        else
        match (if t.gw then windowPlace s1 (s1.crew crew).tenant k c (need.getLsbD 1) else .ok [(k, c)]) with
        | .error q => .error (.hold s1 q side)
        | .ok ps =>
          if t.gw && ps.any fun p => formatting s1 p.1 then .error .idle
          else
          match opGlobal crew need side fuel (va + c) (n - c) s1 o1 with
          | .error e => .error e
          | .ok (s2, o2, rest) => .ok (s2, o2, ps ++ rest)

/-- The places of n bytes at a for an operation, all checks of R241's last paragraph made. -/
def opPlaces (s : State) (crew : Nat) (o : AsyncOp) (a : Word) (n z : Nat) (need : BitVec 3) (side : Nat) :
    Chk (List Place) :=
  if !inField a n then .error (.hold s cSpace side)
  else if spaceOf a = 0 then opGlobal crew need side (pagesOf n) a.toNat n s o
  else
    let ps := padPlaces (cuOf crew) a z (n / 32 + 2) (ptrOff a) n
    match firstForeign s (s.crew crew).tenant ps 0 with
    | some _ => .error (.hold s cPerm side)
    | none => if zeroingHit s ps then .error .idle else .ok (s, o, ps)

/-- The remote reads of an operation. -/
def opReads (s : State) (crew id : Nat) : List RemoteWait :=
  s.remote.filter fun r => r.crew == crew && r.op == some id && r.load

/-- The operation has remote writes or messages under way. -/
def opSending (s : State) (crew id : Nat) : Bool :=
  s.remote.any fun r => r.crew == crew && r.op == some id && !r.load

/-- The state without the remote reads of an operation. -/
def dropReads (s : State) (crew id : Nat) : State :=
  { s with remote := s.remote.filter fun r => !(r.crew == crew && r.op == some id && r.load) }

/-- Ask for the bytes of one remote place. -/
def askPlace (crew id : Nat) (s : State) (p : Place) : State := sendAsk { crew, op := some id } s (askOf p)

/-- The bytes at places for an operation: those of other devices are asked for first; none when a device is lost, with
the error record that a request to it makes. -/
def opLoad (s : State) (crew : Nat) (o : AsyncOp) (ps : List Place) : Except Miss (State × Option (List Byte)) :=
  let rs := opReads s crew o.id
  let far := ps.filter fun p => isWindowKey p.1
  if rs.any (fun r => r.lost) then .ok (s, none)
  else
    match far.findSome? fun p => askFault s crew (askOf p) with
    | some f => .ok (f.2, none)
    | none =>
    match far.filter fun p => !(rs.any fun r => r.place == p) with
    | p :: more =>
      if (p :: more).all fun q => askReady s (askOf q) then .error (.stall ((p :: more).foldl (askPlace crew o.id) s))
      else .error .idle
    | [] =>
      if rs.any fun r => r.answer.isNone then .error .idle
      else
        let piece (p : Place) : List Byte :=
          if isWindowKey p.1 then (((rs.find? fun r => r.place == p).bind fun r => r.answer).getD []).take p.2
          else memBytes s.mem p.1 p.2
        .ok (s, some (ps.flatMap piece))

/-! ## Runs of a unit (R240, R253) -/

/-- The pieces of n stream bytes from offset q, cut at row ends. -/
def runsFrom (len : Nat) : Nat → Nat → Nat → List (Nat × Nat)
  | 0, _, _ => []
  | fuel + 1, q, n =>
    if n = 0 then []
    else
      let c := min n (len - q % len)
      (q, c) :: runsFrom len fuel (q + c) (n - c)

/-- The runs of unit u. -/
def unitRuns (r : List Word) (u : Nat) : List (Nat × Nat) :=
  let n := min 4096 (dTotal r - 4096 * u)
  runsFrom (dLen r) n (4096 * u) n

/-- The address of the index of the row of stream offset q (R240). -/
def idxAddr (o : AsyncOp) (q : Nat) : Word :=
  dReg o.regs 4 + BitVec.ofNat 64 (dIdxSize o.regs * (q / dLen o.regs))

/-- The index of the row of stream offset q with its places (R240, R248), 0 where the form has no index list. -/
def readIndex (s : State) (crew : Nat) (o : AsyncOp) (q : Nat) : Chk (Int × List Place) :=
  if o.opc = 3 ∨ o.opc = 4 then
    let n := dIdxSize o.regs
    match opPlaces s crew o (idxAddr o q) n 0 1#3 2 with
    | .error e => .error e
    | .ok (s1, o1, ps) =>
      match opLoad s1 crew o1 ps with
      | .error e => .error e
      | .ok (s2, none) => .error (.hold s2 cPerm 2)
      | .ok (s2, some bs) => .ok (s2, o1, signedNat n (leNat bs), ps)
  else .ok (s, o, 0, [])

/-- The index of the row of stream offset q, read for its unit. -/
def runIndex (s : State) (crew : Nat) (o : AsyncOp) (q : Nat) : Chk Int :=
  match readIndex s crew o q with
  | .error e => .error e
  | .ok (s1, o1, i, ps) => .ok (countPlaces s1 (s1.crew crew).tenant false ps, o1, i)

/-- The plane, row and byte of stream offset q. -/
def dPlace (r : List Word) (q : Nat) : Int × Int × Int :=
  (((q / dLen r / dRows r : Nat) : Int), ((q / dLen r % dRows r : Nat) : Int), ((q % dLen r : Nat) : Int))

/-- The offset of a run on its source side from src. -/
def srcDelta (o : AsyncOp) (q : Nat) (idx : Int) : Int :=
  let d := dPlace o.regs q
  d.1 * dSrcPlane o.opc o.regs + (if o.opc = 3 then idx else d.2.1) * dSrcPitch o.regs + d.2.2

/-- The offset of a run on its destination side from dst. -/
def dstDelta (o : AsyncOp) (q : Nat) (idx : Int) : Int :=
  let d := dPlace o.regs q
  d.1 * dDstPlane o.opc o.regs + (if o.opc = 4 then idx else d.2.1) * dDstPitch o.regs + d.2.2

/-- The address of a run on its destination side. -/
def dstAddr (o : AsyncOp) (q : Nat) (idx : Int) : Word :=
  if o.opc = 7 then
    let n := (dReg o.regs 5).toNat
    o.ring.getD 0 0#64 +
      BitVec.ofNat 64 (n % (o.ring.getD 2 1#64).toNat * (o.ring.getD 1 0#64).toNat + q)
  else dReg o.regs 1 + BitVec.ofInt 64 (dstDelta o q idx)

/-- The address of a run on its source side. -/
def srcAddr (o : AsyncOp) (q : Nat) (idx : Int) : Word := dReg o.regs 0 + BitVec.ofInt 64 (srcDelta o q idx)

/-- A run whose checks are made: its length and the places of its sides; a tile side has none. -/
structure Run where
  q : Nat
  n : Nat
  idx : Int
  src : List Place
  dst : List Place
  deriving DecidableEq, Repr

/-- The side code of a destination (R254). -/
def dstSide (o : AsyncOp) : Nat := if o.opc = 7 then 3 else 1

/-- The checks of one run: its index, its source, its destination. -/
def checkRun (s : State) (crew : Nat) (o : AsyncOp) (q n : Nat) : Chk Run :=
  match runIndex s crew o q with
  | .error e => .error e
  | .ok (s1, o1, idx) =>
    match (if o.opc = 2 then .ok (s1, o1, [])
      else opPlaces s1 crew o1 (srcAddr o q idx) n o.fields.zs.toNat 1#3 0) with
    | .error e => .error e
    | .ok (s2, o2, src) =>
      match (if o.opc = 1 then .ok (s2, o2, [])
        else opPlaces s2 crew o2 (dstAddr o q idx) n o.fields.zd.toNat 2#3 (dstSide o)) with
      | .error e => .error e
      | .ok (s3, o3, dst) => .ok (s3, o3, { q, n, idx, src, dst })

/-- The checks of the runs of a unit, in stream order. -/
def checkRuns (crew : Nat) : List (Nat × Nat) → State → AsyncOp → Chk (List Run)
  | [], s, o => .ok (s, o, [])
  | (q, n) :: r, s, o =>
    match checkRun s crew o q n with
    | .error e => .error e
    | .ok (s1, o1, x) =>
      match checkRuns crew r s1 o1 with
      | .error e => .error e
      | .ok (s2, o2, xs) => .ok (s2, o2, x :: xs)

/-! ## Chunk boundaries (R256) -/

/-- The pages of GLOBAL that n bytes at a touch, with a side. -/
def touchPages (a : Word) (n side : Nat) : List (Nat × Nat) :=
  if spaceOf a = 0 then
    (List.range ((a.toNat + n - 1) / 4096 + 1 - a.toNat / 4096)).map fun i => (a.toNat / 4096 + i, side)
  else []

/-- The pages of the sides of a run whose index is idx. -/
def runPages (o : AsyncOp) (q n : Nat) (idx : Int) : List (Nat × Nat) :=
  (if o.opc = 2 then [] else touchPages (srcAddr o q idx) n 0) ++
    (if o.opc = 1 then [] else touchPages (dstAddr o q idx) n (dstSide o))

/-- The pages that the runs of a chunk touch. An index that other devices hold is waited for; a run whose index cannot
be read is found at its unit. -/
def pagesOfRuns (crew : Nat) : List (Nat × Nat) → State → AsyncOp → Chk (List (Nat × Nat))
  | [], s, o => .ok (s, o, [])
  | (q, n) :: r, s, o =>
    let here := if o.opc = 3 ∨ o.opc = 4 then touchPages (idxAddr o q) (dIdxSize o.regs) 2 else []
    match readIndex s crew o q with
    | .ok (s1, o1, idx, _) =>
      (match pagesOfRuns crew r s1 o1 with
       | .ok (s2, o2, ps) => .ok (s2, o2, here ++ (runPages o q n idx ++ ps))
       | e => e)
    | .error (.hold _ _ _ _) =>
      (match pagesOfRuns crew r s o with
       | .ok (s2, o2, ps) => .ok (s2, o2, here ++ ps)
       | e => e)
    | .error e => .error e

/-- The runs of the chunk at unit u. -/
def chunkRuns (o : AsyncOp) (u : Nat) : List (Nat × Nat) :=
  let n := min 65536 (dTotal o.regs - 4096 * u)
  runsFrom (dLen o.regs) n (4096 * u) n

/-- Walk afresh every translation of the list with fewer than 8,192 cycles left; a changed one holds the copy, and
a page that can no longer be used is found at its unit. -/
def rewalk (crew : Nat) : List (Nat × Nat) → State → AsyncOp → Chk Unit
  | [], s, o => .ok (s, o, ())
  | (vp, side) :: r, s, o =>
    match o.usedOf vp with
    | none => rewalk crew r s o
    | some t =>
      if s.cuCycle (cuOf crew) + 8192 ≤ t.expiry || opUnres s crew o.id (vp * 4096) then rewalk crew r s o
      else
        match opRenew s crew o t (vp * 4096) 0#3 side with
        | .ok (s1, o1, _) => rewalk crew r s1 o1
        | .error (.hold s1 q x v) => if q = cChanged then .error (.hold s1 q x v) else rewalk crew r s1 (o.expire vp)
        | .error e => .error e

/-- The examination at a chunk boundary. -/
def chunkCheck (s : State) (crew : Nat) (o : AsyncOp) : Chk Unit :=
  if o.next % 16 = 0 ∧ o.opc ≠ 6 ∧ o.used ≠ [] then
    match pagesOfRuns crew (chunkRuns o o.next) s o with
    | .error e => .error e
    | .ok (s1, o1, ps) => rewalk crew ps.eraseDups s1 o1
  else .ok (s, o, ())

/-! ## Performing a unit -/

/-- The bytes bs written into a row from byte o on. -/
def rowWith (r : Row) (o : Nat) (bs : List Byte) : Row :=
  let mask := BitVec.ofNat 8192 (2 ^ (8 * bs.length) - 1) <<< (8 * o)
  (r &&& ~~~mask) ||| (BitVec.ofNat 8192 (leNat bs) <<< (8 * o))

/-- The crew with bytes written at an offset of a tile's byte stream. -/
def tileWrite : Nat → Crew → Nat → Nat → List Byte → Crew
  | 0, c, _, _, _ => c
  | fuel + 1, c, sel, off, bs =>
    if bs.isEmpty then c
    else
      let k := min bs.length (1024 - off % 1024)
      let c := c.setRow sel (off / 1024) (rowWith (c.row sel (off / 1024)) (off % 1024) (bs.take k))
      tileWrite fuel c sel (off + k) (bs.drop k)

/-- The n bytes at an offset of a tile's byte stream. -/
def tileRead (c : Crew) (sel off n : Nat) : List Byte := (List.range n).map fun i => c.tileByte sel (off + i)

/-- One element of a reduction (R249): operation, type, destination and source bits. -/
def redElem (rop ty : Nat) (x y : Nat) : Nat :=
  if ty = 7 then
    let a := (BitVec.ofNat 32 x).toInt
    let b := (BitVec.ofNat 32 y).toInt
    (BitVec.ofInt 32 (if rop = 0 then a + b else if rop = 1 then max a b else min a b)).toNat
  else
    let a := valueOf ty x
    let b := valueOf ty y
    roundTo ty .rne (if rop = 0 then Val.add a b else if rop = 1 then Val.max' a b else Val.min' a b)

/-- Element-wise reduction of byte strings: destination and source. -/
def redBytes (rop ty : Nat) : Nat → List Byte → List Byte → List Byte
  | 0, _, _ => []
  | n + 1, xs, ys =>
    let es := elemBytes ty
    leBytes es (redElem rop ty (leNat (xs.take es)) (leNat (ys.take es))) ++
      redBytes rop ty n (xs.drop es) (ys.drop es)

/-- Reduce bytes into memory at a local key (R249). -/
def redAt (m : List Host.Cell) (rop ty k : Nat) (bs : List Byte) : List Host.Cell :=
  memWrite m k (redBytes rop ty (bs.length / elemBytes ty) (memBytes m k bs.length) bs)

/-- The type and operation of a cred in a message. -/
def credCode (rop ty : Nat) : Nat := rop * 16 + ty

/-- Reduce bytes at the local places among places (R249). -/
def redPlaces (rop ty : Nat) : List Place → List Byte → State → State
  | [], _, s => s
  | (k, c) :: r, bs, s =>
    redPlaces rop ty r (bs.drop c) (if isWindowKey k then s else { s with mem := redAt s.mem rop ty k (bs.take c) })

/-- The parts of a cred's unit that go through windows (R250): places with their bytes. -/
abbrev Parts := List (Place × List Byte)

/-- Places with the bytes that go to them. -/
def dealPlaces : List Place → List Byte → Parts
  | [], _ => []
  | (k, c) :: r, bs => ((k, c), bs.take c) :: dealPlaces r (bs.drop c)

/-- The message of the parts of a unit that go through window w to member x, tagged with the copy, the unit number and
the part of the unit that it is (R250). -/
def credMsg (o : AsyncOp) (w x : Nat) (ps : Parts) : List Nat × List Byte :=
  ([3, credCode (dRop o.regs) (dRty o.regs), o.nonce, o.next, w * 2 ^ 17 + x] ++
      ps.flatMap fun p => [p.1.1 % 2 ^ 32, p.1.2],
    ps.flatMap Prod.snd)

/-- The parts of window number w. -/
def partsOf (ps : Parts) (w : Nat) : Parts := ps.filter fun p => placeWindow p.1 == w

/-- The windows that parts go through. -/
def partWindows (s : State) (ps : Parts) : List Win := ((ps.map fun p => placeWindow p.1).eraseDups).filterMap (winEntry s)

/-- The messages of a unit's parts can leave now. -/
def credReady (s : State) (o : AsyncOp) (ps : Parts) : Bool :=
  (partWindows s ps).all fun w => w.targets.all fun x =>
    let m := credMsg o w.index x (partsOf ps w.index)
    x == w.self || memberReady s w x m.1 m.2

/-- One part is applied to this device's own receive region. -/
def credHere (crew : Nat) (o : AsyncOp) (w : Win) (s : State) (p : Place × List Byte) : State :=
  let b := p.1.1 % 2 ^ 32
  if w.inside b p.1.2 then { s with mem := redAt s.mem (dRop o.regs) (dRty o.regs) (w.rbase + b) p.2 }
  else pushErr s 3 4 w.tenant crew 0

/-- The parts of a unit go to the targets of their windows, one message for a window's target (R250, 26 R389). -/
def credSend (crew : Nat) (o : AsyncOp) (ps : Parts) (s : State) : State :=
  (partWindows s ps).foldl
    (fun s w => w.targets.foldl
      (fun s x =>
        let here := partsOf ps w.index
        let m := credMsg o w.index x here
        if x = w.self then here.foldl (credHere crew o w) s
        else sendRemote s { crew, op := some o.id } w x m.1 m.2) s) s

/-- The source bytes of a run, from its tile or from the loaded bytes, and the loaded bytes that remain. -/
def runBytes (c : Crew) (o : AsyncOp) (x : Run) (bs : List Byte) : List Byte × List Byte :=
  if o.opc = 2 then (tileRead c o.fields.tile.toNat ((dReg o.regs 0).toNat + srcDelta o x.q x.idx).toNat x.n, bs)
  else (bs.take x.n, bs.drop x.n)

/-- The first byte of a run in its destination tile. -/
def tileOff (o : AsyncOp) (x : Run) : Nat := ((dReg o.regs 1).toNat + dstDelta o x.q x.idx).toNat

/-- Write one run. What a cred sends through windows leaves with its unit. -/
def writeRun (crew : Nat) (o : AsyncOp) (s : State) (x : Run) (bs : List Byte) : State :=
  let c := s.crew crew
  if o.opc = 1 then s.setCrew crew (tileWrite 5 c o.fields.tile.toNat (tileOff o x) bs)
  else if o.opc = 5 then 
    redPlaces (dRop o.regs) (dRty o.regs) x.dst bs (countPlaces (countPlaces s c.tenant false x.dst) c.tenant true x.dst)
  else storePlaces { crew, op := some o.id } x.dst bs (countPlaces s c.tenant true x.dst)

/-- Write the runs of a unit. -/
def writeRuns (crew : Nat) (o : AsyncOp) (rs : List (Run × List Byte)) (s : State) : State :=
  rs.foldl (fun s p => writeRun crew o s p.1 p.2) s

/-- The runs with their bytes. -/
def dealBytes (c : Crew) (o : AsyncOp) : List Run → List Byte → List (Run × List Byte)
  | [], _ => []
  | x :: r, bs =>
    let p := runBytes c o x bs
    (x, p.1) :: dealBytes c o r p.2

/-! ### Bytes whose value is not architected (R245, R248, R249, R253; assumption log 7) -/

/-- The runs of the whole copy, as far as their places can be told now. -/
def allRuns (s : State) (crew : Nat) (o : AsyncOp) : List Run :=
  ((List.range o.total).flatMap (unitRuns o.regs)).filterMap fun p =>
    match checkRun s crew o p.1 p.2 with
    | .ok (_, _, x) => some x
    | .error _ => none

/-- The bytes a run writes: places of memory, or bytes of the tile. -/
def writesOf (o : AsyncOp) (x : Run) : List Place := if o.opc = 1 then [(tileOff o x, x.n)] else x.dst

/-- The bytes the copy reads that it could also write. -/
def sourcesOf (o : AsyncOp) (all : List Run) : List Place := if o.opc = 1 then [] else all.flatMap fun x => x.src

/-- The bytes that the runs before stream offset q write. -/
def earlierOf (o : AsyncOp) (all : List Run) (q : Nat) : List Place :=
  (all.filter fun x => decide (x.q < q)).flatMap (writesOf o)

/-- Bytes of the copy meet: one it writes is one it reads, or one it writes twice. A byte that it writes through a
window's region, on another device or on this one, is not looked at: it stays in stream order (R245 leaves the value
open: DESIGN CHOICE, assumption log 7). -/
def clashes (o : AsyncOp) (all : List Run) : Bool :=
  all.any fun x => (writesOf o x).any fun p => (sourcesOf o all ++ earlierOf o all x.q).any (placesMeet p)

/-- The key of byte i of places. -/
def placeAt : List Place → Nat → Option Nat
  | [], _ => none
  | (k, c) :: r, i => if i < c then some (k + i) else placeAt r (i - c)

/-- Which byte of places key k is. -/
def offsetIn : List Place → Nat → Option Nat
  | [], _ => none
  | (a, c) :: r, k => if a ≤ k ∧ k < a + c then some (k - a) else (offsetIn r k).map fun i => i + c

/-- The key of the byte that the copy moves to key k. -/
def movedTo (all : List Run) (k : Nat) : Option Nat := all.findSome? fun x => (offsetIn x.dst k).bind (placeAt x.src)

/-- What key k held when the copy started. -/
def startByte (s : State) (o : AsyncOp) (k : Nat) : Byte := (sget? o.starts k).getD (memByte s.mem k)

/-- What key k holds after n writes of the copy, each of a byte read as late as can be. -/
def chainByte (s : State) (o : AsyncOp) (all : List Run) : Nat → Nat → Byte
  | 0, k => startByte s o k
  | n + 1, k =>
    match movedTo all k with
    | none => startByte s o k
    | some j => chainByte s o all n j

/-- What a cred's element at key k held when the copy started. -/
def startElem (s : State) (o : AsyncOp) (k : Nat) : Nat :=
  leNat ((List.range (elemBytes (dRty o.regs))).map fun i => startByte s o (k + i))

/-- What a cred's element at key k holds after n of the copy's operations, each on a source element read as late as
can be. -/
def chainElem (s : State) (o : AsyncOp) (all : List Run) : Nat → Nat → Nat
  | 0, k => startElem s o k
  | n + 1, k =>
    match movedTo all k with
    | none => startElem s o k
    | some j => redElem (dRop o.regs) (dRty o.regs) (startElem s o k) (chainElem s o all n j)

/-- Source byte i of a run that is at key k, where the copy also writes it: read before or after any of the writes. -/
def openByte (s : State) (o : AsyncOp) (all : List Run) (i k : Nat) : Byte :=
  if o.opc = 5 then
    let es := elemBytes (dRty o.regs)
    let j := k - i % es
    (leBytes es (chainElem s o all (Config.chainDepth s.fresh j) j)).getD (i % es) 0#8
  else chainByte s o all (Config.chainDepth s.fresh k) k

/-- The source bytes of a run: one that the copy also writes is read before or after any of its writes. -/
def openSources (s : State) (o : AsyncOp) (all : List Run) (x : Run) (bs : List Byte) : List Byte :=
  bs.zipIdx.map fun p =>
    match placeAt x.src p.2 with
    | none => p.1
    | some k => if isWindowKey k || !inPlaces (all.flatMap (writesOf o)) k then p.1 else openByte s o all p.2 k

/-- What the bytes of a run that the copy also reads held at the start. -/
def noteStarts (s : State) (all : List Run) (o : AsyncOp) (x : Run) : AsyncOp :=
  x.dst.foldl
    (fun o p =>
      (List.range p.2).foldl
        (fun o i =>
          if inPlaces (sourcesOf o all) (p.1 + i) && (sget? o.starts (p.1 + i)).isNone then
            { o with starts := sput o.starts (p.1 + i) (memByte s.mem (p.1 + i)) }
          else o) o) o

/-- A list in an order that a number picks. -/
def permute {α : Type} : Nat → Nat → List α → List α
  | 0, _, _ => []
  | n + 1, code, l =>
    match l[code % l.length]? with
    | none => []
    | some x => x :: permute n (code / l.length) (l.eraseIdx (code % l.length))

/-- One more term of a cred at an element that it adds to more than once (R249): the terms so far are added in an
order that is not architected, from what the element held before them. An element that something else has written
begins anew. -/
def AsyncOp.addTerm (o : AsyncOp) (k x y : Nat) : AsyncOp × Nat :=
  let e : Sum := match o.sums.find? fun e => e.key == k && e.last == x with
    | some e => { e with terms := e.terms ++ [y] }
    | none => { key := k, start := x, terms := [y], last := x }
  let v := (permute e.terms.length (Config.termOrder o.nonce k e.terms.length) e.terms).foldl
    (redElem (dRop o.regs) (dRty o.regs)) e.start
  ({ o with sums := { e with last := v } :: o.sums.filter fun f => f.key != k }, v)

/-- n elements of a cred from key k on, with source bytes ys: many are the places that other runs add to. -/
def credBytes (m : List Host.Cell) (many : List Place) : Nat → Nat → List Byte → AsyncOp → AsyncOp × List Byte
  | 0, _, _, o => (o, [])
  | n + 1, k, ys, o =>
    let es := elemBytes (dRty o.regs)
    let x := memNat m k es
    let y := leNat (ys.take es)
    let r := if inPlaces many k then o.addTerm k x y else (o, redElem (dRop o.regs) (dRty o.regs) x y)
    let rest := credBytes m many n (k + es) (ys.drop es) r.1
    (rest.1, leBytes es r.2 ++ rest.2)

/-- The row of a run in the stream, by which its free choices go (R248). -/
def Run.row (x : Run) (o : AsyncOp) : Nat := x.q / dLen o.regs

/-- Write one run of a cred whose bytes meet (R245, R249). -/
def credOpen (crew : Nat) (all : List Run) (x : Run) : List Place → List Byte → State → AsyncOp → State × AsyncOp
  | [], _, s, o => (s, o)
  | (k, c) :: r, bs, s, o =>
    if isWindowKey k then credOpen crew all x r (bs.drop c) s o
    else
      let es := elemBytes (dRty o.regs)
      let many := if dRop o.regs = 0 ∧ dRty o.regs ≠ 7 then (all.filter fun y => y.q != x.q).flatMap (writesOf o) else []
      let v := credBytes s.mem many (c / es) k (bs.take c) o
      let ws := settleBytes (memByte s.mem) (sourcesOf o all) o.nonce (x.row o) k v.2
      credOpen crew all x r (bs.drop c) { s with mem := memWrite s.mem k ws } v.1

/-- Write one run of a copy whose bytes meet. -/
def writeOpen (crew : Nat) (all : List Run) (so : State × AsyncOp) (x : Run) (bs : List Byte) : State × AsyncOp :=
  let s := so.1
  let o := so.2
  let seen := sourcesOf o all ++ earlierOf o all x.q
  if o.opc = 5 then 
    let n := (s.crew crew).tenant
    credOpen crew all x x.dst bs (countPlaces (countPlaces s n false x.dst) n true x.dst) o
  else
    let ws :=
      if o.opc = 1 then
        settleBytes ((s.crew crew).tileByte o.fields.tile.toNat) seen o.nonce (x.row o) (tileOff o x) bs
      else settlePlaces (memByte s.mem) seen o.nonce (x.row o) x.dst bs
    (writeRun crew o s x ws, o)

/-- Perform the runs of a unit on this device, with their source bytes. -/
def performRuns (s : State) (crew : Nat) (o : AsyncOp) (rs : List (Run × List Byte)) : State × AsyncOp :=
  let all := allRuns s crew o
  if clashes o all then
    let o1 := rs.foldl (fun o p => noteStarts s all o p.1) o
    let t := (rs.map fun p => (p.1, openSources s o all p.1 p.2)).foldl (fun t p => writeOpen crew all t p.1 p.2) (s, o1)
    ({ t.1 with fresh := t.1.fresh + 1 }, t.2)
  else (writeRuns crew o rs s, o)

/-- The crew with an operation replaced. -/
def Crew.setOp (c : Crew) (o : AsyncOp) : Crew := { c with ops := c.ops.map fun x => if x.id = o.id then o else x }

/-- The state with an operation of a crew replaced. -/
def State.setOp (s : State) (crew : Nat) (o : AsyncOp) : State := s.setCrew crew ((s.crew crew).setOp o)

/-- A unit has been performed: it arrives with the bytes it wrote (R244), and the next unit follows. -/
def unitDone (s : State) (crew : Nat) (o : AsyncOp) (n : Nat) : State :=
  let s := dropWaiter (dropReads s crew o.id) (.op crew o.id)
  let s := if n = 0 then s else arriveAt s (cuOf crew) (dBar o.regs) n
  s.setOp crew { o with
    next := o.next + 1
    sent := false
    finished := decide (o.total ≤ o.next + 1) }

/-- The bytes of unit u. -/
def unitBytes (r : List Word) (u : Nat) : Nat := min 4096 (dTotal r - 4096 * u)

/-- One page of a cpref: it is walked and installed, or counted (R251). -/
def prefPage (crew : Nat) (s : State) (o : AsyncOp) (vp : Nat) : Chk Unit :=
  if o.seen.contains vp then .ok (s, o, ())
  else
    let o := { o with seen := vp :: o.seen }
    match walkIn s (cuOf crew) (s.crew crew).tenant (vp * 4096) 1#3 with
    | (_, .busy) => .error .idle
    | (_, .noWalker) => .error .idle
    | (s1, .ok _) => .ok (s1, o, ())
    | (s1, .trap _ _) => .ok (s1, { o with count := o.count + 1 }, ())
    | (s1, .stall _ _ _ _ _) => .ok (s1, { o with count := o.count + 1 }, ())

/-- The pages of a cpref, in order. -/
def prefPages (crew : Nat) : List Nat → State → AsyncOp → Chk Unit
  | [], s, o => .ok (s, o, ())
  | v :: r, s, o =>
    match prefPage crew s o v with
    | .error e => .error e
    | .ok (s1, o1, _) => prefPages crew r s1 o1

/-- The runs of a cpref unit (R251): an address that leaves its field holds it, and one outside GLOBAL has no page. -/
def prefRuns (crew : Nat) : List (Nat × Nat) → State → AsyncOp → Chk Unit
  | [], s, o => .ok (s, o, ())
  | (q, n) :: r, s, o =>
    if !inField (srcAddr o q 0) n then .error (.hold s cSpace 0)
    else
      match prefPages crew ((touchPages (srcAddr o q 0) n 0).map Prod.fst) s o with
      | .error e => .error e
      | .ok (s1, o1, _) => prefRuns crew r s1 o1

/-- The parts of a unit's runs that a cred sends through windows. -/
def unitParts (o : AsyncOp) (rs : List (Run × List Byte)) : Parts :=
  if o.opc = 5 then (rs.flatMap fun p => dealPlaces p.1.dst p.2).filter fun p => isWindowKey p.1.1 else []

/-- Everything that a unit writes can leave the device now (22 R345). -/
def unitReady (s : State) (o : AsyncOp) (rs : List (Run × List Byte)) : Bool :=
  if o.opc = 5 then credReady s o (unitParts o rs) else rs.all fun p => p.1.dst.all (storeReady s)

/-- The unit of an operation with its checks made, or why it does not go through. -/
def unitStep (s : State) (crew : Nat) (o : AsyncOp) : Except Miss State :=
  if o.opc = 6 then
    match prefRuns crew (unitRuns o.regs o.next) s o with
    | .error e => .error e
    | .ok (s1, o1, _) => .ok (unitDone s1 crew o1 0)
  else
    match chunkCheck s crew o with
    | .error e => .error e
    | .ok (s1, o1, _) =>
      match checkRuns crew (unitRuns o.regs o.next) s1 o1 with
      | .error e => .error e
      | .ok (s2, o2, runs) =>
        let src := runs.flatMap fun x => x.src
        match opLoad s2 crew o2 src with
        | .error e => .error e
        | .ok (s3, none) => .ok (unitDone s3 crew o2 0)
        | .ok (s3, some bs) =>
          let c := s3.crew crew
          let rs := dealBytes c o2 runs bs
          if !unitReady s3 o2 rs then .error .idle
          else
          let t := performRuns (countPlaces s3 c.tenant false src) crew o2 rs
          let o3 := t.2
          let s4 := credSend crew o2 (unitParts o2 rs) t.1
          if opSending s4 crew o.id then .ok (s4.setOp crew { o3 with sent := true })
          else .ok (unitDone s4 crew o3 (unitBytes o.regs o.next))

/-- An earlier operation of the crew is held, and this one was not started by a handler (R254, R255). -/
def stopped (c : Crew) (o : AsyncOp) : Bool :=
  decide (o.level = 0) && c.ops.any fun x => decide (x.id < o.id) && x.held.isSome

/-- The operation waits on a fault record that has no answer. -/
def faultOpen (s : State) (crew id : Nat) : Bool :=
  match faultOf s (.op crew id) with
  | some (f, _) => !f.unres
  | none => false

/-- What the step of an operation o comes to: a held operation records its cause, side, progress and address; its
failing unit has had no effect, and it adopts the new mapping of a changed page (R254, R256). -/
def missState (crew prog : Nat) (o : AsyncOp) : Except Miss State → Option (Except Fault State)
  | .ok s => some (.ok s)
  | .error .idle => none
  | .error (.stall s) => some (.ok s)
  | .error (.hold s cause side va) =>
    let o := if cause = cChanged then o.forget (va.toNat / 4096) else o
    some (.ok ((dropReads s crew o.id).setOp crew { o with held := some { cause, side, progress := prog, va } }))
  | .error (.fault f) => some (.error f)

/-- The next unit of a copy (R253), none when nothing can happen. -/
def copyUnit (s : State) (crew : Nat) (o : AsyncOp) : Option (Except Fault State) :=
  if o.finished || 8 ≤ o.opc || o.held.isSome || (s.crew crew).zeroing || !clockOk s (cuOf crew) ||
    faultOpen s crew o.id then none
  else if o.sent then
    (if opSending s crew o.id then none else some (.ok (unitDone s crew o (unitBytes o.regs o.next))))
  else if stopped (s.crew crew) o then none
  else missState crew (4096 * o.next) o (unitStep s crew o.anew)

/-- COPY_UNIT (R253). -/
def execCopyUnit (crew op : Nat) (s : State) : Outcome :=
  match (s.crew crew).ops.find? fun o => o.id = op with
  | none => notEnabled "COPY_UNIT"
  | some o =>
    match copyUnit s crew o with
    | none => notEnabled "COPY_UNIT"
    | some (.ok s1) => .next s1
    | some (.error f) => .fault f

/-! ## Completion (R244, R251, R252) -/

/-- The key of the ring object of a cring. -/
def ringKey (crew : Nat) (o : AsyncOp) : Nat := padKey (cuOf crew) (dReg o.regs 1)

/-- write_index after the filled slots that follow it (R72). -/
def ringSee (filled : List Nat) : Nat → Nat → Nat
  | 0, w => w
  | n + 1, w => if filled.contains w then ringSee filled n (w + 1) else w

/-- Slot n of the ring is filled: it becomes visible with those that follow it once every earlier one is (R72, R252). A
slot that is visible already, and a fill that a kill has cut short, advance nothing. -/
def ringAdvance (s : State) (crew : Nat) (o : AsyncOp) : State :=
  let k := ringKey crew o
  let n := (dReg o.regs 5).toNat
  let w := ringWrite s.mem k
  if o.opc ≠ 7 ∨ o.cut = true ∨ n < w then s
  else
    let l := n :: sget [] s.ringFills k
    let w' := ringSee l l.length w
    { s with
      mem := if w' = w then s.mem else memWrite s.mem (k + 16) (leBytes 8 w')
      ringFills := sputD [] s.ringFills k (l.filter fun x => decide (w' ≤ x)) }

/-- The promise of an operation is kept. -/
def keepPromise (c : Crew) (id : Nat) : Crew :=
  { c with promises := c.promises.map fun p => if p.op = id then { p with done := true } else p }

/-- The operation leaves the engine: its destination tile's state, its promise, its tokens (R244). -/
def leaveEngine (c : Crew) (o : AsyncOp) : Crew :=
  let c := match o.dstFe with
    | some (i, f) => c.setFe i f
    | none => c
  let c := { keepPromise c o.id with ops := c.ops.filter fun x => x.id ≠ o.id }
  c.post .c o.post

/-- A copy completes. -/
def copyComplete (s : State) (crew : Nat) (o : AsyncOp) : State :=
  let s := ringAdvance s crew o
  let c := leaveEngine (s.crew crew) o
  let c := if o.opc = 2 ∧ o.fields.flag = 1#1 then endRead c o.fields.tile.toNat else c
  let c := if o.opc = 6 then
      { c with sc := (c.sc.setReg o.fields.sd (BitVec.ofNat 64 o.count)).setPred o.fields.pd (o.count == 0) }
    else c
  s.setCrew crew c

/-- A copy can complete: its units are done, and what it has sent and what its post covers has been performed (R244, 02
R22). -/
def copyDone (s : State) (crew : Nat) (o : AsyncOp) : Bool :=
  o.finished && decide (o.opc < 8) && !opSending s crew o.id && !postHeld s crew .c o.post o.after

/-- COPY_COMPLETION (R244). -/
def execCopyCompletion (crew op : Nat) (s : State) : Outcome :=
  match (s.crew crew).ops.find? fun o => o.id = op with
  | none => notEnabled "COPY_COMPLETION"
  | some o =>
    if copyDone s crew o then .next (copyComplete s crew o)
    else notEnabled "COPY_COMPLETION"

end Sys2Proof.Machine
end

