-- ==== Sys2Proof/Machine/Fabric.lean ====
section
/-! DEFINITION. Collectives and point-to-point transfers: spec 14 R265 to R273, 26 R386 to R393; the common frame of
the fabric operations, the acknowledgements, accesses that arrive from other devices; and their events. Chunk.params
of a collective are the opening's number and a kind: 0 open with alg and max_bytes, 1 to 3 an operation with its
register sN+3 and root, 4 close with the number of operations issued, 5 a member lost; of a send the sender's number, 8
for the announcement, 9 for data or 10 for a member lost, the length, and the tag to acknowledge (assumption log 32). -/
namespace Sys2Proof.Machine

/-! ## Windows -/

/-- The first valid entry of a group in the window table from entry w on. -/
def findWin (s : State) (group : Nat) (ok : Win → Bool) : Nat → Nat → Option Win
  | 0, _ => none
  | n + 1, w =>
    match winEntry s w with
    | some e => if e.group = group && ok e then some e else findWin s group ok n (w + 1)
    | none => findWin s group ok n (w + 1)

/-- This device's entry of a group. -/
def groupEntry (s : State) (group : Nat) : Option Win := findWin s group (fun _ => true) 65536 0

/-- n payload bytes of a group's message count to the tenant of its window entry (27 R400): counter 9 sent, 10
received. -/
def payload (k : Nat) (s : State) (group n : Nat) : State :=
  if n = 0 then s
  else
    match groupEntry s group with
    | none => s
    | some w => countFor s w.tenant k n

/-- The ranks of a window's members (R388). -/
def winRanks (s : State) (w : Win) : List Nat := (List.range w.members).map (memberRank s w)

/-- The checks of a group window pointer (R267). -/
def groupWindow (s : State) (p : Word) : Res (State × Win) :=
  if !ptrOk p || spaceOf p ≠ 0 then .error (.trap cSpace p)
  else
    match agentXlate (myAgent s) s p 0#3 with
    | .error e => .error e
    | .ok (s1, t) =>
      if !t.gw then .error (.trap cPerm p)
      else if entryBusy s1 ((t.frame - 2 ^ 56) / 2 ^ 32) then .error (.wait qMem s1)
      else
        match winEntry s1 ((t.frame - 2 ^ 56) / 2 ^ 32) with
        | none => .error (.trap cNotPresent p)
        | some w => if w.tenant ≠ s.myCrew.tenant then .error (.trap cPerm p) else .ok (s1, w)

/-- The checks of src, dst and bar as a copy checks them (R241, R269). -/
def fabPointers (s : State) (ps : List Word) (bar : Word) : Res Unit :=
  match (ps.find? fun p => !ptrFields p).or (if bar ≠ 0#64 ∧ ptrOk bar = false then some bar else none) with
  | some p => .error (.trap cSpace p)
  | none =>
    if bar = 0#64 then .ok ()
    else if !isPad bar then .error (.trap cSpace bar)
    else if segOwner s (segOf (padKey (cuOf s.cur.1) bar)) ≠ s.myCrew.tenant then .error (.trap cPerm bar)
    else if bar.toNat % 16 ≠ 0 then .error (.trap cMisalign bar)
    else .ok ()

/-! ## The common frame (R265, R266) -/

/-- The start of a fabric operation: its tokens, room in the engine and the strand's earlier accesses of its class
(R242, R265), then its checks. check gives the state and the operation; after is what else the start does with the
operation's number. -/
def fabBody (e : Eng) (bar : Word) (check : State → Res (State × AsyncOp)) (after : Nat → State → State) : Body := fun s =>
  match engGate s e {} false with
  | .error w => .error w
  | .ok _ =>
    match startWait s false e.cls.toNat [bar] with
    | some q => .error (.wait q s)
    | none =>
      match check s with
      | .error w => .error w
      | .ok (s1, o) =>
        let id := s1.myCrew.seq
        .ok (after id (enterEngine s1 e {} o), none)

/-- The gate of an operation that the strand waits at (R265): room in the engine. A wait for other members is charged
before it (07 R107). -/
def roomBody (body : State → Res State) (s : State) : Res State :=
  if engineFull s.myCrew then
    (match body s with
     | .error (.wait q _) => .error (.wait (if q = qColl then qColl else qMem) s)
     | _ => .error (.wait qMem s))
  else body s

/-- The status word of R266. -/
def fabWord (status count : Nat) : Word := BitVec.ofNat 64 (status * 2 ^ 56 + count)

/-- A fabric operation completes with a value for sd, arriving at bar with n bytes (R266). -/
def fabEnd (s : State) (crew : Nat) (o : AsyncOp) (sd : Word) (bar : Word) (n : Nat) : State :=
  let s := dropWaiter (dropReads s crew o.id) (.op crew o.id)
  let s := if n = 0 then s else arriveAt s (cuOf crew) bar n
  let c := leaveEngine (s.crew crew) o
  s.setCrew crew { c with sc := c.sc.setReg o.fields.sd sd }

/-- The claiming task of a crew. -/
def ownerOf (c : Crew) : Nat × Nat :=
  match c.ctx with
  | some x => (x.launch, x.task)
  | none => (0, 0)

/-! ## Messages of collectives -/

/-- A chunk enters the inbox once (R386). -/
def addChunk (s : State) (c : Chunk) : State :=
  if s.inbox.any fun x => x.group = c.group && x.src = c.src && x.oper = c.oper && x.number = c.number &&
    x.params = c.params then s
  else { s with inbox := s.inbox ++ [c] }

/-- Send a chunk to one member; a lost member's message is dropped with an error record (R387). -/
def chunkTo (crew : Nat) (op : Option Nat) (w : Win) (kind : Nat) (c : Chunk) (s : State) (x : Nat) : State :=
  if memberLost s w x then pushErr s 3 4 w.tenant crew 0
  else
    sendMsg (countFor s w.tenant 9 c.data.length) {
      tag := 0
      crew
      op
      msg := {
        kind
        group := w.group
        dst := memberRank s w x
        tag := 0
        nums := [c.src, c.oper, c.number] ++ c.params
        data := c.data } }

/-- A collective chunk to every member, this device included. -/
def chunkToAll (crew : Nat) (op : Option Nat) (w : Win) (c : Chunk) (s : State) : State :=
  (List.range w.members).foldl
    (fun s x => if x = w.self then addChunk s c else chunkTo crew op w 2 c s x) s

/-- Bytes cut into chunks of at most 4,096, at least one (R386). -/
def chunksOf : Nat → List Byte → List (List Byte)
  | 0, _ => []
  | n + 1, bs => if bs.length ≤ 4096 then [bs] else bs.take 4096 :: chunksOf n (bs.drop 4096)

/-- An acknowledgement to a rank (R386): its tag is the kind of the message, and nums say which one. -/
def ackTo (s : State) (kind rank group : Nat) (nums : List Nat) (data : List Byte) : State :=
  pushOut s { kind := 5, group, dst := rank, tag := kind, nums, data }

/-! ## Reduction contexts (R267, R268, R272) -/

/-- Member x of n is interior in tree t: its position is even (26 R391). -/
def interior (n x t : Nat) : Bool := (if t = 0 then x + 1 else (x + 1) % n + 1) % 2 == 0

/-- The staging that a claim reserves (R267). -/
def stagingOf (n x alg maxBytes : Nat) : Nat :=
  let one (t : Nat) : Nat := if interior n x t then 2 * maxBytes else maxBytes
  if alg = 0 then one 0 + one 1 else one 0

/-- The size of the staging pool (26 R393). -/
def poolBytes (s : State) : Nat := s.regs.stageBlocks * 2 ^ 21

/-- The contexts a tenant holds (26 R392). -/
def heldContexts (s : State) (tenant : Nat) : Nat := (s.redCtxs.filter fun p => p.2.tenant = tenant).length

/-- The lowest free handle. -/
def freeHandle (s : State) : Option Nat := (List.range 64).find? fun h => (sget? s.redCtxs h).isNone

/-- The start of coll.open: its registers and window (R267). -/
def openCheck (i : Instr) (c : CpFields) (s : State) : Res (State × AsyncOp) :=
  let r := s.me.regsFrom c.sn 2
  let v := dReg r 1
  let maxBytes := v.bits 31 0
  if v.bits 63 36 ≠ 0 ∨ 2 ≤ v.bits 35 32 ∨ maxBytes % 256 ≠ 0 ∨ maxBytes < 256 ∨ 2 ^ 24 < maxBytes then illegalWords i
  else
    match groupWindow s (dReg r 0) with
    | .error e => .error e
    | .ok (s1, w) =>
      .ok (s1, {
        id := 0
        opc := 0x10
        fields := c
        regs := r
        window := w.index
        group := w.group
        members := w.members
        self := w.self })

/-- The request to the arbiter. -/
def claim (id : Nat) (s : State) : State :=
  let k : Claim := { crew := s.cur.1, op := id, tenant := s.myCrew.tenant }
  { s with claims := s.claims ++ [k] }

/-- COLL_OPEN (R267). -/
def execCollOpen (e : Eng) (c : CpFields) (s : State) : Outcome :=
  issue (.collOpen e c) [.c] e.p false (fabBody e 0#64 (openCheck (.collOpen e c) c) claim) s

/-- The place of a tenant in the rotation after the last grant (R267). -/
def rotation (s : State) (tenant : Nat) : Nat := (tenant + 385 - (s.arbLast + 1) % 385) % 385

/-- The claim that the arbiter serves next: the tenant first in rotation, then the lowest crew (R267). -/
def nextClaim (s : State) : Option Claim :=
  s.claims.foldl
    (fun a k =>
      match a with
      | none => some k
      | some b =>
        if rotation s k.tenant < rotation s b.tenant ∨ (k.tenant = b.tenant ∧ k.crew < b.crew) then some k else some b)
    none

/-- coll.open leaves the engine. -/
def openLeave (s : State) (crew : Nat) (o : AsyncOp) : State := s.setCrew crew (leaveEngine (s.crew crew) o)

/-- A request is decided (R267): pd and sd are written; coll.open completes now, or when what its post covers has been
performed (02 R22). -/
def openEnd (s : State) (crew : Nat) (o : AsyncOp) (pd : Bool) (sd : Word) : State :=
  let c := (s.crew crew).setOp { o with finished := true }
  let s1 := s.setCrew crew { c with sc := (c.sc.setReg o.fields.sd sd).setPred o.fields.pd pd }
  if postHeld s crew .c o.post o.after then s1 else openLeave s1 crew o

/-- A claim succeeds: the context, its staging, the rotation, and the notice to the members. -/
def grantContext (s : State) (crew : Nat) (o : AsyncOp) (h staging : Nat) (tenant : Nat) : State :=
  let inst := sget 0 s.opens o.group
  let alg := (dReg o.regs 1).bits 35 32
  let maxBytes := (dReg o.regs 1).bits 31 0
  let own := ownerOf (s.crew crew)
  let w := winEntry s o.window
  let x : RedCtx := {
    crew
    launch := own.1
    task := own.2
    tenant
    window := o.window
    group := o.group
    inst
    alg
    maxBytes
    staging
    ranks := w.elim [] (winRanks s) }
  let s := { s with
    redCtxs := sput s.redCtxs h x
    stagingUsed := s.stagingUsed + staging
    arbLast := tenant
    opens := sput s.opens o.group (inst + 1) }
  let note : Chunk := { group := o.group, src := o.self, oper := 0, number := 0, params := [inst, 0, alg, maxBytes], data := [] }
  match w with
  | some e => chunkToAll 0x1FF none e note s
  | none => addChunk s note

/-- The answer to a request (R267, 26 R392, R393). -/
def decideClaim (s : State) (k : Claim) (o : AsyncOp) : State :=
  let staging := stagingOf o.members o.self ((dReg o.regs 1).bits 35 32) ((dReg o.regs 1).bits 31 0)
  match freeHandle s with
  | none => openEnd s k.crew o false (fabWord 8 0)
  | some h =>
    if min 64 (s.tenant k.tenant).cap ≤ heldContexts s k.tenant then openEnd s k.crew o false (fabWord 8 0)
    else if poolBytes s < s.stagingUsed + staging then openEnd s k.crew o false (fabWord 9 0)
    else openEnd (grantContext s k.crew o h staging k.tenant) k.crew o true (BitVec.ofNat 64 h)

/-- REDUCTION_CONTEXT_CLAIM (R267): one request is decided in a cycle. A request whose operation a kill has abandoned is
dropped. -/
def execReductionContextClaim (s : State) : Outcome :=
  match nextClaim s with
  | none => notEnabled "REDUCTION_CONTEXT_CLAIM"
  | some k =>
    let s1 := { s with claims := s.claims.filter fun x => !(x.crew == k.crew && x.op == k.op) }
    match (s.crew k.crew).ops.find? fun o => o.id = k.op with
    | none => .next s1
    | some o =>
      if s.cycle < s.arbNext then notEnabled "REDUCTION_CONTEXT_CLAIM"
      else .next (decideClaim { s1 with arbNext := s.cycle + 1 } k o)

/-- Close a context (R272): free it and its staging, forget its chunks, tell the members. -/
def closeContext (s : State) (h : Nat) : State :=
  match sget? s.redCtxs h with
  | none => s
  | some x =>
    let s := { s with
      redCtxs := sdel s.redCtxs h
      stagingUsed := s.stagingUsed - x.staging
      inbox := s.inbox.filter fun c =>
        !(c.group == x.group && c.params.head? == some x.inst && decide (c.params.getD 1 8 < 8)) }
    match winEntry s x.window with
    | none => s
    | some w =>
      let note : Chunk := { group := x.group, src := w.self, oper := 0, number := 0, params := [x.inst, 4, x.issued], data := [] }
      (List.range w.members).foldl (fun s y => if y = w.self then s else chunkTo 0x1FF none w 2 note s y) s

/-- A handle that the context on the crew in focus owns. -/
def ownHandle (s : State) (v : Word) : Option (Nat × RedCtx) :=
  if v.bits 63 6 ≠ 0 then none
  else
    match sget? s.redCtxs (v.toNat % 64) with
    | none => none
    | some x =>
      if s.myCrew.ctx.isSome && (x.launch, x.task) == ownerOf s.myCrew then some (v.toNat % 64, x) else none

/-- An operation of the crew on a handle is in the engine. -/
def handleBusy (c : Crew) (h : Nat) : Bool :=
  c.ops.any fun o => 0x11 ≤ o.opc && o.opc ≤ 0x13 && (dReg o.regs 0).toNat % 64 == h

/-- coll.close (R272). -/
def closeBody (i : Instr) (c : CpFields) (s : State) : Res State :=
  match ownHandle s (s.me.reg c.sn) with
  | none => illegalWords i
  | some (h, _) =>
    if handleBusy s.myCrew h then .error (.wait qColl s)
    else
      let s1 := closeContext s h
      .ok (s1.setMe (s1.me.setReg c.sd 0#64))

/-- COLL_CLOSE (R272). -/
def execCollClose (e : Eng) (c : CpFields) (s : State) : Outcome :=
  heldIssue (.collClose e c) e [.c] (roomBody (closeBody (.collClose e c) c)) s

/-- Close every handle of a task (R272). -/
def closeHandles (s : State) (launch task : Nat) : State :=
  s.redCtxs.foldl (fun s p => if p.2.launch = launch ∧ p.2.task = task then closeContext s p.1 else s) s

/-! ## Operations on a handle (R268 to R271) -/

/-- count of sN+3. -/
def collCount (r : List Word) : Nat := (dReg r 3).bits 31 0
/-- dty. -/
def collDty (r : List Word) : Nat := (dReg r 3).bits 47 44
/-- sty. -/
def collSty (r : List Word) : Nat := (dReg r 3).bits 43 40
/-- rop. -/
def collRop (r : List Word) : Nat := (dReg r 3).bits 35 32
/-- root. -/
def collRoot (r : List Word) : Nat := (dReg r 4).toNat

/-- The limits of R269 for operation opc on a context. -/
def collOk (opc : Nat) (x : RedCtx) (r : List Word) : Bool :=
  let v := dReg r 3
  let n := collCount r
  let tys : List Nat := [0, 1, 2, 7]
  v.bits 63 48 == 0 && v.bits 39 36 == 0 && (dReg r 4).bits 63 24 == 0 && 1 ≤ n &&
    (if opc = 0x11 then
      tys.contains (collDty r) && tys.contains (collSty r) && collRop r ≤ 2 && n * 4 ≤ x.maxBytes && collRoot r == 0
    else collDty r == 0 && collSty r == 0 && collRop r == 0 &&
      (if opc = 0x12 then n * x.ranks.length ≤ x.maxBytes && collRoot r == 0
       else n ≤ x.maxBytes && decide (collRoot r < x.ranks.length)))

/-- The two further combinations that raise ILLEGAL (R269). -/
def collTypesBad (opc : Nat) (r : List Word) : Bool :=
  opc == 0x11 && (((collDty r == 7) != (collSty r == 7)) || (dReg r 1).toNat % elemBytes (collSty r) ≠ 0 ||
    (dReg r 2).toNat % elemBytes (collDty r) ≠ 0)

/-- The start of a collective (R269). -/
def collCheck (i : Instr) (opc : Nat) (c : CpFields) (s : State) : Res (State × AsyncOp) :=
  let r := s.me.regsFrom c.sn 6
  match ownHandle s (dReg r 0) with
  | none => illegalWords i
  | some (_, x) =>
    if !collOk opc x r then illegalWords i
    else
      match fabPointers s [dReg r 1, dReg r 2] (dReg r 5) with
      | .error e => .error e
      | .ok _ =>
        if collTypesBad opc r then illegalWords i
        else
          .ok (s, {
            id := 0
            opc
            fields := c
            regs := r
            window := x.window
            group := x.group
            members := x.ranks.length
            self := (winEntry s x.window).elim 0 fun w => w.self
            inst := x.inst
            pos := x.issued })

/-- One more operation has been issued on the handle of the operation. -/
def countIssue (v : Word) (s : State) : State :=
  match sget? s.redCtxs (v.toNat % 64) with
  | none => s
  | some x => { s with redCtxs := sput s.redCtxs (v.toNat % 64) { x with issued := x.issued + 1 } }

/-- A collective instruction. -/
def collBody (i : Instr) (opc : Nat) (e : Eng) (c : CpFields) : Body := fun s =>
  fabBody e (s.me.regN (c.sn.toNat + 5)) (collCheck i opc c) (fun _ => countIssue (s.me.reg c.sn)) s

/-- COLL_ARED (R270). -/
def execCollAred (e : Eng) (c : CpFields) (s : State) : Outcome :=
  issue (.collAred e c) [.c] e.p false (collBody (.collAred e c) 0x11 e c) s

/-- COLL_AGATH (R271). -/
def execCollAgath (e : Eng) (c : CpFields) (s : State) : Outcome :=
  issue (.collAgath e c) [.c] e.p false (collBody (.collAgath e c) 0x12 e c) s

/-- COLL_BCAST (R271). -/
def execCollBcast (e : Eng) (c : CpFields) (s : State) : Outcome :=
  issue (.collBcast e c) [.c] e.p false (collBody (.collBcast e c) 0x13 e c) s

/-- The bytes this member contributes: its source's size. -/
def srcBytes (o : AsyncOp) : Nat :=
  if o.opc = 0x11 then collCount o.regs * elemBytes (collSty o.regs)
  else if o.opc = 0x12 then collCount o.regs
  else if o.self = collRoot o.regs then collCount o.regs
  else 0

/-- The bytes that member x sends to every member in the same operation: coll.ared sends its sums along the trees. -/
def memberBytes (o : AsyncOp) (x : Nat) : Nat :=
  if o.opc = 0x12 ∨ (o.opc = 0x13 ∧ x = collRoot o.regs) then collCount o.regs else 0

/-- The bytes an operation writes here (R271). -/
def dstBytes (o : AsyncOp) : Nat :=
  if o.opc = 0x11 then collCount o.regs * elemBytes (collDty o.regs)
  else if o.opc = 0x12 then collCount o.regs * o.members
  else collCount o.regs

/-- The parameters of an operation as its chunks carry them (R268). -/
def collParams (o : AsyncOp) : List Nat := [o.inst, o.opc - 0x10, (dReg o.regs 3).toNat, collRoot o.regs]

/-- The chunks of member x for the operation's position, by number. -/
def chunksFrom (s : State) (o : AsyncOp) (x : Nat) : List Chunk :=
  s.inbox.filter fun c =>
    c.group == o.group && c.src == x && c.oper == o.pos && c.params.head? == some o.inst &&
      1 ≤ c.params.getD 1 0 && c.params.getD 1 0 ≤ 3

/-- The bytes of chunks, in their order. -/
def bytesFrom (cs : List Chunk) : List Byte :=
  (List.range cs.length).flatMap fun n => ((cs.find? fun c => c.number % 2 ^ 32 == n).elim [] Chunk.data)

/-- The chunks of a stage of an operation (assumption log 32): 0 the bytes for every member, 1 + t the sums that go up
tree t, 3 + t the results that come down it. -/
def ofStage (st : Nat) (cs : List Chunk) : List Chunk := cs.filter fun c => c.number / 2 ^ 32 == st

/-- A notice of member x on the operation's context: its parameters. -/
def noticeOf (s : State) (o : AsyncOp) (x kind : Nat) : Option (List Nat) :=
  (s.inbox.find? fun c => c.group == o.group && c.src == x && c.params.take 2 == [o.inst, kind]).map fun c => c.params.drop 2

/-- Where an operation on a handle stands before its contribution is sent, or after: a status that ends it, waiting,
or ready. -/
inductive CollState where
  | ends (status : Nat)
  | waits
  | ready
  deriving DecidableEq, Repr

/-- Another member of a window is lost. -/
def anyLost (s : State) (w : Win) : Bool := (List.range w.members).any fun x => x ≠ w.self && memberLost s w x

/-- The membership is lost or has changed (26 R387, R390). -/
def membersLost (s : State) (o : AsyncOp) (ranks : List Nat) : Bool :=
  match winEntry s o.window with
  | none => true
  | some w => w.group ≠ o.group || winRanks s w ≠ ranks || anyLost s w

/-- The members have opened, and none differs or has closed before this position (R268, R272), nor has one been found
lost, by this member or another, since the handle was opened (26 R387). Every operation compares alg and max_bytes,
which do not change (DEDUCED, assumption log 33). -/
def collOpened (s : State) (o : AsyncOp) : CollState :=
  match sget? s.redCtxs ((dReg o.regs 0).toNat % 64) with
  | none => .ends 3
  | some x =>
    let ms := List.range o.members
    if x.lost || membersLost s o x.ranks || ms.any fun m => (noticeOf s o m 5).isSome then .ends 2
    else if ms.any fun m => (noticeOf s o m 4).any fun p => decide (p.getD 0 0 ≤ o.pos) then .ends 3
    else if ms.any fun m => (noticeOf s o m 0).isNone then .waits
    else if ms.any fun m => noticeOf s o m 0 ≠ some [x.alg, x.maxBytes] then .ends 1
    else .ready

/-- Every member's contribution is there, with the same parameters (R268). -/
def collGathered (s : State) (o : AsyncOp) : CollState :=
  let ms := List.range o.members
  let cs := ms.map fun m => (m, chunksFrom s o m)
  if cs.any fun p => p.2.any fun c => c.params ≠ collParams o then .ends 1
  else if cs.any fun p => p.2.isEmpty || (bytesFrom (ofStage 0 p.2)).length < memberBytes o p.1 then .waits
  else .ready

/-! ### The trees (26 R391) -/

/-- The member at position y of tree t among n. -/
def treeMember (n t y : Nat) : Nat := if t = 0 then y - 1 else (y + n - 2) % n

/-- The right child of position y of level l among n positions: the first of y + 2^(l-1), y + 2^(l-2), … not above n. -/
def rightChild (n y : Nat) : Nat → Option Nat
  | 0 => none
  | l + 1 => if y + 2 ^ l ≤ n then some (y + 2 ^ l) else rightChild n y l

/-- The position of member x in tree t among n. -/
def treePos (n t x : Nat) : Nat := if t = 0 then x + 1 else (x + 1) % n + 1

/-- The children of position y, left then right. -/
def childrenAt (n y : Nat) : List Nat :=
  let l := ctzNat 18 y
  if l = 0 then [] else (y - 2 ^ (l - 1)) :: (rightChild n y l).toList

/-- The members that are the children of member x in tree t. -/
def treeChildren (n t x : Nat) : List Nat := (childrenAt n (treePos n t x)).map (treeMember n t)

/-- The member at the root of tree t. -/
def treeRoot (n t : Nat) : Nat := treeMember n t (2 ^ Nat.log2 n)

/-- The member that is the parent of member x in tree t. -/
def treeParent (n t x : Nat) : Option Nat := (List.range n).find? fun m => (treeChildren n t m).contains x

/-- Element k of a member's source as FP32 bits, or as INT32. -/
def contribution (r : List Word) (bs : List Byte) (k : Nat) : Nat :=
  let es := elemBytes (collSty r)
  let v := leNat ((bs.drop (k * es)).take es)
  if collSty r = 7 then v else roundTo 0 .rne (valueOf (collSty r) v)

/-- alg of the context of an operation. -/
def collAlg (s : State) (o : AsyncOp) : Nat := (sget? s.redCtxs ((dReg o.regs 0).toNat % 64)).elim 0 fun x => x.alg

/-- The elements that go on tree t: the first, and how many (R270). -/
def treeSpan (count alg t : Nat) : Nat × Nat :=
  let h := if alg = 0 then min count (64 * ((count + 127) / 128)) else count
  if t = 0 then (0, h) else (h, count - h)

/-- The type of the sums that a coll.ared carries (R270): FP32 or INT32. -/
def sumType (r : List Word) : Nat := if collSty r = 7 then 7 else 0

/-- n sums of a stage that member x has sent, once all of them are here. -/
def stageSums (s : State) (o : AsyncOp) (x st n : Nat) : Option (List Nat) :=
  let bs := bytesFrom (ofStage st (chunksFrom s o x))
  if bs.length < 4 * n then none else some ((List.range n).map fun i => leNat ((bs.drop (4 * i)).take 4))

/-- The sums of one more child, added to v (R270). -/
def addChild (r : List Word) (v : Option (List Nat)) (u : Option (List Nat)) : Option (List Nat) :=
  match v, u with
  | some a, some b => some (List.zipWith (redElem (collRop r) (sumType r)) a b)
  | _, _ => none

/-- This member's sums in tree t: its own elements, then its children's, left then right (R270, 26 R391). -/
def treeSums (s : State) (o : AsyncOp) (t : Nat) : Option (List Nat) :=
  let p := treeSpan (collCount o.regs) (collAlg s o) t
  (treeChildren o.members t o.self).foldl (fun v x => addChild o.regs v (stageSums s o x (1 + t) p.2))
    (some ((List.range p.2).map fun i => contribution o.regs o.entry (p.1 + i)))

/-- The result of tree t at this member: the root's own sums, or what its parent has sent down (26 R391). -/
def treeResult (s : State) (o : AsyncOp) (t : Nat) : Option (List Nat) :=
  if o.self = treeRoot o.members t then treeSums s o t
  else
    (treeParent o.members t o.self).bind fun x =>
      stageSums s o x (3 + t) (treeSpan (collCount o.regs) (collAlg s o) t).2

/-- The trees of a coll.ared that have elements. -/
def treesOf (s : State) (o : AsyncOp) : List Nat :=
  [0, 1].filter fun t => (treeSpan (collCount o.regs) (collAlg s o) t).2 ≠ 0

/-- A sum as an element of the destination (R270): the only narrowing. -/
def narrowSum (r : List Word) (v : Nat) : Nat := if collDty r = 7 then v else roundTo (collDty r) .rne (valueOf 0 v)

/-- The bytes that a coll.ared writes here, once its results are here. -/
def aredBytes (s : State) (o : AsyncOp) : List Byte :=
  ((treesOf s o).flatMap fun t => (treeResult s o t).getD []).flatMap fun v =>
    leBytes (elemBytes (collDty o.regs)) (narrowSum o.regs v)

/-- The bytes that the operation writes here from offset q on, n of them. -/
def collResult (s : State) (o : AsyncOp) (q n : Nat) : List Byte :=
  let src (m : Nat) : List Byte := bytesFrom (ofStage 0 (chunksFrom s o m))
  if o.opc = 0x11 then ((aredBytes s o).drop q).take n
  else if o.opc = 0x12 then
    (((List.range o.members).flatMap fun m => (src m).take (collCount o.regs)).drop q).take n
  else ((src (collRoot o.regs)).drop q).take n

/-! ### Units of a fabric operation (R265) -/

/-- The examination of R256 at the chunk boundaries of a region (22 R349). -/
def regionCheck (s : State) (crew : Nat) (o : AsyncOp) (base : Word) (total side : Nat) : Chk Unit :=
  if o.next % 16 = 0 ∧ o.used ≠ [] then
    rewalk crew (touchPages (base + BitVec.ofNat 64 (4096 * o.next)) (min 65536 (total - 4096 * o.next)) side) s o
  else .ok (s, o, ())

/-- The places of unit o.next of a region of total bytes at base. -/
def unitPlaces (s : State) (crew : Nat) (o : AsyncOp) (base : Word) (total : Nat) (need : BitVec 3) (side : Nat) :
    Chk (List Place) :=
  match regionCheck s crew o base total side with
  | .error e => .error e
  | .ok (s1, o1, _) =>
    opPlaces s1 crew o1.anew (base + BitVec.ofNat 64 (4096 * o.next)) (min 4096 (total - 4096 * o.next)) 0 need side

/-- Read unit o.next of a source region of total bytes at base into the operation. What is contributed of bytes that are
written before the completion is what each unit holds when it is read (R269 leaves it open: DESIGN CHOICE, assumption
log 93). -/
def readUnit (s : State) (crew : Nat) (o : AsyncOp) (base : Word) (total : Nat) : Except Miss State :=
  match unitPlaces s crew o base total 1#3 0 with
  | .error e => .error e
  | .ok (s1, o1, ps) =>
    match opLoad s1 crew o1 ps with
    | .error e => .error e
    | .ok (s2, none) => .error (.hold s2 cPerm 0)
    | .ok (s2, some bs) =>
      let s3 := countPlaces (dropReads s2 crew o.id) (s2.crew crew).tenant false ps
      .ok (s3.setOp crew { o1 with
        entry := o1.entry ++ bs
        next := o1.next + 1 })

/-- Write unit o.next of a destination region of total bytes at base; after the last one no unit is unchecked. -/
def writeUnit (s : State) (crew : Nat) (o : AsyncOp) (base : Word) (total : Nat) (bs : List Byte) : Except Miss State :=
  match unitPlaces s crew o base total 2#3 1 with
  | .error e => .error e
  | .ok (s1, o1, ps) =>
    if !ps.all (storeReady s1) then .error .idle
    else
      let s2 := storePlaces { crew, op := some o.id } ps bs (countPlaces s1 (s1.crew crew).tenant true ps)
      .ok (s2.setOp crew { o1 with
        next := o1.next + 1
        finished := decide (total ≤ 4096 * (o1.next + 1)) })

/-- The number of units of n bytes. -/
def unitsOf (n : Nat) : Nat := (n + 4095) / 4096

/-- Chunk p of a stage of an operation. -/
def collChunk (o : AsyncOp) (st : Nat) (p : List Byte × Nat) : Chunk :=
  { group := o.group, src := o.self, oper := o.pos, number := st * 2 ^ 32 + p.2, params := collParams o, data := p.1 }

/-- The bytes of a stage, cut into chunks. -/
def stageChunks (o : AsyncOp) (st : Nat) (bs : List Byte) : List Chunk :=
  ((chunksOf (bs.length / 4096 + 1) bs).zipIdx).map (collChunk o st)

/-- The operation and its parameters become known to every member, and with them the bytes of coll.agath and coll.bcast
(R268, R271, R386); coll.ared keeps its elements for the trees. -/
def contribute (s : State) (crew : Nat) (o : AsyncOp) : State :=
  match winEntry s o.window with
  | none => s
  | some w =>
    let bs := if o.opc = 0x11 then [] else o.entry
    ((stageChunks o 0 bs).foldl (fun s c => chunkToAll crew none w c s) s).setOp crew { o with
      phase := 1
      next := 0
      entry := if o.opc = 0x11 then o.entry else [] }

/-- Send sums to members, as a stage of the operation, and mark that it has been done. -/
def sendSums (s : State) (crew : Nat) (o : AsyncOp) (st mark : Nat) (dsts : List Nat) (vs : List Nat) : State :=
  match winEntry s o.window with
  | none => s
  | some w =>
    let cs := stageChunks o st (vs.flatMap (leBytes 4))
    (dsts.foldl (fun s x => cs.foldl (fun s c => chunkTo crew none w 2 c s x) s) s).setOp crew
      { o with seen := mark :: o.seen }

/-- What this member does next in tree t (26 R391): its sums go up to its parent once its children's are here, and the
result goes down to its children. -/
def treeStep (s : State) (crew : Nat) (o : AsyncOp) (t : Nat) : Option State :=
  match (if o.self = treeRoot o.members t ∨ o.seen.contains (10 + t) = true then none else treeSums s o t) with
  | some vs => some (sendSums s crew o (1 + t) (10 + t) (treeParent o.members t o.self).toList vs)
  | none =>
    if o.seen.contains (20 + t) then none
    else (treeResult s o t).map (sendSums s crew o (3 + t) (20 + t) (treeChildren o.members t o.self))

/-- The trees of a coll.ared have done their part here. -/
def treesDone (s : State) (o : AsyncOp) : Bool := o.opc ≠ 0x11 || (treesOf s o).all fun t => o.seen.contains (20 + t)

/-- The bytes of a lost operation's destination on this device are free (R266; assumption log 7), as far as its pages
can be written. -/
def looseBytes (s : State) (crew : Nat) (o : AsyncOp) (base : Word) (total : Nat) : State :=
  let one (p : State × AsyncOp) (u : Nat) : State × AsyncOp :=
    match unitPlaces p.1 crew { p.2 with next := u } base total 2#3 1 with
    | .error _ => p
    | .ok (s1, o1, ps) =>
      (ps.foldl
        (fun s q =>
          if isWindowKey q.1 then s
          else { s with mem := memWrite s.mem q.1 ((List.range q.2).map fun i => Config.freeByte s.fresh (q.1 + i)) }) s1, o1)
  let t := ((List.range (unitsOf total)).foldl one (s, o)).1
  { t with fresh := t.fresh + 1 }

/-- Send a chunk to the other members of a window that can be reached. -/
def tellReached (w : Win) (kind : Nat) (c : State → Chunk) (s : State) : State :=
  (List.range w.members).foldl
    (fun s x => if x = w.self || memberLost s w x then s else chunkTo 0x1FF none w kind (c s) s x) s

/-- An operation ends with status 2, a lost member: nothing is counted as written (R266, 26 R387). -/
def lostEnd (s : State) (crew : Nat) (o : AsyncOp) (base : Word) (total : Nat) : State :=
  fabEnd (looseBytes s crew o base total) crew o (fabWord 2 0) 0#64 0

/-- A handle has lost a member (26 R387): its later operations end with status 2 until coll.close, and the members that
can be reached learn of it. -/
def loseHandle (s : State) (o : AsyncOp) : State :=
  let h := (dReg o.regs 0).toNat % 64
  match sget? s.redCtxs h with
  | none => s
  | some x =>
    if x.lost then s
    else
      let s := { s with redCtxs := sput s.redCtxs h { x with lost := true } }
      match winEntry s x.window with
      | none => s
      | some w =>
        if anyLost s w then
          tellReached w 2
            (fun _ => { group := x.group, src := w.self, oper := 0, number := 0, params := [x.inst, 5], data := [] }) s
        else s

/-- One step of a collective: first its contribution, unit by unit, then the trees and the result. -/
def collStep (s : State) (crew : Nat) (o : AsyncOp) : Except Miss State :=
  match collOpened s o with
  | .ends 2 => .ok (lostEnd (loseHandle s o) crew o (dReg o.regs 2) (dstBytes o))
  | .ends st => .ok (fabEnd s crew o (fabWord st 0) 0#64 0)
  | .waits => .error .idle
  | .ready =>
    if o.phase = 0 then
      (if o.next < unitsOf (srcBytes o) then readUnit s crew o (dReg o.regs 1) (srcBytes o)
       else .ok (contribute s crew o))
    else
      match collGathered s o with
      | .ends st => .ok (fabEnd s crew o (fabWord st 0) 0#64 0)
      | .waits => .error .idle
      | .ready =>
        let n := dstBytes o
        if !treesDone s o then
          (match (treesOf s o).findSome? (treeStep s crew o) with
           | some s1 => .ok s1
           | none => .error .idle)
        else if o.next < unitsOf n then
          writeUnit s crew o (dReg o.regs 2) n (collResult s o (4096 * o.next) (min 4096 (n - 4096 * o.next)))
        else if opSending s crew o.id then .error .idle
        else .ok (fabEnd s crew o (fabWord 0 n) (dReg o.regs 5) n)

/-! ## Point-to-point (R273) -/

/-- The start of send or recv: their registers have the same shape. -/
def sendCheck (i : Instr) (opc : Nat) (c : CpFields) (s : State) : Res (State × AsyncOp) :=
  let r := s.me.regsFrom c.sn 6
  if (dReg r 1).bits 63 24 ≠ 0 ∨ (dReg r 2).bits 63 32 ≠ 0 ∨ dReg r 4 = 0#64 ∨ (dReg r 4).bits 63 32 ≠ 0 then illegalWords i
  else
    match groupWindow s (dReg r 0) with
    | .error e => .error e
    | .ok (s1, w) =>
      if w.members ≤ (dReg r 1).toNat then illegalWords i
      else
        match fabPointers s1 [dReg r 3] (dReg r 5) with
        | .error e => .error e
        | .ok _ =>
          .ok (s1, {
            id := 0
            opc
            fields := c
            regs := r
            window := w.index
            group := w.group
            members := w.members
            self := w.self
            ranks := winRanks s1 w
            pos := s1.remoteSeq })

/-- A posted operation takes a number of the device's order. -/
def nextSeq (_ : Nat) (s : State) : State := { s with remoteSeq := s.remoteSeq + 1 }

/-- A send or recv. -/
def sendBody (i : Instr) (opc : Nat) (e : Eng) (c : CpFields) : Body := fun s =>
  fabBody e (s.me.regN (c.sn.toNat + 5)) (sendCheck i opc c) nextSeq s

/-- SEND (R273). -/
def execSend (e : Eng) (c : CpFields) (s : State) : Outcome :=
  issue (.send e c) [.c] e.p false (sendBody (.send e c) 0x18 e c) s

/-- RECV (R273). -/
def execRecv (e : Eng) (c : CpFields) (s : State) : Outcome :=
  issue (.recv e c) [.c] e.p false (sendBody (.recv e c) 0x19 e c) s

/-- Send a chunk of a send to its destination; to this device itself it goes into the inbox. wait says that the
answer is kept. -/
def sendChunk (s : State) (crew : Nat) (o : AsyncOp) (w : Win) (number kind : Nat) (data : List Byte) : State :=
  let tag := s.remoteSeq
  let dst := (dReg o.regs 1).toNat
  let params := [o.pos, kind, (dReg o.regs 4).toNat, tag]
  let c : Chunk := { group := o.group, src := o.self, oper := (dReg o.regs 2).toNat, number, params, data }
  let rw : RemoteWait := {
    tag
    crew
    op := some o.id
    load := kind == 8
    msg := {
      kind := 3
      group := o.group
      dst := memberRank s w dst
      tag
      nums := [c.src, c.oper, c.number] ++ params
      data } }
  if dst = w.self then
    addChunk { s with
      remoteSeq := tag + 1
      remote := s.remote ++ [rw] } c
  else sendMsg (countFor s w.tenant 9 data.length) rw

/-- The window of a send or recv, none when it includes a lost member or another member has said so (26 R387), or when
its entry or its members are no longer those of the start (R390). -/
def sendLost (s : State) (o : AsyncOp) : Option Win :=
  match winEntry s o.window with
  | none => none
  | some w => if o.status = 2 || w.group ≠ o.group || winRanks s w ≠ o.ranks || anyLost s w then none else some w

/-- A send or recv ends with status 2; the members that can be reached learn of a lost one from the device that found it
(26 R387). -/
def tellLost (s : State) (o : AsyncOp) : State :=
  match winEntry s o.window with
  | none => s
  | some w =>
    if o.status ≠ 2 && anyLost s w then
      tellReached w 3
        (fun s => {
          group := o.group
          src := w.self
          oper := (dReg o.regs 2).toNat
          number := 0
          params := [o.pos, 10, 0, s.remoteSeq]
          data := [] }) s
    else s

/-- Another member has found a lost one: the sends and recvs on windows of the group end with status 2 (26 R387). -/
def loseGroup (s : State) (group : Nat) : State :=
  let hit (o : AsyncOp) : Bool := (o.opc == 0x18 || o.opc == 0x19) && o.group == group
  { s with crews := s.crews.map fun p =>
      (p.1, { p.2 with ops := p.2.ops.map fun o => if hit o then { o with status := 2 } else o }) }

/-- An earlier send of this device to the same member with the same tag has not been matched: sends match in issue
order, so the later one is not announced yet (R273). -/
def sendBefore (s : State) (o : AsyncOp) : Bool :=
  s.crews.any fun p => p.2.ops.any fun x =>
    x.opc == 0x18 && decide (x.phase ≤ 1) && x.group == o.group && dReg x.regs 1 == dReg o.regs 1 &&
      dReg x.regs 2 == dReg o.regs 2 && decide (x.pos < o.pos)

/-- One step of a send: the announcement, the match, the source units, the data, its acknowledgements. -/
def sendStep (s : State) (crew : Nat) (o : AsyncOp) : Except Miss State :=
  let n := (dReg o.regs 4).toNat
  match sendLost s o with
  | none => .ok (fabEnd (tellLost s o) crew o (fabWord 2 0) 0#64 0)
  | some w =>
    if o.phase = 0 then
      (if sendBefore s o then .error .idle else .ok ((sendChunk s crew o w 0 8 []).setOp crew { o with phase := 1 }))
    else if o.phase = 1 then
      (if (opReads s crew o.id).any fun r => r.msg.kind = 3 && r.answer.isNone then .error .idle
       else .ok ((dropReads s crew o.id).setOp crew { o with phase := 2 }))
    else if o.phase = 2 then
      (if o.next < unitsOf n then readUnit s crew o (dReg o.regs 3) n
       else
        let s := ((chunksOf (n / 4096 + 1) o.entry).zipIdx).foldl
          (fun s p => if p.1.isEmpty then s else sendChunk s crew o w p.2 9 p.1) s
        .ok (s.setOp crew { o with
          phase := 3
          finished := true
          entry := [] }))
    else if opSending s crew o.id then .error .idle
    else .ok (fabEnd s crew o (fabWord 0 0) (dReg o.regs 5) n)

/-- The announcements that a recv may match, the earliest sent first. -/
def announced (s : State) (o : AsyncOp) : Option Chunk :=
  (s.inbox.filter fun c =>
    c.group == o.group && c.src == (dReg o.regs 1).toNat && c.oper == (dReg o.regs 2).toNat &&
      c.params.getD 1 0 == 8).foldl
    (fun a c =>
      match a with
      | none => some c
      | some b => if c.params.headD 0 < b.params.headD 0 then some c else some b) none

/-- An earlier recv for the same window, member and tag is unmatched (R273). -/
def recvBefore (s : State) (o : AsyncOp) : Bool :=
  s.crews.any fun p => p.2.ops.any fun x =>
    x.opc == 0x19 && x.phase == 0 && x.group == o.group && dReg x.regs 1 == dReg o.regs 1 &&
      dReg x.regs 2 == dReg o.regs 2 && decide (x.pos < o.pos)

/-- JOURNAL_CONFLICT with P is pending for a crew's copy strand (R274). -/
def Crew.addConflict (c : Crew) (p : Nat) : Crew :=
  { c with sc := { c.sc with pend := { c.sc.pend with conflict := c.sc.pend.conflict ++ [BitVec.ofNat 64 p] } } }

/-- A member of the group of a japp has reported a conflict: JOURNAL_CONFLICT at the copy strand's next boundary, once
(R274). -/
def opConflict (s : State) (crew id : Nat) : State :=
  match (s.crew crew).ops.find? fun o => o.id = id && !o.conflict with
  | none => s
  | some o => s.setCrew crew (((s.crew crew).setOp { o with conflict := true }).addConflict o.pos)

/-- An answer to a load or atomic of a strand that has gone on (10 R162): its bytes, or that it has been discarded. The
register is written when every answer is here. -/
def answerLate (s : State) (w : RemoteWait) (bs : Option (List Byte)) : State :=
  let s := dropTag (mapLate s w fun x => bs.elim (x.lose w.tag) fun b => x.fill w.tag b) w.tag
  let k := kindOf (w.by_.getD 0)
  s.setStrand w.crew k (s.strand w.crew k).settle

/-- An answer reaches a wait of this device (R386): data begins with a status, 0 for performed, 1 for discarded, 2 for
a journal conflict. A remote access that has been discarded makes an error record (R389). An entry on whose position a
member has reported a conflict is waited for no longer, so that its japp completes (R274 and 06 R101 do not say
whether it does: DESIGN CHOICE, assumption log 90). -/
def acknowledge (s : State) (tag : Nat) (data : List Byte) : State :=
  match s.remote.find? fun r => r.tag = tag with
  | none => s
  | some w =>
    let st := (data.headD 0#8).toNat
    let s := if w.msg.kind = 1 ∧ st ≠ 0 then pushErr s 3 4 (s.crew w.crew).tenant w.crew 0 else s
    let without := dropTag s tag
    if w.load && w.by_.isSome then answerLate s w (if st = 0 then some (data.drop 1) else none)
    else if w.load then
      let upd (r : RemoteWait) : RemoteWait :=
        if r.tag ≠ tag then r
        else if w.msg.kind = 4 then { r with answer := some data }
        else if st = 0 then { r with answer := some (data.drop 1) }
        else { r with lost := true }
      { s with remote := s.remote.map upd }
    else if w.msg.kind = 4 then
      (if st = 0 ∨ w.op = none then without
       else if st = 2 then w.op.elim without fun id => opConflict without w.crew id
       else s)
    else without

/-- Acknowledge a chunk of a send to its sender (R386). -/
def ackChunk (s : State) (w : Win) (c : Chunk) : State :=
  let tag := c.params.getD 3 0
  if c.src = w.self then acknowledge s tag [0#8] else ackTo s 3 (memberRank s w c.src) c.group [tag] [0#8]

/-- The data chunks of the matched send. -/
def recvChunks (s : State) (o : AsyncOp) : List Chunk :=
  s.inbox.filter fun c =>
    c.group == o.group && c.src == (dReg o.regs 1).toNat && c.oper == (dReg o.regs 2).toNat &&
      c.params.take 2 == [o.inst, 9]

/-- A member of a group, in the list of applied tags. -/
def memberKey (group src : Nat) : Nat := 2 ^ 32 + group * 2 ^ 17 + src

/-- One step of a recv: the match, then the units of its destination, then its end (R273). -/
def recvStep (s : State) (crew : Nat) (o : AsyncOp) : Except Miss State :=
  match sendLost s o with
  | none => .ok (lostEnd (tellLost s o) crew o (dReg o.regs 3) (dReg o.regs 4).toNat)
  | some w =>
    let n := min o.count (dReg o.regs 4).toNat
    if o.phase = 0 then
      match announced s o with
      | none => .error .idle
      | some c =>
        if recvBefore s o then .error .idle
        else
          let s := { s with
            inbox := s.inbox.filter fun x => x ≠ c
            applied := s.applied ++ [(memberKey c.group c.src, c.params.getD 3 0, [])] }
          .ok ((ackChunk s w c).setOp crew { o with
            phase := 1
            inst := c.params.headD 0
            count := c.params.getD 2 0 })
    else
      let cs := recvChunks s o
      let bs := bytesFrom cs
      if bs.length < o.count then .error .idle
      else if o.next < unitsOf n then
        writeUnit s crew o (dReg o.regs 3) n ((bs.drop (4096 * o.next)).take (min 4096 (n - 4096 * o.next)))
      else if opSending s crew o.id then .error .idle
      else
        let done := cs.map fun c => (memberKey c.group c.src, c.params.getD 3 0, ([] : List Byte))
        let s := { s with
          inbox := s.inbox.filter fun x => !(cs.contains x)
          applied := s.applied ++ done }
        let s := cs.foldl (fun s c => ackChunk s w c) s
        .ok (fabEnd s crew o (fabWord (if (dReg o.regs 4).toNat < o.count then 4 else 0) n) (dReg o.regs 5) n)

/-! ## Arrivals from other devices (26 R386, R389)

They come over a port that is up (R383), and wait while the window table is being formatted (22 R355). -/

/-- COLLECTIVE_CHUNK (R386): staged once and acknowledged; a chunk of a context that has been closed here is
discarded and acknowledged again. -/
def execCollectiveChunk (chunk : Chunk) (s : State) : Outcome :=
  if !linkUp s || tableBusy s then notEnabled "COLLECTIVE_CHUNK"
  else
    let s := payload 10 s chunk.group chunk.data.length
    match groupEntry s chunk.group with
    | none => .next (pushErr s 3 4 0 0x1FF 0)
    | some w =>
      let inst := chunk.params.headD 0
      let open' := s.redCtxs.any fun p => p.2.group = chunk.group && p.2.inst = inst
      let old := inst < sget 0 s.opens chunk.group && !open'
      let s := if old then s else addChunk s chunk
      .next (ackTo s 2 (memberRank s w chunk.src) chunk.group [chunk.oper, chunk.number, inst] [0#8])

/-- SEND_DATA (R273): an announcement or data of a send is staged for its recv; what has been matched or written already
is acknowledged again. A notice of a lost member is acted on once (R386, R387). -/
def execSendData (chunk : Chunk) (s : State) : Outcome :=
  if !linkUp s || tableBusy s then notEnabled "SEND_DATA"
  else
    let s := payload 10 s chunk.group chunk.data.length
    match groupEntry s chunk.group with
    | none => .next (pushErr s 3 4 0 0x1FF 0)
    | some w =>
      let key := memberKey chunk.group chunk.src
      if s.applied.any fun a => a.1 = key && a.2.1 = chunk.params.getD 3 0 then .next (ackChunk s w chunk)
      else if chunk.params.getD 1 0 = 10 then
        let s1 := loseGroup s chunk.group
        .next (ackChunk { s1 with applied := s1.applied ++ [(key, chunk.params.getD 3 0, [])] } w chunk)
      else .next (addChunk s chunk)

/-- Discard a remote access, with error records to both drivers (R389). -/
def discardAccess (s : State) (a : RemoteReq) : State :=
  ackTo (pushErr s 3 4 0 0x1FF 0) 1 a.srcRank a.group [a.tag] [1#8]

/-- The bytes that a remote access touches: physical addresses with lengths (R250, R389). -/
def accessSpans (a : RemoteReq) : List (Nat × Nat) := if a.kind = 3 then a.pieces else [(a.off, a.size)]

/-- What a remote access is known by, so that it is performed once: its message's tag, or a cred's copy, unit number and
the part of the unit that it carries (R250). -/
def accessKey (a : RemoteReq) : Nat :=
  if a.kind = 3 then 2 ^ 128 * (1 + a.copy) + 2 ^ 64 * a.unit + a.part else a.tag

/-- A whole cred unit is applied, piece by piece (R249, R250). -/
def applyPieces (ty : Nat) : List (Nat × Nat) → List Byte → List Host.Cell → List Host.Cell
  | [], _, m => m
  | (o, n) :: r, bs, m => applyPieces ty r (bs.drop n) (redAt m (ty / 16) (ty % 16) o (bs.take n))

/-- Perform a remote access: the answer and the state (R389). -/
def performAccess (s : State) (a : RemoteReq) : State × List Byte :=
  let k := a.off
  match a.kind with
  | 0 => (s, memBytes s.mem k a.size)
  | 1 => ({ s with mem := memWrite s.mem k (a.data.take a.size) }, [])
  | 2 =>
    let r := amoAt s.mem a.fn a.size k (leNat (a.data.take 8) % 2 ^ (8 * a.size)) (leNat ((a.data.drop 8).take 8) % 2 ^ (8 * a.size))
    ({ s with mem := r.2 }, leBytes a.size r.1)
  | _ => ({ s with mem := applyPieces a.fn a.pieces a.data s.mem }, [])

/-- A frame of the places is being formatted (22 R355). -/
def spansBusy (s : State) (l : List (Nat × Nat)) : Bool :=
  l.any fun p => formatting s p.1 || formatting s (p.1 + (p.2 - 1))

/-- An entry accepts an access (R389): accept inbound, the sender among its members, the address in its region. -/
def accepts (s : State) (a : RemoteReq) (w : Win) : Bool :=
  w.accept && decide (a.kind ≤ 3) && (winRanks s w).contains a.srcRank && (accessSpans a).all fun p => w.covers p.1 p.2

/-- The receiver performs an access only when it holds a valid entry of the group that accepts it (R389). -/
def accessEntry (s : State) (a : RemoteReq) : Option Win := findWin s a.group (accepts s a) 65536 0

/-- What a performed access counts to the tenant of its entry (27 R400): the bytes it reads and writes, and those of its
answer. -/
def countAccess (s : State) (a : RemoteReq) (w : Win) (answer : Nat) : State :=
  let s := if a.kind = 1 then s else countPlaces s w.tenant false (accessSpans a)
  let s := if a.kind = 0 then s else countPlaces s w.tenant true (accessSpans a)
  payload 9 s a.group answer

/-- An access that its entry accepts is performed, counted and answered, and known from then on (R386, R389). -/
def finishAccess (s : State) (a : RemoteReq) (w : Win) : State :=
  let r := performAccess s a
  let s1 := { r.1 with applied := r.1.applied ++ [(a.srcRank, accessKey a, r.2)] }
  ackTo (countAccess s1 a w r.2.length) 1 a.srcRank a.group [a.tag] (0#8 :: r.2)

/-- A cred unit enters staging, which holds 4,096 bytes for it (R393). -/
def stageAccess (s : State) (a : RemoteReq) : State :=
  { s with
    staged := s.staged ++ [a]
    stagingUsed := s.stagingUsed + 4096 }

/-- A cred unit that is whole in staging is applied and leaves it (13 R250, R389, R393). -/
def applyStaged (s : State) (a : RemoteReq) : State :=
  if tableBusy s || spansBusy s (accessSpans a) then s
  else
    let s1 := { s with
      staged := s.staged.filter fun x => x ≠ a
      stagingUsed := s.stagingUsed - 4096 }
    match accessEntry s1 a with
    | none => discardAccess s1 a
    | some w => finishAccess s1 a w

/-- Every unit in staging is applied. -/
def applyAllStaged (s : State) : State := s.staged.foldl applyStaged s

/-- A cred unit is in staging already. -/
def inStaging (s : State) (a : RemoteReq) : Bool := s.staged.any fun x => x.srcRank == a.srcRank && accessKey x == accessKey a

/-- REMOTE_ACCESS (R386, R389): performed once, or discarded; a cred unit goes through staging. A unit that finds no
room in staging has not been sent yet (R393; assumption log 97), and a frame that is being formatted holds an access
(22 R355). -/
def execRemoteAccess (acc : RemoteReq) (s : State) : Outcome :=
  if !linkUp s || tableBusy s then notEnabled "REMOTE_ACCESS"
  else
    let s := payload 10 s acc.group acc.data.length
    match s.applied.find? fun a => a.1 = acc.srcRank && a.2.1 = accessKey acc with
    | some a => .next (ackTo s 1 acc.srcRank acc.group [acc.tag] (0#8 :: a.2.2))
    | none =>
      match accessEntry s acc with
      | none => .next (discardAccess s acc)
      | some w =>
        if acc.kind = 3 then
          (if inStaging s acc then .next s
           else if poolBytes s < s.stagingUsed + 4096 then notEnabled "REMOTE_ACCESS"
           else .next (stageAccess s acc))
        else if spansBusy s (accessSpans acc) then notEnabled "REMOTE_ACCESS"
        else .next (finishAccess s acc w)

/-- The bytes of an answer to a load or atomic count as received (27 R400). -/
def countAnswer (s : State) (tag n : Nat) : State :=
  match s.remote.find? fun r => r.tag = tag with
  | some w => if w.load ∧ w.msg.kind = 1 then payload 10 s w.msg.group (n - 1) else s
  | none => s

/-- ACKNOWLEDGEMENT (R386); it comes over a port that is up (R383). -/
def execAcknowledgement (tag : Nat) (data : List Byte) (s : State) : Outcome :=
  if linkUp s then .next (acknowledge (countAnswer s tag data.length) tag data) else notEnabled "ACKNOWLEDGEMENT"

end Sys2Proof.Machine
end

