-- ==== Sys2Proof/Machine/Journal.lean ====
section
/-! DEFINITION. The score journal: spec 06 R97 to R102, R405, R406; 14 R274 to R276; 26 R387, R394, R395; and the
events JWAIT_DEADLINE (in Fetch.lean), JOURNAL_ARRIVAL, JFETCH_REQUEST and JAPP_RESEND. An entry travels as bytes
27:0, with its chain value after them where a jfetch is answered and the peer has chained it (assumption log 34). -/
namespace Sys2Proof.Machine

/-! ## Headers, entries, slots -/

/-- A journal header (R98). -/
structure Hdr where
  base : Nat
  bitmap : Nat
  capacity : Nat
  step0 : Nat
  origins : Nat
  chain0 : Nat
  retire : Nat
  chained : Nat
  deriving DecidableEq, Repr

/-- Bytes hi down to lo of a record. -/
def recField (bs : List Byte) (lo n : Nat) : Nat := leNat ((bs.drop lo).take n)

/-- A well-formed header (R405). -/
def hdrOf (bs : List Byte) : Option Hdr :=
  let f := recField bs
  let h : Hdr := {
    base := f 0 8
    bitmap := f 8 8
    capacity := f 16 4
    step0 := f 20 4
    origins := f 24 4
    chain0 := f 28 4
    retire := f 32 8
    chained := f 40 8 }
  if f 48 16 ≠ 0 ∨ h.origins = 0 ∨ 2 ^ 24 < h.origins ∨ h.capacity = 0 ∨ 2 ^ 57 ≤ h.base ∨ 2 ^ 57 ≤ h.bitmap ∨
    h.base % 32 ≠ 0 then none
  else some h

/-- The position that a step and an origin give (R99). -/
def Hdr.pos (h : Hdr) (step origin : Nat) : Int := ((step : Int) - h.step0) * h.origins + origin

/-- The position of an entry's fields. -/
def Hdr.posOf (h : Hdr) (e : List Byte) : Int := h.pos (recField e 16 4) (recField e 20 3)

/-- The step and origin fields of an entry equal those of position p (R99). -/
def Hdr.isAt (h : Hdr) (p : Nat) (e : List Byte) : Bool :=
  recField e 16 4 == h.step0 + p / h.origins && recField e 20 3 == p % h.origins

/-- The step or origin of an entry falls outside the header (R97). -/
def Hdr.outside (h : Hdr) (e : List Byte) : Bool := recField e 16 4 < h.step0 || h.origins ≤ recField e 20 3

/-- An entry is malformed by R97, its step and origin apart. -/
def entryBad (e : List Byte) : Bool :=
  let m := recField e 24 1
  m / 32 ≠ 0 || 2 ≤ m % 16 || recField e 23 1 == 0xFF || recField e 25 3 ≠ 0

/-- The void flag (R97). -/
def entryVoid (e : List Byte) : Bool := (recField e 24 1).testBit 4

/-- An agent that reads and writes a journal: the header and who makes the accesses, for a japp or jfetch as the
operation of a crew, which keeps the translations that it has used (22 R349). -/
structure JAgent where
  header : Nat
  agent : Agent
  op : Option (Nat × Nat) := none

/-! ## Accesses to a journal -/

/-- The bound of a journal access: an address beyond the field of GLOBAL raises SPACE_INVALID (03 R42). -/
def jBound (va n : Nat) (s : State) : Res Unit :=
  if 2 ^ 57 < va + n then .error (.xtrap cSpace (BitVec.ofNat 64 va) s) else .ok ()

/-- A trap keeps the state that the access has reached. -/
def keepState (s : State) {α : Type} : Res α → Res α
  | .error e => .error (e.keep s)
  | r => r

/-- An access of an operation, with what it has used kept in the state (R265); none while the clock of its CU is off (22
R348). -/
def opAccess (s : State) (crew id : Nat) {α : Type} (f : AsyncOp → Chk α) : Res (State × α) :=
  match (s.crew crew).ops.find? fun o => o.id = id with
  | none => .error (.wait qMem s)
  | some o =>
    if o.held.isSome || faultOpen s crew id || !clockOk s (cuOf crew) then .error (.wait qMem s)
    else
      match f o.anew with
      | .ok (s1, o1, x) => .ok (s1.setOp crew o1, x)
      | .error (.hold s1 c _ va) => .error (.xtrap c va s1)
      | .error (.stall s1) => .error (.wait qMem s1)
      | .error .idle => .error (.wait qMem s)
      | .error (.fault x) => .error (.fault x)

/-- Read n bytes. -/
def jRead (g : JAgent) (va n : Nat) (s : State) : Res (State × List Byte) :=
  match jBound va n s, g.op with
  | .error e, _ => .error e
  | .ok _, none => keepState s (agentRead g.agent va n s)
  | .ok _, some (crew, id) =>
    opAccess s crew id fun o =>
      match opPlaces s crew o (BitVec.ofNat 64 va) n 0 1#3 1 with
      | .error e => .error e
      | .ok (s1, o1, ps) =>
        match opLoad s1 crew o1 ps with
        | .error e => .error e
        | .ok (s2, none) => .error (.hold s2 cPerm 1)
        | .ok (s2, some bs) => .ok (countPlaces s2 (s2.crew crew).tenant false ps, o1, bs)

/-- The places of n bytes that the agent may write now. -/
def jProbe (g : JAgent) (va n : Nat) (s : State) : Res (State × List Place) :=
  match jBound va n s, g.op with
  | .error e, _ => .error e
  | .ok _, none => keepState s (agentProbe g.agent va n s)
  | .ok _, some (crew, id) =>
    opAccess s crew id fun o =>
      match opPlaces s crew o (BitVec.ofNat 64 va) n 0 2#3 1 with
      | .error e => .error e
      | .ok (s1, o1, ps) => if ps.all (storeReady s1) then .ok (s1, o1, ps) else .error .idle

/-- The agent as the sender of its stores. -/
def JAgent.sender (g : JAgent) : Sender :=
  match g.op with
  | none => { crew := g.agent.crew, agent := some g.agent.who }
  | some (crew, id) => { crew, op := some id }

/-- Two writes in their order, after the checks of both: both or, after a fault, none. -/
def jWrite2 (g : JAgent) (a b : Nat × List Byte) (s : State) : Res State :=
  match jProbe g a.1 a.2.length s with
  | .error e => .error e
  | .ok (s1, ps) =>
    match jProbe g b.1 b.2.length s1 with
    | .error e => .error e
    | .ok (s2, qs) =>
      let s3 := countPlaces s2 g.agent.fn true (ps ++ qs)
      .ok (storePlaces g.sender qs b.2 (storePlaces g.sender ps a.2 s3))

/-- The header as it stands; none where it is not well formed. -/
def jHeader (g : JAgent) (s : State) : Res (State × Option Hdr) :=
  match jRead g g.header 64 s with
  | .error e => .error e
  | .ok (s1, bs) => .ok (s1, hdrOf bs)

/-- The address of the slot of a position. -/
def Hdr.slotVa (h : Hdr) (p : Nat) : Nat := h.base + p % h.capacity * 32

/-- The address of the byte that holds a position's bitmap bit. -/
def Hdr.bitVa (h : Hdr) (p : Nat) : Nat := h.bitmap + p % h.capacity / 8

/-- The slot of a position: its 32 bytes, and its bitmap bit with the byte that holds it. -/
def slotOf (g : JAgent) (h : Hdr) (p : Nat) (s : State) : Res (State × (List Byte × Bool × Nat)) :=
  match jRead g (h.slotVa p) 32 s with
  | .error e => .error e
  | .ok (s1, bs) =>
    match jRead g (h.bitVa p) 1 s1 with
    | .error e => .error e
    | .ok (s2, b) => .ok (s2, (bs, (leNat b).testBit (p % h.capacity % 8), leNat b))

/-- Position p is present in its slot (R99). -/
def Hdr.present (h : Hdr) (p : Nat) (slot : List Byte × Bool × Nat) : Bool := slot.2.1 && h.isAt p slot.1

/-! ## The chain (R100) -/

/-- The chain value after an entry (R100). -/
def chainAfter (prev : Nat) (e : List Byte) : Nat := crc32c (leBytes 4 prev ++ e.take 28)

/-- The note is of the journal of an agent. -/
def isNote (g : JAgent) (n : JournalNote) : Bool := n.header == g.header && n.fn == g.agent.fn

/-- What the device keeps of an agent's journal. -/
def noteOf (s : State) (g : JAgent) : JournalNote :=
  (s.journals.find? (isNote g)).getD { header := g.header, fn := g.agent.fn }

/-- The state with the note of an agent's journal. -/
def setNote (s : State) (g : JAgent) (n : JournalNote) : State :=
  { s with journals := n :: s.journals.filter fun x => !isNote g x }

/-- The chain value of position p as its slot holds it. -/
def Hdr.chainIn (h : Hdr) (n : JournalNote) (p : Nat) (slot : List Byte × Bool × Nat) : Option Nat :=
  if h.present p slot && !n.loose.contains p then some (recField slot.1 28 4) else none

/-- The chain value of position p that the device has computed last. -/
def JournalNote.lastAt (n : JournalNote) (p : Nat) : Option Nat :=
  n.last.bind fun x => if x.1 = p then some x.2 else none

/-- The chain value before position p: chain0, that of the slot while it holds p - 1, or else the last one computed:
an entry that has retired may have been overwritten (R100, R101, 26 R395). -/
def chainBefore (g : JAgent) (h : Hdr) (p : Nat) (s : State) : Res (State × Nat) :=
  if p = 0 then .ok (s, h.chain0)
  else
    match slotOf g h (p - 1) s with
    | .error e => .error e
    | .ok (s1, slot) =>
      let n := noteOf s1 g
      .ok (s1, ((h.chainIn n (p - 1) slot).or (n.lastAt (p - 1))).getD (recField slot.1 28 4))

/-- JOURNAL_CONFLICT with P for the copy strand of a context (R274, R276). -/
def raiseConflict (s : State) (c : ChainCheck) : State := mapContext s c.crew c.launch c.task fun x => x.addConflict c.pos

/-- Position p has been chained with value v: it is the last one, and the values that came for it are compared (R101,
R276). -/
def noteChain (s : State) (g : JAgent) (p v : Nat) : State :=
  let n := noteOf s g
  let s := setNote s g { n with
    last := some (p, v)
    loose := n.loose.filter fun q => q != p
    checks := n.checks.filter fun c => c.pos != p }
  (n.checks.filter fun c => c.pos == p).foldl (fun s c => if c.value = v then s else raiseConflict s c) s

/-- While the position chained is present, write its chain value and advance (R100). A trap or a wait keeps what has
been chained. -/
def chainOn (g : JAgent) : Nat → Hdr → State → Res (State × Hdr)
  | 0, h, s => .ok (s, h)
  | n + 1, h, s =>
    match slotOf g h h.chained s with
    | .error e => .error e
    | .ok (s1, slot) =>
      if !h.present h.chained slot then .ok (s1, h)
      else
        match chainBefore g h h.chained s1 with
        | .error e => .error e
        | .ok (s2, prev) =>
          let v := chainAfter prev slot.1
          match jWrite2 g (h.slotVa h.chained + 28, leBytes 4 v) (g.header + 40, leBytes 8 (h.chained + 1)) s2 with
          | .error e => .error e
          | .ok s3 => chainOn g n { h with chained := h.chained + 1 } (noteChain s3 g h.chained v)

/-- Chain what is present, for an agent: the header after it, none where it is not well formed (R405). -/
def chainAll (g : JAgent) (s : State) : Res (State × Option Hdr) :=
  match jHeader g s with
  | .error e => .error e
  | .ok (s1, none) => .ok (s1, none)
  | .ok (s1, some h) =>
    match chainOn g (h.capacity + 1) h s1 with
    | .error e => .error e
    | .ok (s2, h2) => .ok (s2, some h2)

/-- The state that a stop leaves. -/
def Stop.reached (s0 : State) : Stop → State
  | .xtrap _ _ s => s
  | .wait _ s => s
  | _ => s0

/-- The agent has finished with what it asked of other devices and with its fault records. -/
def JAgent.rest (g : JAgent) (s : State) : State := dropAsked (dropWaiter s g.agent.who) g.agent.who

/-- Chain what is present as far as it goes, for an arrival that has been stored (R100): the state, and whether it waits
for a translation and is to be tried again. A fault is found by the agent that needs the chain (R405). -/
def chainArrival (g : JAgent) (s : State) : State × Bool :=
  match chainAll g s with
  | .ok (s1, _) => (g.rest s1, false)
  | .error (.wait _ s1) => (s1, true)
  | .error e => (g.rest (e.reached s), false)

/-! ## Applying an entry (R101) -/

/-- What applying an entry comes to (R101). -/
inductive Applied where
  | stored
  | matched
  | conflict
  | held
  | discarded
  deriving DecidableEq, Repr

/-- Position p has been stored; when it was chained before, its slot holds no chain value of its own. -/
def noteStore (s : State) (g : JAgent) (h : Hdr) (p : Nat) : State :=
  let n := noteOf s g
  if p < h.chained ∧ n.loose.contains p = false then setNote s g { n with loose := p :: n.loose } else s

/-- Apply an entry to an agent's journal whose header is h (R101). The slot's bytes are written before its bitmap bit.
Where the slot holds P itself, its bytes decide, whether or not P could be overwritten (DESIGN CHOICE, assumption log
67). -/
def applyAt (g : JAgent) (h : Hdr) (e : List Byte) (s : State) : Res (State × Applied) :=
  let p := h.posOf e
  if p < 0 ∨ h.origins ≤ recField e 20 3 then .ok (s, .discarded)
  else
    let n := p.toNat
    match slotOf g h n s with
    | .error x => .error x
    | .ok (s1, slot) =>
      if h.present n slot then .ok (s1, if slot.1.take 28 = e.take 28 then .matched else .conflict)
      else if slot.2.1 && decide (((min h.retire h.chained : Nat) : Int) ≤ h.posOf slot.1) then .ok (s1, .held)
      else
        match jWrite2 g (h.slotVa n, e.take 28) (h.bitVa n, leBytes 1 (slot.2.2 ||| 2 ^ (n % h.capacity % 8))) s1 with
        | .error x => .error x
        | .ok s2 => .ok (noteStore s2 g h n, .stored)

/-! ## Bindings (R406) -/

/-- The bytes of window entry w as they stand. -/
def winBytes (s : State) (w : Nat) : List Byte := memBytes s.mem (s.regs.gwtBase + 64 * w) 64

/-- Bind a header to a group. -/
def bindHeader (s : State) (group window : Nat) (header : Word) (fn cu : Nat) : State :=
  let b : Binding := { header, fn, cu, window, entry := winBytes s window }
  { s with bindings := sput s.bindings group b }

/-- The agent of the header bound to a group. -/
def boundAgent (s : State) (group : Nat) : Option JAgent :=
  (sget? s.bindings group).map fun b =>
    { header := b.header.toNat, agent := { who := .journal group, crew := 0x1FF, cu := b.cu, fn := b.fn } }

/-- A binding has ended: the driver has changed the window entry (R390, R406). -/
def bindingOver (s : State) (b : Binding) : Bool := winBytes s b.window != b.entry

/-- The state without the bindings that have ended. -/
def dropBindings (s : State) : State := { s with bindings := s.bindings.filter fun p => !bindingOver s p.2 }

/-- The agent of an operation of a crew on its journal. -/
def opAgent (s : State) (crew id : Nat) (header : Word) : JAgent :=
  { header := header.toNat, agent := { who := .op crew id, crew, cu := cuOf crew, fn := (s.crew crew).tenant },
    op := some (crew, id) }

/-- The strand in focus on the journal that it names. -/
def strandJournal (s : State) (header : Word) : JAgent := { header := header.toNat, agent := myAgent s }

/-! ## Arrivals (R101) -/

/-- The jfetches in flight that asked member src of a group for position p. -/
def fetchOps (s : State) (group src : Nat) (p : Nat) : List (Nat × AsyncOp) :=
  s.crews.flatMap fun c =>
    (c.2.ops.filter fun o =>
      o.opc == 0x22 && o.group == group && (dReg o.regs 4).toNat == src && decide ((dReg o.regs 1).toNat ≤ p) &&
        decide (p < (dReg o.regs 1).toNat + (dReg o.regs 2).toNat)).map fun o => (c.1, o)

/-- The chain value that came with a fetched entry is compared with this device's own: now where position p has been
chained and the device has its value, in its slot or as the last one computed, else when it is chained (R101, R276). -/
def checkChain (s : State) (g : JAgent) (h : Hdr) (crew p : Nat) (e : List Byte) : State :=
  if e.length < 32 then s
  else
    let own := ownerOf (s.crew crew)
    let c : ChainCheck := { pos := p, value := recField e 28 4, crew, launch := own.1, task := own.2 }
    if p < h.chained then
      match slotOf g h p s with
      | .ok (s1, slot) =>
        let n := noteOf s1 g
        if ((h.chainIn n p slot).or (n.lastAt p)).any fun v => v != c.value then raiseConflict s1 c else s1
      | .error _ => s
    else
      let n := noteOf s g
      setNote s g { n with checks := n.checks ++ [c] }

/-- A fetched entry has been applied at position p: it counts for its jfetch, and its chain value is compared (R276). -/
def fetchedEnd (s : State) (g : JAgent) (h : Hdr) (crew id p : Nat) (conflict : Bool) (e : List Byte) : State :=
  let s := { s with remote := s.remote.filter fun r => !(r.crew == crew && r.op == some id && r.load && r.msg.kind == 1) }
  let s := match (s.crew crew).ops.find? fun o => o.id = id with
    | some o => s.setOp crew (if o.seen.contains p then o else { o with seen := p :: o.seen })
    | none => s
  if conflict then
    let own := ownerOf (s.crew crew)
    raiseConflict s { pos := p, value := 0, crew, launch := own.1, task := own.2 }
  else checkChain s g h crew p e

/-- An entry is acknowledged (26 R386) with a status: 0 performed, 1 discarded, 2 a conflict. -/
def ackEntry (s : State) (a : HeldEntry) (p st : Nat) : State :=
  match groupEntry s a.group with
  | none => s
  | some w => ackTo s 4 (memberRank s w a.src) a.group (if a.fetched then [p, 1] else [p]) [BitVec.ofNat 8 st]

/-- An arrival that cannot be applied yet makes one error record. -/
def noteEntry (s : State) (fn : Nat) (a : HeldEntry) : State × Option HeldEntry :=
  (if a.noted then s else pushErr s 3 4 fn 0x1FF 0, some { a with noted := true })

/-- A slot or bitmap fault of a jfetch's entry holds the operation (R405, R265). -/
def holdFetch (s : State) (crew id : Nat) (cause : Nat) (va : Word) : State :=
  match (s.crew crew).ops.find? fun o => o.id = id with
  | none => s
  | some o =>
    (missState crew 0 o (.error (.hold s cause 1 va))).elim s fun r =>
      match r with
      | .ok s1 => s1
      | .error _ => s

/-- The arrival has been stored and its chaining waits. -/
def HeldEntry.toChain (a : HeldEntry) : HeldEntry := { a with entry := [], ask := some (0, 0) }

/-- Apply an arrival to the journal of agent g, whose header is h: with the operation's own accesses where a jfetch
asked for it, and for every jfetch that did. The answer is the arrival if it is held back, or has been stored and has
its chaining to wait for. -/
def applyEntry (s : State) (g : JAgent) (h : Hdr) (a : HeldEntry) : State × Option HeldEntry :=
  let p := (h.posOf a.entry).toNat
  let askers := if a.fetched then fetchOps s a.group a.src p else []
  let asker := askers.head?
  let k := asker.elim g fun x => { opAgent s x.1 x.2.id 0#64 with header := g.header }
  match applyAt k h a.entry s with
  | .error (.wait _ s1) => (s1, some a)
  | .error (.fault _) => (s, some a)
  | .error e =>
    let s1 := e.reached s
    match asker, e with
    | some (crew, o), .xtrap c v _ => (holdFetch s1 crew o.id c v, some a)
    | _, _ => noteEntry (g.rest s1) g.agent.fn a
  | .ok (s1, r) =>
    let s2 := g.rest s1
    match r with
    | .held => (s2, some a)
    | .discarded =>
      let s3 := pushErr s2 3 4 g.agent.fn 0x1FF 0
      (ackEntry s3 a p 1, none)
    | _ =>
      let conflict := r == .conflict
      let s3 := askers.foldl (fun s x => fetchedEnd s g h x.1 x.2.id p conflict a.entry) s2
      let s4 := ackEntry s3 a p (if conflict then 2 else 0)
      if r == .stored then
        let c := chainArrival g s4
        (c.1, if c.2 then some a.toChain else none)
      else (s4, none)

/-- Apply an arrival: the state, and the arrival if it is held back. A fault at this device holds the jfetch that asked
(R265), and otherwise the arrival, with one error record: what a translation or permission fault does where a japp's
entry is applied at a receiving device R405 does not say (DESIGN CHOICE, assumption log 84). -/
def applyArrival (s : State) (a : HeldEntry) : State × Option HeldEntry :=
  match boundAgent s a.group with
  | none => (s, some a)
  | some g =>
    match jHeader g s with
    | .error (.wait _ s1) => (s1, some a)
    | .error (.fault _) => (s, some a)
    | .error e => noteEntry (g.rest (e.reached s)) g.agent.fn a
    | .ok (s1, none) => noteEntry (g.rest s1) g.agent.fn a
    | .ok (s1, some h) => applyEntry s1 g h a

/-! ### What a device answers a jfetch with (R276) -/

/-- The entries of positions first to first + n - 1 that an agent's journal holds, with their positions, and with chain
values where the slots hold them. -/
def heldEntries (g : JAgent) (h : Hdr) : Nat → Nat → State → Res (State × List (Nat × List Byte))
  | 0, _, s => .ok (s, [])
  | n + 1, p, s =>
    match slotOf g h p s with
    | .error e => .error e
    | .ok (s1, slot) =>
      match heldEntries g h n (p + 1) s1 with
      | .error e => .error e
      | .ok (s2, es) =>
        let whole := decide (p < h.chained) && (h.chainIn (noteOf s2 g) p slot).isSome
        .ok (s2, if h.present p slot then (p, if whole then slot.1 else slot.1.take 28) :: es else es)

/-- The answer from an agent's journal (R276, R394): the status and the entries; a position that is not retained
answers 5. So does a header that is malformed or cannot be read, with a count of zero: R276 gives status 5 for no
binding and for a position not retained (DESIGN CHOICE, assumption log 86). -/
def answerFrom (g : JAgent) (first n : Nat) (s : State) : Res (State × Nat × List (Nat × List Byte)) :=
  match jHeader g s with
  | .error e => .error e
  | .ok (s1, none) => .ok (s1, 5, [])
  | .ok (s1, some h) =>
    match slotOf g h first s1 with
    | .error e => .error e
    | .ok (s2, slot) =>
      if first < h.retire ∨ (slot.2.1 = true ∧ (first : Int) < h.posOf slot.1) then .ok (s2, 5, [])
      else
        match heldEntries g h n first s2 with
        | .error e => .error e
        | .ok (s3, es) => .ok (s3, 0, es)

/-- Send one of the entries that answer a jfetch to a rank, which acknowledges it (26 R386); a lost rank's is dropped
with an error record (26 R387). -/
def sendEntry (w : Win) (rank group : Nat) (s : State) (e : Nat × List Byte) : State :=
  if rankLost s rank then pushErr s 3 4 w.tenant 0x1FF 0
  else
    sendMsg (countFor s w.tenant 9 e.2.length) {
      tag := 0
      crew := 0x1FF
      op := none
      msg := { kind := 4, group, dst := rank, tag := 0, nums := [w.self, 1, e.1], data := e.2 } }

/-- Send the entries that answer a jfetch to a rank. -/
def sendEntries (s : State) (w : Win) (rank group : Nat) (es : List (Nat × List Byte)) : State :=
  es.foldl (sendEntry w rank group) s

/-- Answer a member's request for n positions from first on: none while a translation is awaited. A device with no
header bound for the group, or with one that it cannot read, answers status 5 (R406). -/
def answerAsk (s : State) (group src first n : Nat) : State × Bool :=
  match groupEntry s group with
  | none => (pushErr s 3 4 0 0x1FF 0, true)
  | some w =>
    let send (s : State) (st : Nat) (es : List (Nat × List Byte)) : State :=
      let rank := memberRank s w src
      ackTo (sendEntries s w rank group es) 4 rank group [first] (BitVec.ofNat 8 st :: leBytes 8 es.length)
    match boundAgent s group with
    | none => (send s 5 [], true)
    | some g =>
      match answerFrom g first n s with
      | .ok (s1, st, es) => (send (g.rest s1) st es, true)
      | .error (.wait _ s1) => (s1, false)
      | .error e => (send (g.rest (e.reached s)) 5 [], true)

/-! ### Trying again -/

/-- Try an arrival, a request or a chaining that waits. -/
def tryHeld (s : State) (a : HeldEntry) : State × Option HeldEntry :=
  match a.ask with
  | none => applyArrival s a
  | some (_, 0) =>
    (match boundAgent s a.group with
     | none => (s, none)
     | some g =>
       let c := chainArrival g s
       (c.1, if c.2 then some a else none))
  | some (first, n + 1) =>
    let r := answerAsk s a.group a.src first (n + 1)
    (r.1, if r.2 then none else some a)

/-- Try the arrivals held back once more, as often as one is applied. -/
def retryHeld : Nat → State → State
  | 0, s => s
  | n + 1, s =>
    let r := s.journalHeld.foldl
      (fun (x : State × List HeldEntry) a =>
        match tryHeld x.1 a with
        | (s1, none) => (s1, x.2)
        | (s1, some b) => (s1, x.2 ++ [b])) ({ s with journalHeld := [] }, [])
    let s1 := { r.1 with journalHeld := r.2 }
    if r.2.length = s.journalHeld.length then s1 else retryHeld n s1

/-- Arrivals held back are tried again. -/
def retryAll (s : State) : State :=
  if s.journalHeld = [] ∨ tableBusy s = true then s else retryHeld s.journalHeld.length s

/-- JOURNAL_ARRIVAL (R101, R406); it comes over a port that is up (26 R383). -/
def execJournalArrival (group : Nat) (src : Nat) (entry : List Byte) (fetched : Bool) (s : State) : Outcome :=
  if entry.length < 28 ∨ linkUp s = false ∨ tableBusy s = true then notEnabled "JOURNAL_ARRIVAL"
  else
    match applyArrival (payload 10 s group entry.length) { group, src, entry, fetched } with
    | (s1, none) => .next (retryAll s1)
    | (s1, some a) => .next { s1 with journalHeld := s1.journalHeld ++ [a] }

/-- JFETCH_REQUEST (R276): the entries, then the answer with their number, now or when a translation that it needs is
there. -/
def execJfetchRequest (group : Nat) (src : Nat) (first count : Nat) (s : State) : Outcome :=
  if count = 0 ∨ 1024 < count ∨ linkUp s = false ∨ tableBusy s = true then notEnabled "JFETCH_REQUEST"
  else
    let r := answerAsk s group src first count
    .next (if r.2 then r.1 else
      { r.1 with journalHeld := r.1.journalHeld ++ [{ group, src, entry := [], fetched := false, ask := some (first, count) }] })

/-! ## japp (R274) -/

/-- The checks of a header pointer: GLOBAL, aligned to 64 (R98, R274). -/
def headerPointer (p : Word) : Res Unit :=
  if !ptrOk p || spaceOf p ≠ 0 then .error (.trap cSpace p)
  else if p.toNat % 64 ≠ 0 then .error (.trap cMisalign p)
  else .ok ()

/-- A header read by the strand in focus at an instruction (R405). -/
def readHeader (s : State) (p : Word) : Res (State × Hdr) :=
  match headerPointer p with
  | .error e => .error e
  | .ok _ =>
    match loadBytes s p 64 0 64 with
    | .error e => .error e
    | .ok (s1, bs) =>
      match hdrOf bs with
      | none => .error (.trap cIllegal p)
      | some h => .ok (s1, h)

/-- The entry that japp forms (R274). -/
def jappEntry (r : List Word) : List Byte :=
  leBytes 8 (dReg r 1).toNat ++ leBytes 8 (dReg r 2).toNat ++ leBytes 8 (dReg r 3).toNat ++
    leBytes 1 (dReg r 4).toNat ++ leBytes 7 0

/-- The start of japp. -/
def jappCheck (i : Instr) (c : CpFields) (s : State) : Res (State × AsyncOp) :=
  let r := s.me.regsFrom c.sn 6
  let e := jappEntry r
  match headerPointer (dReg r 0) with
  | .error w => .error w
  | .ok _ =>
    if (dReg r 4).bits 63 8 ≠ 0 then illegalWords i
    else
      match groupWindow s (dReg r 5) with
      | .error w => .error w
      | .ok (s1, w) =>
        match readHeader s1 (dReg r 0) with
        | .error w => .error w
        | .ok (s2, h) =>
          if entryBad e || h.outside e then illegalWords i
          else
            .ok (s2, {
              id := 0
              opc := 0x20
              fields := c
              regs := r
              window := w.index
              group := w.group
              members := w.members
              self := w.self
              pos := (h.posOf e).toNat
              entry := e })

/-- japp and jfetch bind the header they name (R406), and arrivals that wait for it are tried. -/
def bindNow (header window : Word) (s : State) : State :=
  match groupWindow s window with
  | .ok (_, w) => retryAll (bindHeader s w.group w.index header s.myCrew.tenant (cuOf s.cur.1))
  | .error _ => s

/-- The body of japp. -/
def jappBody (i : Instr) (e : Eng) (c : CpFields) : Body := fun s =>
  fabBody e 0#64 (jappCheck i c) (fun _ => bindNow (s.me.reg c.sn) (s.me.regN (c.sn.toNat + 5))) s

/-- JAPP (R274). -/
def execJapp (e : Eng) (c : CpFields) (s : State) : Outcome := issue (.japp e c) [.c] e.p false (jappBody (.japp e c) e c) s

/-- Send an entry to one member; to a lost one the message is dropped with an error record, and it stays in flight
(26 R387). -/
def jappTo (crew : Nat) (o : AsyncOp) (w : Win) (s : State) (x : Nat) : State :=
  let wait : RemoteWait := {
    tag := 0
    crew
    op := some o.id
    msg := { kind := 4, group := w.group, dst := memberRank s w x, tag := 0, nums := [w.self, 0], data := o.entry } }
  if x = w.self then s
  else if memberLost s w x then holdMsg (pushErr s 3 4 w.tenant crew 0) wait
  else sendMsg (countFor s w.tenant 9 o.entry.length) wait

/-- The state with an operation of a crew changed, as it stands. -/
def State.mapOp (s : State) (crew id : Nat) (f : AsyncOp → AsyncOp) : State :=
  let c := s.crew crew
  s.setCrew crew { c with ops := c.ops.map fun o => if o.id = id then f o else o }

/-- A stop of a journal operation's own accesses: a fault holds it with side 1 (R254), a wait is tried again. -/
def jMiss (s : State) : Stop → Miss
  | .trap c v => .hold s c 1 v
  | .xtrap c v s1 => .hold s1 c 1 v
  | .wait _ s1 => .stall s1
  | .fault f => .fault f

/-- The phase of an operation goes on. -/
def nextPhase (s : State) (crew id ph : Nat) : State :=
  dropReads (s.mapOp crew id fun o => { o with phase := ph, finished := decide (2 ≤ ph) }) crew id

/-- The header of an operation's journal is no longer well formed: one error record, and it waits. R405 gives ILLEGAL at
the instruction only, whose start is past (DESIGN CHOICE, assumption log 85). -/
def badHeader (s : State) (crew : Nat) (o : AsyncOp) : Except Miss State :=
  if o.status = 1 then .error .idle
  else .ok ((pushErr s 3 4 (s.crew crew).tenant crew 0).mapOp crew o.id fun o => { o with status := 1 })

/-- japp applies its entry to its own journal (R274). -/
def jappApply (s : State) (crew : Nat) (o : AsyncOp) : Except Miss State :=
  let g := opAgent s crew o.id (dReg o.regs 0)
  match jHeader g s with
  | .error e => .error (jMiss s e)
  | .ok (s1, none) => badHeader s1 crew o
  | .ok (s1, some h) =>
    match applyAt g h o.entry s1 with
    | .error e => .error (jMiss s1 e)
    | .ok (s2, .held) => if s2 = s then .error .idle else .error (.stall s2)
    | .ok (s2, .discarded) => .ok (nextPhase (pushErr s2 3 4 (s.crew crew).tenant crew 0) crew o.id 1)
    | .ok (s2, .conflict) => .ok (nextPhase (opConflict s2 crew o.id) crew o.id 1)
    | .ok (s2, _) => .ok (nextPhase s2 crew o.id 1)

/-- A journal operation chains what is present (R100), and goes to phase ph. -/
def opChain (s : State) (crew : Nat) (o : AsyncOp) (ph : Nat) : Except Miss State :=
  match chainAll (opAgent s crew o.id (dReg o.regs 0)) s with
  | .error e => .error (jMiss s e)
  | .ok (s1, none) => badHeader s1 crew o
  | .ok (s1, some _) => .ok (retryAll (nextPhase s1 crew o.id ph))

/-- One step of japp: the messages, its own journal, its chain, and the members' answers. -/
def jappStep (s : State) (crew : Nat) (o : AsyncOp) : Except Miss State :=
  if !o.sent then
    let s1 := match winEntry s o.window with
      | some w => (List.range w.members).foldl (jappTo crew o w) s
      | none => s
    .ok (s1.setOp crew { o with
      sent := true
      sentAt := s.cycle })
  else if o.phase = 0 then jappApply s crew o
  else if o.phase = 1 then opChain s crew o 2
  else if opSending s crew o.id then .error .idle
  else .ok (fabEnd s crew o (BitVec.ofNat 64 o.pos) 0#64 0)

/-- JAPP_RESEND (26 R387): the messages of a japp to lost members go out again, except to members that the driver
has removed from the window. -/
def execJappResend (crew op : Nat) (s : State) : Outcome :=
  match (s.crew crew).ops.find? fun o => o.id = op && o.opc = 0x20 with
  | none => notEnabled "JAPP_RESEND"
  | some o =>
    let mine (r : RemoteWait) : Bool := r.crew == crew && r.op == some o.id
    if !o.sent || s.cycle < o.sentAt + 2 ^ 20 || !(s.remote.any mine) then notEnabled "JAPP_RESEND"
    else
      let ranks := (winEntry s o.window).elim [] (winRanks s)
      let one (s : State) (r : RemoteWait) : State :=
        if !mine r then s
        else if !ranks.contains r.msg.dst then dropTag s r.tag
        else if rankLost s r.msg.dst then pushErr s 3 4 (s.crew crew).tenant crew 0
        else
          let q := putOut s r.msg
          { q.1 with
            outbox := q.1.outbox ++ [q.2]
            remote := q.1.remote.map fun x => if x.tag = r.tag then { x with msg := q.2 } else x }
      .next ((s.remote.foldl one s).setOp crew { o with sentAt := s.cycle })

/-! ## jwait (R275) -/

/-- jwait: the count as the header gives it, once what is present has been chained, where it has not passed n already.
Any read that faults is raised here (R405). -/
def jwaitBody (c : CpFields) (s : State) : Res State :=
  let x := s.me
  let hp := x.reg c.sn
  let n := (x.regN (c.sn.toNat + 1)).toNat
  let deadline := (x.regN (c.sn.toNat + 2)).toNat
  let s := retryAll s
  match readHeader s hp with
  | .error e => .error e
  | .ok (s1, h) =>
    let g := strandJournal s1 hp
    match (if n < h.chained then .ok (s1, h) else chainOn g (h.capacity + 1) h s1) with
    | .error e => .error e
    | .ok (s2, h2) =>
      let s3 := dropAsked s2 g.agent.who
      if n < h2.chained ∨ (deadline ≠ 2 ^ 64 - 1 ∧ deadline ≤ s3.cuCycle (cuOf s3.cur.1)) then
        .ok (s3.setMe ((s3.me.setReg c.sd (BitVec.ofNat 64 h2.chained)).setPred c.pd (decide (n < h2.chained))))
      else .error (.wait qColl s3)

/-- JWAIT (R275). -/
def execJwait (e : Eng) (c : CpFields) (s : State) : Outcome :=
  heldIssue (.jwait e c) e [.c] (roomBody (jwaitBody c)) s

/-! ## jfetch (R276) -/

/-- The start of jfetch. Nonzero bits 63:24 of sN+4 and a peer outside the group raise ILLEGAL, as the same fields of
send do (R276 does not say: DEDUCED, assumption log 91). -/
def jfetchCheck (i : Instr) (c : CpFields) (s : State) : Res (State × AsyncOp) :=
  let r := s.me.regsFrom c.sn 5
  match headerPointer (dReg r 0) with
  | .error w => .error w
  | .ok _ =>
    if dReg r 2 = 0#64 ∨ 1024 < (dReg r 2).toNat ∨ (dReg r 4).bits 63 24 ≠ 0 then illegalWords i
    else
      match readHeader s (dReg r 0) with
      | .error w => .error w
      | .ok (s1, _) =>
        match groupWindow s1 (dReg r 3) with
        | .error w => .error w
        | .ok (s2, w) =>
          if w.members ≤ (dReg r 4).toNat then illegalWords i
          else
            .ok (s2, {
              id := 0
              opc := 0x22
              fields := c
              regs := r
              window := w.index
              group := w.group
              members := w.members
              self := w.self })

/-- The body of jfetch. -/
def jfetchBody (i : Instr) (e : Eng) (c : CpFields) : Body := fun s =>
  fabBody e 0#64 (jfetchCheck i c) (fun _ => bindNow (s.me.reg c.sn) (s.me.regN (c.sn.toNat + 3))) s

/-- JFETCH (R276). -/
def execJfetch (e : Eng) (c : CpFields) (s : State) : Outcome :=
  issue (.jfetch e c) [.c] e.p false (jfetchBody (.jfetch e c) e c) s

/-- The answer that a jfetch has received: its status and the number of entries. -/
def fetchAnswer (s : State) (crew : Nat) (o : AsyncOp) : Option (Nat × Nat) :=
  ((opReads s crew o.id).findSome? fun r => if r.msg.kind = 4 then r.answer else none).map fun a =>
    ((a.headD 0#8).toNat, leNat ((a.drop 1).take 8))

/-- One step of jfetch: the request, then, when every entry announced has been applied, its chain and its end. A
request to this device itself finds its own entries. A peer that is lost, or a window entry that is gone, ends it with
status 2 (the table of 26 R387 does not list jfetch: DEDUCED, assumption log 92). -/
def jfetchStep (s : State) (crew : Nat) (o : AsyncOp) : Except Miss State :=
  let first := (dReg o.regs 1).toNat
  let n := (dReg o.regs 2).toNat
  let peer := (dReg o.regs 4).toNat
  match winEntry s o.window with
  | none => .ok (fabEnd s crew o (fabWord 2 0) 0#64 0)
  | some w =>
    if o.phase = 2 then .ok (fabEnd s crew o (fabWord o.status o.count) 0#64 0)
    else if peer = w.self then
      match answerFrom (opAgent s crew o.id (dReg o.regs 0)) first n s with
      | .error e => .error (jMiss s e)
      | .ok (s1, st, es) => .ok (fabEnd s1 crew o (fabWord st es.length) 0#64 0)
    else if memberLost s w peer || (opReads s crew o.id).any fun r => r.lost then
      .ok (fabEnd s crew o (fabWord 2 0) 0#64 0)
    else if o.phase = 0 then
      let s1 := sendMsg s {
        tag := 0
        crew
        op := some o.id
        load := true
        msg := { kind := 4, group := w.group, dst := memberRank s w peer, tag := 0, nums := [w.self, 2, first, n], data := [] } }
      .ok (s1.setOp crew { o with phase := 1 })
    else
      match fetchAnswer s crew o with
      | none => .error .idle
      | some (st, count) =>
        if o.seen.length < count then .error .idle
        else
          match opChain s crew o 2 with
          | .ok s1 => .ok (s1.mapOp crew o.id fun o => { o with status := st, count })
          | e => e

/-! ## FABRIC_OP_COMPLETION -/

/-- The step of a fabric operation by its opcode. -/
def fabricStep (s : State) (crew : Nat) (o : AsyncOp) : Except Miss State :=
  if o.opc = 0x10 then (if o.finished then .ok (openLeave s crew o) else .error .idle)
  else if 0x11 ≤ o.opc ∧ o.opc ≤ 0x13 then collStep s crew o
  else if o.opc = 0x18 then sendStep s crew o
  else if o.opc = 0x19 then recvStep s crew o
  else if o.opc = 0x20 then jappStep s crew o
  else if o.opc = 0x22 then jfetchStep s crew o
  else .error .idle

/-- A step that would complete the operation waits for what its post covers (02 R22). -/
def postGate (s : State) (crew : Nat) (o : AsyncOp) : Except Miss State → Except Miss State
  | .ok s1 =>
    if postHeld s crew .c o.post o.after && !((s1.crew crew).ops.any fun x => x.id == o.id) then .error .idle else .ok s1
  | e => e

/-- The next step of a fabric operation (R265), none when nothing can happen. -/
def fabricUnit (s : State) (crew : Nat) (o : AsyncOp) : Option (Except Fault State) :=
  if o.opc < 8 || o.held.isSome || !clockOk s (cuOf crew) || faultOpen s crew o.id || stopped (s.crew crew) o ||
    entryBusy s o.window then none
  else missState crew (if o.opc < 0x20 then 4096 * o.next else 0) o (postGate s crew o (fabricStep s crew o))

/-- FABRIC_OP_COMPLETION (R266): the next piece of an operation, and with the last one its completion. -/
def execFabricOpCompletion (crew op : Nat) (s : State) : Outcome :=
  match (s.crew crew).ops.find? fun o => o.id = op with
  | none => notEnabled "FABRIC_OP_COMPLETION"
  | some o =>
    match fabricUnit s crew o with
    | none => notEnabled "FABRIC_OP_COMPLETION"
    | some (.ok s1) => .next s1
    | some (.error f) => .fault f

end Sys2Proof.Machine
end

