-- ==== Sys2Proof/Machine/Glaze.lean ====
section
/-! DEFINITION. Glaze job cards: spec 14 R277 to R281, 06 R102 to R105, 22 R349; and the events GLAZE_CARD_RUN and
GLAZE_CARD_COMPLETION. -/
namespace Sys2Proof.Machine

/-! ## The card (R277) -/

/-- The working format of a code: FP32, BF16, FP16, E4M3, E5M2 are type codes 0 to 4. -/
def cardWfmt (b : List Byte) : Nat := recField b 51 1
/-- The element size of the working copy. -/
def workSize (w : Nat) : Nat := if w = 0 then 4 else if w ≤ 2 then 2 else 1
/-- master. -/
def cardMaster (b : List Byte) : Nat := recField b 0 8
/-- working. -/
def cardWorking (b : List Byte) : Nat := recField b 8 8
/-- aux. -/
def cardAux (b : List Byte) : Nat := recField b 16 8
/-- header. -/
def cardHeader (b : List Byte) : Nat := recField b 24 8
/-- p0. -/
def cardP0 (b : List Byte) : Nat := recField b 32 8
/-- m. -/
def cardM (b : List Byte) : Nat := recField b 40 4
/-- η. -/
def cardEta (b : List Byte) : Nat := recField b 44 4
/-- tid. -/
def cardTid (b : List Byte) : Nat := recField b 48 3
/-- nrows. -/
def cardRows (b : List Byte) : Nat := recField b 64 8 % 2 ^ 22
/-- ncols. -/
def cardCols (b : List Byte) : Nat := recField b 64 8 / 2 ^ 22 % 2 ^ 22
/-- The number of elements. -/
def cardElems (b : List Byte) : Nat := cardRows b * cardCols b
/-- bar. -/
def cardBar (b : List Byte) : Word := BitVec.ofNat 64 (recField b 80 8)
/-- Word k of the routine. -/
def cardWord (b : List Byte) (k : Nat) : Nat := recField b (128 + 4 * k) 4

/-- The flat index of element (i, j) (R277). -/
def cardIndex (b : List Byte) (i j : Nat) : Nat :=
  let o := recField b 56 8
  ((o % 2 ^ 22 + i) * recField b 72 4 + o / 2 ^ 22 + j) % 2 ^ 44

/-- The fields of a routine word that its op does not use (R280), as a mask; none for an unassigned op. -/
def gUnused (op : Nat) : Option Nat :=
  let d := 7 * 2 ^ 25
  let a := 7 * 2 ^ 22
  let b := 7 * 2 ^ 19
  let c := 7 * 2 ^ 16
  let imm := 2 ^ 16 - 1
  match op with
  | 0 => some (d + a + b + c + imm)
  | 1 => some (c + imm)
  | 2 => some (c + imm)
  | 3 => some (c + imm)
  | 4 => some imm
  | 5 => some (c + imm)
  | 6 => some (c + imm)
  | 7 => some (b + c + imm)
  | 8 => some (b + c + imm)
  | 9 => some (a + b + c)
  | 10 => some (b + c)
  | 11 => some imm
  | _ => none

/-- The routine is accepted (R280): a g.end among the words, and every word up to it well formed. -/
def routineOk : List Nat → Bool
  | [] => false
  | w :: r =>
    match gUnused (w / 2 ^ 28) with
    | none => false
    | some m => (w &&& m) == 0 && (w / 2 ^ 28 == 0 || routineOk r)

/-- The words of the routine. -/
def cardRoutine (b : List Byte) : List Nat := (List.range 16).map (cardWord b)

/-- The card has a field that raises ILLEGAL (R278 step 2). -/
def cardBad (b : List Byte) : Bool :=
  recField b 208 48 ≠ 0 || recField b 88 40 ≠ 0 || recField b 76 4 ≠ 0 || recField b 52 4 ≠ 0 ||
    recField b 64 8 / 2 ^ 44 ≠ 0 || recField b 56 8 / 2 ^ 44 ≠ 0 || recField b 72 4 / 2 ^ 22 ≠ 0 ||
    recField b 72 4 == 0 || cardRows b == 0 || cardCols b == 0 || cardM b == 0 || decide (1024 < cardM b) ||
    decide (4 < cardWfmt b) || (cardWfmt b ≠ 0 && cardWorking b == 0) || !routineOk (cardRoutine b)

/-- A GLOBAL pointer of a card with its alignment (R278 step 3). -/
def cardPointer (p al : Nat) : Option (Nat × Word) :=
  let w := BitVec.ofNat 64 p
  if !ptrOk w || spaceOf w ≠ 0 then some (cSpace, w) else if p % al ≠ 0 then some (cMisalign, w) else none

/-- The pointers of a card, in order: the first that fails. -/
def cardPointers (b : List Byte) : Option (Nat × Word) :=
  let opt (p al : Nat) : List (Option (Nat × Word)) := if p = 0 then [] else [cardPointer p al]
  ([cardPointer (cardMaster b) 4] ++ opt (cardWorking b) (workSize (cardWfmt b)) ++ opt (cardAux b) 4 ++
    [cardPointer (cardHeader b) 64]).findSome? id

/-! ## glz.post and glz.wait (R278, R279) -/

/-- The cards of a crew that have not completed, oldest first. -/
def crewCards (s : State) (crew : Nat) : List Card := s.cards.filter fun k => k.crew == crew

/-- The checks of a card pointer (R279). -/
def cardCheck (p : Word) : Option (Nat × Word) := cardPointer p.toNat 64

/-- glz.post (R278 steps 1 to 4). -/
def glzPostBody (e : Eng) (c : CpFields) (s : State) : Res State :=
  let p := s.me.reg c.sn
  let ahead := (crewCards s s.cur.1).length
  if 16 ≤ ahead then .error (.wait qMem s)
  else
    match cardCheck p with
    | some (q, v) => .error (.trap q v)
    | none =>
      match loadBytes s p 256 0 64 with
      | .error w => .error w
      | .ok (s1, b) =>
        if cardBad b then .error (.trap cIllegal p)
        else
          match cardPointers b with
          | some (q, v) => .error (.trap q v)
          | none =>
            match fabPointers s1 [] (cardBar b) with
            | .error w => .error w
            | .ok _ =>
              if barZeroing s1 (cuOf s1.cur.1) (cardBar b) then .error (.wait qMem s1)
              else
              match storeBytes s1 (p + 192#64) (leBytes 4 0) 0 4 e.cls.toNat with
              | .error w => .error w
              | .ok s2 =>
                let own := ownerOf s2.myCrew
                let k : Card := {
                  id := s2.cardSeq
                  crew := s2.cur.1
                  launch := own.1
                  task := own.2
                  ptr := p
                  bytes := b
                  cls := e.cls
                  tenant := s2.myCrew.tenant }
                let s3 := { s2 with
                  cards := s2.cards ++ [k]
                  cardSeq := s2.cardSeq + 1 }
                .ok (s3.setMe (s3.me.setReg c.sd (BitVec.ofNat 64 ahead)))

/-- GLZ_POST (R278). -/
def execGlzPost (e : Eng) (c : CpFields) (s : State) : Outcome :=
  heldIssue (.glzPost e c) e [.c] (roomBody (glzPostBody e c)) s

/-- A card of the crew at p waits for the journal (06 R102). -/
def cardWaits (s : State) (p : Word) : Bool := (crewCards s s.cur.1).any fun k => k.ptr == p && k.waits

/-- glz.wait (R279): charged to COLL_WAIT while its card waits for the journal, and else to MEM_WAIT (06 R102, 07
R107). -/
def glzWaitBody (c : CpFields) (s : State) : Res State :=
  let p := s.me.reg c.sn
  match cardCheck p with
  | some (q, v) => .error (.trap q v)
  | none =>
    match loadBytes s (p + 192#64) 4 0 4 with
    | .error w => .error w
    | .ok (s1, bs) =>
      if (leNat bs).testBit 31 then .ok (s1.setMe (s1.me.setReg c.sd (BitVec.ofNat 64 (leNat bs))))
      else .error (.wait (if cardWaits s1 p then qColl else qMem) s1)

/-- GLZ_WAIT (R279). -/
def execGlzWait (e : Eng) (c : CpFields) (s : State) : Outcome :=
  heldIssue (.glzWait e c) e [.c] (roomBody (glzWaitBody c)) s

/-! ## Replay (06 R103, R104) -/

/-- The coefficient c(k) of an entry (R103), as FP32 bits. -/
def coefOf (eta : Nat) (e : List Byte) : Nat :=
  let d := rne32v (Val.add (fp32 (recField e 8 4)) (Val.neg (fp32 (recField e 12 4))))
  let x := rne32v (Val.mul (Val.neg (fp32 eta)) d)
  rne32 (x.scale (126 - (recField e 23 1 : Int)))

/-- A finite FP32 value. -/
def finite32 (b : Nat) : Bool := b / 2 ^ 23 % 256 ≠ 255

/-- The status that an entry gives a card at position p, in the order of R104; none where it passes. -/
def entryStatus (h : Hdr) (b : List Byte) (p : Nat) (e : List Byte) : Option Nat :=
  if (p : Int) < h.posOf e then some 2
  else if entryBad e || h.outside e then some 1
  else if !entryVoid e && !finite32 (coefOf (cardEta b) e) then some 3
  else none

/-- The checks of a card's entries from the k-th on, in ascending order (R104): the coefficients with seeds and modes,
or the status with the index of the first that fails. -/
def cardEntries (g : JAgent) (h : Hdr) (b : List Byte) :
    Nat → Nat → State → Res (State × Except (Nat × Nat) (List (Nat × Nat × Nat)))
  | 0, _, s => .ok (s, .ok [])
  | n + 1, k, s =>
    match slotOf g h (cardP0 b + k) s with
    | .error x => .error x
    | .ok (s1, slot) =>
      let e := slot.1
      match entryStatus h b (cardP0 b + k) e with
      | some st => .ok (s1, .error (st, k))
      | none =>
        match cardEntries g h b n (k + 1) s1 with
        | .ok (s2, .ok rest) =>
          .ok (s2, .ok (if entryVoid e then rest else (coefOf (cardEta b) e, recField e 0 8, recField e 24 1 % 16) :: rest))
        | r => r

/-- acc of element e (R103), as FP32 bits. -/
def cardAcc (coefs : List (Nat × Nat × Nat)) (tid e : Nat) : Nat :=
  coefs.foldl
    (fun acc k =>
      let n := noiseVal k.2.2 (noiseNibble (BitVec.ofNat 64 k.2.1) tid e)
      rne32 (Val.add (Val.mul (fp32 k.1) n) (fp32 acc))) 0

/-- One routine word on the registers (R280). -/
def gStep (g : List Nat) (w : Nat) : List Nat :=
  let r (sh : Nat) : Val := fp32 (g.getD (w / 2 ^ sh % 8) 0)
  let a := r 22
  let b := r 19
  let c := r 16
  let v : Val :=
    match w / 2 ^ 28 with
    | 1 => Val.add a b
    | 2 => Val.add a b.neg
    | 3 => Val.mul a b
    | 4 => Val.add (Val.mul a b) c
    | 5 => Val.min' a b
    | 6 => Val.max' a b
    | 7 => a.abs
    | 8 => a.neg
    | 9 => valueOf 1 (w % 2 ^ 16)
    | 10 => a.scale (BitVec.ofNat 16 w).toInt
    | _ => if !c.isNaN && Val.cmp c (.fin false 0 0) == .gt then a else b
  g.set (w / 2 ^ 25 % 8) (rne32 v)

/-- The routine up to its g.end. -/
def gRun : List Nat → List Nat → List Nat
  | [], g => g
  | w :: r, g => if w / 2 ^ 28 = 0 then g else gRun r (gStep g w)

/-- An element's registers after the update (R103): the routine, or the default when its first word is g.end. -/
def cardElem (b : List Byte) (acc master aux : Nat) : List Nat :=
  let g := [rne32 (fp32 master), acc, rne32 (fp32 aux), rne32 (fp32 (cardEta b)), 0, 0, 0, 0]
  if cardWord b 0 / 2 ^ 28 = 0 then g.set 0 (rne32 (Val.add (fp32 (g.getD 0 0)) (fp32 acc)))
  else gRun (cardRoutine b) g

/-! ## Running a card -/

/-- The number of elements of a chunk: 64 KiB of master (22 R349). -/
def chunkElems : Nat := 16384

/-- The spans of a card's tensors: address, bytes of an element, need. -/
def cardSpans (b : List Byte) : List (Nat × Nat × BitVec 3) :=
  [(cardMaster b, 4, 3#3)] ++ (if cardWorking b = 0 then [] else [(cardWorking b, workSize (cardWfmt b), 2#3)]) ++
    (if cardAux b = 0 then [] else [(cardAux b, 4, 3#3)])

/-- The pages of n bytes from a. -/
def pageList (a n : Nat) : List Nat := (List.range ((a + n - 1) / 4096 + 1 - a / 4096)).map fun i => a / 4096 + i

/-- A card as an agent. -/
def cardAgent (k : Card) : Agent := { who := .card k.id, crew := k.crew, cu := cuOf k.crew, fn := k.tenant }

/-- The translation of a page for a card: that in use is renewed and compared (22 R349). -/
def cardPage (a : Agent) (used : List Tlb) (vp : Nat) (va : Word) (need : BitVec 3) (s : State) : Res (State × Tlb) :=
  match used.find? fun t => t.vpage == vp with
  | some t => agentRenew a s t va need
  | none => agentXlate a s va need

/-- Translate the pages of a span from base for a card (R278); a stop carries the first failing address. -/
def cardXlate (a : Agent) (used : List Tlb) (need : BitVec 3) (base : Nat) : List Nat → State → Res (State × List Tlb)
  | [], s => .ok (s, [])
  | vp :: r, s =>
    let va := BitVec.ofNat 64 (max base (vp * 4096))
    if 2 ^ 45 ≤ vp then .error (.xtrap cSpace va s)
    else
      match cardPage a used vp va need s with
      | .error e => .error (e.keep s)
      | .ok (s1, t) =>
        match cardXlate a used need base r s1 with
        | .error e => .error e
        | .ok (s2, ts) => .ok (s2, t :: ts)

/-- Translate every page of every span, in order. -/
def cardPages (a : Agent) (used : List Tlb) (elems : Nat) : List (Nat × Nat × BitVec 3) → State → Res (State × List Tlb)
  | [], s => .ok (s, [])
  | (p, sz, need) :: r, s =>
    match cardXlate a used need p (pageList p (sz * elems)) s with
    | .error e => .error e
    | .ok (s1, ts) =>
      match cardPages a used elems r s1 with
      | .error e => .error e
      | .ok (s2, us) => .ok (s2, ts ++ us)

/-- Two cards of a crew have elements in common (R278). -/
def cardsMeet (x y : Card) : Bool :=
  let span (k : Card) : List (Nat × Nat) := (cardSpans k.bytes).map fun p => (p.1, p.2.1 * cardElems k.bytes)
  (span x).any fun a => (span y).any fun b => decide (a.1 < b.1 + b.2 ∧ b.1 < a.1 + a.2)

/-- A card may start (R278): the earlier cards of its crew have started, and those that have not completed share no
element with it. -/
def cardTurn (s : State) (k : Card) : Bool :=
  (crewCards s k.crew).all fun x =>
    decide (k.id ≤ x.id) || (x.started && (x.doneCode.isSome || !cardsMeet x k))

/-- The state with a card replaced. -/
def State.setCard (s : State) (k : Card) : State := { s with cards := s.cards.map fun x => if x.id = k.id then k else x }

/-- A card ends with a code; it waits on nothing any more. -/
def cardEnd (s : State) (k : Card) (code bad : Nat) (fault : Word := 0#64) : State :=
  (dropAsked (dropWaiter s (.card k.id)) (.card k.id)).setCard { k with
    started := true
    waits := false
    doneCode := some code
    badIndex := bad
    faultAddr := fault }

/-- What a stop of a card's access comes to (R278): a fault ends it with status 4 and the failing address; a stall
waits (04 R75, 22 R350); none where nothing changes. -/
def cardStop (s : State) (k : Card) : Stop → Option (Except Fault State)
  | .trap _ v => some (.ok (cardEnd s k 4 0 v))
  | .xtrap _ v s1 => some (.ok (cardEnd s1 k 4 0 v))
  | .wait _ s1 => if s1 = s then none else some (.ok s1)
  | .fault f => some (.error f)

/-- The start of a card once chained has passed its positions: its entries, then its pages (R104, R278). -/
def cardBegin (s : State) (k : Card) (g : JAgent) (h : Hdr) : Option (Except Fault State) :=
  let b := k.bytes
  match cardEntries g h b (cardM b) 0 s with
  | .error e => cardStop s k e
  | .ok (s1, .error (code, bad)) => some (.ok (cardEnd s1 k code bad))
  | .ok (s1, .ok coefs) =>
    match cardPages g.agent [] (cardElems b) (cardSpans b) s1 with
    | .error e => cardStop s1 k e
    | .ok (s2, ts) =>
      some (.ok ((g.rest s2).setCard { k with
        started := true
        waits := false
        coefs
        used := ts }))

/-- The header of a card's journal, once what is present has been chained, where chained has not passed the card's
positions already (R102). -/
def cardHdr (k : Card) (g : JAgent) (s : State) : Res (State × Option Hdr) :=
  match jHeader g s with
  | .error e => .error e
  | .ok (s1, none) => .ok (s1, none)
  | .ok (s1, some h) =>
    if cardP0 k.bytes + cardM k.bytes ≤ h.chained then .ok (s1, some h)
    else
      match chainOn g (h.capacity + 1) h s1 with
      | .error e => .error e
      | .ok (s2, h2) => .ok (s2, some h2)

/-- The start of a card (R102, R278): it waits while chained has not passed its positions. -/
def cardStart (s : State) (k : Card) : Option (Except Fault State) :=
  let b := k.bytes
  let g : JAgent := { header := cardHeader b, agent := cardAgent k }
  match cardHdr k g s with
  | .error e => cardStop s k e
  | .ok (s1, none) => some (.ok (cardEnd s1 k 1 0))
  | .ok (s1, some h) =>
    if h.chained < cardP0 b + cardM b then
      let s2 := (g.rest s1).setCard { k with waits := true }
      if s2 = s then none else some (.ok s2)
    else cardBegin s1 k g h

/-- The places of n bytes at va under a card's translations. -/
def cardPlaces (a : Agent) (ts : List Tlb) (store : Bool) : Nat → Nat → Nat → State → Res (List Place)
  | 0, _, _, _ => .ok []
  | fuel + 1, va, n, s =>
    if n = 0 then .ok []
    else
      let c := min n (4096 - va % 4096)
      match ts.find? fun t => t.vpage == va / 4096 with
      | none => .error (.wait qMem s)
      | some t =>
        match pagePlaces a s t (BitVec.ofNat 64 va) c store with
        | .error e => .error e
        | .ok ps =>
          match cardPlaces a ts store fuel (va + c) (n - c) s with
          | .error e => .error e
          | .ok qs => .ok (ps ++ qs)

/-- The bytes that a card reads at va. -/
def cardRead (a : Agent) (ts : List Tlb) (va n : Nat) (s : State) : Res (State × List Byte) :=
  match cardPlaces a ts false (pagesOf n) va n s with
  | .error e => .error e
  | .ok ps => agentLoad a s (BitVec.ofNat 64 va) ps

/-- Writes of a card, all checked before any is made. -/
def cardWrites (a : Agent) (ts : List Tlb) : List (Nat × List Byte) → State → Res State
  | [], s => .ok s
  | (va, bs) :: r, s =>
    match cardPlaces a ts true (pagesOf bs.length) va bs.length s with
    | .error e => .error e
    | .ok ps =>
      if !ps.all (storeReady s) then .error (.wait qMem s)
      else
        match cardWrites a ts r s with
        | .error e => .error e
        | .ok s1 =>
          .ok (storePlaces { crew := a.crew, agent := some a.who } ps bs (countPlaces s1 a.fn true ps))

/-- The elements first to first + n - 1 of a card after the update, from the bytes of master and aux: the registers of
each. -/
def cardChunk (k : Card) (first n : Nat) (ms xs : List Byte) : List (List Nat) :=
  let b := k.bytes
  (List.range n).map fun q =>
    let idx := first + q
    let e := cardIndex b (idx / cardCols b) (idx % cardCols b)
    cardElem b (cardAcc k.coefs (cardTid b) e) (recField ms (4 * q) 4) (recField xs (4 * q) 4)

/-- What a chunk writes, from its elements' registers: working, aux, then master, which lands last where they meet. -/
def cardStores (b : List Byte) (first : Nat) (gs : List (List Nat)) : List (Nat × List Byte) :=
  let bytes (f : List Nat → Nat) (sz : Nat) : List Byte := gs.flatMap fun g => leBytes sz (f g)
  let ws := workSize (cardWfmt b)
  (if cardAux b = 0 then [] else [(cardAux b + 4 * first, bytes (fun g => g.getD 2 0) 4)]) ++
    (if cardWorking b = 0 then []
     else [(cardWorking b + ws * first, bytes (fun g => roundTo (cardWfmt b) .rne (fp32 (g.getD 0 0))) ws)]) ++
    [(cardMaster b + 4 * first, bytes (fun g => g.getD 0 0) 4)]

/-- The accesses of one chunk of a card under its translations (R103). -/
def cardAccess (s : State) (k : Card) (first n : Nat) : Res State :=
  let b := k.bytes
  let a := cardAgent k
  match cardRead a k.used (cardMaster b + 4 * first) (4 * n) s with
  | .error e => .error e
  | .ok (s1, ms) =>
    match (if cardAux b = 0 then .ok (s1, []) else cardRead a k.used (cardAux b + 4 * first) (4 * n) s1) with
    | .error e => .error e
    | .ok (s2, xs) => cardWrites a k.used (cardStores b first (cardChunk k first n ms xs)) s2

/-- One chunk of a card (R103, 22 R349): every page is walked afresh, and a changed one ends it with the chunk's first
element address. The elements written are counted (27 R400). -/
def cardStep (s : State) (k : Card) : Option (Except Fault State) :=
  let b := k.bytes
  let first := chunkElems * k.next
  let n := min chunkElems (cardElems b - first)
  match cardPages (cardAgent k) k.used (cardElems b) (cardSpans b) s with
  | .error (.xtrap c v s1) =>
    some (.ok (cardEnd s1 k 4 0 (if c = cChanged then BitVec.ofNat 64 (cardMaster b + 4 * first) else v)))
  | .error e => cardStop s k e
  | .ok (s1, ts) =>
    let k := { k with used := ts }
    match cardAccess s1 k first n with
    | .error e => cardStop s1 k e
    | .ok s2 =>
      let wrote := (((cardSpans b).map fun p => p.2.1 * n)).foldl (· + ·) 0
      some (.ok ((dropAsked (countFor s2 k.tenant 11 n) (.card k.id)).setCard { k with
        next := k.next + 1
        written := k.written + wrote
        doneCode := if cardElems b ≤ first + n then some 0 else none }))

/-- The next piece of a card's run: its start, or a chunk. -/
def cardRun (s : State) (k : Card) : Option (Except Fault State) :=
  if k.doneCode.isSome then none
  else if k.started then cardStep s k
  else if cardTurn s k then cardStart s k
  else none

/-- GLAZE_CARD_RUN (R103, R278). -/
def execGlazeCardRun (crew card : Nat) (s : State) : Outcome :=
  match s.cards.find? fun k => k.crew = crew && k.id = card with
  | none => notEnabled "GLAZE_CARD_RUN"
  | some k =>
    match cardRun s k with
    | some (.ok s1) => .next s1
    | some (.error x) => .fault x
    | none => notEnabled "GLAZE_CARD_RUN"

/-- One write of a completing card: a fault drops it with an error record, a stall waits (R278). -/
def cardPut (k : Card) (off : Nat) (bs : List Byte) (s : State) : Res State :=
  let a := cardAgent k
  match agentWrite a (k.ptr.toNat + off) bs s with
  | .ok s1 => .ok s1
  | .error (.wait q s1) => .error (.wait q s1)
  | .error (.fault f) => .error (.fault f)
  | .error e => .ok (pushErr (e.left s a.who) 3 4 k.tenant k.crew 0)

/-- The words that a card writes when it completes: bad_index or fault_addr, then the status with bit 31. -/
def cardResult (k : Card) (code : Nat) (s : State) : Res State :=
  match (if 1 ≤ code ∧ code ≤ 3 then cardPut k 196 (leBytes 4 k.badIndex) s
    else if code = 4 then cardPut k 200 (leBytes 8 k.faultAddr.toNat) s else .ok s) with
  | .error e => .error e
  | .ok s1 => cardPut k 192 (leBytes 4 (2 ^ 31 + code)) s1

/-- Bytes that a card has sent to another device have yet to be performed. -/
def cardSending (s : State) (k : Card) : Bool := s.remote.any fun r => r.agent == some (.card k.id) && !r.load

/-- A card writes its words, and its status last (R278); none where nothing changes. -/
def cardPost (s : State) (k : Card) (code : Nat) : Option (Except Fault State) :=
  match cardResult k code s with
  | .ok s1 => some (.ok (s1.setCard { k with posted := true }))
  | .error (.wait _ s1) => if s1 = s then none else some (.ok s1)
  | .error (.fault f) => some (.error f)
  | .error _ => none

/-- A card whose words have been performed arrives at bar with the bytes it has written, and is gone (R278; 04 R76). -/
def cardLeave (s : State) (k : Card) : State :=
  let s1 := arriveAt s (cuOf k.crew) (cardBar k.bytes) k.written
  { s1 with cards := s1.cards.filter fun x => x.id ≠ k.id }

/-- GLAZE_CARD_COMPLETION (R278): bad_index or fault_addr and the status with bit 31 once every write of the card has
been performed, then the arrival once those have been. Where the card's page is on this device, both come in one
event. -/
def execGlazeCardCompletion (crew card : Nat) (s : State) : Outcome :=
  match s.cards.find? fun k => k.crew = crew && k.id = card with
  | none => notEnabled "GLAZE_CARD_COMPLETION"
  | some k =>
    match k.doneCode with
    | none => notEnabled "GLAZE_CARD_COMPLETION"
    | some code =>
      if cardSending s k then notEnabled "GLAZE_CARD_COMPLETION"
      else if k.posted then .next (cardLeave s k)
      else
        match cardPost s k code with
        | none => notEnabled "GLAZE_CARD_COMPLETION"
        | some (.error f) => .fault f
        | some (.ok s1) => .next (if s1.cards.any (fun x => x.id == k.id && x.posted) && !cardSending s1 k then cardLeave s1 k else s1)

end Sys2Proof.Machine
end

