-- ==== Sys2Proof/Machine/Scalar.lean ====
section
/-! DEFINITION. Scalar arithmetic, addresses, predicates, random words, control transfer and loops: spec 10 R163 to
R174, R179, R180. Each meaning goes through the checks of 09 R142 (issue). -/
namespace Sys2Proof.Machine

/-- The signed 128-bit product, high half (R163). -/
def mulHigh (a b : Word) : Word := BitVec.ofInt 64 (a.toInt * b.toInt / 2 ^ 64)

/-- The unsigned 128-bit product, high half (R163). -/
def mulHighU (a b : Word) : Word := BitVec.ofNat 64 (a.toNat * b.toNat / 2 ^ 64)

/-- Arithmetic shift right: floor of the signed value over a power of two (R163). -/
def sraWord (a : Word) (n : Nat) : Word := a.sshiftRight n

/-- The number of leading zero bits (R163). -/
def clzWord (a : Word) : Nat := if a = 0#64 then 64 else 63 - Nat.log2 a.toNat

/-- The number of trailing zero bits (R163). -/
def ctzWord (a : Word) : Nat := if a = 0#64 then 64 else ctzNat 64 a.toNat

/-- The number of one bits (R163). -/
def popWord (a : Word) : Nat := ((List.range 64).filter fun i => a.getLsbD i).length

/-- The quotient towards zero and the remainder with the dividend's sign, signed (R163, R164). -/
def divSigned (a b : Word) : Word × Word :=
  if b = 0#64 then (BitVec.allOnes 64, a) else (BitVec.ofInt 64 (a.toInt.tdiv b.toInt), BitVec.ofInt 64 (a.toInt.tmod b.toInt))

/-- The unsigned quotient and remainder (R164). -/
def divUnsigned (a b : Word) : Word × Word :=
  if b = 0#64 then (BitVec.allOnes 64, a) else (a / b, a % b)

/-- A register-register form (R163). -/
def aluBody (f : Word → Word → Word) (sd sa sb : BitVec 5) : Body :=
  pureBody fun x => x.setReg sd (f (x.reg sa) (x.reg sb))

/-- A division form: DIV0 with the dividend in TVAL when the divisor is zero and TSTAT.div0_trap is 1 (R164). -/
def divBody (f : Word → Word → Word) (sd sa sb : BitVec 5) : Body := fun s =>
  let x := s.me
  if x.reg sb = 0#64 ∧ x.div0 = true then .error (.trap cDiv0 (x.reg sa))
  else .ok (s.setMe (x.setReg sd (f (x.reg sa) (x.reg sb))), none)

/-- The cycles a division takes, every one charged ISSUE at its PC (19 R309). -/
def divSlots : Nat := 20

/-- A form with one source (R163). -/
def unaryBody (f : Word → Nat) (sd sa : BitVec 5) : Body :=
  pureBody fun x => x.setReg sd (BitVec.ofNat 64 (f (x.reg sa)))

/-- ADD (R163). -/
def execAdd (p : BitVec 4) (sd sa sb : BitVec 5) (s : State) : Outcome :=
  issue (.add p sd sa sb) anyKind p false (aluBody (fun a b => a + b) sd sa sb) s

/-- SUB (R163). -/
def execSub (p : BitVec 4) (sd sa sb : BitVec 5) (s : State) : Outcome :=
  issue (.sub p sd sa sb) anyKind p false (aluBody (fun a b => a - b) sd sa sb) s

/-- AND (R163). -/
def execAnd (p : BitVec 4) (sd sa sb : BitVec 5) (s : State) : Outcome :=
  issue (.and p sd sa sb) anyKind p false (aluBody (fun a b => a &&& b) sd sa sb) s

/-- OR (R163). -/
def execOr (p : BitVec 4) (sd sa sb : BitVec 5) (s : State) : Outcome :=
  issue (.or p sd sa sb) anyKind p false (aluBody (fun a b => a ||| b) sd sa sb) s

/-- XOR (R163). -/
def execXor (p : BitVec 4) (sd sa sb : BitVec 5) (s : State) : Outcome :=
  issue (.xor p sd sa sb) anyKind p false (aluBody (fun a b => a ^^^ b) sd sa sb) s

/-- SLL (R163). -/
def execSll (p : BitVec 4) (sd sa sb : BitVec 5) (s : State) : Outcome :=
  issue (.sll p sd sa sb) anyKind p false (aluBody (fun a b => a <<< (b.toNat % 64)) sd sa sb) s

/-- SRL (R163). -/
def execSrl (p : BitVec 4) (sd sa sb : BitVec 5) (s : State) : Outcome :=
  issue (.srl p sd sa sb) anyKind p false (aluBody (fun a b => a >>> (b.toNat % 64)) sd sa sb) s

/-- SRA (R163). -/
def execSra (p : BitVec 4) (sd sa sb : BitVec 5) (s : State) : Outcome :=
  issue (.sra p sd sa sb) anyKind p false (aluBody (fun a b => sraWord a (b.toNat % 64)) sd sa sb) s

/-- MUL (R163). -/
def execMul (p : BitVec 4) (sd sa sb : BitVec 5) (s : State) : Outcome :=
  issue (.mul p sd sa sb) anyKind p false (aluBody (fun a b => a * b) sd sa sb) s

/-- MULH (R163). -/
def execMulh (p : BitVec 4) (sd sa sb : BitVec 5) (s : State) : Outcome :=
  issue (.mulh p sd sa sb) anyKind p false (aluBody (fun a b => mulHigh a b) sd sa sb) s

/-- MULHU (R163). -/
def execMulhu (p : BitVec 4) (sd sa sb : BitVec 5) (s : State) : Outcome :=
  issue (.mulhu p sd sa sb) anyKind p false (aluBody (fun a b => mulHighU a b) sd sa sb) s

/-- DIV (R164). -/
def execDiv (p : BitVec 4) (sd sa sb : BitVec 5) (s : State) : Outcome :=
  issue (.div p sd sa sb) anyKind p false (divBody (fun a b => (divSigned a b).1) sd sa sb) s divSlots

/-- DIVU (R164). -/
def execDivu (p : BitVec 4) (sd sa sb : BitVec 5) (s : State) : Outcome :=
  issue (.divu p sd sa sb) anyKind p false (divBody (fun a b => (divUnsigned a b).1) sd sa sb) s divSlots

/-- REM (R164). -/
def execRem (p : BitVec 4) (sd sa sb : BitVec 5) (s : State) : Outcome :=
  issue (.rem p sd sa sb) anyKind p false (divBody (fun a b => (divSigned a b).2) sd sa sb) s divSlots

/-- REMU (R164). -/
def execRemu (p : BitVec 4) (sd sa sb : BitVec 5) (s : State) : Outcome :=
  issue (.remu p sd sa sb) anyKind p false (divBody (fun a b => (divUnsigned a b).2) sd sa sb) s divSlots

/-- MIN (R163). -/
def execMin (p : BitVec 4) (sd sa sb : BitVec 5) (s : State) : Outcome :=
  issue (.min p sd sa sb) anyKind p false (aluBody (fun a b => if b.slt a then b else a) sd sa sb) s

/-- MAX (R163). -/
def execMax (p : BitVec 4) (sd sa sb : BitVec 5) (s : State) : Outcome :=
  issue (.max p sd sa sb) anyKind p false (aluBody (fun a b => if a.slt b then b else a) sd sa sb) s

/-- MINU (R163). -/
def execMinu (p : BitVec 4) (sd sa sb : BitVec 5) (s : State) : Outcome :=
  issue (.minu p sd sa sb) anyKind p false (aluBody (fun a b => if b.ult a then b else a) sd sa sb) s

/-- MAXU (R163). -/
def execMaxu (p : BitVec 4) (sd sa sb : BitVec 5) (s : State) : Outcome :=
  issue (.maxu p sd sa sb) anyKind p false (aluBody (fun a b => if a.ult b then b else a) sd sa sb) s

/-- CLZ (R163). -/
def execClz (p : BitVec 4) (sd sa : BitVec 5) (s : State) : Outcome :=
  issue (.clz p sd sa) anyKind p false (unaryBody clzWord sd sa) s

/-- CTZ (R163). -/
def execCtz (p : BitVec 4) (sd sa : BitVec 5) (s : State) : Outcome :=
  issue (.ctz p sd sa) anyKind p false (unaryBody ctzWord sd sa) s

/-- POPC (R163). -/
def execPopc (p : BitVec 4) (sd sa : BitVec 5) (s : State) : Outcome :=
  issue (.popc p sd sa) anyKind p false (unaryBody popWord sd sa) s

/-! ## Immediates (R165): formats I and U carry no predicate -/

/-- The predicate field of a format without one: it always executes (09 R140). -/
def always : BitVec 4 := 0#4

/-- A form with a register and an immediate (R165). -/
def immBody (f : Word → Word) (sd sa : BitVec 5) : Body := pureBody fun x => x.setReg sd (f (x.reg sa))

/-- ADDI (R165). -/
def execAddi (sd sa : BitVec 5) (imm : BitVec 16) (s : State) : Outcome :=
  issue (.addi sd sa imm) anyKind always false (immBody (fun a => a + imm.signExtend 64) sd sa) s

/-- ANDI (R165). -/
def execAndi (sd sa : BitVec 5) (imm : BitVec 16) (s : State) : Outcome :=
  issue (.andi sd sa imm) anyKind always false (immBody (fun a => a &&& imm.signExtend 64) sd sa) s

/-- ORI (R165). -/
def execOri (sd sa : BitVec 5) (imm : BitVec 16) (s : State) : Outcome :=
  issue (.ori sd sa imm) anyKind always false (immBody (fun a => a ||| imm.signExtend 64) sd sa) s

/-- XORI (R165). -/
def execXori (sd sa : BitVec 5) (imm : BitVec 16) (s : State) : Outcome :=
  issue (.xori sd sa imm) anyKind always false (immBody (fun a => a ^^^ imm.signExtend 64) sd sa) s

/-- SLLI (R165). -/
def execSlli (sd sa : BitVec 5) (n : BitVec 6) (s : State) : Outcome :=
  issue (.slli sd sa n) anyKind always false (immBody (fun a => a <<< n.toNat) sd sa) s

/-- SRLI (R165). -/
def execSrli (sd sa : BitVec 5) (n : BitVec 6) (s : State) : Outcome :=
  issue (.srli sd sa n) anyKind always false (immBody (fun a => a >>> n.toNat) sd sa) s

/-- SRAI (R165). -/
def execSrai (sd sa : BitVec 5) (n : BitVec 6) (s : State) : Outcome :=
  issue (.srai sd sa n) anyKind always false (immBody (fun a => sraWord a n.toNat) sd sa) s

/-- LUI (R165): imm21, sign-extended, times 2^16. -/
def execLui (sd : BitVec 5) (imm : BitVec 21) (s : State) : Outcome :=
  issue (.lui sd imm) anyKind always false (pureBody fun x => x.setReg sd (imm.signExtend 64 <<< 16)) s

/-- LI32 (R165). -/
def execLi32 (p : BitVec 4) (sd : BitVec 5) (imm : BitVec 32) (s : State) : Outcome :=
  issue (.li32 p sd imm) anyKind p false (pureBody fun x => x.setReg sd (imm.signExtend 64)) s

/-- LIH (R165): imm in the high half, the low half of sd kept. -/
def execLih (p : BitVec 4) (sd : BitVec 5) (imm : BitVec 32) (s : State) : Outcome :=
  issue (.lih p sd imm) anyKind p false
    (pureBody fun x => x.setReg sd (imm ++ (x.reg sd).extractLsb' 0 32)) s

/-! ## Compare and predicate logic (R167, R168) -/

/-- CMP (R167). -/
def execCmp (p : BitVec 4) (pd : BitVec 3) (cond : BitVec 4) (sa sb : BitVec 5) (s : State) : Outcome :=
  issue (.cmp p pd cond sa sb) anyKind p false
    (pureBody fun x => x.setPred pd (condHolds cond.toNat (x.reg sa) (x.reg sb))) s

/-- CMPI (R167). -/
def execCmpi (pd : BitVec 3) (cond : BitVec 4) (sa : BitVec 5) (imm : BitVec 14) (s : State) : Outcome :=
  issue (.cmpi pd cond sa imm) anyKind always false
    (pureBody fun x => x.setPred pd (condHolds cond.toNat (x.reg sa) (imm.signExtend 64))) s

/-- A predicate logic form (R168). -/
def predBody (fn : Nat) (pd pa pb : BitVec 3) : Body :=
  pureBody fun x => x.setPred pd (predLogic fn (x.pred pa) (x.pred pb))

/-- PAND (R168). -/
def execPand (p : BitVec 4) (pd pa pb : BitVec 3) (s : State) : Outcome :=
  issue (.pand p pd pa pb) anyKind p false (predBody 0 pd pa pb) s

/-- POR (R168). -/
def execPor (p : BitVec 4) (pd pa pb : BitVec 3) (s : State) : Outcome :=
  issue (.por p pd pa pb) anyKind p false (predBody 1 pd pa pb) s

/-- PXOR (R168). -/
def execPxor (p : BitVec 4) (pd pa pb : BitVec 3) (s : State) : Outcome :=
  issue (.pxor p pd pa pb) anyKind p false (predBody 2 pd pa pb) s

/-- PANDN (R168). -/
def execPandn (p : BitVec 4) (pd pa pb : BitVec 3) (s : State) : Outcome :=
  issue (.pandn p pd pa pb) anyKind p false (predBody 3 pd pa pb) s

/-- PORN (R168). -/
def execPorn (p : BitVec 4) (pd pa pb : BitVec 3) (s : State) : Outcome :=
  issue (.porn p pd pa pb) anyKind p false (predBody 4 pd pa pb) s

/-! ## Addresses and tags (R166) -/

/-- LEA (R166): the sum keeps its space and obeys R41, or SPACE_INVALID with the sum. -/
def leaBody (sd sa sb : BitVec 5) : Body := fun s =>
  let x := s.me
  let p := x.reg sa + x.reg sb
  if spaceOf p = spaceOf (x.reg sa) ∧ ptrOk p = true then .ok (s.setMe (x.setReg sd p), none)
  else .error (.trap cSpace p)

/-- LEA (R166). -/
def execLea (p : BitVec 4) (sd sa sb : BitVec 5) (s : State) : Outcome :=
  issue (.lea p sd sa sb) anyKind p false (leaBody sd sa sb) s

/-- TAG (R166). -/
def execTag (p : BitVec 4) (sd sa : BitVec 5) (sid : BitVec 4) (s : State) : Outcome :=
  issue (.tag p sd sa sid) anyKind p false
    (pureBody fun x => x.setReg sd (sid ++ (x.reg sa).extractLsb' 0 60)) s

/-- SPACE (R166). -/
def execSpace (p : BitVec 4) (sd sa : BitVec 5) (s : State) : Outcome :=
  issue (.space p sd sa) anyKind p false
    (pureBody fun x => x.setReg sd (BitVec.ofNat 64 (spaceOf (x.reg sa)))) s

/-! ## Random words (R179, R180) -/

/-- One draw of a strand's context stream (06 R95). -/
def drawCtx (x : Strand) : Word × Strand :=
  (rngOut x.rngkey dContext 0 x.rngctr.toNat, { x with rngctr := x.rngctr + 1#40 })

/-- RNG (R179). -/
def execRng (p : BitVec 4) (sd : BitVec 5) (s : State) : Outcome :=
  issue (.rng p sd) anyKind p false
    (pureBody fun x => let d := drawCtx x; d.2.setReg sd d.1) s

/-- RNGC (R180): a set reserved bit is ILLEGAL with the instruction's word in TVAL (DEDUCED, assumption log 46). -/
def rngcBody (i : Instr) (sd sn : BitVec 5) : Body := fun s =>
  let x := s.me
  let r (i : Nat) : Word := x.regN (sn.toNat + i)
  if (r 2).bits 63 24 ≠ 0 ∨ (r 3).bits 63 40 ≠ 0 then illegalWords i
  else .ok (s.setMe (x.setReg sd (rngOut (r 0) (r 1) (r 2).toNat (r 3).toNat)), none)

/-- RNGC (R180). -/
def execRngc (p : BitVec 4) (sd sn : BitVec 5) (s : State) : Outcome :=
  issue (.rngc p sd sn) anyKind p false (rngcBody (.rngc p sd sn) sd sn) s

/-! ## Control transfer (R169 to R171, R174) -/

/-- A checked transfer that may leave loops (R171, R174); upd changes the strand first. -/
def jumpBody (leaves : Bool) (target : Strand → Word) (upd : Strand → Strand) : Body := fun s =>
  let x := s.me
  let t := target x
  match targetTrap t with
  | some c => .error (.trap c t)
  | none =>
    if leaves then
      let r := leaveLoops (upd x) x.pc t
      .ok (snapshots (s.setMe r.1) r.2, some t)
    else .ok (s.setMe (upd x), some t)

/-- BR (R169): taken when its predicate holds. -/
def execBr (p : BitVec 4) (disp : BitVec 22) (s : State) : Outcome :=
  issue (.br p disp) anyKind p false (jumpBody true (fun x => x.pc + disp.signExtend 64 <<< 2) id) s

/-- JMP (R169). -/
def execJmp (disp : BitVec 26) (s : State) : Outcome :=
  issue (.jmp disp) anyKind always false (jumpBody true (fun x => x.pc + disp.signExtend 64 <<< 2) id) s

/-- CALL (R169). -/
def execCall (disp : BitVec 26) (s : State) : Outcome :=
  issue (.call disp) anyKind always false
    (jumpBody false (fun x => x.pc + disp.signExtend 64 <<< 2) fun x => x.setReg 1#5 (x.pc + 4#64)) s

/-- JR (R170). -/
def execJr (p : BitVec 4) (sa : BitVec 5) (s : State) : Outcome :=
  issue (.jr p sa) anyKind p false (jumpBody true (fun x => x.reg sa) id) s

/-- CALLR (R170): sa is read before s1 is written. -/
def execCallr (p : BitVec 4) (sa : BitVec 5) (s : State) : Outcome :=
  issue (.callr p sa) anyKind p false
    (jumpBody false (fun x => x.reg sa) fun x => x.setReg 1#5 (x.pc + 4#64)) s

/-! ## Hardware loops (R172, R173) -/

/-- The word at a code address, fetched with X permission (R171); one on another device's page is asked for there (26
R389). -/
def fetchWord (s : State) (pc : Word) : Res (State × W32) :=
  match targetTrap pc with
  | some c => .error (.trap c pc)
  | none =>
    match agentPlaces (fetchAgent s) 4#3 qFetch 0 2 pc 4 s with
    | .error e => .error e
    | .ok (s1, ps) =>
      match agentBytes (fetchAgent s) s1 pc ps with
      | .error (.wait _ s2) => .error (.wait qFetch s2)
      | .error e => .error e
      | .ok (s2, bs) => .ok (s2, BitVec.ofNat 32 (leNat bs))

/-- The new body partly overlaps an active loop's (R172). -/
def overlaps (x : Strand) (start last : Word) : Bool :=
  ([0, 1, 2, 3] : List (Fin 4)).any fun id =>
    let l := x.loop id
    let inside := l.start.toNat ≤ start.toNat && last.toNat ≤ l.last.toNat
    let apart := last.toNat < l.start.toNat || l.last.toNat < start.toNat
    l.active && !inside && !apart

/-- The loop instruction (R172, R173). What it does when the word at the end address cannot be fetched is the model's
choice (DESIGN CHOICE, assumption log 62): the cause of the fetch with that address in TVAL, or a wait. -/
def loopBody (i : Instr) (id : BitVec 2) (stages : BitVec 3) (sa : BitVec 5) (off : BitVec 16) : Body := fun s =>
  let x := s.me
  let n := x.reg sa
  let idf : Fin 4 := ⟨id.toNat, by omega⟩
  let start := x.pc + 4#64
  let last := x.pc + BitVec.ofNat 64 (4 * off.toNat)
  let staged := ([0, 1, 2, 3] : List (Fin 4)).any fun j => (x.loop j).active && 0 < (x.loop j).stages
  if 2 ^ 32 ≤ n.toNat ∨ (x.loop idf).active = true ∨ (stages ≠ 0#3 ∧ staged = true) ∨ overlaps x start last = true then
    illegalWords i
  else
    match fetchWord s last with
    | .error e => .error e
    | .ok (s1, w) =>
      if 0x10 ≤ majorOf w ∧ majorOf w ≤ 0x14 then illegalWords i
      else if n = 0#64 then .ok (s1, some (last + (if isLong w then 8#64 else 4#64)))
      else
        let l : Loop := {
          active := true
          stages := stages.toNat
          trips := n.toNat
          i := 0
          start
          last
          level := x.level
          fresh := true }
        .ok (s1.setMe (stagePreds (x.setLoop idf l) stages.toNat n.toNat 0), none)

/-- LOOP (R172). -/
def execLoop (id : BitVec 2) (stages : BitVec 3) (sa : BitVec 5) (off : BitVec 16) (s : State) : Outcome :=
  issue (.loop id stages sa off) anyKind always false (loopBody (.loop id stages sa off) id stages sa off) s

end Sys2Proof.Machine
end

