-- ==== Sys2Proof/Machine/Mem.lean ====
section
/-! DEFINITION. Scalar loads, stores and atomics: spec 10 R175 to R178. An access to this device's memory is performed
whole and at once, so its class, scope and mask order nothing further (assumption log 6); they order what is on its
way to another device. -/
namespace Sys2Proof.Machine

/-- A load of n bytes with class c at the address that the strand's registers give (R176); more are the further
classes whose later accesses wait for it. -/
def loadBody (sd : BitVec 5) (addr : Strand → Word) (n : Nat) (sext : Bool) (z c : Nat) (more : BitVec 16 := 0#16) : Body :=
  inClass c fun s =>
    match loadReg s (addr s.me) n z sd sext c more with
    | .error e => .error e
    | .ok s1 => .ok (s1, none)

/-- A store of the low n bytes of a register with class c (R176). -/
def storeBody (sb : BitVec 5) (addr : Strand → Word) (n : Nat) (z c : Nat) : Body := inClass c fun s =>
  match storeBytes s (addr s.me) (leBytes n (s.me.reg sb).toNat) z n c with
  | .error e => .error e
  | .ok s1 => .ok (s1, none)

/-- A release: it waits, charged to MEM_WAIT, until the strand's earlier accesses with a class of the mask have been
performed (04 R62, R64). -/
def releaseBody (mask : BitVec 16) (body : Body) : Body := fun s =>
  match body s with
  | .ok r => if maskHeld s mask then .error (.wait qMem s) else .ok r
  | e => e

/-- The address of a short form (R175). -/
def shortAddr (sa : BitVec 5) (off : BitVec 16) (x : Strand) : Word := x.reg sa + off.signExtend 64

/-- The address of a long form (R176). -/
def longAddr (sa si : BitVec 5) (off : BitVec 21) (x : Strand) : Word := x.reg sa + x.reg si + off.signExtend 64

/-- LDB (R175). -/
def execLdb (sd sa : BitVec 5) (off : BitVec 16) (s : State) : Outcome :=
  issue (.ldb sd sa off) memKinds always false (loadBody sd (shortAddr sa off) 1 true 0 0) s

/-- LDBU (R175). -/
def execLdbu (sd sa : BitVec 5) (off : BitVec 16) (s : State) : Outcome :=
  issue (.ldbu sd sa off) memKinds always false (loadBody sd (shortAddr sa off) 1 false 0 0) s

/-- LDH (R175). -/
def execLdh (sd sa : BitVec 5) (off : BitVec 16) (s : State) : Outcome :=
  issue (.ldh sd sa off) memKinds always false (loadBody sd (shortAddr sa off) 2 true 0 0) s

/-- LDHU (R175). -/
def execLdhu (sd sa : BitVec 5) (off : BitVec 16) (s : State) : Outcome :=
  issue (.ldhu sd sa off) memKinds always false (loadBody sd (shortAddr sa off) 2 false 0 0) s

/-- LDW (R175). -/
def execLdw (sd sa : BitVec 5) (off : BitVec 16) (s : State) : Outcome :=
  issue (.ldw sd sa off) memKinds always false (loadBody sd (shortAddr sa off) 4 true 0 0) s

/-- LDWU (R175). -/
def execLdwu (sd sa : BitVec 5) (off : BitVec 16) (s : State) : Outcome :=
  issue (.ldwu sd sa off) memKinds always false (loadBody sd (shortAddr sa off) 4 false 0 0) s

/-- LDD (R175). -/
def execLdd (sd sa : BitVec 5) (off : BitVec 16) (s : State) : Outcome :=
  issue (.ldd sd sa off) memKinds always false (loadBody sd (shortAddr sa off) 8 false 0 0) s

/-- STB (R175). -/
def execStb (sb sa : BitVec 5) (off : BitVec 16) (s : State) : Outcome :=
  issue (.stb sb sa off) memKinds always false (storeBody sb (shortAddr sa off) 1 0 0) s

/-- STH (R175). -/
def execSth (sb sa : BitVec 5) (off : BitVec 16) (s : State) : Outcome :=
  issue (.sth sb sa off) memKinds always false (storeBody sb (shortAddr sa off) 2 0 0) s

/-- STW (R175). -/
def execStw (sb sa : BitVec 5) (off : BitVec 16) (s : State) : Outcome :=
  issue (.stw sb sa off) memKinds always false (storeBody sb (shortAddr sa off) 4 0 0) s

/-- STD (R175). -/
def execStd (sb sa : BitVec 5) (off : BitVec 16) (s : State) : Outcome :=
  issue (.std sb sa off) memKinds always false (storeBody sb (shortAddr sa off) 8 0 0) s

/-- LDX (R176). -/
def execLdx (p : BitVec 4) (sd sa si : BitVec 5) (size : BitVec 2) (sext : BitVec 1) (z : BitVec 3) (cls : BitVec 4)
    (off : BitVec 21) (s : State) : Outcome :=
  issue (.ldx p sd sa si size sext z cls off) memKinds p false
    (loadBody sd (longAddr sa si off) (2 ^ size.toNat) (sext == 1#1) z.toNat cls.toNat) s

/-- STX (R176). -/
def execStx (p : BitVec 4) (sb sa si : BitVec 5) (size : BitVec 2) (z : BitVec 3) (cls : BitVec 4) (off : BitVec 21)
    (s : State) : Outcome :=
  issue (.stx p sb sa si size z cls off) memKinds p false
    (storeBody sb (longAddr sa si off) (2 ^ size.toNat) z.toNat cls.toNat) s

/-- LDX_ACQ (R177): 8 bytes, no offset; later accesses of the mask's classes come after it (04 R62). -/
def execLdxAcq (p : BitVec 4) (sd sa si : BitVec 5) (scope z : BitVec 3) (cls : BitVec 4) (mask : BitVec 16)
    (s : State) : Outcome :=
  issue (.ldxAcq p sd sa si scope z cls mask) memKinds p false
    (loadBody sd (longAddr sa si 0#21) 8 false z.toNat cls.toNat mask) s

/-- STX_REL (R177): 8 bytes, no offset. -/
def execStxRel (p : BitVec 4) (sb sa si : BitVec 5) (scope z : BitVec 3) (cls : BitVec 4) (mask : BitVec 16)
    (s : State) : Outcome :=
  issue (.stxRel p sb sa si scope z cls mask) memKinds p false
    (releaseBody mask (storeBody sb (longAddr sa si 0#21) 8 z.toNat cls.toNat)) s

/-- An atomic with function code fn on 4 or 8 bytes with class c (R178): the old value, zero-extended, goes to sd. -/
def amoBody (fn n : Nat) (sd sa sb sc : BitVec 5) (c : Nat) : Body := inClass c fun s =>
  let x := s.me
  match atomic s (x.reg sa) fn n ((x.reg sb).toNat % 2 ^ (8 * n)) ((x.reg sc).toNat % 2 ^ (8 * n)) sd c with
  | .error e => .error e
  | .ok s1 => .ok (s1, none)

/-- The bytes of an atomic by its size bit (09 R145). -/
def amoSize (size : BitVec 1) : Nat := if size = 1#1 then 8 else 4

/-- AMO_ADD (R178). -/
def execAmoAdd (p : BitVec 4) (sd sa sb : BitVec 5) (size : BitVec 1) (cls : BitVec 4) (s : State) : Outcome :=
  issue (.amoAdd p sd sa sb size cls) memKinds p false (amoBody 0 (amoSize size) sd sa sb 0#5 cls.toNat) s

/-- AMO_MIN (R178). -/
def execAmoMin (p : BitVec 4) (sd sa sb : BitVec 5) (size : BitVec 1) (cls : BitVec 4) (s : State) : Outcome :=
  issue (.amoMin p sd sa sb size cls) memKinds p false (amoBody 1 (amoSize size) sd sa sb 0#5 cls.toNat) s

/-- AMO_MAX (R178). -/
def execAmoMax (p : BitVec 4) (sd sa sb : BitVec 5) (size : BitVec 1) (cls : BitVec 4) (s : State) : Outcome :=
  issue (.amoMax p sd sa sb size cls) memKinds p false (amoBody 2 (amoSize size) sd sa sb 0#5 cls.toNat) s

/-- AMO_MINU (R178). -/
def execAmoMinu (p : BitVec 4) (sd sa sb : BitVec 5) (size : BitVec 1) (cls : BitVec 4) (s : State) : Outcome :=
  issue (.amoMinu p sd sa sb size cls) memKinds p false (amoBody 3 (amoSize size) sd sa sb 0#5 cls.toNat) s

/-- AMO_MAXU (R178). -/
def execAmoMaxu (p : BitVec 4) (sd sa sb : BitVec 5) (size : BitVec 1) (cls : BitVec 4) (s : State) : Outcome :=
  issue (.amoMaxu p sd sa sb size cls) memKinds p false (amoBody 4 (amoSize size) sd sa sb 0#5 cls.toNat) s

/-- AMO_AND (R178). -/
def execAmoAnd (p : BitVec 4) (sd sa sb : BitVec 5) (size : BitVec 1) (cls : BitVec 4) (s : State) : Outcome :=
  issue (.amoAnd p sd sa sb size cls) memKinds p false (amoBody 5 (amoSize size) sd sa sb 0#5 cls.toNat) s

/-- AMO_OR (R178). -/
def execAmoOr (p : BitVec 4) (sd sa sb : BitVec 5) (size : BitVec 1) (cls : BitVec 4) (s : State) : Outcome :=
  issue (.amoOr p sd sa sb size cls) memKinds p false (amoBody 6 (amoSize size) sd sa sb 0#5 cls.toNat) s

/-- AMO_XOR (R178). -/
def execAmoXor (p : BitVec 4) (sd sa sb : BitVec 5) (size : BitVec 1) (cls : BitVec 4) (s : State) : Outcome :=
  issue (.amoXor p sd sa sb size cls) memKinds p false (amoBody 7 (amoSize size) sd sa sb 0#5 cls.toNat) s

/-- AMO_SWP (R178). -/
def execAmoSwp (p : BitVec 4) (sd sa sb : BitVec 5) (size : BitVec 1) (cls : BitVec 4) (s : State) : Outcome :=
  issue (.amoSwp p sd sa sb size cls) memKinds p false (amoBody 8 (amoSize size) sd sa sb 0#5 cls.toNat) s

/-- CAS (R178): writes sc only where the old value equals sb. -/
def execCas (p : BitVec 4) (sd sa sb sc : BitVec 5) (size : BitVec 1) (cls : BitVec 4) (s : State) : Outcome :=
  issue (.cas p sd sa sb sc size cls) memKinds p false (amoBody 9 (amoSize size) sd sa sb sc cls.toNat) s

/-- AMO_FADD (R178): one RNE32 addition on 4 bytes. -/
def execAmoFadd (p : BitVec 4) (sd sa sb : BitVec 5) (cls : BitVec 4) (s : State) : Outcome :=
  issue (.amoFadd p sd sa sb cls) memKinds p false (amoBody 10 4 sd sa sb 0#5 cls.toNat) s

end Sys2Proof.Machine
end

