-- ==== Sys2Proof/Machine/System.lean ====
section
/-! DEFINITION. System instructions, tokens, mailboxes, gsync and waitt: spec 10 R181 to R191, with 02 R19 to R22,
R29, R30, R34 to R37; 04 R74; 07 R111. -/
namespace Sys2Proof.Machine

/-! ## exit, yield, traps -/

/-- The copy strand's exit waits: an operation of the engine is held or has units unchecked (R181, 13 R255); coll.open
has none. -/
def exitHeld (c : Crew) : Bool :=
  c.ops.any fun o => o.held.isSome || (o.opc != 0x10 && !o.finished)

/-- exit (R181): the strand ends at any trap level, once every earlier access has passed its checks (an access that
another device has yet to answer may still trap, 26 R387); a matrix strand gives up its lease once its array
instructions have completed, as arelease does (12 R219, R220). -/
def exitBody : Body := fun s =>
  let c := s.myCrew
  if (s.cur.2 = .c ∧ exitHeld c = true) ∨ s.me.late.isEmpty = false then .error (.wait qMem s)
  else if s.cur.2 = .m ∧ holdsLease s s.cur.1 = true ∧ arrayBusy c = true then .error (.wait (unitCause s) s)
  else
    let s := if s.cur.2 = .m ∧ holdsLease s s.cur.1 = true then endLease s (cuOf s.cur.1) else s
    .ok (s, none)

/-- Control instructions that end otherwise than by retiring: the interlock of R162 on their predicate, then the
predicate. -/
def controlIssue (i : Instr) (p : BitVec 4) (act : State → Outcome) (s : State) : Outcome :=
  match predWait s p with
  | some q => .next (holdMe q s)
  | none => if s.me.predHolds p then act s else .next (retire i s)

/-- The strand has exited: it is charged IDLE at the exit (07 R107), and runs no more. -/
def exitStrand (x : Strand) : Strand :=
  let y := x.useSlot.issued
  { y with
    exited := true
    cond := qIdle
    condPc := y.pc }

/-- EXIT (R181). -/
def execExit (p : BitVec 4) (s : State) : Outcome :=
  controlIssue (.exit p) p
    (fun s =>
      match exitBody s with
      | .ok (s1, _) => .next (s1.setMe (exitStrand s1.me))
      | e => finish (.exit p) s 1 e) s

/-- The reload value of a watchdog: values below 4,096 act as 4,096 (23 R359). -/
def wdogReload (x : Strand) : Nat := max x.wdog.toNat 4096

/-- The effects of yield on its strand (02 R34): the watchdog is reloaded. The Knead window holds nothing across
steps, and every store is visible at once (assumption log 6). -/
def yieldStrand (x : Strand) : Strand := { x with wleft := wdogReload x }

/-- YIELD (R182). -/
def execYield (p : BitVec 4) (s : State) : Outcome :=
  issue (.yield p) anyKind p false (pureBody yieldStrand) s

/-- The conditions of 02 R34: no copy pending and no lease held. Every pending operation of the copy engine counts as a
copy (14 R265; DESIGN CHOICE, assumption log 63). -/
def quietHere (s : State) (crew : Nat) : Bool := (s.crew crew).ops.isEmpty && !holdsLease s crew

/-- The conditions of a safe point (02 R34, 23 R366): those of R34, and every strand at level 0. -/
def safeHere (s : State) (crew : Nat) : Bool :=
  quietHere s crew && allKinds.all fun k => ((s.crew crew).str k).level == 0

/-- A marked crew at a safe point is to be saved (02 R35): a waiting alease withdraws its request (12 R219). -/
def reachSafe (s : State) : State :=
  let c := s.myCrew
  if c.mark.isSome ∧ safeHere s s.cur.1 = true then withdraw (s.setMyCrew { c with mark := some true }) s.cur.1 else s

/-- yield.safe on the scalar strand (02 R34): yield, and a safe point where the conditions hold. -/
def yieldSafeBody : Body := fun s =>
  let s := s.setMe (yieldStrand s.me)
  .ok (if s.cur.2 = .s then reachSafe s else s, none)

/-- YIELD_SAFE (R182). -/
def execYieldSafe (p : BitVec 4) (s : State) : Outcome :=
  issue (.yieldSafe p) anyKind p false yieldSafeBody s

/-- TRET (R184): ILLEGAL at level 0; it waits while a value that another device sends to a load of its level has not
arrived (assumption log 61); a TEPC that fails R171 faults at the tret, the level unchanged (23 R359). -/
def execTret (p : BitVec 4) (s : State) : Outcome :=
  controlIssue (.tret p) p
    (fun s =>
      let x := s.me
      if x.level = 0 then .next (trapMe s cIllegal (wordsVal (.tret p)))
      else if x.late.any fun l => l.level == x.level then .next (holdMe qMem s)
      else
        match targetTrap (x.trapRegs x.level).epc with
        | some c => .next (trapMe s c (x.trapRegs x.level).epc)
        | none => .next (trapReturn s)) s

/-- A software trap (R183): the cause, TVAL and the resume PC. -/
def softTrap (s : State) (cause : Nat) (imm : BitVec 16) (epc : Word) : Outcome :=
  .next (takeTrap (s.setMe s.me.useSlot.begun) s.cur.1 s.cur.2 cause 0 (imm.zeroExtend 64) epc)

/-- TRAP (R183): TEPC is the next PC. -/
def execTrap (p : BitVec 4) (imm : BitVec 16) (s : State) : Outcome :=
  controlIssue (.trap p imm) p
    (fun s => softTrap s cSoftware imm (s.me.pc + BitVec.ofNat 64 (s.me.lenOf (.trap p imm)))) s

/-- BKPT (R183): TEPC is the bkpt. -/
def execBkpt (p : BitVec 4) (imm : BitVec 16) (s : State) : Outcome :=
  controlIssue (.bkpt p imm) p (fun s => softTrap s cBkpt imm s.me.pc) s

/-! ## acctflush and fence -/

/-- A trap of the account writes as a trap of the instruction: the account no longer waits. -/
def acctStop (s : State) (e : Stop) : Stop :=
  match e with
  | .trap c v => .xtrap c v (e.left s (.acct s.cur.1))
  | .xtrap c v _ => .xtrap c v (e.left s (.acct s.cur.1))
  | e => e

/-- Account writes of the crew are on their way to another device. -/
def acctPending (s : State) (crew : Nat) : Bool := s.remote.any fun r => !r.load && r.agent == some (.acct crew)

/-- acctflush (R185, 07 R111): the flush; a faulting account write is raised here with its address, and nothing of
the flush is then done; one that stalls, or has yet to be performed, holds the strand. -/
def acctflushBody : Body := fun s =>
  match flushReady true s s.cur.1 with
  | .error e => .error (acctStop s e)
  | .ok s1 =>
    let s2 := acctFlush s1 s1.cur.1
    if acctPending s2 s2.cur.1 then .error (.wait qMem (s2.setMe { s2.me with owed := true })) else .ok (s2, none)

/-- ACCTFLUSH (R185). -/
def execAcctflush (p : BitVec 4) (s : State) : Outcome :=
  if s.me.owed then
    (if acctPending s s.cur.1 then .next (holdMe qMem s)
     else .next (retire (.acctflush p) (s.setMe { s.me with owed := false })))
  else issue (.acctflush p) anyKind p false acctflushBody s

/-- FENCE (R186): the strand waits, charged to MEM_WAIT, until its earlier accesses with a class of the mask have been
performed; those to this device's memory have been at every scope (assumption log 6). -/
def execFence (p : BitVec 4) (scope : BitVec 3) (mask : BitVec 16) (s : State) : Outcome :=
  issue (.fence p scope mask) anyKind p false (releaseBody mask (pureBody id)) s

/-! ## System registers (09 R160) -/

/-- TSTAT (23 R359). -/
def tstat (x : Strand) : Word := BitVec.ofNat 64 ((if x.div0 then 256 else 0) + x.level)

/-- The value of a system register (R187, 09 R160). -/
def readSys (s : State) (n : Nat) : Word :=
  let x := s.me
  let c := s.myCrew
  match n with
  | 0x00 => BitVec.ofNat 64 (s.cuCycle (cuOf s.cur.1))
  | 0x01 => tstat x
  | 0x02 => x.tvec
  | 0x03 => x.tsave
  | 0x04 => x.wdog.zeroExtend 64
  | 0x05 => c.kperm.zeroExtend 64
  | 0x08 => x.t1.epc
  | 0x09 => x.t1.cause
  | 0x0A => x.t1.val
  | 0x0B => x.t1.scr
  | 0x0C => x.t2.epc
  | 0x0D => x.t2.cause
  | 0x0E => x.t2.val
  | 0x0F => x.t2.scr
  | 0x10 => c.acctbase
  | 0x11 => c.energy
  | 0x12 => mxthrot s (cuOf s.cur.1)
  | 0x13 => x.lstop
  | 0x14 => c.astat.zeroExtend 64
  | 0x18 => x.rngkey
  | 0x19 => x.rngctr.zeroExtend 64
  | _ => BitVec.ofNat 64 (horizonOf s c.tenant)

/-- mtsr raises PRIV on WDOG and KPERM (R160). -/
def sysPriv (n : Nat) : Bool := n == 4 || n == 5

/-- The strand or crew after a write to a system register; read-only registers ignore it (R160, R187). -/
def writeSys (s : State) (n : Nat) (v : Word) : State :=
  let x := s.me
  match n with
  | 0x01 => s.setMe { x with div0 := v.getLsbD 8 }
  | 0x02 => s.setMe { x with tvec := v &&& 0x01FFFFFFFFFFFFFD#64 }
  | 0x03 => s.setMe { x with tsave := v }
  | 0x08 => s.setMe { x with t1 := { x.t1 with epc := v } }
  | 0x09 => s.setMe { x with t1 := { x.t1 with cause := v &&& 0x7FF#64 } }
  | 0x0A => s.setMe { x with t1 := { x.t1 with val := v } }
  | 0x0B => s.setMe { x with t1 := { x.t1 with scr := v } }
  | 0x0C => s.setMe { x with t2 := { x.t2 with epc := v } }
  | 0x0D => s.setMe { x with t2 := { x.t2 with cause := v &&& 0x7FF#64 } }
  | 0x0E => s.setMe { x with t2 := { x.t2 with val := v } }
  | 0x0F => s.setMe { x with t2 := { x.t2 with scr := v } }
  | 0x13 => s.setMe { x with lstop := v &&& 0x8000FFFFFFFFFF0C#64 }
  | 0x14 => s.setMyCrew (clearAstat s.myCrew v)
  | 0x18 => s.setMe { x with rngkey := v }
  | 0x19 => s.setMe { x with rngctr := v.extractLsb' 0 40 }
  | _ => s

/-- MFSR (R187). -/
def execMfsr (p : BitVec 4) (sd : BitVec 5) (num : BitVec 11) (s : State) : Outcome :=
  issue (.mfsr p sd num) anyKind p false
    (fun s => .ok (s.setMe (s.me.setReg sd (readSys s num.toNat)), none)) s

/-- MTSR (R187). -/
def execMtsr (p : BitVec 4) (sa : BitVec 5) (num : BitVec 11) (s : State) : Outcome :=
  let i : Instr := .mtsr p sa num
  issue i anyKind p false
    (fun s =>
      if sysPriv num.toNat then .error (.trap cPriv (wordsVal i))
      else .ok (writeSys s num.toNat (s.me.reg sa), none)) s

/-! ## Sleep (R191, 04 R74) -/

/-- The check of waitt at wake: every promise of the crew not later than v and not yet acquired has completed. -/
def promisesKept (c : Crew) (v : Word) : Bool :=
  c.promises.all fun p => !(p.cycle.toNat ≤ v.toNat) || p.acquired || p.done

/-- The promises not later than v are acquired. -/
def acquirePromises (c : Crew) (v : Word) : Crew :=
  { c with promises := c.promises.map fun p => if p.cycle.toNat ≤ v.toNat then { p with acquired := true } else p }

/-- waitt on the value v (R74): sleep, then check and acquire, or PROMISE_MISSED with v. -/
def waittBody (v : Word) : Body := fun s =>
  if s.cuCycle (cuOf s.cur.1) < v.toNat then .error (.wait qSleep s)
  else if promisesKept s.myCrew v then .ok (s.setMyCrew (acquirePromises s.myCrew v), none)
  else .error (.trap cPromise v)

/-- WAITT (R191). -/
def execWaitt (p : BitVec 4) (sa : BitVec 5) (s : State) : Outcome :=
  issue (.waitt p sa) anyKind p false (fun s => waittBody (s.me.reg sa) s) s

/-! ## Tokens (R188) -/

/-- A release that its strand executes (02 R22): it waits, charged to MEM_WAIT, until every earlier access is
performed. -/
def releaseAll (body : Body) : Body := fun s =>
  match body s with
  | .ok r => if (mine s).isEmpty then .ok r else .error (.wait qMem s)
  | e => e

/-- TKPUSH (R188): a mask of 0 is ILLEGAL; it waits while a counter is at 15. -/
def execTkpush (p : BitVec 4) (mask : BitVec 3) (s : State) : Outcome :=
  let i : Instr := .tkpush p mask
  issue i [.s] p false
    (releaseAll fun s =>
      if mask = 0#3 then illegalWords i
      else if s.myCrew.canPost .s mask then .ok (s.setMyCrew (s.myCrew.post .s mask), none)
      else .error (.wait qToken s)) s

/-- TKPOP (R188): it waits while a counter is 0. -/
def execTkpop (p : BitVec 4) (mask : BitVec 3) (s : State) : Outcome :=
  let i : Instr := .tkpop p mask
  issue i [.s] p false
    (fun s =>
      if mask = 0#3 then illegalWords i
      else if s.myCrew.canTake .s mask then .ok (s.setMyCrew (s.myCrew.take .s mask), none)
      else .error (.wait qToken s)) s

/-! ## Mailboxes (R189) -/

/-- Mailbox q of a crew. -/
def Crew.mail (c : Crew) (q : BitVec 3) : Word := c.qs.get q.toFin

/-- A mailbox write (R189); one of a crew that is being zeroed waits (03 R54). -/
def qwrBody (sa : BitVec 5) (q : BitVec 3) (f : BitVec 1) : Body := fun s =>
  let c := s.myCrew
  let i := 26 + q.toNat
  if c.zeroing || c.writeWaits s.cur.2 i (f == 1#1) then .error (.wait qTile s)
  else
    let c' := (c.setFe i (c.writeEnd i (f == 1#1) false))
    .ok (s.setMyCrew { c' with qs := c'.qs.set q.toNat (s.me.reg sa) (by omega) }, none)

/-- QWR (R189); with :f it is a release (02 R22). -/
def execQwr (p : BitVec 4) (sa : BitVec 5) (q : BitVec 3) (f : BitVec 1) (s : State) : Outcome :=
  issue (.qwr p sa q f) anyKind p false (if f = 1#1 then releaseAll (qwrBody sa q f) else qwrBody sa q f) s

/-- QRD (R189). -/
def execQrd (p : BitVec 4) (sd : BitVec 5) (q : BitVec 3) (e : BitVec 1) (s : State) : Outcome :=
  issue (.qrd p sd q e) anyKind p false
    (fun s =>
      let c := s.myCrew
      let i := 26 + q.toNat
      if c.zeroing || c.readWaits i (e == 1#1) then .error (.wait qTile s)
      else
        let s := if e = 1#1 then s.setMyCrew (c.setFe i .empty) else s
        .ok (s.setMe (s.me.setReg sd (c.mail q)), none)) s

/-! ## gsync (R190, 02 R29, R30) -/

/-- The slot of group g among the task's groups, none when it is not a member. -/
def groupSlot (gmask : BitVec 4) (grps : List Nat) (g : Nat) : Option Nat :=
  (List.range 4).find? fun k => gmask.getLsbD k && grps.getD k 256 == g

/-- The arrivals of a node at group g. -/
def Node.roundsOf (n : Node) (g : Nat) : Option Nat :=
  (groupSlot n.gmask n.grps g).map fun k => n.rounds.getD k 0

/-- The launch of an id. -/
def State.launch (s : State) (id : Nat) : Option Launch := s.launches.find? fun l => l.id = id

/-- The state with launch l in place of the one of its id. -/
def State.setLaunch (s : State) (l : Launch) : State :=
  { s with launches := s.launches.map fun x => if x.id = l.id then l else x }

/-- The launch with node t changed. -/
def Launch.mapNode (l : Launch) (t : Nat) (f : Node → Node) : Launch :=
  { l with nodes := l.nodes.mapIdx fun i n => if i = t then f n else n }

/-- One more arrival of the node at its group slot k. -/
def Node.arrive (n : Node) (k : Nat) : Node :=
  { n with rounds := n.rounds.mapIdx fun i r => if i = k then r + 1 else r }

/-- Every member of group g has arrived at round r or completed (R29). -/
def roundDone (l : Launch) (g r : Nat) : Bool :=
  l.nodes.all fun n =>
    match n.roundsOf g with
    | none => true
    | some k => n.st == .done || r ≤ k

/-- The arrival of the gsync on group g at which the strand stands, if it has been registered (02 R29; DEDUCED,
assumption log 25). -/
def Strand.arrival (x : Strand) (g : Nat) : Option GsyncArr :=
  x.gsyncs.find? fun a => a.level == x.level && a.pc == x.pc && a.group == g

/-- Forget the strand's arrivals at its level: the gsync at which it stands is over, or another one is in its place. -/
def Strand.dropArrival (x : Strand) : Strand := { x with gsyncs := x.gsyncs.filter fun a => a.level != x.level }

/-- The wait of a gsync acts as yield.safe once the conditions of R34 hold: it reloads the watchdog once, and is a safe
point in every cycle in which 23 R366 lets it be one (R30). -/
def gsyncWait (s : State) (g : Nat) : State :=
  if quietHere s s.cur.1 then
    let x := s.me
    let again := (x.arrival g).any fun a => a.reloaded
    let mark (a : GsyncArr) : GsyncArr :=
      if a.level == x.level && a.pc == x.pc && a.group == g then { a with reloaded := true } else a
    let x' := { x with gsyncs := x.gsyncs.map mark }
    reachSafe (s.setMe (if again then x' else yieldStrand x'))
  else s

/-- gsync g (R29, R30): a release that first waits for the strand's earlier accesses; the arrival is registered once,
then the strand waits for the other members. -/
def gsyncBody (i : Instr) (g : Nat) : Body := fun s =>
  match s.myCrew.ctx with
  | none => illegalWords i
  | some c =>
    match groupSlot c.gmask c.grps g with
    | none => illegalWords i
    | some k =>
      match s.launch c.launch with
      | none => .ok (s, none)
      | some l =>
        let known := (s.me.arrival g).isSome
        if known = false ∧ (mine s).isEmpty = false then .error (.wait qMem s)
        else
          let s1 :=
            if known then s
            else
              let x := s.me.dropArrival
              (s.setLaunch (l.mapNode c.task fun n => n.arrive k)).setMe
                { x with gsyncs := { level := x.level, pc := x.pc, group := g } :: x.gsyncs }
          match s1.launch c.launch with
          | none => .ok (s1, none)
          | some l1 =>
            let r := ((l1.nodes[c.task]?).bind fun n => n.roundsOf g).getD 0
            if roundDone l1 g r then .ok (s1.setMe s1.me.dropArrival, none)
            else .error (.wait qBarrier (gsyncWait s1 g))

/-- GSYNC (R190). -/
def execGsync (p : BitVec 4) (g : BitVec 8) (s : State) : Outcome :=
  issue (.gsync p g) [.s] p false (gsyncBody (.gsync p g) g.toNat) s

end Sys2Proof.Machine
end

