-- ==== Sys2Proof/Machine/Fetch.lean ====
section
/-! DEFINITION. Fetching an instruction (spec 09 R139, 10 R171, 22 R340), patch words (09 R149, R150), the template and
rule tables (19 R306, 18 R304), and the events UNASSIGNED_ENCODING, INSTRUCTION_FETCH_FAULT, WAITT_WAKE and
JWAIT_DEADLINE. -/
namespace Sys2Proof.Machine

/-! ## Fetch -/

/-- The words of the instruction at pc: one, or two for a 64-bit instruction (R139). -/
def fetchWords (s : State) (pc : Word) : Res (State × List W32) :=
  match fetchWord s pc with
  | .error e => .error e
  | .ok (s1, w0) =>
    if isLong w0 then
      match fetchWord s1 (pc + 4#64) with
      | .error e => .error e
      | .ok (s2, w1) => .ok (s2, [w0, w1])
    else .ok (s1, [w0])

/-- Decode one or two words: an unassigned encoding is an event of its own (R161). -/
def decodeOr (ws : List W32) : Instr :=
  let w0 := ws.headD 0#32
  let w1 := (ws.drop 1).headD 0#32
  match decode w0 w1 with
  | .ok i => i
  | .error _ => .unassignedEncoding w0 w1

/-- UNASSIGNED_ENCODING (R142, R161): ILLEGAL with the words in TVAL. -/
def execUnassignedEncoding (w0 w1 : W32) (s : State) : Outcome :=
  .next (trapMe s cIllegal (if isLong w0 then w1 ++ w0 else 0#32 ++ w0))

/-- The slot in which a fetch is tried, charged FETCH at the PC being fetched (07 R107, R108). -/
def Strand.fetchSlot (x : Strand) : Strand := { x with slot := some (effCause x.level qFetch, x.pc, 1) }

/-- INSTRUCTION_FETCH_FAULT (R171): nothing has issued; TEPC is the target. -/
def execInstructionFetchFault (cause : Nat) (tval : Word) (s : State) : Outcome :=
  .next (takeTrap (s.setMe s.me.fetchSlot) s.cur.1 s.cur.2 cause 0 tval s.me.pc)

/-! ## Patch words (R149, R150) -/

/-- The 8 bytes of a template slot as two words. -/
def templateOf (x : Strand) (index : BitVec 6) : W32 × W32 :=
  let w (o : Nat) : W32 := BitVec.ofNat 32 (leNat (memBytes x.tmplA (8 * index.toNat + o) 4))
  (w 0, w 4)

/-- The word and bits that a select replaces: word, low bit, width (R149). -/
def selectField : Nat → Option (Nat × Nat × Nat)
  | 0 => some (0, 0, 0)
  | 1 => some (0, 0, 16)
  | 2 => some (0, 16, 6)
  | 3 => some (0, 22, 4)
  | 4 => some (1, 0, 16)
  | 5 => some (1, 16, 5)
  | 6 => some (1, 21, 4)
  | 7 => some (1, 26, 6)
  | 8 => some (1, 25, 1)
  | 9 => some (0, 2, 7)
  | 10 => some (0, 9, 5)
  | 11 => some (1, 9, 7)
  | 12 => some (1, 16, 5)
  | _ => none

/-- A word with n bits from lo replaced. -/
def putBits (w : W32) (lo n v : Nat) : W32 :=
  let m : W32 := BitVec.ofNat 32 ((2 ^ n - 1) * 2 ^ lo)
  (w &&& ~~~m) ||| (BitVec.ofNat 32 (v * 2 ^ lo) &&& m)

/-- The amended words of a patch word, none where R150 raises ILLEGAL. -/
def amended (x : Strand) (index : BitVec 6) (select : BitVec 4) (value : BitVec 16) : Option (List W32) :=
  let t := templateOf x index
  let mj := majorOf t.1
  match selectField select.toNat with
  | none => none
  | some (w, lo, n) =>
    if 2 ^ n ≤ value.toNat ∨ (t.1 = 0#32 ∧ t.2 = 0#32) ∨ (0x10 ≤ mj ∧ mj ≤ 0x14) ∨ mj = 0x30 ∨ mj = 0x31 ∨
      (4 ≤ select.toNat ∧ isLong t.1 = false) ∨ (9 ≤ select.toNat ∧ mj ≠ 0x28) then none
    else
      let w0 := if w = 0 then putBits t.1 lo n value.toNat else t.1
      let w1 := if w = 1 then putBits t.2 lo n value.toNat else t.2
      some (if isLong t.1 then [w0, w1] else [w0])

/-- PATCH (R149, R150): the amended instruction stands at the strand's PC and issues at its next turn. -/
def execPatch (index : BitVec 6) (select : BitVec 4) (value : BitVec 16) (s : State) : Outcome :=
  match amended s.me index select value with
  | none => .next (trapMe s cIllegal (wordsVal (.patch index select value)))
  | some ws => .next (s.setMe { s.me with latch := some ws })

/-! ## Template tables (19 R306) -/

/-- A table as it is kept: the bytes that are not zero. -/
def bankOf (bs : List Byte) : Store Byte := cellsOf 0 bs

/-- tload (R306): the older bank is loaded and becomes the active one. No instruction in flight holds a bank here. -/
def tloadBody (sa : BitVec 5) : Body := fun s =>
  match loadBytes s (s.me.reg sa) 512 0 64 with
  | .error e => .error e
  | .ok (s1, bs) =>
    let x := s1.me
    .ok (s1.setMe { x with
      tmplA := bankOf bs
      tmplO := x.tmplA
      tgen := x.tgen + 1#32 }, none)

/-- TLOAD (R306). -/
def execTload (p : BitVec 4) (sa : BitVec 5) (s : State) : Outcome := issue (.tload p sa) anyKind p false (inClass 0 (tloadBody sa)) s

/-! ## Rule tables (18 R291 to R295, R304) -/

/-- The bits of a field code on a strand (R292): word, low bit, width; none for codes it does not assign. -/
def ruleField (matrix : Bool) (code : Nat) : Option (Nat × Nat × Nat) :=
  if matrix then
    match code with
    | 1 => some (0, 9, 5)
    | 2 => some (0, 4, 5)
    | 3 => some (0, 3, 1)
    | 4 => some (0, 2, 1)
    | 5 => some (1, 16, 5)
    | 6 => some (1, 12, 4)
    | 7 => some (1, 5, 7)
    | 8 => some (1, 4, 1)
    | 9 => some (1, 3, 1)
    | 10 => some (1, 21, 4)
    | 11 => some (1, 0, 3)
    | _ => none
  else
    match code with
    | 1 => some (0, 2, 12)
    | 2 => some (0, 1, 1)
    | 3 => some (0, 0, 1)
    | 4 => some (1, 9, 12)
    | 5 => some (1, 3, 6)
    | 6 => some (1, 0, 3)
    | 7 => some (1, 16, 5)
    | 8 => some (1, 13, 3)
    | 9 => some (1, 0, 13)
    | 10 => some (1, 21, 4)
    | 11 => some (0, 9, 5)
    | 12 => some (0, 2, 7)
    | 13 => some (1, 16, 5)
    | 14 => some (1, 9, 7)
    | _ => none

/-- The width of a field code, 0 where it is not assigned. -/
def ruleWidth (matrix : Bool) (code : Nat) : Nat := (ruleField matrix code).elim 0 fun f => f.2.2

/-- An opcode of word 0. -/
def opcodeOf (w0 : W32) : Nat := (fld w0 14 8).toNat

/-- The opcodes that R156 assigns. -/
def vecOpcode (op : Nat) : Bool :=
  op ≤ 0x07 || (0x08 ≤ op && op ≤ 0x0C) || (0x10 ≤ op && op ≤ 0x15) || (0x18 ≤ op && op ≤ 0x1C) ||
    (0x20 ≤ op && op ≤ 0x23) || (0x28 ≤ op && op ≤ 0x2A) || (0x30 ≤ op && op ≤ 0x33) || (0x38 ≤ op && op ≤ 0x3B) ||
    op == 0x40 || op == 0x41

/-- The opcodes that R157 assigns. -/
def matOpcode (op : Nat) : Bool := ([0x00, 0x01, 0x08, 0x09, 0x0A, 0x0B, 0x10, 0x18, 0x19, 0x20, 0x21, 0x28] : List Nat).contains op

/-- A candidate of the window (R286). A word whose opcode is assigned is one although another field is illegal, so
that it may be a member of a group whose replacement then issues for it (DESIGN CHOICE, assumption log 68). -/
def candidate (matrix : Bool) (w0 w1 : W32) : Bool :=
  let op := opcodeOf w0
  !w1.getLsbD 25 &&
    (if matrix then majorOf w0 == 0x2A && matOpcode op && op ≠ 0 && op ≠ 1 && !(op == 0x20 && w1.getLsbD 3)
     else majorOf w0 == 0x28 && vecOpcode op && op ≠ 0x23 && op ≠ 0x40 && !(op == 0x20 && (fld w1 6 2) == 2#2))

/-- Entry k of a table. -/
def ruleEntry (bank : Store Byte) (k : Nat) : List Byte := memBytes bank (64 * k) 64

/-- nmatch. -/
def ruleN (e : List Byte) : Nat := recField e 0 8 % 8
/-- nrepl. -/
def ruleRepls (e : List Byte) : Nat := recField e 0 8 / 8 % 4
/-- The class. -/
def ruleClass (e : List Byte) : Nat := recField e 0 8 / 32 % 4
/-- The strand bit. -/
def ruleMatrix (e : List Byte) : Bool := (recField e 0 8).testBit 7

/-- A constraint word passes R293. -/
def consOk (matrix : Bool) (n c : Nat) : Bool :=
  let fa := c / 16 % 32
  let fb := c / 2 ^ 18 % 32
  if c % 4 = 0 then c == 0
  else
    c / 2 ^ 9 % 2 ^ 7 == 0 && ruleWidth matrix fa ≠ 0 && decide (c / 4 % 4 < n) &&
      (if c % 4 = 2 then decide (c / 2 ^ 16 < 2 ^ ruleWidth matrix fa)
       else c / 2 ^ 23 == 0 && ruleWidth matrix fb ≠ 0 && decide (c / 2 ^ 16 % 4 < n) &&
         ruleWidth matrix fa == ruleWidth matrix fb)

/-- A substitution passes R294. -/
def substOk (matrix : Bool) (n nrepl v : Nat) : Bool :=
  if v % 32 = 0 then v == 0
  else
    v / 2 ^ 13 == 0 && ruleWidth matrix (v % 32) ≠ 0 && ruleWidth matrix (v / 2 ^ 8 % 32) ≠ 0 &&
      ruleWidth matrix (v % 32) == ruleWidth matrix (v / 2 ^ 8 % 32) && decide (v / 32 % 2 < nrepl) &&
      decide (v / 64 % 4 < n)

/-- A replacement template passes R295. -/
def replOk (matrix : Bool) (nrepl j : Nat) (e : List Byte) : Bool :=
  let w0 : W32 := BitVec.ofNat 32 (recField e (48 + 8 * j) 4)
  let w1 : W32 := BitVec.ofNat 32 (recField e (52 + 8 * j) 4)
  if nrepl ≤ j then w0 == 0#32 && w1 == 0#32
  else candidate matrix w0 w1 && fld w0 22 4 == 0#4 && fld w1 25 7 == 0#7

/-- An entry passes the checks of R304. -/
def entryOk (e : List Byte) : Bool :=
  let n := ruleN e
  let r := ruleRepls e
  let mx := ruleMatrix e
  if n = 0 then e.all fun b => b == 0#8
  else
    recField e 0 8 / 256 == 0 && n ≤ 4 && r ≠ 3 && (r ≠ 0 || mx) &&
      ((List.range 4).all fun k => decide (k < n) || recField e (8 + k) 1 == 0) &&
      ((List.range 6).all fun k => consOk mx n (recField e (12 + 4 * k) 4)) &&
      ((List.range 6).all fun k => substOk mx n r (recField e (36 + 2 * k) 2)) && replOk mx r 0 e && replOk mx r 1 e

/-- The first entry of a table that fails. -/
def tableBad (bs : List Byte) : Option Nat :=
  (List.range 64).find? fun k => !entryOk ((bs.drop (64 * k)).take 64)

/-- krules (R304). The table is read into the older bank, and the banks change places once every entry has passed. -/
def krulesBody (sa : BitVec 5) : Body := fun s =>
  let a := s.me.reg sa
  match loadBytes s a 4096 0 64 with
  | .error e => .error e
  | .ok (s1, bs) =>
    let x := s1.me
    match tableBad bs with
    | some k => .error (.xtrap cIllegal (a + BitVec.ofNat 64 (64 * k)) (s1.setMe { x with ruleO := bankOf bs }))
    | none =>
      .ok (s1.setMe { x with
        ruleA := bankOf bs
        ruleO := x.ruleA
        rgen := x.rgen + 1#32 }, none)

/-- KRULES (R303, R304). -/
def execKrules (p : BitVec 4) (sa : BitVec 5) (s : State) : Outcome := 
  issue (.krules p sa) [.v, .m] p false (inClass 0 (krulesBody sa)) s

/-! ## The ends of two waits -/

/-- The instruction at the PC of a strand that waits, charged to q. -/
def waitingAt (s : State) (crew : Nat) (k : StrandKind) (q : Nat) : Option (State × Instr) :=
  let s := { s with cur := (crew, k) }
  let x := s.me
  if x.cond ≠ q || x.slot.isSome || x.exited || s.myCrew.killed.isSome || s.myCrew.ctx.isNone then none
  else
    match x.latch with
    | some ws => some (s, decodeOr ws)
    | none =>
      match fetchWords s x.pc with
      | .ok (s1, ws) => some (s1, decodeOr ws)
      | .error _ => none

/-- WAITT_WAKE (04 R74): CYCLE has reached the value that a sleeping waitt names. -/
def execWaittWake (crew : Nat) (k : StrandKind) (at_ : Word) (s : State) : Outcome :=
  match waitingAt s crew k qSleep with
  | some (s1, .waitt p sa) =>
    if s1.me.reg sa = at_ ∧ at_.toNat ≤ s1.cuCycle (cuOf crew) then execWaitt p sa s1 else notEnabled "WAITT_WAKE"
  | _ => notEnabled "WAITT_WAKE"

/-- JWAIT_DEADLINE (14 R275): the deadline of a waiting jwait is reached with chained not past n. -/
def execJwaitDeadline (crew : Nat) (sd : BitVec 5) (pd : BitVec 3) (chained : Nat) (s : State) : Outcome :=
  match waitingAt s crew .c qColl with
  | some (s1, .jwait e c) =>
    let x := s1.me
    if c.sd = sd ∧ c.pd = pd ∧ (x.regN (c.sn.toNat + 2)).toNat ≤ s1.cuCycle (cuOf crew) ∧
      chained ≤ (x.regN (c.sn.toNat + 1)).toNat ∧
      (match readHeader s1 (x.reg c.sn) with
       | .ok (_, h) => h.chained == chained
       | .error _ => false) = true then
      execJwait e c s1
    else notEnabled "JWAIT_DEADLINE"
  | _ => notEnabled "JWAIT_DEADLINE"

end Sys2Proof.Machine
end

