-- ==== Sys2Proof/Machine/Knead.lean ====
section
/-! DEFINITION. The Knead rewrite stage: spec 18 R286 to R302, and the event KNEAD_GROUP_ISSUE. The window is read
afresh from the code at each head, so that a flush (R289) needs no action. -/
namespace Sys2Proof.Machine

/-! ## The window (R286 to R289) -/

/-- An instruction of the window: its address, its length in the code and its words; a patch word stands as its
amended instruction (R286). -/
structure WinItem where
  pc : Word
  len : Nat
  w0 : W32
  w1 : W32
  deriving DecidableEq, Repr

/-- How the window ends: no instruction follows (a boundary, R289), or the next one has not arrived; the strand then
waits in the given state (R288). -/
inductive WinEnd where
  | closed
  | open_ (s : State)

/-- The answer of a lookahead fetch. -/
inductive LookAns where
  | word (w : W32)
  | closed
  | open_ (s : State)

/-- The strand in focus as the agent of its lookahead. -/
def lookAgent (s : State) : Agent := { myAgent s with who := .look s.cur.1 s.cur.2 }

/-- The word at translated page t. -/
def lookRead (s : State) (t : Tlb) (pc : Word) : LookAns :=
  match pagePlaces (lookAgent s) s t pc 4 false with
  | .error (.wait _ s1) => .open_ s1
  | .error _ => .closed
  | .ok ps =>
    match agentBytes (lookAgent s) s pc ps with
    | .ok (_, bs) => .word (BitVec.ofNat 32 (leNat bs))
    | .error (.wait _ s1) => .open_ s1
    | .error _ => .closed

/-- Fetch a word ahead of the head (R288): a fetch that faults closes the window; one that a fault record, a clock, a
frame format or another device holds leaves it open. -/
def lookWord (s : State) (pc : Word) : LookAns :=
  let a := lookAgent s
  if (targetTrap pc).isSome then .closed
  else
    match (faultOf s a.who).filter fun f => f.2 == pc with
    | some (f, _) => if f.unres then .closed else .open_ s
    | none =>
      if !clockOkFor s a.cu a.fn (pc.toNat % 2 ^ 57 / 4096) 0 then .open_ s
      else
        match agentAnswer a pc 4#3 qFetch (xlate s a.cu a.fn (pc.toNat % 2 ^ 57) 4#3) with
        | .ok (s1, t) => lookRead s1 t pc
        | .error (.wait _ s1) => .open_ s1
        | .error _ => .closed

/-- An item from fetched words: a patch word becomes its amended instruction, or stays a boundary (R149, R286). -/
def itemOf (x : Strand) (pc : Word) (w0 w1 : W32) : WinItem :=
  match decode w0 w1 with
  | .ok (.patch index select value) =>
    match amended x index select value with
    | some ws => { pc, len := 4, w0 := ws.headD 0#32, w1 := (ws.drop 1).headD 0#32 }
    | none => { pc, len := 4, w0, w1 }
  | _ => { pc, len := if isLong w0 then 8 else 4, w0, w1 }

/-- pc is the end address of an active loop of this trap level (R289; 10 R173). -/
def atLoopEnd (x : Strand) (pc : Word) : Bool := (innermostAt x pc).isSome

/-- Up to n items from pc on, and how the window ends. -/
def windowFrom (s : State) : Nat → Word → List WinItem × WinEnd
  | 0, _ => ([], .closed)
  | n + 1, pc =>
    match lookWord s pc with
    | .closed => ([], .closed)
    | .open_ s1 => ([], .open_ s1)
    | .word w0 =>
      match (if isLong w0 then lookWord s (pc + 4#64) else .word 0#32) with
      | .closed => ([], .closed)
      | .open_ s1 => ([], .open_ s1)
      | .word w1 =>
        let it := itemOf s.me pc w0 w1
        if atLoopEnd s.me pc then ([it], .closed)
        else
          let r := windowFrom s n (pc + BitVec.ofNat 64 it.len)
          (it :: r.1, r.2)

/-- A record of the lookahead that lies outside the window is no longer waited on. -/
def dropLook (s : State) : State :=
  let me : Waiter := .look s.cur.1 s.cur.2
  match faultOf s me with
  | some (_, v) => if (v - s.me.pc).toNat < 64 then s else dropWaiter s me
  | none => s

/-- The window of the strand in focus behind its head, whose words are given. -/
def windowOf (s : State) (head : List W32) : List WinItem × WinEnd :=
  let x := s.me
  let w0 := head.headD 0#32
  let it : WinItem :=
    { pc := x.pc, len := if x.latch.isSome then 4 else if isLong w0 then 8 else 4, w0, w1 := (head.drop 1).headD 0#32 }
  if atLoopEnd x x.pc then ([it], .closed)
  else
    let r := windowFrom s 7 (x.pc + BitVec.ofNat 64 it.len)
    (it :: r.1, r.2)

/-! ## Matching (R287, R288, R293) -/

/-- What a match or a lookahead comes to: it needs instructions that have not arrived (more). -/
inductive Match3 where
  | no | yes | more
  deriving DecidableEq, Repr

/-- The value of a field code in an item. -/
def itemField (mx : Bool) (it : WinItem) (code : Nat) : Nat :=
  match ruleField mx code with
  | some (w, lo, n) => (if w = 0 then it.w0 else it.w1).toNat / 2 ^ lo % 2 ^ n
  | none => 0

/-- The predicate field. -/
def WinItem.p (it : WinItem) : BitVec 4 := fld it.w0 22 4
/-- The wait mask. -/
def WinItem.wait (it : WinItem) : BitVec 3 := fld it.w1 29 3
/-- The post mask. -/
def WinItem.post (it : WinItem) : BitVec 3 := fld it.w1 26 3

/-- Item k of a window meets conditions 1, 2 and 4 to 7 of R287 as a member of an entry of n. Its other fields may be
illegal (DESIGN CHOICE, assumption log 68). -/
def memberOk (x : Strand) (mx : Bool) (e : List Byte) (n : Nat) (head it : WinItem) (k : Nat) : Bool :=
  let last := k + 1 == n
  let ef : BitVec 2 := if mx then fld it.w0 2 2 else fld it.w0 0 2
  candidate mx it.w0 it.w1 && opcodeOf it.w0 == recField e (8 + k) 1 && it.p == head.p &&
    (k == 0 || it.wait == 0#3) &&
    (last || (it.post == 0#3 && ef == 0#2 && !atLoopEnd x it.pc && (mx || opcodeOf it.w0 != 0x39)))

/-- The members of an entry, in order, as far as the window shows them. -/
def membersOk (x : Strand) (mx : Bool) (e : List Byte) (n : Nat) (win : List WinItem) (fin : WinEnd) : Match3 :=
  let head := win.headD { pc := 0#64, len := 4, w0 := 0#32, w1 := 0#32 }
  let seen := win.take n
  if !(seen.zipIdx.all fun p => memberOk x mx e n head p.1 p.2) then .no
  else if n ≤ win.length then .yes
  else
    match fin with
    | .closed => .no
    | .open_ _ => .more

/-- Constraint word c fails on the members that the window shows (R293). -/
def consFails (mx : Bool) (ms : List WinItem) (c : Nat) : Bool :=
  let at_ (slot code : Nat) : Option Nat := (ms[slot]?).map fun it => itemField mx it code
  match c % 4, at_ (c / 4 % 4) (c / 16 % 32), at_ (c / 2 ^ 16 % 4) (c / 2 ^ 18 % 32) with
  | 1, some a, some b => a != b
  | 2, some a, _ => a != c / 2 ^ 16
  | 3, some a, some b => a == b
  | _, _, _ => false

/-- The ring rows ~d that a vector instruction reads (R288). -/
def ringReads (it : WinItem) : List Nat :=
  let op := opcodeOf it.w0
  let short (f : Nat) : List Nat := if 96 ≤ f ∧ f < 100 then [f - 95] else []
  let vm := op == 0x38 || op == 0x39 || op == 0x3A
  let two := op ≤ 0x05 || (0x10 ≤ op && op ≤ 0x15) || (0x18 ≤ op && op ≤ 0x1C) || op == 0x31
  let x := (fld it.w1 3 6).toNat
  (if op = 0x39 then short (fld it.w0 2 12).toNat else []) ++ (if vm then [] else short (fld it.w1 9 12).toNat) ++
    (if two && decide (1 ≤ x) && decide (x ≤ 4) then [x] else []) ++ (if op = 0x1C then [1] else [])

/-- An exit (R288): a word that only looks like one, with a reserved bit set, is a boundary. -/
def isExit (it : WinItem) : Bool :=
  match decode it.w0 it.w1 with
  | .ok (.exit _) => true
  | _ => false

/-- The lookahead of R288 over the instructions after the group, k vector instructions already seen. -/
def lookOk (n : Nat) (fin : WinEnd) : Nat → Nat → List WinItem → Match3
  | 0, _, _ => .yes
  | _ + 1, _, [] =>
    match fin with
    | .closed => .no
    | .open_ _ => .more
  | left + 1, k, it :: r =>
    if isExit it then .yes
    else if !candidate false it.w0 it.w1 then .no
    else if (ringReads it).any fun d => k + 2 ≤ d && d ≤ k + n then .no
    else if it.wait ≠ 0#3 ∧ left ≠ 0 then .no
    else lookOk n fin left (k + 1) r

/-- Entry e against the window (R287): it waits only where nothing that the window shows decides against it. -/
def entryMatch (x : Strand) (kperm : BitVec 4) (mx : Bool) (e : List Byte) (win : List WinItem) (fin : WinEnd) : Match3 :=
  let n := ruleN e
  let ms := win.take n
  if n = 0 ∨ ruleMatrix e ≠ mx ∨ (kperm ||| 1#4).getLsbD (ruleClass e) = false then .no
  else if ruleRepls e == 0 && ms.any fun it => it.wait != 0#3 || it.post != 0#3 then .no
  else if (List.range 6).any fun k => consFails mx ms (recField e (12 + 4 * k) 4) then .no
  else
    match membersOk x mx e n win fin with
    | .yes => if mx || n == 1 then .yes else lookOk n fin 3 0 (win.drop n)
    | r => r

/-- What the head of the window does: it issues alone, it opens the group of entry k with its members, or it waits. -/
inductive KneadAns where
  | alone
  | group (k : Nat) (ms : List WinItem)
  | wait (s : State)

/-- The first entry from k on that matches or needs more. -/
def firstMatch (x : Strand) (kperm : BitVec 4) (mx : Bool) (win : List WinItem) (fin : WinEnd) (s : State) :
    Nat → Nat → KneadAns
  | 0, _ => .alone
  | left + 1, k =>
    match entryMatch x kperm mx (ruleEntry x.ruleA k) win fin with
    | .yes => .group k (win.take (ruleN (ruleEntry x.ruleA k)))
    | .more =>
      match fin with
      | .open_ s1 => .wait s1
      | .closed => .wait s
    | .no => firstMatch x kperm mx win fin s left (k + 1)

/-- Matching at the head of the strand in focus, whose words are given (R286, R287, R301). -/
def kneadAt (s : State) (head : List W32) : KneadAns :=
  let x := s.me
  let mx := s.cur.2 == .m
  if !(mx || s.cur.2 == .v) || x.ruleA.isEmpty || x.suppress ≠ 0 then .alone
  else if !candidate mx (head.headD 0#32) ((head.drop 1).headD 0#32) then .alone
  else
    let s := dropLook s
    let (win, fin) := windowOf s head
    firstMatch x s.myCrew.kperm mx win fin s 64 0

/-! ## Replacements (R294, R295) -/

/-- The bodies of the V group and the matrix instructions, by instruction. -/
def groupBody : Instr → Option Body
  | .vadd e v => some (vaddB e v)
  | .vsub e v => some (vsubB e v)
  | .vmul e v => some (vmulB e v)
  | .vfma e v => some (vfmaB e v)
  | .vmin e v => some (vminB e v)
  | .vmax e v => some (vmaxB e v)
  | .vabs e v => some (vabsB e v)
  | .vneg e v => some (vnegB e v)
  | .vexp2 e v => some (vexp2B e v)
  | .vlog2 e v => some (vlog2B e v)
  | .vrcp e v => some (vrcpB e v)
  | .vrsqrt e v => some (vrsqrtB e v)
  | .vtanh e v => some (vtanhB e v)
  | .vand e v => some (vandB e v)
  | .vor e v => some (vorB e v)
  | .vxor e v => some (vxorB e v)
  | .vshl e v => some (vshlB e v)
  | .vshr e v => some (vshrB e v)
  | .vsra e v => some (vsraB e v)
  | .vcmpEq e v => some (vcmpEqB e v)
  | .vcmpNe e v => some (vcmpNeB e v)
  | .vcmpLt e v => some (vcmpLtB e v)
  | .vcmpLe e v => some (vcmpLeB e v)
  | .vsel e v => some (vselB e v)
  | .vcvt e v => some (vcvtB e v)
  | .vqblk e v => some (vqblkB e v)
  | .vunpk e v => some (vunpkB e v)
  | .vrsum e v => some (vrsumB e v)
  | .vrmax e v => some (vrmaxB e v)
  | .vrmin e v => some (vrminB e v)
  | .vmov e v => some (vmovB e v)
  | .vshuf e v => some (vshufB e v)
  | .viota e v => some (viotaB e v)
  | .vsplat e v => some (vsplatB e v)
  | .vld e v => some (vldB e v)
  | .vst e v => some (vstB e v)
  | .vldt e v => some (vldtB e v)
  | .vgath e v => some (vgathB e v)
  | .vtrn e v => some (vtrnB e v)
  | .lds e x => some (ldsB e x)
  | .ldsP e x => some (ldsPB e x)
  | .ldsCb e x => some (ldsCbB e x)
  | .ldsBs e x => some (ldsBsB e x)
  | .mswap e _ => some (mswapB e)
  | .mmul e x => some (mmulB e x)
  | .mmulBs e x => some (mmulBsB e x)
  | .mdrain e x => some (mdrainB e x)
  | .mzero e x => some (mzeroB e x)
  | .mcbt e x => some (mcbtB e x)
  | _ => none

/-- The array opcodes (12 R220). -/
def arrayOp (w0 : W32) : Bool :=
  let op := opcodeOf w0
  op == 0x08 || op == 0x09 || op == 0x0A || op == 0x0B || op == 0x10 || op == 0x18 || op == 0x19

/-- The words with one substitution of replacement j applied (R294). -/
def substApply (mx : Bool) (ms : List WinItem) (j : Nat) (ws : W32 × W32) (v : Nat) : W32 × W32 :=
  if v % 32 = 0 ∨ v / 32 % 2 ≠ j then ws
  else
    match ruleField mx (v % 32), ms[v / 64 % 4]? with
    | some (w, lo, n), some it =>
      let x := itemField mx it (v / 2 ^ 8 % 32)
      if w = 0 then (putBits ws.1 lo n x, ws.2) else (ws.1, putBits ws.2 lo n x)
    | _, _ => ws

/-- The words of replacement j (R295). -/
def replWords (mx : Bool) (e : List Byte) (ms : List WinItem) (j : Nat) : W32 × W32 :=
  let t : W32 × W32 := (BitVec.ofNat 32 (recField e (48 + 8 * j) 4), BitVec.ofNat 32 (recField e (52 + 8 * j) 4))
  let ws := (List.range 6).foldl (fun ws k => substApply mx ms j ws (recField e (36 + 2 * k) 2)) t
  let p := (ms.head?).elim 0#4 WinItem.p
  let wait := if j = 0 then (ms.head?).elim 0#3 WinItem.wait else 0#3
  let post := if j + 1 = ruleRepls e then (ms.getLast?).elim 0#3 WinItem.post else 0#3
  (putBits ws.1 22 4 p.toNat, putBits (putBits ws.2 29 3 wait.toNat) 26 3 post.toNat)

/-! ## Issue (R299 to R302) -/

/-- The uses counted on the lease of the strand's CU. -/
def leaseUsed (s : State) : Nat := ((s.cu (cuOf s.cur.1)).lease).elim 0 Lease.used

/-- The lease with another count. -/
def setLeaseUsed (s : State) (n : Nat) : State :=
  let cu := cuOf s.cur.1
  let c := s.cu cu
  s.setCu cu { c with lease := c.lease.map fun l => { l with used := n } }

/-- The lease checks of a matrix group of a given count (R299). -/
def groupLease (s : State) (count : Nat) : Res Unit :=
  if count = 0 then .ok ()
  else
    match leaseCheck s with
    | .error e => .error e
    | .ok _ =>
      if !(s.cu (cuOf s.cur.1)).requests.isEmpty && decide (leaseMaxOps < leaseUsed s + count) then .error (.trap cLease 1#64)
      else if planesZeroing s then .error (.wait qLease s)
      else .ok ()

/-- Complete the started operations of the strand in focus that can complete, oldest first: the results that a later
replacement reads are then there. -/
def settle (s : State) : State :=
  (s.myCrew.inflight.filter fun o => o.kind == s.cur.2).foldl
    (fun s o => if opReady s s.cur.1 o then advanceOp s s.cur.1 o else s) s

/-- The crew in focus as it starts a replacement: grouped says that it is a later one, and is are operands for which it
does not wait (R299). -/
def excuse (s : State) (grouped : Bool) (is : List Nat) : State :=
  let c := s.myCrew
  s.setMyCrew { c with
    grouped
    excused := is }

/-- Every operand with a full-empty state. -/
def allOperands : List Nat := List.range 34

/-- The operand that the instruction started last has written. -/
def lastWrite (s : State) : List Nat := ((s.myCrew.inflight.getLast?).bind fun o => o.dst).toList.map Prod.fst

/-- The rows that a replacement has computed are there for the next one, whether or not it can complete yet; no other
reads them while their operand is FILLING. -/
def forward (s : State) : State :=
  let c := s.myCrew
  match c.inflight.getLast? with
  | none => s
  | some o => s.setMyCrew { c with tiles := o.rows.foldl (fun t r => sputD 0#8192 t r.1 r.2) c.tiles }

/-- What a later replacement's walks leave of a group that has no effect: the error records of s2 that s1 has not, and
the walks counted (R300). -/
def keepErrors (s0 s1 s2 : State) : State :=
  let fn := s0.myCrew.tenant
  let walks (s : State) : Nat := ((s.tenant fn).counters.get 12).toNat
  let recs (s : State) : Nat := s.errs.length + s.er.tail.toNat
  (List.range (recs s2 - recs s1)).foldl (fun s _ => pushErr s 3 4 fn 0x1FF 0) (countFor s0 fn 12 (walks s2 - walks s1))

/-- A replacement's class where it is a load or store of the vector strand. -/
def accessClass (mx : Bool) (w : W32 × W32) : Option Nat :=
  let op := opcodeOf w.1
  if !mx && (op == 0x38 || op == 0x39 || op == 0x3A || op == 0x3B) then some (fld w.2 21 4).toNat else none

/-- The access of a later replacement waits for one of the strand that comes before it (04 R59). -/
def putOff (mx : Bool) (w : W32 × W32) (s : State) : Bool := (accessClass mx w).any (classHeld s)

/-- The second of two replacements, from the state s1 in which the first has started (R299): its operands allow it but
for one that the first has written, then its own checks and its effect, on what the first has computed. The answer says
that only its access waits, for one of the first (04 R59). -/
def runSecond (s0 s1 : State) (mx : Bool) (w : W32 × W32) (b : Body) (used : Nat) : Res (State × Bool) :=
  match b (excuse s1 true (lastWrite s1)) with
  | .error (.wait q s2) => if q = qTile then .error (.wait q s2) else go
  | _ => go
where
  /-- Its checks and its effect. -/
  go : Res (State × Bool) :=
    let held := putOff mx w s1
    let s2 := excuse (setLeaseUsed (forward (settle s1)) used) true allOperands
    let later : Res (State × Bool) := .ok (s1, true)
    match b s2 with
    | .error (.xtrap c v s3) => .error (.xtrap c v (keepErrors s0 s2 s3))
    | .error (.wait q s3) => if held ∧ q = qMem then later else .error (.wait q s3)
    | .error e => .error e
    | .ok (s3, _) => if held then later else .ok (excuse s3 false [], false)

/-- The replacements in order, from state s; each reads what the one before it has written, and waits for no operand
that it has written (R299). The answer says that the last one is still to be carried out. -/
def runRepls (s : State) (mx : Bool) (ws : List (W32 × W32)) : List Body → Res (State × Bool)
  | [] => .ok (s, false)
  | b :: r =>
    match b s with
    | .error e => .error e
    | .ok (s1, _) =>
      let s1 := setLeaseUsed s1 (leaseUsed s)
      match r with
      | [] => .ok (s1, false)
      | b2 :: _ => runSecond s s1 mx (ws.getD 1 (0#32, 0#32)) b2 (leaseUsed s)

/-- The operand that the words of a replacement write. -/
def replWrites (mx : Bool) (w : W32 × W32) : List Nat :=
  if mx then
    let op := opcodeOf w.1
    let tb := (fld w.1 4 5).toNat
    if op = 0x18 ∨ op = 0x19 ∨ op = 0x21 ∨ (op = 0x20 ∧ tb ≠ 16) then [tb] else if op = 0x28 then [24 + tb] else []
  else if opcodeOf w.1 = 0x39 then []
  else (rowSpec (fld w.1 2 12)).sel.toList

/-- What a group that cannot start is charged: the first cause, in the order of R107, that holds for one of its
replacements or for its lease; q is the cause that was found first, is the operands that those before have written. -/
def groupCause (mx : Bool) (s : State) (q : Nat) : List (W32 × W32) → List Body → List Nat → Nat
  | w :: ws, b :: bs, is =>
    let q := match b s with
      | .error (.wait r _) => firstCause q r
      | _ => q
    let is := is ++ replWrites mx w
    let s1 := excuse s true is
    groupCause mx (if mx then s1 else s1.setMyCrew (pushRing s1.myCrew {})) q ws bs is
  | _, _, _ => q

/-- The ring after a vector group of n members (R288): n - 1 zero rows, then the last result. -/
def groupRing (old : List RingEnt) (last : RingEnt) (n : Nat) : List RingEnt :=
  (last :: (List.replicate (n - 1) ({} : RingEnt) ++ old)).take 4

/-- The group has issued: its slots, the PC past its last member, which is at pc with a length, and that one's loop ends
(R173, R302). -/
def retireGroup (pc : Word) (len slots : Nat) (s : State) : State :=
  let (y, ex) := loopEnd 4 (s.me.useSlot slots).issued pc (pc + BitVec.ofNat 64 len) []
  snapshots (s.setMe y.fetching) ex

/-- A trap of a group (R300): knead_group is set, and the member count of the level becomes n. -/
def trapGroup (s : State) (n slots : Nat) (cause : Nat) (val : Word) : State :=
  let x := s.me
  takeTrap (s.setMe (x.useSlot slots).begun) s.cur.1 s.cur.2 cause 0x100 val x.pc (some n)

/-- The decoded replacements, or the words of the first that is an illegal encoding. -/
def decodeRepls : List (W32 × W32) → Except Word (List Body)
  | [] => .ok []
  | w :: r =>
    match decode w.1 w.2 with
    | .error _ => .error (w.2 ++ w.1)
    | .ok i =>
      match groupBody i with
      | none => .error (w.2 ++ w.1)
      | some b =>
        match decodeRepls r with
        | .error v => .error v
        | .ok bs => .ok (b :: bs)

/-- The ring once a vector group of n members has been carried out (R288). -/
def endRing (s : State) (old : List RingEnt) (n : Nat) : State :=
  let c := s.myCrew
  s.setMyCrew { c with ring := groupRing (old.map settled) (c.ring.headD ({} : RingEnt)) n }
where
  /-- A row from before the group, its producer completed meanwhile. -/
  settled (r : RingEnt) : RingEnt :=
    match r.op with
    | some id => if s.myCrew.inflight.any fun o => o.id == id then r else { r with op := none }
    | none => r

/-- The effect of the replacements of an entry on the members (R299): the state before the PC moves, and whether the
last replacement is still to be carried out. -/
def groupEffect (s : State) (e : List Byte) (ms : List WinItem) (ws : List (W32 × W32)) (bodies : List Body) :
    Res (State × Bool) :=
  let mx := s.cur.2 == .m
  let count := if mx then max (ms.countP fun it => arrayOp it.w0) (ws.countP fun w => arrayOp w.1) else 0
  match groupLease s count with
  | .error (.wait q s1) => .error (.wait (groupCause mx s q ws bodies []) s1)
  | .error x => .error x
  | .ok _ =>
    match runRepls s mx ws bodies with
    | .error (.wait q s1) => .error (.wait (groupCause mx s q ws bodies []) s1)
    | .error x => .error x
    | .ok (s1, later) =>
      if mx then .ok (setLeaseUsed s1 (leaseUsed s + count), later)
      else if later then .ok (s1, true)
      else .ok (endRing s1 s.myCrew.ring (ruleN e), false)

/-- The group waits with no effect (R300); a fault record that an access of a later replacement joined stays joined, and
what it asks of other devices stays asked. -/
def keepWait (s s1 : State) : State :=
  let me : Waiter := .strand s.cur.1 s.cur.2
  let s2 := match faultOf s me, faultOf s1 me with
    | none, some (f, v) => joinFault s f.fn v f.need f.level f.kind f.pa f.ent 0 f.cycle me
    | _, _ => s
  (s1.remote.filter fun r => r.load && r.agent == some me && decide (s.remoteSeq ≤ r.tag)).foldl sendMsg s2

/-- Issue the group of entry k with the members ms (R299 to R302). Where the access of its last replacement waits for
that of the one before it, the group holds the strand with that replacement to be carried out. -/
def issueGroup (s : State) (k : Nat) (ms : List WinItem) : Outcome :=
  let e := ruleEntry s.me.ruleA k
  let n := ms.length
  let mx := s.cur.2 == .m
  let slots := max 1 (ruleRepls e)
  let last := ms.getLastD { pc := s.me.pc, len := 4, w0 := 0#32, w1 := 0#32 }
  let ws := (List.range (ruleRepls e)).map fun j => replWords mx e ms j
  match decodeRepls ws with
  | .error v => .next (trapGroup s n slots cIllegal v)
  | .ok bodies =>
    if !s.me.predHolds ((ms.head?).elim 0#4 WinItem.p) then
      let c := s.myCrew
      let s1 := if mx then s else s.setMyCrew { c with ring := (List.replicate n ({} : RingEnt) ++ c.ring).take 4 }
      .next (retireGroup last.pc last.len slots s1)
    else
      match groupEffect s e ms ws bodies with
      | .ok (s1, false) => .next (retireGroup last.pc last.len slots s1)
      | .ok (s1, true) =>
        let w := ws.getD 1 (0#32, 0#32)
        let r : GroupRest :=
          { entry := k, w0 := w.1, w1 := w.2, members := n, slots, pc := last.pc, len := last.len, ring := s.myCrew.ring }
        .next (holdMe qMem (s1.setMe { s1.me with rest := some r }))
      | .error (.trap c v) => .next (trapGroup s n slots c v)
      | .error (.xtrap c v s1) => .next (trapGroup s1 n slots c v)
      | .error (.wait q s1) => .next (holdMe q (keepWait s s1))
      | .error (.fault f) => .fault f

/-- The strand in focus without a group that is to be carried out. -/
def noRest (s : State) : State := s.setMe { s.me with rest := none }

/-- The last replacement of a group that has issued (R299): its access now, or a wait for the one before it. Its
checks have been made (R300); a fault that only another device or a later mapping brings is raised as the group's,
with what the first replacement has done left done (DESIGN CHOICE, assumption log 96). -/
def finishGroup (s : State) (r : GroupRest) : Outcome :=
  match decodeRepls [(r.w0, r.w1)] with
  | .error v => .next (trapGroup (noRest s) r.members r.slots cIllegal v)
  | .ok bodies =>
    match (bodies.headD fun s => .ok (s, none)) (excuse s false allOperands) with
    | .ok (s1, _) => .next (retireGroup r.pc r.len r.slots (noRest (endRing (excuse s1 false []) r.ring r.members)))
    | .error (.trap c v) => .next (trapGroup (noRest s) r.members r.slots c v)
    | .error (.xtrap c v s1) => .next (trapGroup (noRest (excuse s1 false [])) r.members r.slots c v)
    | .error (.wait q s1) => .next (holdMe q (excuse s1 false []))
    | .error (.fault f) => .fault f

/-- The words at the PC of the strand in focus. -/
def headWords (s : State) : Option (List W32) :=
  match s.me.latch with
  | some ws => some ws
  | none =>
    match fetchWords s s.me.pc with
    | .ok (_, ws) => some ws
    | .error _ => none

/-- KNEAD_GROUP_ISSUE (R287, R299): the head of the strand in focus opens a group of an entry, or a group of that entry
goes on. -/
def execKneadGroupIssue (entry : Nat) (s : State) : Outcome :=
  match s.me.rest with
  | some r => if r.entry = entry then finishGroup s r else notEnabled "KNEAD_GROUP_ISSUE"
  | none =>
    match headWords s with
    | none => notEnabled "KNEAD_GROUP_ISSUE"
    | some ws =>
      match kneadAt s ws with
      | .group k ms => if k = entry then issueGroup s k ms else notEnabled "KNEAD_GROUP_ISSUE"
      | _ => notEnabled "KNEAD_GROUP_ISSUE"

end Sys2Proof.Machine
end

