-- ==== Sys2Proof/Machine/Traps.lean ====
section
/-! DEFINITION. Asynchronous traps (spec 23 R361), the watchdog (02 R37), corrected errors (23 R365), the
ends of zeroing (03 R54), and the records that leave an account (07 R110): the events of the table for them. -/
namespace Sys2Proof.Machine

/-! ## Asynchronous traps (23 R361) -/

/-- What a strand takes at a boundary. -/
inductive AsyncCause where
  | held (op : Nat) (h : Hold)
  | conflict (v : Word)
  | overrun (v : Word)
  | skew (v : Word)
  deriving DecidableEq, Repr

/-- An operation is held, and reported if asked for. -/
def AsyncOp.heldAs (o : AsyncOp) (reported : Bool) : Option (Nat × Hold) :=
  match o.held with
  | some h => if h.reported.isSome = reported then some (o.id, h) else none
  | none => none

/-- The started operation that is held and is reported next: the earliest, once the tret after the report before it has
released that one (13 R254). -/
def heldOp (c : Crew) : Option (Nat × Hold) :=
  if c.ops.any fun o => (o.heldAs true).isSome then none else c.ops.findSome? fun o => o.heldAs false

/-- The strand is at a boundary at which it can take a trap: it runs, and its instruction or group has not completed. -/
def atBoundary (c : Crew) (k : StrandKind) : Bool :=
  let x := c.str k
  c.ctx.isSome && c.killed.isNone && x.started && !x.exited && !x.owed && x.rest.isNone

/-- The asynchronous cause a strand takes next, by the precedence of R361. -/
def asyncNext (c : Crew) (k : StrandKind) : Option AsyncCause :=
  let x := c.str k
  if !atBoundary c k then none
  else if k = .c ∧ x.level ≤ 1 then
    match heldOp c with
    | some (op, h) => some (.held op h)
    | none => x.pend.conflict.head?.map .conflict
  else if k = .s ∧ x.level = 0 then
    match x.pend.overrun with
    | v :: _ => some (.overrun v)
    | [] => x.pend.skew.head?.map .skew
  else none

/-- TVAL of a held operation: side and progress (R254); for STAGE2_UNRESOLVED the guest virtual address (22 R353). -/
def Hold.val (h : Hold) : Word :=
  if h.cause = cStage2 then h.va else BitVec.ofNat 64 (h.side % 4 * 2 ^ 62 + h.progress % 2 ^ 62)

/-- A cause as cause code, flags and TVAL (R254, R360). -/
def AsyncCause.report : AsyncCause → Nat × Nat × Word
  | .held _ h => (h.cause, 0x600, h.val)
  | .conflict v => (cConflict, 0x200, v)
  | .overrun v => (cOverrun, 0x200, v)
  | .skew v => (cSkew, 0x200, v)

/-- The crew once the cause is delivered to strand k at level n. -/
def AsyncCause.deliver (a : AsyncCause) (c : Crew) (k : StrandKind) (n : Nat) : Crew :=
  let x := c.str k
  match a with
  | .held op h =>
    { c with ops := c.ops.map fun o => if o.id = op then { o with held := some { h with reported := some n } } else o }
  | .conflict _ => c.setStr k { x with pend := { x.pend with conflict := x.pend.conflict.drop 1 } }
  | .overrun _ => c.setStr k { x with pend := { x.pend with overrun := x.pend.overrun.drop 1 } }
  | .skew _ => c.setStr k { x with pend := { x.pend with skew := x.pend.skew.drop 1 } }

/-- ASYNC_TRAP_ENTRY (R361, R357): the next cause of a strand is taken; its instruction has not issued. -/
def execAsyncTrapEntry (crew : Nat) (k : StrandKind) (s : State) : Outcome :=
  let c := s.crew crew
  match asyncNext c k with
  | none => notEnabled "ASYNC_TRAP_ENTRY"
  | some a =>
    let x := c.str k
    let (cause, flags, val) := a.report
    .next (takeTrap (s.setCrew crew (a.deliver c k (x.level + 1))) crew k cause flags val x.pc)

/-! ## Watchdog and memory errors -/

/-- The watchdog of a strand has run out (02 R37). -/
def watchdogOut (c : Crew) (k : StrandKind) : Bool :=
  let x := c.str k
  c.ctx.isSome && c.killed.isNone && x.started && !x.exited && x.wleft == 0

/-- WATCHDOG_EXPIRY (02 R37): the context is killed with cause WATCHDOG. -/
def execWatchdogExpiry (crew : Nat) (k : StrandKind) (s : State) : Outcome :=
  if watchdogOut (s.crew crew) k then .next (killContext s crew cWatchdog) else notEnabled "WATCHDOG_EXPIRY"

/-- The kind byte of an error record: the kind, and in bits 7:4 the HBM stack of unit 0 (R365). -/
def errKind (kind unit sub : Nat) : Nat := kind + (if unit = 0 then 16 * (sub % 16) else 0)

/-- CORRECTED_SOFT_ERROR (R365): no visible effect but the record of a count overflow. -/
def execCorrectedSoftError (unit sub : Nat) (pa : Word) (overflow : Bool) (s : State) : Outcome :=
  if 5 ≤ unit ∨ (unit = 0 ∧ 12 ≤ sub) then notEnabled "CORRECTED_SOFT_ERROR"
  else .next (if overflow then pushErr s (errKind 2 unit sub) unit 0 0x1FF pa.toNat else s)

/-! ## Zeroing (03 R53, R54) -/

/-- The records of who initialised the barrier objects of a segment (14 R259), and of the ring slots filled there, are
cleared with it. -/
def forgetInits (s : State) (seg : Nat) : State :=
  { s with
    inits := s.inits.filter fun p => !(isSliceKey p.1 && segOf p.1 == seg)
    ringFills := s.ringFills.filter fun p => !(isSliceKey p.1 && segOf p.1 == seg) }

/-- ZEROING_COMPLETE (R54): the resource may be used by its new owner. -/
def execZeroingComplete (what : ZeroTarget) (s : State) : Outcome :=
  match what with
  | .crew n =>
    if (s.crew n).zeroing then .next (s.setCrew n { s.crew n with zeroing := false }) else notEnabled "ZEROING_COMPLETE"
  | .planes cu =>
    match (s.cu cu).lease with
    | some l =>
      if l.zeroing then .next (s.setCu cu { s.cu cu with lease := some { l with zeroing := false } })
      else notEnabled "ZEROING_COMPLETE"
    | none => notEnabled "ZEROING_COMPLETE"
  | .segment cu seg =>
    let c := s.cu cu
    if c.zeroSegs.contains seg then
      .next (forgetInits (s.setCu cu { c with zeroSegs := c.zeroSegs.filter fun x => x ≠ seg }) (16 * cu + seg))
    else notEnabled "ZEROING_COMPLETE"

/-! ## Account records (07 R110) -/

/-- Write the first record that has left a crew's caches: it waits where an access of the account stalls (R111). -/
def writeEvicted (s : State) (crew : Nat) (r : AccRec) : State :=
  match acctReady false s crew 1 with
  | .error (.wait _ s1) => s1
  | .error e => e.left s (.acct crew)
  | .ok s1 =>
    let c := s1.crew crew
    match writeRec crew (s1.setCrew crew { c with evicted := c.evicted.drop 1 }) r with
    | .ok t => dropAsked t (.acct crew)
    | .error _ => s1

/-- ACCOUNT_RECORD_EVICTION (R110): a displaced accumulator is written to the account area. -/
def execAccountRecordEviction (crew : Nat) (s : State) : Outcome :=
  match (s.crew crew).evicted with
  | r :: _ =>
    if r.acc.count < accMax then .next (writeEvicted s crew r) else notEnabled "ACCOUNT_RECORD_EVICTION"
  | [] => notEnabled "ACCOUNT_RECORD_EVICTION"

/-- ACCOUNT_COUNT_OVERFLOW (R110): a full accumulator is written out; it has restarted at zero. -/
def execAccountCountOverflow (crew : Nat) (s : State) : Outcome :=
  match (s.crew crew).evicted with
  | r :: _ =>
    if accMax ≤ r.acc.count then .next (writeEvicted s crew r) else notEnabled "ACCOUNT_COUNT_OVERFLOW"
  | [] => notEnabled "ACCOUNT_COUNT_OVERFLOW"

end Sys2Proof.Machine
end

