-- ==== Sys2Proof/Machine/Clock.lean ====
section
/-! DEFINITION. Events of translation: walks, expiry, clock skew (spec 22 R340 to R348), the driver's writes to the
fault queue and the roots (R341, R351, R353), and frame formats (R355). -/
namespace Sys2Proof.Machine

/-! ## Walks and expiry -/

/-- A unit translates for a function: a context of it is on the CU, or the unit is the I/O die and the device has the
function (01 R12). -/
def unitServes (s : State) (cu fn : Nat) : Bool :=
  (cu == ioCu && decide (fn ≤ 384)) || (decide (cu < 96) &&
    (List.range 4).any fun j => (s.crew (4 * cu + j)).ctx.isSome && (s.crew (4 * cu + j)).tenant == fn)

/-- TRANSLATION_WALK (R340, R343, R350): a walk installs a translation, or ends in its fault. A fault of stage 2 or of a
migration sends its record; nobody's instruction waits on it here. -/
def execTranslationWalk (cu fn : Nat) (va : Word) (need : BitVec 3) (s : State) : Outcome :=
  if !unitServes s cu fn || !clockOk s cu || need == 0#3 || va.bits 63 57 != 0 then notEnabled "TRANSLATION_WALK"
  else
    match walkIn s cu fn va.toNat need with
    | (s1, .stall l k pa ent frame) => .next (joinFault s1 fn va need l k pa ent frame (s.cuCycle (walkerOf cu)) .other)
    | (s1, _) => .next s1

/-- The entries of a cache that are still in use at a cycle (R343). -/
def unexpired (now : Nat) (l : List Tlb) : List Tlb := l.filter fun t => decide (now < t.expiry)

/-- The non-leaf entries of a walker that are still in use (R343). -/
def unexpiredEnts (now : Nat) (l : List WalkEnt) : List WalkEnt := l.filter fun t => decide (now < t.expiry)

/-- TRANSLATION_EXPIRY (R343): every cache drops the entries whose expiry its copy of CYCLE has reached. -/
def execTranslationExpiry (s : State) : Outcome :=
  let s1 := { s with
    cus := s.cus.map fun p => (p.1, { p.2 with tlb := unexpired (s.cuCycle p.1) p.2.tlb })
    clusterTlb := s.clusterTlb.map fun p => (p.1, unexpired (s.cuCycle (walkerOf (8 * p.1))) p.2)
    walkCache := s.walkCache.map fun p => (p.1, unexpiredEnts (s.cuCycle p.1) p.2) }
  if s1 = s then notEnabled "TRANSLATION_EXPIRY" else .next s1

/-! ## Skew (R348) -/

/-- The clock units: CUs and cluster walkers. -/
def clockUnit (u : Nat) : Bool := u < 96 || (97 ≤ u && u < 109)

/-- CLOCK_SKEW for the scalar strand of every context on a CU. -/
def skewTraps (s : State) (cu : Nat) (drift : Int) : State :=
  (List.range 4).foldl
    (fun s j =>
      let c := s.crew (4 * cu + j)
      if c.ctx.isSome then
        s.setCrew (4 * cu + j) { c with ss := { c.ss with
          pend := { c.ss.pend with skew := c.ss.pend.skew ++ [BitVec.ofInt 64 drift] } } }
      else s) s

/-- The unit drops every cached entry. -/
def dropEntries (s : State) (u : Nat) : State :=
  if u < 96 then s.setCu u { s.cu u with tlb := [] }
  else { s with clusterTlb := sput s.clusterTlb (u - 97) [], walkCache := sput s.walkCache u [] }

/-- CLOCK_SKEW_DETECTION (R348): the copy of a unit differs from the reference by drift. CYCLE never decreases. Beyond
16 the entries are dropped, an error record is written, walks are held until the copy is set, and the contexts of a CU
trap. -/
def execClockSkewDetection (cu : Nat) (drift : Int) (s : State) : Outcome :=
  if !clockUnit cu || decide ((s.cycle : Int) + drift < 0) then notEnabled "CLOCK_SKEW_DETECTION"
  else
    let c := s.cu cu
    let now := s.cuCycle cu
    if drift.natAbs ≤ 16 then
      .next (s.setCu cu { c with
        drift
        floor := now })
    else
      let ahead := max now ((s.cycle : Int) + drift).toNat
      let s1 := s.setCu cu { c with
        drift := if 0 < drift then 0 else drift
        floor := if 0 < drift then ahead else now
        resync := true }
      let s2 := pushErr (dropEntries s1 cu) 4 4 0 0x1FF 0
      .next (if cu < 96 then skewTraps s2 cu drift else s2)

/-- CLOCK_COPY_RESYNC (R348): a copy behind jumps forward; one ahead has stopped until the reference reached it. -/
def execClockCopyResync (cu : Nat) (s : State) : Outcome :=
  let c := s.cu cu
  if (c.resync || decide (2 < c.drift.natAbs)) && decide (s.cuCycle cu ≤ s.cycle + 2) then
    .next (s.setCu cu { c with
      drift := 0
      floor := s.cuCycle cu
      resync := false })
  else notEnabled "CLOCK_COPY_RESYNC"

/-! ## The fault queue (R351 to R353) -/

/-- Write every waiting fault record that finds room. -/
def drainAllFaults (s : State) : State := drainFaults s.faults.length s

/-- The record is answered as unresolvable: who waits on it learns of it; nobody else keeps it. -/
def markUnres (s : State) (id : Nat) : State :=
  { s with faults := (s.faults.map fun f =>
      if f.id = id then { f with
        unres := true
        waiters := f.waiters.filter fun w => w.1 ≠ .other }
      else f).filter fun f => !(f.unres && f.waiters.isEmpty) }

/-- The CU whose caches a waiter's access goes through. -/
def waiterCu (s : State) : Waiter → Option Nat
  | .strand c _ | .look c _ | .fetch c _ | .op c _ | .acct c => some (cuOf c)
  | .card id => (s.cards.find? fun k => k.id = id).map fun k => cuOf k.crew
  | .journal g => (sget? s.bindings g).map Binding.cu
  | .queue _ | .launch _ | .task _ _ => some ioCu
  | .other => none

/-- What an access stalled on a record finds in the caches is gone, so that it walks from the root (R353). -/
def purgeFor (fn : Nat) (s : State) (w : Waiter × Word) : State :=
  match waiterCu s w.1 with
  | none => s
  | some cu =>
    let s := dropPage s cu fn (w.2.toNat % 2 ^ 57 / 4096)
    let u := walkerOf cu
    { s with walkCache := sput s.walkCache u ((sget [] s.walkCache u).filter fun e => e.fn ≠ fn) }

/-- The record is answered: its waiters walk again, and a walk in flight can send its own record (R353, R356). -/
def answerWalk (s : State) (f : FaultRec) : State :=
  let s := f.waiters.foldl (purgeFor f.fn) s
  releaseWalk { s with faults := s.faults.filter fun g => !(g.id == f.id && !g.unres) }

/-- FQRESP_WRITE (R353): the accesses stalled on the record walk again, or raise STAGE2_UNRESOLVED; an id without an
outstanding record is ignored. -/
def execFqrespWrite (v : Word) (s : State) : Outcome :=
  barWrite "FQRESP_WRITE" s fun s =>
    let id := v.bits 31 0
    match s.faults.find? fun f => f.id == id && f.written && !f.unres with
    | none => .next s
    | some f => .next (if v.getLsbD 32 then releaseWalk (markUnres s id) else answerWalk s f)

/-- FQHEAD_WRITE (R351): the head and the vector; waiting records are written while there is room. -/
def execFqheadWrite (v : Word) (s : State) : Outcome :=
  barWrite "FQHEAD_WRITE" s fun s =>
    .next (drainAllFaults { s with fq := { s.fq with
      head := v.extractLsb' 0 32
      vector := v.bits 63 48 } })

/-! ## Roots (R341) -/

/-- The bits of a root register that can be written. -/
def rootMask : Word := 0x800FFFFFFFFFF000#64

/-- XR_ROOT_WRITE (R341): no cached entry is dropped; XR2 of function 0 is reserved. -/
def execXrRootWrite (fn : Nat) (stage2 : Bool) (v : Word) (s : State) : Outcome :=
  barWrite "XR_ROOT_WRITE" s fun s =>
    if 384 < fn then notEnabled "XR_ROOT_WRITE"
    else if stage2 then
      (if fn = 0 then .next s else .next (s.setTenant fn { s.tenant fn with xr2 := v &&& rootMask }))
    else .next (s.setTenant fn { s.tenant fn with xr1 := v &&& rootMask })

/-! ## Frames (R355) -/

/-- FCMD_WRITE (R355): ignored while a command runs; a command with op 2 or 3, or a frame outside HBM, is rejected. -/
def execFcmdWrite (v : Word) (s : State) : Outcome :=
  barWrite "FCMD_WRITE" s fun s =>
    if s.regs.fcmdGo then .next s
    else
      let op := v.bits 62 61
      let frame := v.bits 51 12
      let count := v.bits 11 4
      let bad := decide (2 ≤ op) || decide (hbmSize < (frame + count + 1) * 4096)
      let go := v.getLsbD 63
      .next { s with regs := { s.regs with
        fcmdGo := go && !bad
        fcmdOp := op
        fcmdFrame := frame
        fcmdCount := count
        fcmdErr := if go && bad then true else s.regs.fcmdErr && !v.getLsbD 0 } }

/-- FRAME_FORMAT_COMPLETE (R355, 03 R52): the frames are zero and have their format; go reads 0. -/
def execFrameFormatComplete (s : State) : Outcome :=
  if !s.regs.fcmdGo then notEnabled "FRAME_FORMAT_COMPLETE"
  else
    let f := s.regs.fcmdFrame
    let n := s.regs.fcmdCount + 1
    .next { s with
      mem := s.mem.filter fun c => !(decide (f * 4096 ≤ c.1) && decide (c.1 < (f + n) * 4096))
      frames := (List.range n).foldl (fun a k => sputD false a (f + k) (s.regs.fcmdOp == 1)) s.frames
      regs := { s.regs with fcmdGo := false } }

end Sys2Proof.Machine
end

