-- ==== Sys2Proof/Machine/Pool.lean ====
section
/-! DEFINITION. The ready pool and the tenants' shares: spec 02 R31, R32; 21 R328, R333 to R335; and the event
SPILLCFG_WRITE. -/
namespace Sys2Proof.Machine

/-! ## Deficits and ranks (02 R31, R32; 21 R333) -/

/-- The cycles of an epoch (R333). -/
def epochCycles : Nat := 65536

/-- The deficit that R31 compares. -/
def deficitOf (s : State) (n : Nat) : Int :=
  let t := s.tenant n
  t.deficit + ((384 * t.target * (s.cycle % epochCycles) / 65536 : Nat) : Int) - t.used

/-- The aging interval (R332). -/
def agingOf (s : State) : Nat := 1024 * 2 ^ s.regs.ageK

/-- The priority of an entry at this cycle (R32). -/
def effPrio (s : State) (e : PoolEnt) : Nat := min 15 (e.prio + (s.cycle - e.readyAt) / agingOf s)

/-- What R31 compares, smallest first. -/
def rankKey (s : State) (e : PoolEnt) : List Int :=
  [-deficitOf s e.tenant, e.tenant, -(effPrio s e : Int), e.readyAt, e.launch, e.task]

/-- Lexicographic order. -/
def keyLt : List Int → List Int → Bool
  | a :: r, b :: q => decide (a < b) || (decide (a = b) && keyLt r q)
  | _, _ => false

/-- The entry R31 ranks first. -/
def bestOf (s : State) (l : List PoolEnt) : Option PoolEnt :=
  l.foldl
    (fun a e =>
      match a with
      | none => some e
      | some b => if keyLt (rankKey s e) (rankKey s b) then some e else some b) none

/-! ## The pool and its spill area (R31, R335) -/

/-- The entries that the resident pool holds. -/
def poolResident (s : State) : Nat := s.pool.countP fun e => !e.spilled && !e.held && !e.late

/-- The entries in the spill area. -/
def poolSpilled (s : State) : Nat := s.pool.countP fun e => e.spilled

/-- The resident pool is full (R31). -/
def residentFull (s : State) : Bool := decide (4096 ≤ poolResident s)

/-- The spill area takes no entry: it is full, or spilling is off. -/
def spillNone (s : State) : Bool := !s.regs.spillEn || decide (s.regs.spillBlocks * 1024 ≤ poolSpilled s)

/-- No entry is free (R335). -/
def poolFull (s : State) : Bool := residentFull s && spillNone s

/-- full is set once the pool and the area are both full (R335). -/
def noteFull (s : State) : State := if poolFull s then { s with regs := { s.regs with spillFull := true } } else s

/-- A new entry: resident, spilled, or held in its launch until an entry frees (R335). -/
def poolAdd (s : State) (e : PoolEnt) : State :=
  let e := { e with late := false, held := poolFull s, spilled := residentFull s && !spillNone s }
  noteFull { s with pool := s.pool ++ [e] }

/-- The entry of a task. -/
def PoolEnt.is (e : PoolEnt) (launch task : Nat) : Bool := e.launch == launch && e.task == task

/-- The first by a comparison. -/
def firstBy (lt : PoolEnt → PoolEnt → Bool) (l : List PoolEnt) : Option PoolEnt :=
  l.foldl
    (fun a e =>
      match a with
      | none => some e
      | some b => if lt e b then some e else some b) none

/-- Change the entry of a task. -/
def poolMap (s : State) (launch task : Nat) (f : PoolEnt → PoolEnt) : State :=
  { s with pool := s.pool.map fun e => if e.is launch task then f e else e }

/-- After entries have left: a spilled entry returns to the pool, the one ready earliest first, and held tasks enter by
launch and ascending node index (R335). -/
def poolFill : Nat → State → State
  | 0, s => s
  | n + 1, s =>
    match firstBy (fun a b => a.readyAt < b.readyAt) (s.pool.filter fun e => e.spilled) with
    | some e =>
      if residentFull s then
        match firstBy (fun a b => keyLt [a.launch, a.task] [b.launch, b.task]) (s.pool.filter fun e => e.held) with
        | some h =>
          if spillNone s then s
          else poolFill n (noteFull (poolMap s h.launch h.task fun e => { e with held := false, spilled := true }))
        | none => s
      else poolFill n (poolMap s e.launch e.task fun e => { e with spilled := false })
    | none =>
      match firstBy (fun a b => keyLt [a.launch, a.task] [b.launch, b.task]) (s.pool.filter fun e => e.held) with
      | some h =>
        if poolFull s then s
        else
          let sp := residentFull s
          poolFill n (noteFull (poolMap s h.launch h.task fun e => { e with held := false, spilled := sp }))
      | none => s

/-- The pool without the entries of a predicate, and refilled. -/
def poolDrop (s : State) (p : PoolEnt → Bool) : State :=
  let s1 := { s with pool := s.pool.filter fun e => !p e }
  poolFill (2 * s1.pool.length) s1

/-! ## Launches that stop (R328) -/

/-- A context of the launch has been killed and has not ended, on a crew or descheduled. -/
def killedIn (s : State) (launch : Nat) : Bool :=
  (s.crews.any fun p => p.2.killed.isSome && (p.2.ctx.any fun c => c.launch == launch)) ||
    s.pool.any fun e => e.launch == launch && e.saved.any fun p => p.2.2.2.killed.isSome

/-- No further task of the launch is dispatched (R328). -/
def launchHalted (s : State) (launch : Nat) : Bool :=
  (match s.launch launch with
   | some l => l.stop.isSome
   | none => true) || killedIn s launch

/-- The launch stops with a status, unless it has one; its pending tasks leave the pool (R328). -/
def stopLaunch (s : State) (launch status : Nat) : State :=
  match s.launch launch with
  | none => s
  | some l =>
    let s := s.setLaunch { l with stop := some (l.stop.getD status) }
    poolDrop s fun e => e.launch == launch && e.saved.isNone

/-- A task becomes ready at this cycle: its entry. -/
def readyEnt (s : State) (l : Launch) (t : Nat) (n : Node) (late : Bool) : PoolEnt :=
  { launch := l.id, task := t, tenant := l.owner, prio := n.prio, readyAt := s.cycle, late }

/-- A task of a launch enters the pool (R327, 02 R26). -/
def makeReady (s : State) (launch t : Nat) (late : Bool) : State :=
  match s.launch launch with
  | none => s
  | some l =>
    match l.nodes[t]? with
    | none => s
    | some n =>
      let s := s.setLaunch (l.mapNode t fun n => { n with st := .ready, readyAt := s.cycle })
      let e := readyEnt s l t n late
      if late then { s with pool := s.pool ++ [e] } else poolAdd s e

/-! ## SPILLCFG (R335) -/

/-- SPILLCFG_WRITE (R335): blocks and base are kept while en is 1 or the area holds an entry. -/
def execSpillcfgWrite (v : Word) (s : State) : Outcome :=
  barWrite "SPILLCFG_WRITE" s fun s =>
    let keep := s.regs.spillEn || decide (0 < poolSpilled s)
    .next (poolFill (2 * s.pool.length) (noteFull { s with regs := { s.regs with
      spillBlocks := if keep then s.regs.spillBlocks else v.bits 63 52
      spillBase := if keep then s.regs.spillBase else v.bits 51 16 * 65536
      spillFull := s.regs.spillFull && !v.getLsbD 1
      spillEn := v.getLsbD 0 } }))

end Sys2Proof.Machine
end

