-- ==== Sys2Proof/Machine/Queues.lean ====
section
/-! DEFINITION. Work queues and the queue engine: spec 21 R319 to R331, 27 R402, R403; and their events. -/
namespace Sys2Proof.Machine

/-! ## Accesses of the queue engine (R322) -/

/-- The queue engine as an agent, for a function and a purpose: pages owned by the host are no obstacle (R322). -/
def engAgent (who : Waiter) (fn : Nat) : Agent := { who, crew := 384, cu := ioCu, fn, hostOk := true }

/-- A structure of n bytes at p lies in GLOBAL (03 R41 to R43), aligned as its field says (21, Launch structures). -/
def ptrGlobal (p al n : Nat) : Bool := decide (p < 2 ^ 57 ∧ p + n ≤ 2 ^ 57) && p % al == 0

/-! ## Queue registers (R319, R320) -/

/-- The queues a function has enabled. -/
def enabledOf (s : State) (owner : Nat) : Nat := s.queues.countP fun q => q.2.en && q.2.owner == owner

/-- The high half of a queue configuration. -/
def queueHigh (s : State) (q : Nat) (v : Word) : Queue :=
  let x := s.queue q
  let o := v.bits 56 48
  let l := v.bits 4 0
  let x := { x with
    err := x.err && !v.getLsbD 62
    vector := v.bits 47 32
    owner := if x.en then x.owner else if o ≤ 384 then o else 0
    lsize := if x.en then x.lsize else if 1 ≤ l ∧ l ≤ 16 then l else 1 }
  if !v.getLsbD 63 then { x with en := false }
  else if x.en then x
  else if x.owner ≠ 0 ∧ 64 ≤ enabledOf s x.owner then { x with err := true }
  else { x with en := true, head := 0#32, tail := 0#32, aborted := false }

/-- QUEUE_CONFIG_WRITE (R319): one half of the configuration of queue q. -/
def execQueueConfigWrite (q : Nat) (hi : Bool) (v : Word) (s : State) : Outcome :=
  barWrite "QUEUE_CONFIG_WRITE" s fun s =>
    if 2048 ≤ q then notEnabled "QUEUE_CONFIG_WRITE"
    else if hi then .next (s.setQueue q (queueHigh s q v))
    else
      let x := s.queue q
      .next (if x.en then s else s.setQueue q { x with base := v &&& 0x01FFFFFFFFFFFFC0#64 })

/-- TAIL_WRITE (R321), through the doorbell page of the queue's owner. -/
def execTailWrite (q : Nat) (v : BitVec 32) (s : State) : Outcome :=
  barWrite "TAIL_WRITE" s fun s =>
    if 2048 ≤ q then notEnabled "TAIL_WRITE"
    else
      let x := s.queue q
      if !x.en || x.aborted || x.err then .next s
      else
        let d := (v - x.tail).toNat
        let used := (x.tail - x.head).toNat
        if (2 ^ x.lsize : Int) - used < d ∨ 2 ^ 31 ≤ d then .next (s.setQueue q { x with err := true, ecode := 1 })
        else .next (s.setQueue q { x with tail := v })

/-! ## Abort (R329) -/

/-- A discarded context: its node ends with code 1 (assumption log 40), its task record is owed (R331), its handles
close and its area is free. -/
def discard (s : State) (e : PoolEnt) : State :=
  match e.saved with
  | none => s
  | some (crew, area, _, c) =>
    let s := closeHandles s e.launch e.task
    let s := { s with areas := s.areas.filter fun a => a ≠ area }
    match s.launch e.launch with
    | none => s
    | some l =>
      let ended (n : Node) : Node :=
        { n with st := .done, code := 1, kill := c.killed.getD 0, endCycle := s.cycle, crew, owed := true }
      countFor (s.setLaunch (l.mapNode e.task ended)) e.tenant 15 1

/-- Stop one launch by an abort. -/
def abortLaunch (s : State) (l : Launch) : State :=
  let s := s.setLaunch { l with stop := some 6 }
  let s := (s.pool.filter fun e => e.launch == l.id).foldl discard s
  let s := poolDrop s fun e => e.launch == l.id
  s.crews.foldl
    (fun s p => if p.2.ctx.any fun c => c.launch == l.id then killContext s p.1 0 else s) s

/-- Abort a queue. -/
def abortQueue (s : State) (q : Nat) : State :=
  let s := dropAsked (dropWaiter (s.setQueue q { s.queue q with aborted := true }) (.queue q)) (.queue q)
  (s.launches.filter fun l => l.queue == q).foldl (fun s l => abortLaunch s ((s.launch l.id).getD l)) s

/-- ABORT_WRITE (R329): writing 1 aborts; other values are ignored (R320). -/
def execAbortWrite (q : Nat) (v : BitVec 32) (s : State) : Outcome :=
  barWrite "ABORT_WRITE" s fun s =>
    if 2048 ≤ q then notEnabled "ABORT_WRITE" else .next (if v = 1#32 then abortQueue s q else s)

/-- FUNCTION_LEVEL_RESET (R329): every queue of the VF is aborted, then its en is cleared. -/
def execFunctionLevelReset (vf : Nat) (s : State) : Outcome :=
  barWrite "FUNCTION_LEVEL_RESET" s fun s =>
    if vf = 0 ∨ 384 < vf then notEnabled "FUNCTION_LEVEL_RESET"
    else
      .next ((s.queues.filter fun p => p.2.owner == vf).foldl
        (fun s p =>
          let s := abortQueue s p.1
          s.setQueue p.1 { s.queue p.1 with en := false }) s)

/-! ## Reading a launch (R323 to R327) -/

/-- A field of a structure. -/
def fieldOf (bs : List Byte) (off n : Nat) : Nat := leNat ((bs.drop off).take n)

/-- All bytes from off on, n of them, are zero. -/
def zeroAt (bs : List Byte) (off n : Nat) : Bool := ((bs.drop off).take n).all fun b => b == 0#8

/-- The pointers through which the rest of a launch is read pass (R324, R327). -/
def recordPtrs (r : List Byte) : Bool := ptrGlobal (fieldOf r 0 8) 64 256 && ptrGlobal (fieldOf r 8 8) 64 64

/-- The record's reserved fields and its completion pointer pass, for a graph of nn nodes (R324, R327, R330). -/
def recordOk (r : List Byte) (nn : Nat) : Bool :=
  zeroAt r 29 3 && decide (fieldOf r 28 1 < 8) &&
    ptrGlobal (fieldOf r 16 8) 64 (64 + if (fieldOf r 28 1).testBit 2 then 16 * nn else 0)

/-- A pointer that may be 0 for none. -/
def ptrOrNone (p al n : Nat) : Bool := p == 0 || ptrGlobal p al n

/-- The configuration block and the pointers of the graph header pass (R324, R325, R327). -/
def blockOk (s : State) (owner : Nat) (c h : List Byte) : Bool :=
  let k := fieldOf c 136 1
  let allow := if owner = 0 then 7 else (s.tenant owner).kpermAllow.toNat
  zeroAt c 137 55 && zeroAt c 224 32 && decide (k < 16) && k % 2 == 0 && (k / 2 &&& allow) == k / 2 &&
    ptrGlobal (fieldOf c 0 8) 4096 4 && ptrGlobal (fieldOf c 48 8) 4096 64 && ptrOrNone (fieldOf c 8 8) 64 4096 &&
    ((List.range 4).all fun i => ptrOrNone (fieldOf c (16 + 8 * i) 8) 64 512) &&
    ptrGlobal (fieldOf h 0 8) 64 (64 * fieldOf h 32 4) && ptrGlobal (fieldOf h 8 8) 4 (4 * fieldOf h 36 4) &&
    ptrGlobal (fieldOf h 16 8) 32 (32 * fieldOf h 40 4) && ptrGlobal (fieldOf h 24 8) 64 2048

/-- n words of 64 bits at an offset. -/
def wordsAt (bs : List Byte) (off n : Nat) : List Word :=
  (List.range n).map fun i => BitVec.ofNat 64 (fieldOf bs (off + 8 * i) 8)

/-- The values a launch gives its contexts (R324): a VF's wdog is at most the tenant's (R332). -/
def cfgOf (s : State) (owner : Nat) (c : List Byte) : LaunchCfg :=
  let w := fieldOf c 128 8
  let m := (s.tenant owner).wdogMax.toNat
  { kperm := BitVec.ofNat 4 (fieldOf c 136 1 + 1)
    wdog := BitVec.ofNat 48 (if owner = 0 then w else min w m)
    tsave := wordsAt c 96 4
    tvec := wordsAt c 64 4
    rngkey := BitVec.ofNat 64 (fieldOf c 56 8)
    acctbase := BitVec.ofNat 64 (fieldOf c 48 8)
    tmpl := wordsAt c 16 4
    image := BitVec.ofNat 64 (fieldOf c 0 8) }

/-- A tile descriptor (R325). -/
def tileDescOf (d : List Byte) : TileDesc :=
  { src := BitVec.ofNat 64 (fieldOf d 0 8), shape := BitVec.ofNat 64 (fieldOf d 8 8),
    pitches := BitVec.ofNat 64 (fieldOf d 16 8), tile := fieldOf d 24 1, zs := fieldOf d 25 1 }

/-- A used descriptor passes R327; a swizzle of 7 is none of R325's values (DEDUCED, assumption log 41). -/
def descBytesOk (d : List Byte) : Bool := zeroAt d 26 6 && decide (fieldOf d 25 1 < 7) && decide (fieldOf d 24 1 < 24)

/-- The declared tiles of a node as descriptor indices. -/
def nodeDescs (n : List Byte) : List Nat :=
  ((List.range 4).filter fun k => (fieldOf n 2 1).testBit k).map fun k => fieldOf n 0 2 + k

/-- The used groups of a node. -/
def nodeGroups (n : List Byte) : List Nat :=
  ((List.range 4).filter fun k => (fieldOf n 3 1).testBit k).map fun k => fieldOf n (4 + k) 1

/-- No two equal. -/
def distinct : List Nat → Bool
  | [] => true
  | a :: r => !r.contains a && distinct r

/-- A node passes R327: nn nodes, ns successor entries, nd descriptors. -/
def nodeOk (nn ns nd : Nat) (succ descs n : List Byte) : Bool :=
  let s0 := fieldOf n 12 4
  let k := fieldOf n 10 2
  let ds := nodeDescs n
  decide (fieldOf n 2 1 < 16) && decide (s0 + k ≤ ns) &&
    ((List.range k).all fun i => decide (fieldOf succ (4 * (s0 + i)) 4 < nn)) &&
    (ds.all fun d => decide (d < nd)) && distinct (nodeGroups n) &&
    distinct (ds.map fun d => fieldOf descs (32 * d + 24) 1) && ds.all fun d => descBytesOk ((descs.drop (32 * d)).take 32)

/-- A node of the graph (R325). -/
def nodeOf (succ descs n : List Byte) : Node :=
  { targs := wordsAt n 32 4
    entries := (List.range 4).map fun k => fieldOf n (16 + 4 * k) 4
    succs := (List.range (fieldOf n 10 2)).map fun i => fieldOf succ (4 * (fieldOf n 12 4 + i)) 4
    npred := (fieldOf n 8 2 : Nat)
    grps := (List.range 4).map fun k => fieldOf n (4 + k) 1
    gmask := BitVec.ofNat 4 (fieldOf n 3 1)
    prio := fieldOf n 3 1 / 16
    tiles := (nodeDescs n).map fun d => tileDescOf ((descs.drop (32 * d)).take 32) }

/-- The entries of a rule table that a strand keeps (18 R305). -/
def rulesFor (matrix : Bool) (t : Store Byte) : Store Byte :=
  t.filter fun c => (memByte t (c.1 / 64 * 64)).getLsbD 7 == matrix

/-- The bytes of the group table (R326). -/
def groupTable (nodes : List (List Byte)) : List Byte :=
  (List.range 256).flatMap fun g => leBytes 4 (nodes.countP fun n => (nodeGroups n).contains g) ++ leBytes 4 0

/-- What reading a launch comes to: it waits, or the launch as read with the status it fails with, if any. -/
inductive LoadAns where
  | stall
  | read (l : Launch)

/-- The launch fails with a status. -/
def failed (s : State) (l : Launch) (status : Nat) : State × LoadAns := (s, .read { l with stop := some status })

/-- The queue engine that reads a launch. -/
def loadAgent (l : Launch) : Agent := engAgent (.queue l.queue) l.owner

/-- An access of a launch's structures that does not go through: it waits (22 R350), or it faults (R327: status 5). -/
def missed (s : State) (l : Launch) : Stop → State × LoadAns
  | .wait _ s1 => (s1, .stall)
  | e => failed (e.left s (.queue l.queue)) l 5

/-- The last steps of R327 for a graph that passes: rules, group table. -/
def loadRules (s : State) (l : Launch) (nodes : List (List Byte)) (rules groups : Nat) : State × LoadAns :=
  let table (s : State) (l : Launch) : State × LoadAns :=
    match agentWrite (loadAgent l) groups (groupTable nodes) s with
    | .error e => missed s l e
    | .ok s1 => (s1, .read l)
  if rules = 0 then table s l
  else
    match agentRead (loadAgent l) rules 4096 s with
    | .error e => missed s l e
    | .ok (s1, bs) =>
      let l := { l with
        rulesHash := sha384 bs
        cfg := { l.cfg with rules := bankOf bs } }
      match tableBad bs with
      | some _ => failed s1 l 3
      | none => table s1 l

/-- The graph of a launch (R325, R327). -/
def loadGraph (s : State) (l : Launch) (c h : List Byte) : State × LoadAns :=
  let nn := fieldOf h 32 4
  let ns := fieldOf h 36 4
  let nd := fieldOf h 40 4
  if !zeroAt h 44 20 || nn == 0 || decide (2 ^ 24 < nn) then failed s l 4
  else
    match agentRead (loadAgent l) (fieldOf h 0 8) (64 * nn) s with
    | .error e => missed s l e
    | .ok (s1, nb) =>
      match agentRead (loadAgent l) (fieldOf h 8 8) (4 * ns) s1 with
      | .error e => missed s1 l e
      | .ok (s2, sb) =>
        match agentRead (loadAgent l) (fieldOf h 16 8) (32 * nd) s2 with
        | .error e => missed s2 l e
        | .ok (s3, db) =>
          let nodes := (List.range nn).map fun i => (nb.drop (64 * i)).take 64
          let l := { l with graph := h ++ nb ++ sb ++ db }
          if !(nodes.all fun n => nodeOk nn ns nd sb db n) then failed s3 l 4
          else
            match loadRules s3 l nodes (fieldOf c 8 8) (fieldOf h 24 8) with
            | (s4, .read l) =>
              (s4, .read { l with nodes := if l.stop.isSome then [] else nodes.map fun n => nodeOf sb db n })
            | a => a

/-- Read a launch from its record (R327): the block and the header are read through the record's pointers, then
everything that R327 checks with status 2 is checked. -/
def loadLaunch (s : State) (l : Launch) (r : List Byte) : State × LoadAns :=
  let l := { l with
    record := r
    larg := wordsAt r 32 4
    flags := fieldOf r 28 1
    tag := fieldOf r 24 4
    completion := BitVec.ofNat 64 (fieldOf r 16 8) }
  if !recordPtrs r then failed s l 2
  else
    match agentRead (loadAgent l) (fieldOf r 0 8) 256 s with
    | .error e => missed s l e
    | .ok (s1, c) =>
      let l := { l with
        config := c
        rulesNamed := fieldOf c 8 8 != 0 }
      match agentRead (loadAgent l) (fieldOf r 8 8) 64 s1 with
      | .error e => missed s1 l e
      | .ok (s2, h) =>
        if !(recordOk r (fieldOf h 32 4) && blockOk s2 l.owner c h) then failed s2 l 2
        else loadGraph s2 { l with cfg := cfgOf s2 l.owner c } c h

/-- The address of the record at a queue's head. -/
def headAddr (q : Queue) : Nat := q.base.toNat + 64 * (q.head.toNat % 2 ^ q.lsize)

/-- A launch of the queue has not completed. -/
def queueLive (s : State) (q : Nat) : Bool := s.launches.any fun l => l.queue == q

/-- Queue q has an accepted record that may be read: a serial one waits for the earlier launches of its queue (R323). A
record that cannot be read yet is taken, and one that cannot be read fails. -/
def queueReady (s : State) (q : Nat) (x : Queue) : Bool :=
  x.en && !x.err && !x.aborted && x.head != x.tail &&
    (!queueLive s q ||
      (match agentRead (engAgent (.queue q) x.owner) (headAddr x) 64 s with
       | .ok (_, r) => !(fieldOf r 28 1).testBit 0
       | .error _ => true))

/-- The queue that the rotation of R323 serves next. -/
def nextQueue (s : State) : Option Nat :=
  let ready := (s.queues.filter fun p => queueReady s p.1 p.2).map Prod.fst
  match s.lastQueue with
  | none => ready.head?
  | some l =>
    match ready.find? fun q => l < q with
    | some q => some q
    | none => ready.head?

/-- The nodes without predecessors enter the pool (R327). -/
def enterReady (s : State) (l : Launch) : State :=
  l.nodes.zipIdx.foldl (fun s p => if p.1.npred = 0 then makeReady s l.id p.2 false else s) s

/-- LAUNCH_RECORD_READ (R323, R327, R335): the queue engine reads the next accepted record with all that it names. -/
def execLaunchRecordRead (q : Nat) (s : State) : Outcome :=
  if nextQueue s ≠ some q ∨ 1024 ≤ s.launches.length ∨ poolFull s = true then notEnabled "LAUNCH_RECORD_READ"
  else
    let x := s.queue q
    let l : Launch := { id := s.launchSeq, queue := q, owner := x.owner, record := [], start := s.cycle }
    match agentRead (loadAgent l) (headAddr x) 64 s with
    | .error (.wait _ s1) => .next s1
    | r =>
      match (match r with
        | .ok (s1, bs) => loadLaunch s1 l bs
        | .error e => missed s l e) with
      | (s2, .stall) => .next s2
      | (s2, .read l) =>
        let s3 := { dropAsked s2 (.queue q) with
          launches := s2.launches ++ [l]
          launchSeq := s2.launchSeq + 1
          lastQueue := some q }
        .next (enterReady (s3.setQueue q { s3.queue q with head := x.head + 1#32 }) l)

/-! ## Completion records (R328 to R331, 27 R403) -/

/-- The 16 bytes of a task record (R330). -/
def taskBytes (n : Node) : List Byte :=
  leBytes 4 (2 ^ 31 + n.kill % 256 * 256 + n.code) ++ leBytes 4 (n.crew % 512) ++
    leBytes 8 (if n.code = 3 then 0 else n.endCycle)

/-- The address of task record x. -/
def taskAddr (l : Launch) (x : Nat) : Nat := l.completion.toNat + 64 + 16 * x

/-- The completion pointer of a launch is usable. -/
def recordAt (l : Launch) : Bool := ptrGlobal l.completion.toNat 64 64 && !l.record.isEmpty

/-- Task records are written. -/
def taskRecords (l : Launch) : Bool := l.flags.testBit 2 && recordAt l

/-- Write a record of a launch: a fault drops it with an error record, false when it waits. -/
def putRecord (s : State) (who : Waiter) (owner va : Nat) (bs : List Byte) : State × Bool :=
  match agentWrite (engAgent who owner) va bs s with
  | .ok s1 => (s1, true)
  | .error (.wait _ s1) => (s1, false)
  | .error e => (pushErr (e.left s who) 3 4 owner 0x1FF 0, true)

/-- The nodes whose records are written with the launch's: those not run (R328), and those whose record is owed
(R331). -/
def notRun (l : Launch) : List Nat :=
  (l.nodes.zipIdx.filter fun p => p.1.st ≠ .done || p.1.code == 3 || p.1.owed).map Prod.snd

/-- The 64 bytes of a launch completion record (R330). -/
def launchBytes (l : Launch) (now : Nat) : List Byte :=
  let bad := (l.nodes.zipIdx.find? fun p => p.1.st == .done && (p.1.code == 1 || p.1.code == 2)).map Prod.snd
  leBytes 4 (2 ^ 31 + l.stop.getD 0) ++ leBytes 4 l.tag ++
    leBytes 4 (l.nodes.countP fun n => n.st == .done && n.code == 0) ++ leBytes 4 (bad.getD 0xFFFFFFFF) ++
    leBytes 8 l.start ++ leBytes 8 now ++ leBytes 32 0

/-- The launch may complete (R328, 04 R76): every task has, or it stopped and no task of it runs or is descheduled;
and no Glaze card of it goes on. -/
def launchOver (s : State) (l : Launch) : Bool :=
  ((l.nodes.all fun n => n.st == .done) && !(s.cards.any fun k => k.launch == l.id)) ||
    (launchHalted s l.id && !(s.crews.any fun p => p.2.ctx.any fun c => c.launch == l.id) &&
      !(s.pool.any fun e => e.launch == l.id && e.saved.isSome) && !(s.cards.any fun k => k.launch == l.id))

/-- The recorder's 256 bytes (27 R403). -/
def recorderBytes (l : Launch) (index now : Nat) : List Byte :=
  let sha (bs : List Byte) : List Byte := if bs.isEmpty then leBytes 48 0 else sha384 bs
  let rec64 := if l.record.isEmpty then leBytes 64 0 else l.record
  rec64 ++ sha l.config ++ sha l.graph ++ (if l.rulesHash.isEmpty then leBytes 48 0 else l.rulesHash) ++ leBytes 8 l.start ++
    leBytes 8 now ++ leBytes 4 (2 ^ 31 + l.stop.getD 0) ++ leBytes 2 l.queue ++ leBytes 2 l.owner ++ leBytes 4 index ++
    leBytes 16 0 ++ leBytes 4 (2 ^ 31 + if l.rulesNamed then 1 else 0)

/-- The recorder's default. -/
def State.recorder (s : State) (q : Nat) : Recorder := sget {} s.recorders q

/-- Record a launch where the queue's recorder is enabled (27 R402, R403). -/
def recordLaunch (s : State) (l : Launch) : State :=
  let r := s.recorder l.queue
  if !r.en then s
  else
    let k := r.written.toNat
    { s with
      mem := memWrite s.mem (hostKey (r.base + 256 * (k % 2 ^ r.lsize))) (recorderBytes l k s.cycle)
      recorders := sput s.recorders l.queue { r with written := r.written + 1#32 } }

/-- The task record of a node that is written with the launch's: its own when it is owed, else code 3 (R328, R330). -/
def lateBytes (n : Node) : List Byte :=
  taskBytes (if n.owed then n else { n with code := 3, kill := 0, endCycle := 0 })

/-- Write the task records that are still to be written. -/
def putNotRun (l : Launch) : List Nat → State → State × Bool
  | [], s => (s, true)
  | x :: r, s =>
    match (l.nodes[x]?) with
    | none => putNotRun l r s
    | some n =>
      match putRecord s (.launch l.id) l.owner (taskAddr l x) (lateBytes n) with
      | (s1, true) => putNotRun l r s1
      | (s1, false) => (s1, false)

/-- The effects of a completed launch after its record: vector, recorder, counts (R331; 27 R400, R403). -/
def launchDone (s : State) (l : Launch) : State :=
  let s := countFor s l.owner 14 1
  let s := if l.flags.testBit 1 then raiseMsi s l.owner (s.queue l.queue).vector else s
  let s := recordLaunch s l
  poolDrop { s with launches := s.launches.filter fun x => x.id ≠ l.id } fun e => e.launch == l.id

/-- LAUNCH_COMPLETION (R328, R330, R331). -/
def execLaunchCompletion (launch : Nat) (s : State) : Outcome :=
  match s.launch launch with
  | none => notEnabled "LAUNCH_COMPLETION"
  | some l =>
    if !launchOver s l then notEnabled "LAUNCH_COMPLETION"
    else
      match (if taskRecords l then putNotRun l (notRun l) s else (s, true)) with
      | (s1, false) => .next s1
      | (s1, true) =>
        match (if recordAt l then
            putRecord s1 (.launch l.id) l.owner l.completion.toNat (launchBytes l s.cycle)
          else (s1, true)) with
        | (s2, false) => .next s2
        | (s2, true) => .next (launchDone s2 l)

end Sys2Proof.Machine
end

