-- ==== Sys2Proof/Machine/Power.lean ====
section
/-! DEFINITION. Power control, counter banks, snapshots and recorders: spec 27 R397 to R402; and their events. -/
namespace Sys2Proof.Machine

/-! ## The control interval (R398) -/

/-- The cycles of a control interval. -/
def controlCycles : Nat := 65536

/-- The row step after an interval of average power p. -/
def nextRow (p cap hyst row : Nat) : Nat := if cap < p then min (row + 1) 15 else if p < cap - hyst then row - 1 else row

/-- The thermal step of a die and its trip, after an interval: temp in 1/16 °C, thresholds in °C. -/
def nextTherm (temp tripc warnc th : Nat) (trip : Bool) : Nat × Bool :=
  if 16 * tripc ≤ temp then (15, true)
  else if trip then (15, true)
  else if 16 * warnc ≤ temp then (min (th + 1) 15, false)
  else if temp + 80 < 16 * warnc then (th - 1, false)
  else (th, false)

/-- The vector of PWRCFG is raised once for each condition that becomes 1 (R397). -/
def raiseNew (s : State) (vector : Nat) (l : List (Bool × Bool)) : State :=
  l.foldl (fun s p => if p.2 && !p.1 then raiseMsi s 0 vector else s) s

/-- Power control after an interval that ends at cycle now. -/
def Power.next (w : Power) (now power temp0 temp1 : Nat) : Power :=
  let cap := min w.cap w.rowcap
  let t0 := nextTherm temp0 w.tripc0 w.warnc0 w.th0 w.trip0
  let t1 := nextTherm temp1 w.tripc1 w.warnc1 w.th1 w.trip1
  { w with
    row := nextRow power cap w.hyst w.row
    th0 := t0.1
    th1 := t1.1
    rowF := w.row
    th0F := w.th0
    th1F := w.th1
    stepAt := now + 16
    intervals := w.intervals + 1#32
    overCap := w.overCap || (decide (cap < power) && w.row == 15)
    power := min power 4095
    trip0 := t0.2
    trip1 := t1.2
    temp0 := temp0 % 65536
    temp1 := temp1 % 65536 }

/-- POWER_CONTROL_INTERVAL (R398): the average power and the hottest sensors at the end of an interval. -/
def execPowerControlInterval (power temp0 temp1 : Nat) (s : State) : Outcome :=
  if s.cycle < s.nextPower then notEnabled "POWER_CONTROL_INTERVAL"
  else
    let w := s.power.next s.cycle power temp0 temp1
    let s1 := { s with power := w, nextPower := s.nextPower + controlCycles }
    .next (raiseNew s1 w.vector [(s.power.overCap, w.overCap), (s.power.trip0, w.trip0), (s.power.trip1, w.trip1)])

/-! ## Limits and ramp (R397) -/

/-- A cap clamped to 800 to 2,000. -/
def clampCap (n : Nat) : Nat := min (max n 800) 2000

/-- The next cycle that is a multiple of 16. -/
def next16 (now : Nat) : Nat := now / 16 * 16 + 16

/-- PWRCFG_WRITE (R397): a new W is taken by the arrays from the next multiple of 16. -/
def execPwrcfgWrite (v : Word) (s : State) : Outcome :=
  barWrite "PWRCFG_WRITE" s fun s =>
    .next { s with power := { s.power with
      vector := v.bits 63 48
      hyst := v.bits 39 32
      rampwNew := some (min (v.bits 28 12) 65536)
      rampwAt := next16 s.cycle
      cap := clampCap (v.bits 11 0) } }

/-- A written W is due. -/
def rampwDue (s : State) : Bool := s.power.rampwNew.isSome && decide (s.power.rampwAt ≤ s.cycle)

/-- The arrays take the written W: levels move from where they stand, one W/16 after this cycle (R397, 07 R117). -/
def takeRampw (s : State) : State :=
  match s.power.rampwNew with
  | none => s
  | some w =>
    let s1 := { s with power := { s.power with rampw := w, rampwNew := none } }
    (List.range 96).foldl
      (fun s cu =>
        let c := s.cu cu
        s.setCu cu { c with
          ramp := if w = 0 then 0 else c.ramp
          rampOld := c.ramp
          rampAt := s.cycle
          rampNext := s.cycle + w }) s1

/-- ROWCAP_WRITE (R397), over I3C. -/
def execRowcapWrite (v : BitVec 16) (s : State) : Outcome :=
  .next { s with power := { s.power with rowcap := clampCap (v.toNat % 4096) } }

/-! ## Counter banks and snapshots (R400, R401) -/

/-- COUNTER_BANK_WRITE (R400). -/
def execCounterBankWrite (tenant k : Nat) (v : Word) (s : State) : Outcome :=
  barWrite "COUNTER_BANK_WRITE" s fun s =>
    if h : tenant ≤ 384 ∧ k < 16 then
      let t := s.tenant tenant
      .next (s.setTenant tenant { t with counters := t.counters.set k v h.2 })
    else notEnabled "COUNTER_BANK_WRITE"

/-- The bytes of a snapshot. -/
def snapSize : Nat := 49344

/-- TELESNAP (R401): every bank is latched, with the place that the snapshot goes to; a go is ignored while go reads
1. -/
def execTelesnap (v : Word) (s : State) : Outcome :=
  barWrite "TELESNAP" s fun s =>
    let r := s.regs
    let err := r.snapErr && !v.getLsbD 62
    let addr := v.bits 51 6 * 64
    let go := v.getLsbD 63 && !r.snapGo
    let bad := decide (2 ^ 52 < addr + snapSize)
    let start := go && !bad
    .next { s with regs := { r with
      snapGo := r.snapGo || start
      snapErr := err || (go && bad)
      snapAddr := addr
      snapTo := if start then addr else r.snapTo
      snapCycle := if start then s.cycle else r.snapCycle
      snapBanks := if start then (List.range 385).map fun n => (s.tenant n).counters.toList else r.snapBanks } }

/-- The first 64 bytes of a snapshot (R401): CYCLE, and 56 bytes that are written and that the spec gives no value
(free; DESIGN CHOICE, assumption log 98). -/
def snapHead (s : State) : List Byte :=
  leBytes 8 s.regs.snapCycle ++ (List.range 56).map fun i => Config.freeByte s.fresh (hostKey s.regs.snapTo + 8 + i)

/-- TELESNAP_COMPLETE (R401): the snapshot is in memory, and go reads 0. -/
def execTelesnapComplete (s : State) : Outcome :=
  let r := s.regs
  if !r.snapGo then notEnabled "TELESNAP_COMPLETE"
  else
    let banks := r.snapBanks.flatMap fun b => b.flatMap fun w => leBytes 8 w.toNat
    .next { s with
      mem := memWrite s.mem (hostKey r.snapTo) (snapHead s ++ banks)
      fresh := s.fresh + 1
      regs := { r with snapGo := false } }

/-! ## Recorders (R402) -/

/-- RECORDER_CONFIG_WRITE (R402): the high half is read only; lsize and base are kept while en is 1. -/
def execRecorderConfigWrite (q : Nat) (hi : Bool) (v : Word) (s : State) : Outcome :=
  barWrite "RECORDER_CONFIG_WRITE" s fun s =>
    if 2048 ≤ q then notEnabled "RECORDER_CONFIG_WRITE"
    else if hi then .next s
    else
      let r := s.recorder q
      let l := v.bits 56 52
      let en := v.getLsbD 63
      .next { s with recorders := sput s.recorders q {
        en
        lsize := if r.en then r.lsize else if 1 ≤ l ∧ l ≤ 16 then l else 1
        base := if r.en then r.base else v.bits 51 8 * 256
        written := if en && !r.en then 0#32 else r.written } }

end Sys2Proof.Machine
end

