-- ==== Sys2Proof/Machine/Boot.lean ====
section
/-! DEFINITION. Boot, firmware and attestation: spec 25 R371 to R381; and their events. -/
namespace Sys2Proof.Machine

/-! ## The boot record (R373) -/

/-- An entry from its four bytes. -/
def bootEntryOf (bs : List Byte) : BootEntry :=
  { path := fieldOf bs 2 1, attempts := fieldOf bs 1 1, outcome := fieldOf bs 0 1 }

/-- The four bytes of an entry. -/
def BootEntry.bytes (e : BootEntry) : List Byte := leBytes 1 e.outcome ++ leBytes 1 e.attempts ++ leBytes 1 e.path ++ [0#8]

/-- The CRC covers bytes 0 to 3 and 8 to 63. -/
def recordCrc (bs : List Byte) : Nat := crc32c (bs.take 4 ++ (bs.drop 8).take 56)

/-- A copy is valid. -/
def recordValid (bs : List Byte) : Bool := bs.length == 64 && recordCrc bs == fieldOf bs 4 4

/-- The 64 bytes of the record in use. -/
def Boot.record (b : Boot) : List Byte :=
  let body := b.entries.flatMap BootEntry.bytes ++ leBytes 16 0
  let head := leBytes 4 b.seq
  head ++ leBytes 4 (crc32c (head ++ body)) ++ body

/-- Commit the record: the copy not used last is written, with the next sequence number. -/
def Boot.commit (b : Boot) : Boot :=
  let b := { b with seq := (b.seq + 1) % 2 ^ 32 }
  if b.lastCopy then { b with copyA := b.record, lastCopy := false } else { b with copyB := b.record, lastCopy := true }

/-- The record from the flash copies at a start: lastCopy says that copy B was used last. -/
def Boot.load (b : Boot) : Boot :=
  let take (bs : List Byte) (last : Bool) : Boot :=
    { b with
      seq := fieldOf bs 0 4
      entries := (List.range 10).map fun k => bootEntryOf ((bs.drop (8 + 4 * k)).take 4)
      lastCopy := last
      recErr := false }
  match recordValid b.copyA, recordValid b.copyB with
  | true, true => if fieldOf b.copyA 0 4 < fieldOf b.copyB 0 4 then take b.copyB true else take b.copyA false
  | true, false => take b.copyA false
  | false, true => take b.copyB true
  | false, false => { b with seq := 0, entries := List.replicate 10 {}, recErr := true }

/-- Entry of step k, from 1. -/
def Boot.entry (b : Boot) (k : Nat) : BootEntry := b.entries.getD (k - 1) {}

/-- The record with another entry of step k. -/
def Boot.setEntry (b : Boot) (k : Nat) (e : BootEntry) : Boot :=
  { b with entries := b.entries.mapIdx fun i x => if i + 1 = k then e else x }

/-! ## Firmware (R376) -/

/-- The Kerhorn key of the boot ROM. -/
def romEcdsa : Nat × Nat := (Config.romEcdsaKey.1.toNat, Config.romEcdsaKey.2.toNat)

/-- Both signatures of an image verify over a message. -/
def imageSigned (img msg : List Byte) : Bool :=
  ecdsaVerifies romEcdsa (sha384 msg) ((img.drop 16).take 96) &&
    lmsVerifies (beBytes 16 Config.romLmsKey.1.toNat) (beBytes 32 Config.romLmsKey.2.toNat) msg ((img.drop 112).take 1772)

/-- An image passes step 2. -/
def imageOk (img : List Byte) (svnFused : Nat) : Bool :=
  let n := fieldOf img 12 4
  let msg := img.take 16 ++ (img.drop 2048).take n
  decide (2048 + n ≤ img.length) && img.take 4 == [0x4C#8, 0x6E#8, 0x46#8, 0x57#8] && fieldOf img 4 2 == 1 &&
    zeroAt img 6 2 && zeroAt img 1884 164 && imageSigned img msg && decide (svnFused ≤ fieldOf img 8 4)

/-- The image of a bank. -/
def Boot.bankImage (b : Boot) (bank : Nat) : List Byte := if bank = 0 then b.flash0 else b.flash1

/-! ## Steps (R371, R372) -/

/-- How a step is taken: on its main or alternate path, skipped, or not at all (management-only mode). -/
inductive StepPath where
  | main | alternate | skip | stop
  deriving DecidableEq, Repr

/-- Steps 7 and 8 are optional. -/
def stepOptional (k : Nat) : Bool := k == 7 || k == 8

/-- Steps 2 and 4 have an alternate path. -/
def stepAlternate (k : Nat) : Bool := k == 2 || k == 4

/-- The path of step k by its entry (R372). -/
def pathOf (k : Nat) (e : BootEntry) : StepPath :=
  if e.attempts = 0 then (if e.path = 0 then .main else .alternate)
  else if stepOptional k then .skip
  else if 3 ≤ e.attempts then .stop
  else if stepAlternate k then .alternate
  else .main

/-- How a step ends. -/
inductive StepEnd where
  | pass | fail | cut
  deriving DecidableEq, Repr

/-- How step k ends: step 2 by its image, the others as the hardware finds; a start that is cut off says nothing. -/
def stepEnd (passes : List (Nat × Bool)) (b : Boot) (k : Nat) (alt : Bool) : StepEnd :=
  match (passes.find? fun p => p.1 = k).map Prod.snd with
  | none => .cut
  | some ok =>
    if k = 2 then (if imageOk (b.bankImage (if alt then 1 else 0)) b.svnFused then .pass else .fail)
    else if ok then .pass
    else .fail

/-- Step k on a path: the attempt is committed, then its outcome (R372); true when the start goes on. -/
def runStep (passes : List (Nat × Bool)) (b : Boot) (k : Nat) (alt : Bool) : Boot × Bool :=
  let e := b.entry k
  let e := { e with attempts := min 255 (e.attempts + 1), path := if alt then 1 else e.path }
  let b := ({ b.setEntry k e with step := k }).commit
  match stepEnd passes b k alt with
  | .cut => (b, false)
  | .fail =>
    (({ b.setEntry k { e with outcome := 2 } with failed := b.failed ||| (1#10 <<< (k - 1)) }).commit, false)
  | .pass =>
    let b := (b.setEntry k { e with attempts := 0, outcome := if alt then 4 else 1 }).commit
    let bank := if alt then 1 else 0
    (if k = 2 then { b with bank, image := b.bankImage bank, svnRun := fieldOf (b.bankImage bank) 8 4 } else b, true)

/-- Every port of the fabric with a status. -/
def setPorts (s : State) (f : Port → Port) : State :=
  (List.range 18).foldl (fun s p => s.setPort p (f (s.port p))) s

/-- What a step that has passed has done to the device (R371, R378): step 3 sets every CYCLE copy from the reference,
step 7 brings the second tier's ports up, step 8 the Damfonos ports (all of them: DESIGN CHOICE, assumption log 74),
and step 10 derives the identity keys from the active image. -/
def stepDone (k : Nat) (s : State) : State :=
  if k = 3 then { s with cus := s.cus.map fun p => (p.1, { p.2 with drift := 0, floor := 0, resync := false }) }
  else if k = 7 then { s with boot := { s.boot with tierUp := true } }
  else if k = 8 then setPorts s fun p => { p with up := true, training := false, attempts := 0 }
  else if k = 10 then { s with boot := { s.boot with identity := some (sha384 s.boot.image) } }
  else s

/-- What a step that is skipped leaves (R372): without step 8 no Damfonos port trains. -/
def stepSkipped (k : Nat) (s : State) : State :=
  let s := if k = 8 then setPorts s fun p => { p with up := false, training := false, attempts := 3 } else s
  { s with boot := (s.boot.setEntry k { s.boot.entry k with outcome := 3 }).commit }

/-- Run step k on a path, with what it does to the device; true when the start goes on. -/
def bootStep (passes : List (Nat × Bool)) (k : Nat) (alt : Bool) (s : State) : State × Bool :=
  match runStep passes s.boot k alt with
  | (b, true) => (stepDone k { s with boot := b }, true)
  | (b, false) => ({ s with boot := b }, false)

/-- The steps of a list on their main paths, up to one that does not pass. -/
def runMain (passes : List (Nat × Bool)) : List Nat → State → State
  | [], s => s
  | k :: r, s =>
    match bootStep passes k false s with
    | (s1, true) => runMain passes r s1
    | (s1, false) => s1

/-- A start that stops at step k enters management-only mode, where only steps 1, 3 and 9 run (R372, R375): those that
this start has not yet run (DEDUCED, assumption log 75). -/
def manage (passes : List (Nat × Bool)) (k : Nat) (s : State) : State :=
  runMain passes (([1, 3, 9] : List Nat).filter fun j => k ≤ j) { s with boot := { s.boot with mode := 2 } }

/-- The steps from k on, n of them; after the last the module is operational. -/
def runSteps (passes : List (Nat × Bool)) : Nat → Nat → State → State
  | 0, _, s => { s with boot := { s.boot with mode := 1 } }
  | n + 1, k, s =>
    match pathOf k (s.boot.entry k) with
    | .stop => manage passes k s
    | .skip => runSteps passes n (k + 1) (stepSkipped k s)
    | .main =>
      match bootStep passes k false s with
      | (s1, true) => runSteps passes n (k + 1) s1
      | (s1, false) => s1
    | .alternate =>
      match bootStep passes k true s with
      | (s1, true) => runSteps passes n (k + 1) s1
      | (s1, false) => s1

/-- The record and BOOTSTAT at the beginning of a start: no step has run on it (R373, R374). -/
def Boot.begin (b : Boot) : Boot :=
  let b := b.load
  { b with
    entries := b.entries.map fun e => { e with outcome := 0 }
    failed := 0#10
    step := 0
    bank := 0
    tierUp := false
    identity := none
    image := []
    svnRun := 0
    starts := min (2 ^ 32 - 1) (b.starts + 1) }

/-- BOOT_START (R371 to R373): the boot ROM runs the steps. passes says which steps pass, and leaves out the one at
which the start is cut off. -/
def execBootStart (passes : List (Nat × Bool)) (s : State) : Outcome :=
  if s.boot.mode ≠ 0 then notEnabled "BOOT_START" else .next (runSteps passes 10 1 { s with boot := s.boot.begin })

/-! ## BOOTCLR, BOOTCTL, FWSVN (R374, R375, R377) -/

/-- BOOTCLR (R374). -/
def execBootclr (v : Word) (s : State) : Outcome :=
  .next (if v = 0x5A#64 then { s with boot := ({ s.boot with entries := List.replicate 10 {} }).commit } else s)

/-- The module restarts from step 1 (R375): everything but flash, fuses, memory with the formats of its
frames (03 R52) and the clock is as after reset. -/
def restart (s : State) : State :=
  { State.reset with
    mem := s.mem
    frames := s.frames
    cycle := s.cycle
    nextEpoch := s.nextEpoch
    nextExam := s.nextExam
    nextPower := s.nextPower
    fresh := s.fresh
    agenda := s.agenda
    boot := { s.boot with
      mode := 0
      step := 0
      failed := 0#10
      recErr := false
      bank := 0
      svnRun := 0
      image := []
      tierUp := false
      identity := none
      attGo := false
      attStatus := 0
      attAddr := 0#64
      attNonce := List.replicate 4 0#64
      reqAddr := 0#64
      reqNonce := List.replicate 4 0#64
      attBuf := List.replicate 2048 0#8 } }

/-- BOOTCTL (R375): bit 0 restarts the module. -/
def execBootctl (v : Word) (s : State) : Outcome := .next (if v.getLsbD 0 then restart s else s)

/-- FWSVN (R377): writing 0xA5 in operational mode; a fused value never falls. -/
def execFwsvn (v : Word) (s : State) : Outcome :=
  barWrite "FWSVN" s fun s =>
    .next (if v = 0xA5#64 then { s with boot := { s.boot with svnFused := max s.boot.svnFused s.boot.svnRun } } else s)

/-! ## Attestation (R378 to R381) -/

/-- The number of LMS leaves. -/
def lmsLeaves : Nat := 2 ^ 20

/-- ATTCTL_GO (R379): a request over PF BAR0 or I3C, with the address and nonce as they stand, or busy. The leaf is
counted before a signature uses it (R378). -/
def execAttctlGo (i3c : Bool) (s : State) : Outcome :=
  let b := s.boot
  if b.attGo then .next { s with boot := { b with attStatus := 1 } }
  else if !i3c && (b.attAddr.toNat % 2048 != 0 || decide (2 ^ 52 < b.attAddr.toNat + 2048)) then
    .next { s with boot := { b with attStatus := 2 } }
  else if lmsLeaves ≤ b.leaf then .next { s with boot := { b with attStatus := 3 } }
  else
    .next { s with boot := { b with
      attGo := true
      attStatus := 0
      attI3c := i3c
      reqAddr := b.attAddr
      reqNonce := b.attNonce
      attLeaf := b.leaf
      leaf := b.leaf + 1 } }

/-- Bytes 0 to 175 of a report signed at cycle now (R380). -/
def reportHead (b : Boot) (now : Nat) : List Byte :=
  [0x4C#8, 0x6E#8, 0x41#8, 0x54#8, 1#8, 0#8, 0#8, 0#8] ++ (b.reqNonce.flatMap fun w => leBytes 8 w.toNat) ++ b.serial ++
    leBytes 4 b.svnRun ++ leBytes 1 b.bank ++ leBytes 1 b.mode ++ leBytes 2 0 ++ sha384 b.image ++ sha384 b.record ++
    leBytes 8 now ++ leBytes 4 b.attLeaf ++ leBytes 4 0

/-- A number from 1 to n - 1 made of a free one. -/
def inGroup (n x : Nat) : Nat := 1 + x % (n - 1)

/-- The private scalar of the identity key that step 10 has derived from the secret and an image digest (R378). -/
def idScalar (b : Boot) (digest : List Byte) : Nat := inGroup p384N (Config.identityScalar b.secret digest).toNat

/-- The 1,868 bytes of both signatures over a message (R380): by the identity keys that step 10 has derived, with
random numbers of their own; what they are before step 10 the spec does not say (DESIGN CHOICE, assumption log 24). -/
def reportSigs (b : Boot) (fresh : Nat) (msg : List Byte) : List Byte :=
  match b.identity with
  | none => (List.range 1868).map fun i => Config.unkeyedByte fresh i
  | some d =>
    ecdsaSign (idScalar b d) (inGroup p384N (Config.signNonce fresh).toNat) (sha384 msg) ++
      lmsSign (beBytes 16 (Config.identityLmsId b.secret d).toNat)
        (fun q k => beBytes 32 (Config.identityLms b.secret d q k).toNat) b.attLeaf
        (beBytes 32 (Config.lmsRandom fresh).toNat) msg

/-- A report: both signatures cover the head (R380). -/
def reportBytes (b : Boot) (fresh now : Nat) : List Byte :=
  let h := reportHead b now
  h ++ reportSigs b fresh h ++ leBytes 4 0

/-- ATTESTATION_REPORT_COMPLETE (R379 to R381): the report is in memory or in the I3C buffer, and go reads 0. -/
def execAttestationReportComplete (s : State) : Outcome :=
  let b := s.boot
  if !b.attGo then notEnabled "ATTESTATION_REPORT_COMPLETE"
  else
    let bs := reportBytes b s.fresh s.cycle
    let s1 := { s with fresh := s.fresh + 1, boot := { b with attGo := false, attStatus := 0 } }
    .next (if b.attI3c then { s1 with boot := { s1.boot with attBuf := bs } }
      else { s1 with mem := memWrite s1.mem (hostKey b.reqAddr.toNat) bs })

end Sys2Proof.Machine
end

