-- ==== Sys2Proof/Machine/Save.lean ====
section
/-! DEFINITION. Saving a context at a safe point and resuming it: spec 02 R35; 07 R108, R111; 23 R367, R368; and the
event CONTEXT_SAVE; uncorrectable errors, whose consumer may be descheduled (23 R365). What the area has no place for
(the ends and trap levels of loops, the watchdog's state of a strand that has not started, promises, pending traps)
stays with the descheduled context (assumption log 42). -/
namespace Sys2Proof.Machine

/-! ## The layout (R368) -/

/-- The size of a save area. -/
def areaSize : Nat := 2228224

/-- The physical address of area x (R367). -/
def areaBase (s : State) (x : Nat) : Nat := s.regs.saveBase + areaSize * x

/-- A free area of the pool. -/
def freeArea (s : State) : Option Nat := (List.range s.regs.saveCount).find? fun x => !s.areas.contains x

/-- The operands in the order of the crew block: t0 to t15, a0 to a7, q0 to q7, CBT0, CBT1. -/
def feOrder : List Nat := List.range 24 ++ (List.range 8).map (· + 26) ++ [24, 25]

/-- The code of a full-empty state; FILLING is never saved. -/
def feCode : Fe → Nat
  | .empty => 0
  | .full => 1
  | .filling => 0

/-- A number from fields of w bits, the first lowest. -/
def packList (w : Nat) (l : List Nat) : Nat := packFrom w (fun i => l.getD i 0) l.length 0

/-- The rows of tile selector k as bytes. -/
def tileBytes (c : Crew) (k : Nat) : List Byte := (List.range (tileRows k)).flatMap fun r => rowBytes (c.row k r)

/-- The handles that a context owns as a mask (R368). -/
def handleMask (s : State) (launch task : Nat) : Nat :=
  (s.redCtxs.filter fun p => p.2.launch == launch && p.2.task == task).foldl (fun a p => a + 2 ^ (p.1 % 64)) 0

/-- The crew block. -/
def crewBlock (s : State) (c : Crew) : List (Nat × List Byte) :=
  let mask := match c.ctx with
    | some x => handleMask s x.launch x.task
    | none => 0
  [(0, leBytes 9 (packList 2 (feOrder.map fun i => feCode (c.feOf i)))),
   (16, leBytes 6 (packList 4 c.tokens.toList)),
   (32, c.qs.toList.flatMap fun w => leBytes 8 w.toNat),
   (96, leBytes 8 c.astat.toNat ++ leBytes 8 c.energy.toNat ++ leBytes 8 c.kperm.toNat),
   (128, bankBytes c),
   (640, leBytes 8 mask ++ c.pendTok.toList.flatMap fun n => leBytes 1 n)]

/-- Active and stages as bits 3:0 of a loop level: bit 3 and bits 2:0 (DEDUCED, assumption log 42). -/
def loopCode (l : Loop) : Nat := (if l.active then 8 else 0) + l.stages % 8

/-- The trap registers of a level. -/
def trapBytes (t : TrapRegs) : List Byte :=
  leBytes 8 t.epc.toNat ++ leBytes 8 t.cause.toNat ++ leBytes 8 t.val.toNat ++ leBytes 8 t.scr.toNat

/-- The block of a strand. -/
def strandBlock (x : Strand) : List Byte :=
  (x.regs.toList.flatMap fun w => leBytes 8 w.toNat) ++ leBytes 8 x.preds.toNat ++ leBytes 8 x.pc.toNat ++
    leBytes 8 (tstat x).toNat ++ leBytes 4 x.rgen.toNat ++ leBytes 4 x.tgen.toNat ++ trapBytes x.t1 ++ trapBytes x.t2 ++
    leBytes 8 x.tvec.toNat ++ leBytes 8 x.tsave.toNat ++ leBytes 8 x.wdog.toNat ++ leBytes 8 x.wleft ++
    leBytes 8 x.rngkey.toNat ++ leBytes 8 x.rngctr.toNat ++ leBytes 8 x.lstop.toNat ++ leBytes 4 x.t1.members ++
    leBytes 4 x.t2.members ++
    (x.loops.toList.flatMap fun l => leBytes 8 (loopCode l) ++ leBytes 8 l.trips ++ leBytes 8 l.i ++ leBytes 8 l.start.toNat) ++
    x.counters.toList.flatMap fun w => leBytes 8 w.toNat

/-- What a save writes: offsets and bytes. -/
def areaParts (s : State) (c : Crew) : List (Nat × List Byte) :=
  ((List.range 16).map fun k => (65536 * k, tileBytes c k)) ++
    ((List.range 8).map fun k => (0x100000 + 131072 * k, tileBytes c (16 + k))) ++
    (c.ring.zipIdx.map fun p => (0x200000 + 1024 * p.2, rowBytes p.1.row)) ++
    ((List.range 2).map fun k => (0x201000 + 1024 * k, tileBytes c (24 + k))) ++
    ((crewBlock s c).map fun p => (0x201800 + p.1, p.2)) ++
    (allKinds.map fun k => (0x202000 + 4096 * kindNum k, strandBlock (c.str k))) ++
    [(0x206000, memBytes c.sv.ruleA 0 4096), (0x207000, memBytes c.sv.ruleO 0 4096),
     (0x208000, memBytes c.sm.ruleA 0 4096), (0x209000, memBytes c.sm.ruleO 0 4096)] ++
    (allKinds.map fun k => (0x20A000 + 1024 * kindNum k, memBytes (c.str k).tmplA 0 512 ++ memBytes (c.str k).tmplO 0 512))

/-- Memory with the parts written from a base. -/
def putParts (m : List Host.Cell) (base : Nat) (ps : List (Nat × List Byte)) : List Host.Cell :=
  ps.foldl (fun m p => memWrite m (base + p.1) p.2) m

/-! ## Reading an area back -/

/-- A number of n bytes at an offset of an area. -/
def areaNat (m : List Host.Cell) (base off n : Nat) : Nat := leNat (memBytes m (base + off) n)

/-- A 64-bit value of an area. -/
def areaWord (m : List Host.Cell) (base off : Nat) : Word := BitVec.ofNat 64 (areaNat m base off 8)

/-- The rows of a tile from an area. -/
def areaTile (m : List Host.Cell) (base off k : Nat) : Store Row :=
  ((List.range (tileRows k)).map fun r => (128 * k + r, bytesRow (memBytes m (base + off + 1024 * r) 1024))).filter
    fun p => p.2 ≠ 0#8192

/-- The tiles and codebook banks. -/
def areaTiles (m : List Host.Cell) (base : Nat) : Store Row :=
  ((List.range 16).flatMap fun k => areaTile m base (65536 * k) k) ++
    ((List.range 8).flatMap fun k => areaTile m base (0x100000 + 131072 * k) (16 + k)) ++
    (List.range 2).flatMap fun k => areaTile m base (0x201000 + 1024 * k) (24 + k)

/-- The trap registers of a level; the Knead count and the ring that tret restores are given. -/
def areaTrap (m : List Host.Cell) (base off members : Nat) (t : TrapRegs) : TrapRegs :=
  { t with
    epc := areaWord m base off
    cause := areaWord m base (off + 8) &&& 0x7FF#64
    val := areaWord m base (off + 16)
    scr := areaWord m base (off + 24)
    members := members }

/-- A loop level: what the area does not hold is kept. -/
def areaLoop (m : List Host.Cell) (base off : Nat) (l : Loop) : Loop :=
  { l with
    active := areaNat m base off 8 / 8 % 2 == 1
    stages := areaNat m base off 8 % 8
    trips := areaNat m base (off + 8) 8
    i := areaNat m base (off + 16) 8
    start := areaWord m base (off + 24) }

/-- A strand from its block at b, with its banks, over what the area does not hold. -/
def areaStrand (m : List Host.Cell) (base b k : Nat) (x : Strand) : Strand :=
  let w (off : Nat) : Word := areaWord m base (b + off)
  let n (off c : Nat) : Nat := areaNat m base (b + off) c
  { x with
    regs := Vector.ofFn fun (i : Fin 32) => w (8 * i.val)
    preds := BitVec.ofNat 8 (n 0x100 8) ||| 1#8
    pc := w 0x108
    level := min 2 (n 0x110 8 % 4)
    div0 := (w 0x110).getLsbD 8
    rgen := BitVec.ofNat 32 (n 0x118 4)
    tgen := BitVec.ofNat 32 (n 0x11C 4)
    t1 := areaTrap m base (b + 0x120) (n 0x198 4) x.t1
    t2 := areaTrap m base (b + 0x140) (n 0x19C 4) x.t2
    tvec := w 0x160 &&& 0x01FFFFFFFFFFFFFD#64
    tsave := w 0x168
    wdog := BitVec.ofNat 48 (n 0x170 8)
    wleft := n 0x178 8
    rngkey := w 0x180
    rngctr := BitVec.ofNat 40 (n 0x188 8)
    lstop := w 0x190 &&& 0x8000FFFFFFFFFF0C#64
    loops := x.loops.mapFinIdx fun i l _ => areaLoop m base (b + 0x1A0 + 32 * i) l
    counters := Vector.ofFn fun (i : Fin 16) => w (0x220 + 8 * i.val)
    tmplA := bankOf (memBytes m (base + 0x20A000 + 1024 * k) 512)
    tmplO := bankOf (memBytes m (base + 0x20A200 + 1024 * k) 512) }

/-- The rule banks of the vector or matrix strand. -/
def areaRules (m : List Host.Cell) (base off : Nat) (x : Strand) : Strand :=
  { x with
    ruleA := bankOf (memBytes m (base + off) 4096)
    ruleO := bankOf (memBytes m (base + off + 0x1000) 4096) }

/-- The full-empty states from their codes. -/
def areaFe (v : Nat) (c : Crew) : Crew :=
  feOrder.zipIdx.foldl (fun c p => c.setFe p.1 (if elemOf 2 p.2 v = 1 then .full else .empty)) c

/-- The lost counters of the bank matrix. -/
def areaBank (m : List Host.Cell) (base : Nat) : Store W32 :=
  ((List.range 128).map fun i => (i, BitVec.ofNat 32 (areaNat m base (0x201880 + 4 * i) 4))).filter fun p => p.2 ≠ 0#32

/-- The crew as its area gives it, over what the area does not hold. -/
def areaCrew (m : List Host.Cell) (base : Nat) (c : Crew) : Crew :=
  let c := { c with
    ss := areaStrand m base 0x202000 0 c.ss
    sv := areaRules m base 0x206000 (areaStrand m base 0x203000 1 c.sv)
    sm := areaRules m base 0x208000 (areaStrand m base 0x204000 2 c.sm)
    sc := areaStrand m base 0x205000 3 c.sc
    tiles := areaTiles m base
    ring := (List.range 4).map fun d => { row := bytesRow (memBytes m (base + 0x200000 + 1024 * d) 1024) }
    tokens := Vector.ofFn fun (i : Fin 12) => elemOf 4 i.val (areaNat m base 0x201810 6)
    qs := Vector.ofFn fun (i : Fin 8) => areaWord m base (0x201820 + 8 * i.val)
    astat := BitVec.ofNat 8 (areaNat m base 0x201860 8)
    energy := areaWord m base 0x201868
    kperm := BitVec.ofNat 4 (areaNat m base 0x201870 8) ||| 1#4
    bank := areaBank m base
    pendTok := Vector.ofFn fun (i : Fin 12) => areaNat m base (0x201A88 + i.val) 1 }
  areaFe (areaNat m base 0x201800 9) c

/-! ## Save and resume -/

/-- An access of a strand of the crew has not been answered, or a loaded value has not arrived. -/
def accessOpen (s : State) (crew : Nat) : Bool :=
  (s.remote.any fun r => r.crew == crew && r.agent.isNone) || allKinds.any fun k => !(s.strand crew k).late.isEmpty

/-- A marked crew at a safe point whose started instructions and accesses have completed can be saved (R35). -/
def canSave (s : State) (crew : Nat) : Bool :=
  let c := s.crew crew
  c.mark == some true && c.ctx.isSome && c.killed.isNone && c.inflight.isEmpty && c.ops.isEmpty && !accessOpen s crew &&
    (freeArea s).isSome && !poolFull s

/-- No strand of the crew waits for another device, a fault record or the lease any more: a saved strand starts its
instruction afresh (R21), and a waiting alease withdraws its request (12 R219). -/
def dropWaits (s : State) (crew : Nat) : State :=
  withdraw (allKinds.foldl (fun s k => dropStrand s crew k) s) crew

/-- A crew without its context; tiles and ASTAT stay for a next task of the same tenant (02 R18; 05 R87). -/
def freedCrew (c : Crew) : Crew :=
  { owner := c.owner, zeroing := c.zeroing, tiles := c.tiles, astat := c.astat, astatNow := c.astatNow, seq := c.seq }

/-- A save area lies in frames that are being formatted (22 R355). -/
def areaBusy (s : State) (area : Nat) : Bool := formattingAny s (areaBase s area) 2228224

/-- CONTEXT_SAVE (R35, R368): the accounts are flushed once they can be written (07 R111), the crew state is written
to a free area, the context enters the ready pool and the crew is free. -/
def execContextSave (crew : Nat) (s : State) : Outcome :=
  match (s.crew crew).ctx, freeArea s with
  | some x, some area =>
    if !canSave s crew || areaBusy s area then notEnabled "CONTEXT_SAVE"
    else
      match flushReady false s crew with
      | .error (.wait _ s1) => .next s1
      | .error e => .next (e.left s (.acct crew))
      | .ok s1 =>
        let s2 := acctFlush (dropWaits s1 crew) crew
        let c := { s2.crew crew with mark := none, markKept := false }
        let s3 := { s2 with mem := putParts s2.mem (areaBase s2 area) (areaParts s2 c), areas := area :: s2.areas }
        let e : PoolEnt :=
          { launch := x.launch, task := x.task, tenant := x.tenant, prio := x.prio, readyAt := s3.cycle,
            saved := some (crew, area, s3.cycle, c) }
        .next (poolAdd (s3.setCrew crew (freedCrew c)) e)
  | _, _ => notEnabled "CONTEXT_SAVE"

/-- The interval off the crew is charged to DESCHEDULED in one amount at each strand's PC (07 R108, R109). -/
def chargeAway (c : Crew) (n : Nat) : Crew :=
  allKinds.foldl
    (fun c k =>
      let r := (c.str k).charge qDesched (c.str k).pc n
      let c := c.setStr k r.1
      { c with evicted := c.evicted ++ r.2.map fun a => { strand := kindNum k, acc := a } }) c

/-- A task that no node is: it owns a handle whose bit a write to the area has cleared. -/
def noTask : Nat := 2 ^ 32

/-- The handles of the device as the mask of an area says (R367, R368): the context owns those whose bits are set
(assumption log 70). -/
def ownHandles (s : State) (crew mask : Nat) (x : Ctx) : State :=
  { s with redCtxs := s.redCtxs.map fun p =>
      if mask.testBit p.1 then (p.1, { p.2 with crew, launch := x.launch, task := x.task, tenant := x.tenant })
      else if p.2.launch = x.launch ∧ p.2.task = x.task then (p.1, { p.2 with task := noTask })
      else p }

/-- A descheduled context returns to the crew it left (R35). A mark that PREEMPT has made there stays (21 R336), and
no bit of ASTAT has been set in this cycle (05 R87). -/
def resumeCtx (s : State) (e : PoolEnt) : State :=
  match e.saved with
  | none => s
  | some (crew, area, at_, c) =>
    let s := match c.ctx with
      | some x => ownHandles s crew (areaNat s.mem (areaBase s area) 0x201A80 8) x
      | none => s
    let c := areaCrew s.mem (areaBase s area) c
    let old := s.crew crew
    let c := chargeAway { c with
      owner := e.tenant
      zeroing := false
      astatNow := 0#8
      mark := old.mark
      markKept := old.markKept
      seq := max c.seq old.seq } (s.cycle - at_)
    { s.setCrew crew c with areas := s.areas.filter fun a => a ≠ area }

/-! ## Uncorrectable errors (23 R365) -/

/-- A descheduled context is killed: it returns to its crew to end there (assumption log 69). -/
def killSaved (s : State) (launch task cause : Nat) : State :=
  poolMap s launch task fun e => { e with saved := e.saved.map fun p => (p.1, p.2.1, p.2.2.1, killCrew p.2.2.2 cause) }

/-- The context of a task is killed with MEM_ERROR, on the crew that it is on or descheduled. -/
def killTask (s : State) (crew launch task : Nat) : State :=
  if (s.crew crew).ctx.any fun x => x.launch == launch && x.task == task then killContext s crew cMemError
  else killSaved s launch task cMemError

/-- A crew without a started instruction or operation that would consume bad data, and without the later instructions
of that strand, which may have read its result (assumption log 69). -/
def dropStarted (c : Crew) (op : Nat) : Crew :=
  let k := (c.inflight.find? fun o => o.id = op).map EngOp.kind
  { c with
    inflight := c.inflight.filter fun o => decide (o.id < op) || some o.kind != k
    ops := c.ops.filter fun o => o.id ≠ op }

/-- The error record of a consumer: function, crew and task (R365). -/
def pushBad (s : State) (unit sub fn crew : Nat) (tag pa : Word) : State :=
  drainErrs 1 { s with errs := s.errs ++
    [{ pa := pa.toNat, cycle := s.cycle, crew, fn, unit, kind := errKind 1 unit sub, tag }] }

/-- The error record of the context on a crew. -/
def pushBadOf (s : State) (unit sub crew : Nat) (pa : Word) : State :=
  pushBad s unit sub (s.crew crew).tenant crew (BitVec.ofNat 64 ((s.crew crew).ctx.elim 0 Ctx.task)) pa

/-- The error record of the context that posted a card. -/
def pushBadCard (s : State) (unit sub : Nat) (k : Card) (pa : Word) : State :=
  pushBad s unit sub k.tenant k.crew (BitVec.ofNat 64 k.task) pa

/-- A card that would consume bad data ends without a write, and the context that posted it is killed. -/
def killCard (s : State) (id : Nat) : State :=
  match s.cards.find? fun k => k.id = id with
  | none => s
  | some k =>
    let s1 := dropAsked (dropWaiter { s with cards := s.cards.filter fun x => x.id ≠ id } (.card id)) (.card id)
    killTask s1 k.crew k.launch k.task

/-- UNCORRECTABLE_ERROR (R365): an error record, and every consuming context is killed with MEM_ERROR before a result
of the data is written; data that no context consumes kills nothing. -/
def execUncorrectableError (who : Consumer) (unit sub : Nat) (pa : Word) (s : State) : Outcome :=
  if 5 ≤ unit ∨ (unit = 0 ∧ 12 ≤ sub) then notEnabled "UNCORRECTABLE_ERROR"
  else
    match who with
    | .nobody => .next (pushBad s unit sub 0 0x1FF (BitVec.allOnes 64) pa)
    | .access n =>
      if 384 ≤ n ∨ (s.crew n).ctx.isNone then notEnabled "UNCORRECTABLE_ERROR"
      else .next (killContext (pushBadOf s unit sub n pa) n cMemError)
    | .started n op =>
      let c := s.crew n
      if 384 ≤ n ∨ c.ctx.isNone ∨ !((c.inflight.any fun o => o.id == op) || c.ops.any fun o => o.id == op) then
        notEnabled "UNCORRECTABLE_ERROR"
      else
        let s1 := pushBadOf s unit sub n pa
        .next (killContext (s1.setCrew n (dropStarted c op)) n cMemError)
    | .walk l ks =>
      if l.any (fun n => decide (384 ≤ n) || (s.crew n).ctx.isNone) || ks.any (fun id => !(s.cards.any fun k => k.id == id)) then
        notEnabled "UNCORRECTABLE_ERROR"
      else
        let kill (s : State) : State := ks.foldl killCard (l.foldl (fun s n => killContext s n cMemError) s)
        match l, s.cards.find? fun k => ks.contains k.id with
        | n :: _, _ => .next (kill (pushBadOf s unit sub n pa))
        | [], some k => .next (kill (pushBadCard s unit sub k pa))
        | [], none => notEnabled "UNCORRECTABLE_ERROR"
    | .card id =>
      match s.cards.find? fun k => k.id = id with
      | none => notEnabled "UNCORRECTABLE_ERROR"
      | some k => .next (killCard (pushBadCard s unit sub k pa) id)

end Sys2Proof.Machine
end

