-- ==== Sys2Proof/Machine/Sched.lean ====
section
/-! DEFINITION. Dispatch, task start and task completion (spec 02 R18, R26 to R28, R31 to R33, R404; 21 R327, R328,
R331, R334), the epochs and the partition controller (R333, R336); and their events. -/
namespace Sys2Proof.Machine

/-! ## Task start (02 R28, 06 R96, 21 R325, R327) -/

/-- The registers of a strand at task start (R28). -/
def startRegs (l : Launch) (n : Node) (task crew : Nat) : Vector Word 32 :=
  let vals : List Word :=
    List.replicate 21 0#64 ++
      [BitVec.ofNat 64 Config.deviceRank.toNat, BitVec.ofNat 64 crew, BitVec.ofNat 64 task] ++ l.larg ++ n.targs
  Vector.ofFn fun (i : Fin 32) => vals.getD i.val 0#64

/-- The entry PC of strand k: 0 for none (R325). -/
def entryPc (l : Launch) (n : Node) (k : StrandKind) : Word :=
  let v := n.entries.getD (kindNum k) 0
  if v = 0 then 0#64 else l.cfg.image + BitVec.ofNat 64 (4 * v)

/-- A strand of a new context before its task starts (R28, R96, R305, R307): it is charged IDLE. -/
def newStrand (l : Launch) (n : Node) (task crew : Nat) (k : StrandKind) (tmpl : List Byte) : Strand :=
  let i := kindNum k
  let pc := entryPc l n k
  { pc
    regs := startRegs l n task crew
    tvec := l.cfg.tvec.getD i 0#64 &&& 0x01FFFFFFFFFFFFFD#64
    tsave := l.cfg.tsave.getD i 0#64
    wdog := l.cfg.wdog
    rngkey := mix64 (l.cfg.rngkey ^^^ BitVec.ofNat 64 (4 * task + i))
    tmplA := bankOf tmpl
    tgen := 1#32
    ruleA := if k = .v then rulesFor false l.cfg.rules else if k = .m then rulesFor true l.cfg.rules else []
    rgen := if k = .v ∨ k = .m then 1#32 else 0#32
    exited := n.entries.getD i 0 == 0
    entry := pc
    cond := qIdle
    condPc := pc }

/-- The descriptor of a declared tile: a cpy.ld with tile offset 0 (R325). -/
def preloadRegs (d : TileDesc) : List Word := [d.src, 0#64, d.shape, d.pitches, 0#64, 0#64, 0#64, 0#64]

/-- The fields of that cpy.ld: the tile ends FULL (02 R18). -/
def preloadFields (d : TileDesc) : CpFields :=
  { sn := 0#5, sd := 0#5, pd := 0#3, tile := BitVec.ofNat 5 d.tile, flag := 1#1, zs := BitVec.ofNat 3 d.zs, zd := 0#3 }

/-- Start the load of a declared tile, or note that it fails its checks (R241, R327). -/
def startPreload (s : State) (crew : Nat) (d : TileDesc) : State :=
  let r := preloadRegs d
  let f := preloadFields d
  let c := s.crew crew
  let e : Eng := { p := 0#4, wait := 0#3, post := 0#3, noknead := 0#1, cls := 0#4 }
  match dPlanes r == 1, dCheck { s with cur := (crew, .c) } (.cpyLd e f) 1 f r with
  | true, .ok _ =>
    let o : AsyncOp :=
      { id := c.seq, opc := 1, fields := f, regs := r, total := (dTotal r + 4095) / 4096, dstFe := some (d.tile, .full),
        nonce := s.fresh, after := s.remoteSeq }
    { s with fresh := s.fresh + 1 }.setCrew crew { c.setFe d.tile .filling with
      ops := c.ops ++ [o]
      seq := c.seq + 1 }
  | _, _ => s.setCrew crew { c with preloadBad := true }

/-- The template tables of the four strands (19 R307). -/
def readTmpls (l : Launch) (task : Nat) : List StrandKind → State → Res (State × List (List Byte))
  | [], s => .ok (s, [])
  | k :: r, s =>
    let p := (l.cfg.tmpl.getD (kindNum k) 0#64).toNat
    match (if p = 0 then .ok (s, []) else agentRead (engAgent (.task l.id task) l.owner) p 512 s) with
    | .error e => .error e
    | .ok (s1, bs) =>
      match readTmpls l task r s1 with
      | .error e => .error e
      | .ok (s2, t) => .ok (s2, bs :: t)

/-- The crew of a new context: zeroed when it changes owner, with its tiles and ASTAT otherwise (R18, R53; 05 R87). A
mark for pre-emption made by PREEMPT stays (21 R336). -/
def newCrew (old : Crew) (l : Launch) (n : Node) (task crew now : Nat) (t : List (List Byte)) : Crew :=
  let same := old.owner == l.owner
  let str (k : StrandKind) : Strand := newStrand l n task crew k (t.getD (kindNum k) [])
  { ctx := some { launch := l.id, task, tenant := l.owner, created := now, prio := n.prio, gmask := n.gmask, grps := n.grps }
    owner := l.owner
    zeroing := old.zeroing || !same
    ss := str .s
    sv := str .v
    sm := str .m
    sc := str .c
    tiles := if same then old.tiles.filter fun p => p.1 < 128 * 24 else []
    astat := if same then old.astat else 0#8
    astatNow := if same then old.astatNow else 0#8
    kperm := l.cfg.kperm
    acctbase := l.cfg.acctbase
    mark := old.mark
    markKept := old.markKept
    seq := old.seq
    starting := true }

/-- Place a ready task on a crew, or not yet while the queue engine waits at its tables. A fault of a template table
stops the launch with status 5, and the task is not run (R327; assumption log 43). -/
def startTask (s : State) (e : PoolEnt) (crew : Nat) : State × Bool :=
  match s.launch e.launch with
  | none => (poolDrop s fun x => x.is e.launch e.task, true)
  | some l =>
    match l.nodes[e.task]? with
    | none => (poolDrop s fun x => x.is e.launch e.task, true)
    | some n =>
      let who := Waiter.task l.id e.task
      match readTmpls l e.task allKinds s with
      | .error (.wait _ s1) => (s1, false)
      | .error x =>
        let s1 := x.left s who
        (stopLaunch (s1.setLaunch (((s1.launch l.id).getD l).mapNode e.task fun n => { n with st := .done, code := 3 })) l.id 5,
          true)
      | .ok (s1, t) =>
        let s2 := poolDrop (dropAsked s1 who) fun x => x.is e.launch e.task
        let s3 := s2.setLaunch (((s2.launch l.id).getD l).mapNode e.task fun n => { n with st := .running, crew })
        let s4 := s3.setCrew crew (newCrew (s3.crew crew) l n e.task crew s3.cycle t)
        (n.tiles.foldl (fun s d => startPreload s crew d) s4, true)

/-! ## Dispatch (R31 to R33, R334, R404) -/

/-- An entry may take crew n. -/
def mayTake (s : State) (e : PoolEnt) (n : Nat) : Bool :=
  (s.crew n).ctx.isNone &&
    (match e.saved with
     | some (c, area, _, _) => c == n && !areaBusy s area
     | none => (s.tenant e.tenant).crews.getLsbD n && !launchHalted s e.launch)

/-- The crew an entry takes: the one it left, or the lowest-numbered free one (R32). -/
def crewFor (s : State) (e : PoolEnt) : Option Nat :=
  if e.held || e.late then none else (List.range 384).find? fun n => mayTake s e n

/-- What a round of R404 comes to: nothing can be dispatched, an entry has been, or its tables make it wait. -/
inductive DispatchEnd where
  | none
  | done
  | waits (launch task : Nat)

/-- One round of R404 among the entries that have not been found to wait. -/
def dispatchOne (skip : List (Nat × Nat)) (s : State) : State × DispatchEnd :=
  match bestOf s (s.pool.filter fun e => !skip.contains (e.launch, e.task) && (crewFor s e).isSome) with
  | none => (s, .none)
  | some e =>
    match crewFor s e with
    | none => (s, .none)
    | some n =>
      match e.saved with
      | some _ => (poolDrop (resumeCtx s e) fun x => x.is e.launch e.task, .done)
      | none =>
        match startTask s e n with
        | (s1, true) => (s1, .done)
        | (s1, false) => (s1, .waits e.launch e.task)

/-- Rounds until no free crew may take an entry: an entry whose tables cannot be read yet keeps no other back (R36,
R404). -/
def dispatchRounds : Nat → List (Nat × Nat) → State → State
  | 0, _, s => s
  | k + 1, skip, s =>
    match dispatchOne skip s with
    | (s1, .none) => s1
    | (s1, .done) => dispatchRounds k skip s1
    | (s1, .waits l t) => dispatchRounds k ((l, t) :: skip) s1

/-- As many rounds as can be of use. -/
def dispatchAll (s : State) : State := dispatchRounds (385 + s.pool.length) [] s

/-- The tasks that became ready when crews were freed enter the pool, by launch and node index (R335). -/
def enterLate (s : State) : State :=
  let late := s.pool.filter fun e => e.late
  let s1 := { s with pool := s.pool.filter fun e => !e.late }
  let lt (a b : PoolEnt) : Bool := keyLt [a.launch, a.task] [b.launch, b.task]
  let ins (l : List PoolEnt) (e : PoolEnt) : List PoolEnt := l.takeWhile (fun x => lt x e) ++ e :: l.dropWhile fun x => lt x e
  (late.foldl ins []).foldl poolAdd s1

/-- An entry can be dispatched, or one waits to enter. -/
def canDispatch (s : State) : Bool := s.pool.any fun e => e.late || (crewFor s e).isSome

/-- DISPATCH (R404, R335): the crews that are free take their entries; then the tasks that became ready with them
compete. -/
def execDispatch (s : State) : Outcome :=
  if !canDispatch s then notEnabled "DISPATCH"
  else .next (dispatchAll (enterLate (dispatchAll s)))

/-! ## The end of the preload (R18, R327) -/

/-- The strands of a crew with an entry start: watchdogs are reloaded (02 R37). -/
def startStrands (c : Crew) : Crew :=
  allKinds.foldl
    (fun c k =>
      let x := c.str k
      if x.exited then c
      else c.setStr k { x with started := true, wleft := wdogReload x, cond := qFetch }) { c with starting := false }

/-- A preload unit has failed: no strand starts, and nothing more is loaded (R327). -/
def failPreload (c : Crew) : Crew :=
  allKinds.foldl (fun c k => c.setStr k { c.str k with exited := true })
    { c with starting := false, preloadBad := true, ops := [] }

/-- TILE_PRELOAD_COMPLETE (R18, R327): the strands start; what is still being zeroed holds their accesses (03 R54). -/
def execTilePreloadComplete (crew : Nat) (s : State) : Outcome :=
  let c := s.crew crew
  match c.ctx with
  | none => notEnabled "TILE_PRELOAD_COMPLETE"
  | some x =>
    if !c.starting || c.killed.isSome then notEnabled "TILE_PRELOAD_COMPLETE"
    else if c.preloadBad || c.ops.any fun o => o.held.isSome then
      .next (stopLaunch (s.setCrew crew (failPreload c)) x.launch 7)
    else if c.ops.isEmpty then .next (s.setCrew crew (startStrands c))
    else notEnabled "TILE_PRELOAD_COMPLETE"

/-! ## Task completion (02 R26, R27; 04 R76; 21 R328, R331; 23 R364) -/

/-- Everything the task's strands started has been performed (R27, R76), and their last slots are charged (07 R109). -/
def taskOver (s : State) (crew : Nat) : Bool :=
  let c := s.crew crew
  match c.ctx with
  | none => false
  | some x =>
    (c.killed.isSome || (!c.starting && allKinds.all fun k => (c.str k).exited)) && c.inflight.isEmpty && c.ops.isEmpty &&
      (allKinds.all fun k => (c.str k).slot.isNone) &&
      !(s.remote.any fun r => r.crew == crew && r.agent.isNone) &&
      !(s.cards.any fun k => k.crew == crew && k.launch == x.launch && k.task == x.task)

/-- The completion code of a task (R330). -/
def taskCode (c : Crew) : Nat := if c.killed.isSome then 1 else if c.preloadBad then 2 else 0

/-- The lease, handles and claims of the context are given up (12 R220; 14 R272). -/
def giveUp (s : State) (crew launch task : Nat) : State :=
  let s := if holdsLease s crew then endLease s (cuOf crew) else s
  let s := closeHandles s launch task
  dropWaits { s with claims := s.claims.filter fun k => k.crew ≠ crew } crew

/-- The final flush of the accounts (07 R111). -/
def finalFlush (s : State) (crew : Nat) (killed : Bool) : State :=
  acctFlush (acctSet (acctSet s crew 1) crew (if killed then 2 else 0)) crew

/-- The successors of a completed task are decremented once (R26); a count below zero stops the launch (R328). A node
that two entries of the task name counts twice (DESIGN CHOICE, assumption log 71). -/
def decSuccs (launch : Nat) : List Nat → State → State
  | [], s => s
  | y :: r, s =>
    match s.launch launch with
    | none => s
    | some l =>
      let s1 := s.setLaunch (l.mapNode y fun n => { n with npred := n.npred - 1 })
      match (l.nodes[y]?).map fun n => n.npred - 1 with
      | none => decSuccs launch r s1
      | some p =>
        if p < 0 then decSuccs launch r (stopLaunch s1 launch 4)
        else if p = 0 ∧ launchHalted s1 launch = false then decSuccs launch r (makeReady s1 launch y true)
        else decSuccs launch r s1

/-- The node of a task that has ended. -/
def endNode (n : Node) (c : Crew) (crew now : Nat) : Node :=
  { n with st := .done, code := taskCode c, kill := c.killed.getD 0, endCycle := now, crew }

/-- The accounts and the task record of a task can be written now: an access that stalls is awaited (07 R111; 22
R350). -/
def recordsReady (s : State) (crew : Nat) (l : Launch) (x : Ctx) : Except State State :=
  match flushReady false s crew with
  | .error (.wait _ s1) => .error s1
  | .error e => .ok (e.left s (.acct crew))
  | .ok s1 =>
    if !taskRecords l then .ok s1
    else
      match agentProbe (engAgent (.task l.id x.task) l.owner) (taskAddr l x.task) 16 s1 with
      | .error (.wait _ s2) => .error s2
      | _ => .ok s1

/-- TASK_COMPLETION (R27, R111, R328, R331): accounts, handles, the task record, the freed crew, the successors. -/
def execTaskCompletion (crew : Nat) (s : State) : Outcome :=
  let c := s.crew crew
  match c.ctx with
  | none => notEnabled "TASK_COMPLETION"
  | some x =>
    if !taskOver s crew then notEnabled "TASK_COMPLETION"
    else
      match s.launch x.launch with
      | none => notEnabled "TASK_COMPLETION"
      | some l =>
        match l.nodes[x.task]? with
        | none => notEnabled "TASK_COMPLETION"
        | some n =>
          match recordsReady s crew l x with
          | .error s1 => .next s1
          | .ok s0 =>
            let code := taskCode c
            let n := endNode n c crew s.cycle
            let s1 := finalFlush (giveUp s0 crew x.launch x.task) crew (code == 1)
            let s2 := if taskRecords l then (putRecord s1 (.task l.id x.task) l.owner (taskAddr l x.task) (taskBytes n)).1 else s1
            let s3 := s2.setLaunch (((s2.launch l.id).getD l).mapNode x.task fun _ => n)
            let s4 := s3.setCrew crew (freedCrew (s3.crew crew))
            let s5 := if code = 1 then countFor (stopLaunch s4 l.id 1) x.tenant 15 1 else s4
            .next (if code = 0 ∧ launchHalted s5 l.id = false then decSuccs l.id n.succs s5 else s5)

/-! ## Aging and epochs (02 R32; 21 R333) -/

/-- PRIORITY_AGING (R32): the effective priority of an entry is a function of CYCLE (effPrio); when an interval has just
passed for an entry, its rank has risen and nothing else changes. -/
def execPriorityAging (s : State) : Outcome :=
  if s.pool.any fun e => decide (e.readyAt < s.cycle) && (s.cycle - e.readyAt) % agingOf s == 0 then .next s
  else notEnabled "PRIORITY_AGING"

/-- The deficit at an epoch boundary (R333). -/
def nextDeficit (t : Tenant) : Int :=
  let d := t.deficit / 2 + 384 * (t.target : Int) - (t.used : Int)
  max (-(2 ^ 47)) (min (2 ^ 47 - 1) d)

/-- EPOCH_BOUNDARY (R333). -/
def execEpochBoundary (s : State) : Outcome :=
  if s.cycle < s.nextEpoch then notEnabled "EPOCH_BOUNDARY"
  else
    .next { s with
      tenants := s.tenants.map fun p => (p.1, { p.2 with deficit := nextDeficit p.2, used := 0 })
      nextEpoch := s.nextEpoch + epochCycles }

/-! ## The partition controller (R336) -/

/-- A ready task may at some time take crew n. -/
def mayEver (s : State) (e : PoolEnt) (n : Nat) : Bool := (s.tenant e.tenant).crews.getLsbD n && decide (n < 384)

/-- A ready task for which the controller acts: it has waited an interval and no crew for it is free. -/
def urgent (s : State) (e : PoolEnt) : Bool :=
  e.saved.isNone && !e.held && !e.late && !launchHalted s e.launch && decide (e.readyAt + agingOf s ≤ s.cycle) &&
    (List.range 384).all fun n => !(mayEver s e n && (s.crew n).ctx.isNone)

/-- The crew's context gives way to a ready task. -/
def givesWay (s : State) (e : PoolEnt) (n : Nat) : Bool :=
  match (s.crew n).ctx with
  | none => false
  | some x =>
    mayEver s e n && (s.crew n).killed.isNone &&
      (decide (deficitOf s x.tenant + s.regs.preMargin < deficitOf s e.tenant) ||
        (x.tenant == e.tenant && decide (x.prio < effPrio s e)))

/-- The conditions that hold for every mark. -/
def markOpen (s : State) : Bool := s.regs.preEn && (freeArea s).isSome && !poolFull s

/-- The conditions of the controller's mark on crew n hold. -/
def markHolds (s : State) (n : Nat) : Bool := markOpen s && s.pool.any fun e => urgent s e && givesWay s e n

/-- A mark of the controller whose conditions no longer hold is taken back. -/
def unmark (s : State) (p : Nat × Crew) : Nat × Crew :=
  if p.2.mark = some false ∧ p.2.markKept = false ∧ markHolds s p.1 = false then (p.1, { p.2 with mark := none }) else p

/-- The crews that qualify for a ready task. -/
def preyOf (s : State) (e : PoolEnt) : List Nat :=
  (s.crews.filter fun p => p.2.mark.isNone && givesWay s e p.1).map Prod.fst

/-- What the choice of a crew compares: the tenant's deficit, the priority, the crew number, highest first. -/
def preyKey (s : State) (n : Nat) : List Int :=
  match (s.crew n).ctx with
  | some x => [deficitOf s x.tenant, x.prio, -(n : Int)]
  | none => [0, 0, -(n : Int)]

/-- The first crew by preyKey. -/
def bestPrey (s : State) (l : List Nat) : Option Nat :=
  l.foldl
    (fun a n =>
      match a with
      | none => some n
      | some b => if keyLt (preyKey s n) (preyKey s b) then some n else some b) none

/-- Mark one crew, if one qualifies. -/
def markOne (s : State) : State :=
  if !markOpen s then s
  else
    match bestOf s (s.pool.filter fun e => urgent s e && !(preyOf s e).isEmpty) with
    | none => s
    | some e =>
      match bestPrey s (preyOf s e) with
      | none => s
      | some n => s.setCrew n { s.crew n with mark := some false, markKept := false }

/-- PARTITION_EXAMINATION (R336). -/
def execPartitionExamination (s : State) : Outcome :=
  if s.cycle < s.nextExam then notEnabled "PARTITION_EXAMINATION"
  else
    let s1 := { s with crews := s.crews.map (unmark s), nextExam := s.nextExam + 1024 }
    .next (markOne s1)

/-- PREEMPT_WRITE (R336): the named crew is marked, whether or not it runs a context, if a save area and a pool entry
are free. -/
def execPreemptWrite (v : Word) (s : State) : Outcome :=
  barWrite "PREEMPT_WRITE" s fun s =>
    let n := v.bits 8 0
    if !v.getLsbD 63 || decide (384 ≤ n) || (freeArea s).isNone || poolFull s then .next s
    else .next (s.setCrew n { s.crew n with mark := some ((s.crew n).mark.getD false), markKept := true })

end Sys2Proof.Machine
end

