-- ==== Sys2Proof/Machine/Registers.lean ====
section
/-! DEFINITION. The host-visible registers without a row of their own (spec 21 R318, R332; 22 R351; 23 R365, R367; 26
R384, R385, R388, R392, R393; 27 R399; 03 R45), STAGECFG, and CXL.mem accesses: the events STAGECFG_WRITE,
REGISTER_WRITE and CXL_MEM_ACCESS. -/
namespace Sys2Proof.Machine

/-- STAGECFG_WRITE (26 R393): ignored while a reservation is held. -/
def execStagecfgWrite (v : Word) (s : State) : Outcome :=
  barWrite "STAGECFG_WRITE" s fun s =>
    .next (if s.stagingUsed ≠ 0 then s
      else { s with regs := { s.regs with
        stageBlocks := v.bits 63 52
        stageBase := v.bits 51 21 * 2 ^ 21 } })

/-- Word w of a tenant's configuration (21 R332): 0 to 5 crews, 6 wdog_max and target, 7 kperm_allow. -/
def tenantWord (t : Tenant) (w : Nat) (v : Word) : Tenant :=
  if w < 6 then
    let low : BitVec 384 := BitVec.ofNat 384 (v.toNat * 2 ^ (64 * w))
    let mask : BitVec 384 := BitVec.ofNat 384 ((2 ^ 64 - 1) * 2 ^ (64 * w))
    { t with crews := (t.crews &&& ~~~mask) ||| low }
  else if w = 6 then
    { t with
      wdogMax := v.extractLsb' 0 48
      target := v.bits 63 48 }
  else { t with kpermAllow := v.extractLsb' 1 3 }

/-- A ring's configuration register (22 R351, 23 R365). -/
def ringCfg (r : RecRing) (v : Word) : RecRing :=
  { r with
    base := v.bits 63 12 * 4096
    lsize := min 8 (v.bits 11 8)
    en := v.getLsbD 7 }

/-- Write every waiting error record that finds room. -/
def drainAllErrs (s : State) : State := drainErrs s.errs.length s

/-- A port's status register (26 R384): a 1 in a field clears it. -/
def portClear (p : Port) (v : Word) : Port :=
  { p with
    retrains := if v.bits 55 48 ≠ 0 then 0 else p.retrains
    retries := if v.bits 31 0 ≠ 0 then 0 else p.retries }

/-- The power block after a write to THERMd (27 R399): thresholds, and trip cleared by a 1. -/
def thermWrite (w : Power) (die : Nat) (v : Word) : Power :=
  if die = 0 then
    { w with
      trip0 := w.trip0 && !v.getLsbD 48
      tripc0 := v.bits 47 40
      warnc0 := v.bits 39 32 }
  else
    { w with
      trip1 := w.trip1 && !v.getLsbD 48
      tripc1 := v.bits 47 40
      warnc1 := v.bits 39 32 }

/-- The driver assigns a slice segment (03 R45): another tenant finds it zero (R53, R54). -/
def assignSegment (s : State) (cu seg owner : Nat) : State :=
  let i := 16 * cu + seg
  if segOwner s i = owner then s
  else
    let k := sliceKey cu (2 ^ 20 * seg)
    let c := s.cu cu
    let s := s.setCu cu { c with zeroSegs := if c.zeroSegs.contains seg then c.zeroSegs else seg :: c.zeroSegs }
    { s with
      segs := sputD 0 s.segs i owner
      mem := s.mem.filter fun x => !(decide (k ≤ x.1) && decide (x.1 < k + 2 ^ 20)) }

/-- A register of the physical function that is written in operational mode only. The HDM decoder has a base and a
size of whole frames, at places of CXL's own (PRESUMED, assumption log 76). -/
def regWrite (reg : HostReg) (v : Word) (s : State) : State :=
  match reg with
  | .tenant n w => if n ≤ 384 ∧ w < 8 then s.setTenant n (tenantWord (s.tenant n) w v) else s
  | .dcfg => { s with regs := { s.regs with ageK := v.bits 3 0 } }
  | .savepool => { s with regs := { s.regs with saveCount := v.bits 63 52, saveBase := v.bits 51 12 * 4096 } }
  | .precfg => { s with regs := { s.regs with preEn := v.getLsbD 63, preMargin := v.bits 47 0 } }
  | .fqcfg => drainAllFaults { s with fq := ringCfg s.fq v }
  | .ercfg => drainAllErrs { s with er := ringCfg s.er v }
  | .erhead => drainAllErrs { s with er := { s.er with head := v.extractLsb' 0 32, vector := v.bits 63 48 } }
  | .gwtbase => { s with regs := { s.regs with gwtBase := v.bits 51 12 * 4096 } }
  | .cap n => if n ≤ 384 then s.setTenant n { s.tenant n with cap := v.bits 6 0 } else s
  | .route rank => if rank < 2 ^ 17 then loseAll (flushOut { s with routes := sputD 0#18 s.routes rank (v.extractLsb' 0 18) }) else s
  | .port p => if p < 18 then s.setPort p (portClear (s.port p) v) else s
  | .pwrstat => { s with power := { s.power with overCap := s.power.overCap && !v.getLsbD 12 } }
  | .therm d => if d < 2 then { s with power := thermWrite s.power d v } else s
  | .hdm hi =>
    { s with regs := if hi then { s.regs with hdmSize := v.bits 63 12 * 4096 } else { s.regs with hdmBase := v.bits 63 12 * 4096 } }
  | .segment cu seg => if cu < 96 ∧ seg < 16 ∧ v.toNat ≤ 384 then assignSegment s cu seg v.toNat else s
  | .attaddr => s
  | .attnonce _ => s
  | .readOnly => s

/-- REGISTER_WRITE (21 R318): the attestation registers are written in every mode (25 R375, R379). -/
def execRegisterWrite (reg : HostReg) (v : Word) (s : State) : Outcome :=
  match reg with
  | .attaddr => .next { s with boot := { s.boot with attAddr := v } }
  | .attnonce k =>
    .next { s with boot := { s.boot with attNonce := s.boot.attNonce.mapIdx fun i w => if i = k then v else w } }
  | r => barWrite "REGISTER_WRITE" s fun s => .next (regWrite r v s)

/-- The bytes of HBM that the HDM decoder exposes (21 R318). -/
def hdmCovers (s : State) (pa n : Nat) : Bool :=
  decide (s.regs.hdmBase ≤ pa ∧ pa + n ≤ s.regs.hdmBase + s.regs.hdmSize ∧ pa + n ≤ hbmSize)

/-- CXL_MEM_ACCESS (21 R318): a host access to a frame that the PF driver exposes through the HDM decoder. -/
def execCxlMemAccess (write : Bool) (pa : Nat) (data : List Byte) (s : State) : Outcome :=
  if s.boot.mode ≠ 1 ∨ data.isEmpty = true ∨ hdmCovers s pa data.length = false then notEnabled "CXL_MEM_ACCESS"
  else if write then .next { s with mem := memWrite s.mem pa data }
  else .next s

end Sys2Proof.Machine
end

