-- ==== Sys2Proof/Machine/Dispatch.lean ====
section
/-! DEFINITION. exec: one arm per constructor of Instr, each one call of the instruction's meaning. -/
namespace Sys2Proof.Machine

def exec (i : Instr) (s : State) : Host.Outcome State Fault Refusal :=
  match i with
  | .exit p => Sys2Proof.Machine.execExit p s
  | .yield p => Sys2Proof.Machine.execYield p s
  | .yieldSafe p => Sys2Proof.Machine.execYieldSafe p s
  | .tret p => Sys2Proof.Machine.execTret p s
  | .trap p imm => Sys2Proof.Machine.execTrap p imm s
  | .bkpt p imm => Sys2Proof.Machine.execBkpt p imm s
  | .acctflush p => Sys2Proof.Machine.execAcctflush p s
  | .fence p scope mask => Sys2Proof.Machine.execFence p scope mask s
  | .mfsr p sd num => Sys2Proof.Machine.execMfsr p sd num s
  | .mtsr p sa num => Sys2Proof.Machine.execMtsr p sa num s
  | .waitt p sa => Sys2Proof.Machine.execWaitt p sa s
  | .tkpush p mask => Sys2Proof.Machine.execTkpush p mask s
  | .tkpop p mask => Sys2Proof.Machine.execTkpop p mask s
  | .gsync p g => Sys2Proof.Machine.execGsync p g s
  | .qwr p sa q f => Sys2Proof.Machine.execQwr p sa q f s
  | .qrd p sd q e => Sys2Proof.Machine.execQrd p sd q e s
  | .add p sd sa sb => Sys2Proof.Machine.execAdd p sd sa sb s
  | .sub p sd sa sb => Sys2Proof.Machine.execSub p sd sa sb s
  | .and p sd sa sb => Sys2Proof.Machine.execAnd p sd sa sb s
  | .or p sd sa sb => Sys2Proof.Machine.execOr p sd sa sb s
  | .xor p sd sa sb => Sys2Proof.Machine.execXor p sd sa sb s
  | .sll p sd sa sb => Sys2Proof.Machine.execSll p sd sa sb s
  | .srl p sd sa sb => Sys2Proof.Machine.execSrl p sd sa sb s
  | .sra p sd sa sb => Sys2Proof.Machine.execSra p sd sa sb s
  | .mul p sd sa sb => Sys2Proof.Machine.execMul p sd sa sb s
  | .mulh p sd sa sb => Sys2Proof.Machine.execMulh p sd sa sb s
  | .mulhu p sd sa sb => Sys2Proof.Machine.execMulhu p sd sa sb s
  | .div p sd sa sb => Sys2Proof.Machine.execDiv p sd sa sb s
  | .divu p sd sa sb => Sys2Proof.Machine.execDivu p sd sa sb s
  | .rem p sd sa sb => Sys2Proof.Machine.execRem p sd sa sb s
  | .remu p sd sa sb => Sys2Proof.Machine.execRemu p sd sa sb s
  | .min p sd sa sb => Sys2Proof.Machine.execMin p sd sa sb s
  | .max p sd sa sb => Sys2Proof.Machine.execMax p sd sa sb s
  | .minu p sd sa sb => Sys2Proof.Machine.execMinu p sd sa sb s
  | .maxu p sd sa sb => Sys2Proof.Machine.execMaxu p sd sa sb s
  | .clz p sd sa => Sys2Proof.Machine.execClz p sd sa s
  | .ctz p sd sa => Sys2Proof.Machine.execCtz p sd sa s
  | .popc p sd sa => Sys2Proof.Machine.execPopc p sd sa s
  | .addi sd sa imm => Sys2Proof.Machine.execAddi sd sa imm s
  | .andi sd sa imm => Sys2Proof.Machine.execAndi sd sa imm s
  | .ori sd sa imm => Sys2Proof.Machine.execOri sd sa imm s
  | .xori sd sa imm => Sys2Proof.Machine.execXori sd sa imm s
  | .slli sd sa n => Sys2Proof.Machine.execSlli sd sa n s
  | .srli sd sa n => Sys2Proof.Machine.execSrli sd sa n s
  | .srai sd sa n => Sys2Proof.Machine.execSrai sd sa n s
  | .lui sd imm => Sys2Proof.Machine.execLui sd imm s
  | .cmp p pd cond sa sb => Sys2Proof.Machine.execCmp p pd cond sa sb s
  | .cmpi pd cond sa imm => Sys2Proof.Machine.execCmpi pd cond sa imm s
  | .pand p pd pa pb => Sys2Proof.Machine.execPand p pd pa pb s
  | .por p pd pa pb => Sys2Proof.Machine.execPor p pd pa pb s
  | .pxor p pd pa pb => Sys2Proof.Machine.execPxor p pd pa pb s
  | .pandn p pd pa pb => Sys2Proof.Machine.execPandn p pd pa pb s
  | .porn p pd pa pb => Sys2Proof.Machine.execPorn p pd pa pb s
  | .lea p sd sa sb => Sys2Proof.Machine.execLea p sd sa sb s
  | .tag p sd sa sid => Sys2Proof.Machine.execTag p sd sa sid s
  | .space p sd sa => Sys2Proof.Machine.execSpace p sd sa s
  | .rng p sd => Sys2Proof.Machine.execRng p sd s
  | .rngc p sd sn => Sys2Proof.Machine.execRngc p sd sn s
  | .br p disp => Sys2Proof.Machine.execBr p disp s
  | .jmp disp => Sys2Proof.Machine.execJmp disp s
  | .call disp => Sys2Proof.Machine.execCall disp s
  | .jr p sa => Sys2Proof.Machine.execJr p sa s
  | .callr p sa => Sys2Proof.Machine.execCallr p sa s
  | .loop id stages sa off => Sys2Proof.Machine.execLoop id stages sa off s
  | .ldb sd sa off => Sys2Proof.Machine.execLdb sd sa off s
  | .ldbu sd sa off => Sys2Proof.Machine.execLdbu sd sa off s
  | .ldh sd sa off => Sys2Proof.Machine.execLdh sd sa off s
  | .ldhu sd sa off => Sys2Proof.Machine.execLdhu sd sa off s
  | .ldw sd sa off => Sys2Proof.Machine.execLdw sd sa off s
  | .ldwu sd sa off => Sys2Proof.Machine.execLdwu sd sa off s
  | .ldd sd sa off => Sys2Proof.Machine.execLdd sd sa off s
  | .stb sb sa off => Sys2Proof.Machine.execStb sb sa off s
  | .sth sb sa off => Sys2Proof.Machine.execSth sb sa off s
  | .stw sb sa off => Sys2Proof.Machine.execStw sb sa off s
  | .std sb sa off => Sys2Proof.Machine.execStd sb sa off s
  | .ldx p sd sa si size sext z cls off => Sys2Proof.Machine.execLdx p sd sa si size sext z cls off s
  | .stx p sb sa si size z cls off => Sys2Proof.Machine.execStx p sb sa si size z cls off s
  | .ldxAcq p sd sa si scope z cls mask => Sys2Proof.Machine.execLdxAcq p sd sa si scope z cls mask s
  | .stxRel p sb sa si scope z cls mask => Sys2Proof.Machine.execStxRel p sb sa si scope z cls mask s
  | .amoAdd p sd sa sb size cls => Sys2Proof.Machine.execAmoAdd p sd sa sb size cls s
  | .amoMin p sd sa sb size cls => Sys2Proof.Machine.execAmoMin p sd sa sb size cls s
  | .amoMax p sd sa sb size cls => Sys2Proof.Machine.execAmoMax p sd sa sb size cls s
  | .amoMinu p sd sa sb size cls => Sys2Proof.Machine.execAmoMinu p sd sa sb size cls s
  | .amoMaxu p sd sa sb size cls => Sys2Proof.Machine.execAmoMaxu p sd sa sb size cls s
  | .amoAnd p sd sa sb size cls => Sys2Proof.Machine.execAmoAnd p sd sa sb size cls s
  | .amoOr p sd sa sb size cls => Sys2Proof.Machine.execAmoOr p sd sa sb size cls s
  | .amoXor p sd sa sb size cls => Sys2Proof.Machine.execAmoXor p sd sa sb size cls s
  | .amoSwp p sd sa sb size cls => Sys2Proof.Machine.execAmoSwp p sd sa sb size cls s
  | .cas p sd sa sb sc size cls => Sys2Proof.Machine.execCas p sd sa sb sc size cls s
  | .amoFadd p sd sa sb cls => Sys2Proof.Machine.execAmoFadd p sd sa sb cls s
  | .li32 p sd imm => Sys2Proof.Machine.execLi32 p sd imm s
  | .lih p sd imm => Sys2Proof.Machine.execLih p sd imm s
  | .vadd e v => Sys2Proof.Machine.execVadd e v s
  | .vsub e v => Sys2Proof.Machine.execVsub e v s
  | .vmul e v => Sys2Proof.Machine.execVmul e v s
  | .vfma e v => Sys2Proof.Machine.execVfma e v s
  | .vmin e v => Sys2Proof.Machine.execVmin e v s
  | .vmax e v => Sys2Proof.Machine.execVmax e v s
  | .vabs e v => Sys2Proof.Machine.execVabs e v s
  | .vneg e v => Sys2Proof.Machine.execVneg e v s
  | .vexp2 e v => Sys2Proof.Machine.execVexp2 e v s
  | .vlog2 e v => Sys2Proof.Machine.execVlog2 e v s
  | .vrcp e v => Sys2Proof.Machine.execVrcp e v s
  | .vrsqrt e v => Sys2Proof.Machine.execVrsqrt e v s
  | .vtanh e v => Sys2Proof.Machine.execVtanh e v s
  | .vand e v => Sys2Proof.Machine.execVand e v s
  | .vor e v => Sys2Proof.Machine.execVor e v s
  | .vxor e v => Sys2Proof.Machine.execVxor e v s
  | .vshl e v => Sys2Proof.Machine.execVshl e v s
  | .vshr e v => Sys2Proof.Machine.execVshr e v s
  | .vsra e v => Sys2Proof.Machine.execVsra e v s
  | .vcmpEq e v => Sys2Proof.Machine.execVcmpEq e v s
  | .vcmpNe e v => Sys2Proof.Machine.execVcmpNe e v s
  | .vcmpLt e v => Sys2Proof.Machine.execVcmpLt e v s
  | .vcmpLe e v => Sys2Proof.Machine.execVcmpLe e v s
  | .vsel e v => Sys2Proof.Machine.execVsel e v s
  | .vcvt e v => Sys2Proof.Machine.execVcvt e v s
  | .vqblk e v => Sys2Proof.Machine.execVqblk e v s
  | .vunpk e v => Sys2Proof.Machine.execVunpk e v s
  | .vdrop e v => Sys2Proof.Machine.execVdrop e v s
  | .vrsum e v => Sys2Proof.Machine.execVrsum e v s
  | .vrmax e v => Sys2Proof.Machine.execVrmax e v s
  | .vrmin e v => Sys2Proof.Machine.execVrmin e v s
  | .vmov e v => Sys2Proof.Machine.execVmov e v s
  | .vshuf e v => Sys2Proof.Machine.execVshuf e v s
  | .viota e v => Sys2Proof.Machine.execViota e v s
  | .vsplat e v => Sys2Proof.Machine.execVsplat e v s
  | .vld e v => Sys2Proof.Machine.execVld e v s
  | .vst e v => Sys2Proof.Machine.execVst e v s
  | .vldt e v => Sys2Proof.Machine.execVldt e v s
  | .vgath e v => Sys2Proof.Machine.execVgath e v s
  | .vrng e v => Sys2Proof.Machine.execVrng e v s
  | .vtrn e v => Sys2Proof.Machine.execVtrn e v s
  | .alease e x => Sys2Proof.Machine.execAlease e x s
  | .arelease e x => Sys2Proof.Machine.execArelease e x s
  | .lds e x => Sys2Proof.Machine.execLds e x s
  | .ldsP e x => Sys2Proof.Machine.execLdsP e x s
  | .ldsCb e x => Sys2Proof.Machine.execLdsCb e x s
  | .ldsBs e x => Sys2Proof.Machine.execLdsBs e x s
  | .mswap e x => Sys2Proof.Machine.execMswap e x s
  | .mmul e x => Sys2Proof.Machine.execMmul e x s
  | .mmulBs e x => Sys2Proof.Machine.execMmulBs e x s
  | .mdrain e x => Sys2Proof.Machine.execMdrain e x s
  | .mzero e x => Sys2Proof.Machine.execMzero e x s
  | .mcbt e x => Sys2Proof.Machine.execMcbt e x s
  | .cpy e c => Sys2Proof.Machine.execCpy e c s
  | .cpyLd e c => Sys2Proof.Machine.execCpyLd e c s
  | .cpySt e c => Sys2Proof.Machine.execCpySt e c s
  | .cgath e c => Sys2Proof.Machine.execCgath e c s
  | .cscat e c => Sys2Proof.Machine.execCscat e c s
  | .cred e c => Sys2Proof.Machine.execCred e c s
  | .cpref e c => Sys2Proof.Machine.execCpref e c s
  | .cring e c => Sys2Proof.Machine.execCring e c s
  | .collOpen e c => Sys2Proof.Machine.execCollOpen e c s
  | .collAred e c => Sys2Proof.Machine.execCollAred e c s
  | .collAgath e c => Sys2Proof.Machine.execCollAgath e c s
  | .collBcast e c => Sys2Proof.Machine.execCollBcast e c s
  | .collClose e c => Sys2Proof.Machine.execCollClose e c s
  | .send e c => Sys2Proof.Machine.execSend e c s
  | .recv e c => Sys2Proof.Machine.execRecv e c s
  | .japp e c => Sys2Proof.Machine.execJapp e c s
  | .jwait e c => Sys2Proof.Machine.execJwait e c s
  | .jfetch e c => Sys2Proof.Machine.execJfetch e c s
  | .glzPost e c => Sys2Proof.Machine.execGlzPost e c s
  | .glzWait e c => Sys2Proof.Machine.execGlzWait e c s
  | .binit e y => Sys2Proof.Machine.execBinit e y s
  | .bexpect e y => Sys2Proof.Machine.execBexpect e y s
  | .barrive e y => Sys2Proof.Machine.execBarrive e y s
  | .bwait e y => Sys2Proof.Machine.execBwait e y s
  | .btest e y => Sys2Proof.Machine.execBtest e y s
  | .rinit e y => Sys2Proof.Machine.execRinit e y s
  | .rwaitf e y => Sys2Proof.Machine.execRwaitf e y s
  | .rrel e y => Sys2Proof.Machine.execRrel e y s
  | .patch index select value => Sys2Proof.Machine.execPatch index select value s
  | .tload p sa => Sys2Proof.Machine.execTload p sa s
  | .krules p sa => Sys2Proof.Machine.execKrules p sa s
  | .kneadGroupIssue entry => Sys2Proof.Machine.execKneadGroupIssue entry s
  | .engineInstructionCompletion crew op => Sys2Proof.Machine.execEngineInstructionCompletion crew op s
  | .asyncTrapEntry crew k => Sys2Proof.Machine.execAsyncTrapEntry crew k s
  | .waittWake crew k at_ => Sys2Proof.Machine.execWaittWake crew k at_ s
  | .jwaitDeadline crew sd pd chained => Sys2Proof.Machine.execJwaitDeadline crew sd pd chained s
  | .watchdogExpiry crew k => Sys2Proof.Machine.execWatchdogExpiry crew k s
  | .leaseGrant cu => Sys2Proof.Machine.execLeaseGrant cu s
  | .leaseLimit cu => Sys2Proof.Machine.execLeaseLimit cu s
  | .rampStep cu => Sys2Proof.Machine.execRampStep cu s
  | .copyUnit crew op => Sys2Proof.Machine.execCopyUnit crew op s
  | .copyCompletion crew op => Sys2Proof.Machine.execCopyCompletion crew op s
  | .reductionContextClaim => Sys2Proof.Machine.execReductionContextClaim s
  | .fabricOpCompletion crew op => Sys2Proof.Machine.execFabricOpCompletion crew op s
  | .collectiveChunk chunk => Sys2Proof.Machine.execCollectiveChunk chunk s
  | .sendData chunk => Sys2Proof.Machine.execSendData chunk s
  | .remoteAccess acc => Sys2Proof.Machine.execRemoteAccess acc s
  | .acknowledgement tag data => Sys2Proof.Machine.execAcknowledgement tag data s
  | .journalArrival group src entry fetched => Sys2Proof.Machine.execJournalArrival group src entry fetched s
  | .jfetchRequest group src first count => Sys2Proof.Machine.execJfetchRequest group src first count s
  | .jappResend crew op => Sys2Proof.Machine.execJappResend crew op s
  | .flitReceive port flit => Sys2Proof.Machine.execFlitReceive port flit s
  | .retryRequest port seq => Sys2Proof.Machine.execRetryRequest port seq s
  | .portRetrain port ok => Sys2Proof.Machine.execPortRetrain port ok s
  | .glazeCardRun crew card => Sys2Proof.Machine.execGlazeCardRun crew card s
  | .glazeCardCompletion crew card => Sys2Proof.Machine.execGlazeCardCompletion crew card s
  | .translationWalk cu fn va need => Sys2Proof.Machine.execTranslationWalk cu fn va need s
  | .translationExpiry => Sys2Proof.Machine.execTranslationExpiry s
  | .clockSkewDetection cu drift => Sys2Proof.Machine.execClockSkewDetection cu drift s
  | .fqrespWrite v => Sys2Proof.Machine.execFqrespWrite v s
  | .fqheadWrite v => Sys2Proof.Machine.execFqheadWrite v s
  | .xrRootWrite fn stage2 v => Sys2Proof.Machine.execXrRootWrite fn stage2 v s
  | .fcmdWrite v => Sys2Proof.Machine.execFcmdWrite v s
  | .frameFormatComplete => Sys2Proof.Machine.execFrameFormatComplete s
  | .queueConfigWrite q hi v => Sys2Proof.Machine.execQueueConfigWrite q hi v s
  | .tailWrite q v => Sys2Proof.Machine.execTailWrite q v s
  | .abortWrite q v => Sys2Proof.Machine.execAbortWrite q v s
  | .functionLevelReset vf => Sys2Proof.Machine.execFunctionLevelReset vf s
  | .launchRecordRead q => Sys2Proof.Machine.execLaunchRecordRead q s
  | .dispatch => Sys2Proof.Machine.execDispatch s
  | .tilePreloadComplete crew => Sys2Proof.Machine.execTilePreloadComplete crew s
  | .taskCompletion crew => Sys2Proof.Machine.execTaskCompletion crew s
  | .launchCompletion launch => Sys2Proof.Machine.execLaunchCompletion launch s
  | .accountRecordEviction crew => Sys2Proof.Machine.execAccountRecordEviction crew s
  | .accountCountOverflow crew => Sys2Proof.Machine.execAccountCountOverflow crew s
  | .priorityAging => Sys2Proof.Machine.execPriorityAging s
  | .epochBoundary => Sys2Proof.Machine.execEpochBoundary s
  | .partitionExamination => Sys2Proof.Machine.execPartitionExamination s
  | .preemptWrite v => Sys2Proof.Machine.execPreemptWrite v s
  | .contextSave crew => Sys2Proof.Machine.execContextSave crew s
  | .spillcfgWrite v => Sys2Proof.Machine.execSpillcfgWrite v s
  | .stagecfgWrite v => Sys2Proof.Machine.execStagecfgWrite v s
  | .powerControlInterval power temp0 temp1 => Sys2Proof.Machine.execPowerControlInterval power temp0 temp1 s
  | .pwrcfgWrite v => Sys2Proof.Machine.execPwrcfgWrite v s
  | .rowcapWrite v => Sys2Proof.Machine.execRowcapWrite v s
  | .uncorrectableError who unit sub pa => Sys2Proof.Machine.execUncorrectableError who unit sub pa s
  | .bootStart passes => Sys2Proof.Machine.execBootStart passes s
  | .bootclr v => Sys2Proof.Machine.execBootclr v s
  | .bootctl v => Sys2Proof.Machine.execBootctl v s
  | .fwsvn v => Sys2Proof.Machine.execFwsvn v s
  | .attctlGo i3c => Sys2Proof.Machine.execAttctlGo i3c s
  | .attestationReportComplete => Sys2Proof.Machine.execAttestationReportComplete s
  | .telesnap v => Sys2Proof.Machine.execTelesnap v s
  | .telesnapComplete => Sys2Proof.Machine.execTelesnapComplete s
  | .counterBankWrite tenant k v => Sys2Proof.Machine.execCounterBankWrite tenant k v s
  | .recorderConfigWrite q hi v => Sys2Proof.Machine.execRecorderConfigWrite q hi v s
  | .registerWrite reg v => Sys2Proof.Machine.execRegisterWrite reg v s
  | .unassignedEncoding w0 w1 => Sys2Proof.Machine.execUnassignedEncoding w0 w1 s
  | .instructionFetchFault cause tval => Sys2Proof.Machine.execInstructionFetchFault cause tval s
  | .zeroingComplete what => Sys2Proof.Machine.execZeroingComplete what s
  | .clockCopyResync cu => Sys2Proof.Machine.execClockCopyResync cu s
  | .correctedSoftError unit sub pa overflow => Sys2Proof.Machine.execCorrectedSoftError unit sub pa overflow s
  | .cxlMemAccess write pa data => Sys2Proof.Machine.execCxlMemAccess write pa data s

end Sys2Proof.Machine
end

