-- ==== Sys2Proof/Machine/Turn.lean ====
section
/-! DEFINITION. Whose turn it is: what must happen before anything else, the turns of the agenda, the strands in their
order within a cycle, and the device's own events at the end of a cycle. The order is the model's own (assumption log
4): the spec leaves the order of agents open, and the agenda can give any other. -/
namespace Sys2Proof.Machine

/-! ## What must happen first -/

/-- The state without what an access that goes on waiting may leave each time it is tried: counters, horizons and cached
translations. -/
def State.bare (s : State) : State :=
  { s with
    tenants := s.tenants.map fun p => (p.1, { p.2 with counters := Vector.replicate 16 0#64, horizon := 0 })
    cus := s.cus.map fun p => (p.1, { p.2 with tlb := [] })
    clusterTlb := []
    walkCache := [] }

/-- The event happens now and gets somewhere, or stops the machine. -/
def ready (s : State) (i : Instr) : Bool :=
  match exec i s with
  | .next s' => s'.bare ≠ s.bare || i == .translationExpiry
  | .fault _ => true
  | .refused _ => false

/-- The events that are due on a crew: a watchdog (02 R37), a record that has left an account cache (07 R110), the
save of a marked crew at a safe point (02 R35), an asynchronous trap of a strand at its boundary (23 R361). -/
def crewDue (s : State) (p : Nat × Crew) : List Instr :=
  ((allKinds.filter fun k => watchdogOut p.2 k).map fun k => Instr.watchdogExpiry p.1 k) ++
    (match p.2.evicted with
     | r :: _ => [if accMax ≤ r.acc.count then Instr.accountCountOverflow p.1 else Instr.accountRecordEviction p.1]
     | [] => []) ++
    (if canSave s p.1 then [Instr.contextSave p.1] else []) ++
    (allKinds.filter fun k => (asyncNext p.2 k).isSome).map fun k => Instr.asyncTrapEntry p.1 k

/-- The events that may be due on a CU: the limit of its lease (02 R24) and its ramp (07 R117). -/
def cuDue (p : Nat × Cu) : List Instr := [.leaseLimit p.1, .rampStep p.1]

/-- The interval of the model's power control has ended: its readings are free values (27 R398; assumption log 5). -/
def powerDue (s : State) : List Instr :=
  if s.nextPower ≤ s.cycle then
    [.powerControlInterval (Config.power s.fresh).toNat (Config.temperature 0 s.fresh).toNat
      (Config.temperature 1 s.fresh).toNat]
  else []

/-- The events that come before anything else, in their order. -/
def dueList (s : State) : List Instr :=
  (if s.nextEpoch ≤ s.cycle then [Instr.epochBoundary] else []) ++
    (if s.nextExam ≤ s.cycle then [Instr.partitionExamination] else []) ++ powerDue s ++
    s.crews.flatMap (crewDue s) ++ s.cus.flatMap cuDue

/-- The first of them that happens. -/
def dueNow (s : State) : Option Instr := (dueList s).find? (ready s)

/-- The readings of the next interval are other free values. -/
def nextFresh (i : Instr) : Outcome → Outcome
  | .next s =>
    match i with
    | .powerControlInterval _ _ _ => .next { s with fresh := s.fresh + 1 }
    | _ => .next s
  | o => o

/-- A safe point that has been reached and cannot be used passes, and the mark with it (21 R336). -/
def safePassed (s : State) (c : Crew) : Bool := c.mark == some true && ((freeArea s).isNone || poolFull s)

/-- A crew with a bank snapshot that can get on: written, dropped, or waiting on a new fault record (07 R112). -/
def snapDue (s : State) : Option State :=
  s.crews.findSome? fun p =>
    if p.2.snaps.isEmpty then none
    else
      let s1 := writeSnap s p.1
      if s1.bare = s.bare then none else some s1

/-- The changes that are no event of the table and are due: the arrays take a written ramp window (27 R397), safe
points that cannot be used pass, bindings whose window entry has changed end (06 R406), a walk in flight sends its
record (22 R356), and snapshots that wait are written (07 R112). -/
def settleDue (s : State) : Option State :=
  if rampwDue s then some (takeRampw s)
  else if s.crews.any fun p => safePassed s p.2 then
    some { s with crews := s.crews.map fun p => (p.1, if safePassed s p.2 then { p.2 with mark := none, markKept := false } else p.2) }
  else if s.bindings.any fun p => bindingOver s p.2 then some (dropBindings s)
  else if !s.walking.isEmpty && decide (openFaults s < 1024) then some (releaseWalk s)
  else snapDue s

/-! ## A strand's turn -/

/-- A strand runs: its task has started, and neither it nor its context has ended or stopped at a safe point. -/
def runs (c : Crew) (k : StrandKind) : Bool :=
  let x := c.str k
  c.ctx.isSome && c.killed.isNone && c.mark ≠ some true && x.started && !x.exited

/-- A strand that runs has its turn of this cycle before it. -/
def hasTurn (c : Crew) (k : StrandKind) : Bool := runs c k && !(c.str k).waited && (c.str k).slot.isNone

/-- The loop whose iteration LSTOP stops before (07 R114). -/
def lstopAt (x : Strand) : Option (Fin 4) :=
  let id : Fin 4 := ⟨x.lstop.bits 3 2 % 4, by omega⟩
  let l := x.loop id
  if x.lstop.getLsbD 63 && l.active && l.fresh && l.level == x.level && x.latch.isNone && l.i == x.lstop.bits 47 8 then some id
  else none

/-- BKPT before an iteration (07 R114): TVAL holds the triple, and en is 0. The iteration has been stopped at. -/
def lstopTrap (s : State) (id : Fin 4) : State :=
  let x := s.me
  takeTrap (s.setMe { x.setLoop id { x.loop id with fresh := false } with lstop := x.lstop &&& 0x7FFFFFFFFFFFFFFF#64 }) s.cur.1 s.cur.2 cBkpt 0
    ((x.loop id).triple id.val) x.pc

/-- The words the strand in focus issues next, and the state with what their fetch cached: the amended words of a
patch, or what stands at its PC. -/
def fetchNow (s : State) : Res (State × List W32) :=
  match s.me.latch with
  | some ws => .ok (s, ws)
  | none => fetchWords s s.me.pc

/-- The instruction of fetched words: alone, or as the head of a Knead group (18 R287). -/
def issueWords (s : State) (ws : List W32) : Outcome :=
  match kneadAt s ws with
  | .wait s1 => .next (holdMe qKnead s1)
  | .group k _ => exec (.kneadGroupIssue k) s
  | .alone => exec (decodeOr ws) s

/-- The bytes of code that fetched words stand for: of the instruction, or of every member of its Knead group. -/
def codeBytes (s : State) (ws : List W32) : Nat :=
  match kneadAt s ws with
  | .group _ ms => (ms.map WinItem.len).foldl (· + ·) 0
  | _ => 4 * ws.length

/-- The places of n bytes of code at the PC of the strand in focus; none for the amended words of a patch. -/
def codePlaces (s : State) (n : Nat) : List Place :=
  if s.me.latch.isSome then []
  else
    match agentPlaces (fetchAgent s) 4#3 qFetch 0 (pagesOf n) s.me.pc n s with
    | .ok (_, ps) => ps
    | .error _ => []

/-- A strand that no longer waits is done with what it has asked of other devices for its fetch and its window, and the
code it has fetched counts as read (27 R400; assumption log 78). -/
def fetchDone (s0 : State) (ps : List Place) : Outcome → Outcome
  | .next s =>
    let n := s0.cur.1
    let k := s0.cur.2
    .next (if (s.strand n k).waited then s
      else countPlaces (dropAsked (dropAsked s (.fetch n k)) (.look n k)) s0.myCrew.tenant false ps)
  | o => o

/-- The turn of the strand in focus: what is left of a Knead group goes on (18 R299); a lost load is reported (26 R387),
then an iteration that LSTOP names. -/
def strandTurn (s : State) : Outcome :=
  match s.me.rest, lostLate s.me with
  | some r, _ => fetchDone s (codePlaces s ((r.pc - s.me.pc).toNat + r.len)) (exec (.kneadGroupIssue r.entry) s)
  | none, some l => .next (lostTrap s l)
  | none, none =>
    match lstopAt s.me with
    | some id => .next (lstopTrap s id)
    | none =>
      match fetchNow s with
      | .ok (s1, ws) => fetchDone s (codePlaces s1 (codeBytes s1 ws)) (issueWords s1 ws)
      | .error (.trap c v) => exec (.instructionFetchFault c v) s
      | .error (.xtrap c v s1) => exec (.instructionFetchFault c v) s1
      | .error (.wait q s1) => .next (holdMe q s1)
      | .error (.fault f) => .fault f

/-! ## The order within a cycle -/

/-- The strands of the crews that are listed, in order. -/
def strandsOf (s : State) : List (Nat × StrandKind) := s.crews.flatMap fun p => allKinds.map fun k => (p.1, k)

/-- The place of a strand in the order. -/
def strandKey (n : Nat) (k : StrandKind) : Nat := 4 * n + kindNum k

/-- The next strand after the one in focus that has its turn of this cycle before it. -/
def nextTurn (s : State) : Option (Nat × StrandKind) :=
  (strandsOf s).find? fun p =>
    decide (strandKey s.cur.1 s.cur.2 < strandKey p.1 p.2) && hasTurn (s.crew p.1) p.2

/-- A strand whose turn ended in a wait may try again, and no bit of ASTAT has been set in the new cycle (05 R87). -/
def Crew.newTurn (c : Crew) : Crew :=
  { allKinds.foldl (fun c k => c.setStr k { c.str k with waited := false }) c with astatNow := 0#8 }

/-- n cycles pass: what staging holds whole is applied (26 R393), arrivals held back are tried again, and every strand
may take its turn again. -/
def passCycles (s : State) (n : Nat) : State :=
  let s1 := applyAllStaged (s.elapse n)
  retryAll { s1 with crews := s1.crews.map fun p => (p.1, p.2.newTurn) }

/-- The next cycle: the first strand with a turn is in focus. -/
def newCycle (s : State) : State :=
  let s1 := passCycles s 1
  match (strandsOf s1).find? fun p => hasTurn (s1.crew p.1) p.2 with
  | some p => { s1 with cur := p }
  | none => s1

/-! ## The device's own events -/

/-- What an operation of the copy engine may do next. -/
def opEvents (crew : Nat) (o : AsyncOp) : List Instr :=
  if o.opc ≤ 7 then [.copyUnit crew o.id, .copyCompletion crew o.id]
  else if o.opc = 0x20 then [.fabricOpCompletion crew o.id, .jappResend crew o.id]
  else [.fabricOpCompletion crew o.id]

/-- What may happen on a crew. -/
def crewEvents (p : Nat × Crew) : List Instr :=
  (p.2.inflight.map fun o => Instr.engineInstructionCompletion p.1 o.id) ++ p.2.ops.flatMap (opEvents p.1) ++
    (if p.2.zeroing then [Instr.zeroingComplete (.crew p.1)] else []) ++
    (if p.2.starting then [Instr.tilePreloadComplete p.1] else []) ++
    (if p.2.ctx.isSome then [Instr.taskCompletion p.1] else [])

/-- What may happen on a CU, the I/O die or a walker. -/
def cuEvents (p : Nat × Cu) : List Instr :=
  (if p.2.lease.any fun l => l.zeroing then [Instr.zeroingComplete (.planes p.1)] else []) ++
    (p.2.zeroSegs.map fun x => Instr.zeroingComplete (.segment p.1 x)) ++
    (if p.2.resync || decide (2 < p.2.drift.natAbs) then [Instr.clockCopyResync p.1] else [])

/-- What the device may do by itself at the end of a cycle, in the order in which the model tries it. The arbiter of a
CU grants when every strand has had its turn, so that it sees all the requests of the cycle (02 R24). -/
def deviceEvents (s : State) : List Instr :=
  (s.cus.map fun p => Instr.leaseGrant p.1) ++ s.crews.flatMap crewEvents ++
    (s.cards.flatMap fun c => [Instr.glazeCardRun c.crew c.id, Instr.glazeCardCompletion c.crew c.id]) ++
    (if s.claims.isEmpty then [] else [Instr.reductionContextClaim]) ++ s.cus.flatMap cuEvents ++
    (if s.regs.fcmdGo then [Instr.frameFormatComplete] else []) ++
    (if s.regs.snapGo then [Instr.telesnapComplete] else []) ++
    (if s.boot.attGo then [Instr.attestationReportComplete] else []) ++
    ((nextQueue s).toList.map Instr.launchRecordRead) ++ (s.launches.map fun l => Instr.launchCompletion l.id) ++
    (if s.pool.isEmpty then [] else [Instr.dispatch]) ++ [Instr.translationExpiry]

/-- The end of a cycle: one of the device's own events, or the next cycle. -/
def endOfCycle (s : State) : Outcome :=
  match (deviceEvents s).find? (ready s) with
  | some i => exec i s
  | none => .next (newCycle s)

/-! ## The agenda -/

/-- The rows of the table that the agenda may bring about: not the instructions, nor what only a strand's fetch does. -/
def agendaEvent (i : Instr) : Bool :=
  !i.isWord &&
    (match i with
     | .unassignedEncoding _ _ => false
     | .instructionFetchFault _ _ => false
     | .kneadGroupIssue _ => false
     | _ => true)

/-- An act of the agenda; one that cannot happen has no effect. -/
def agendaAct (a : Act) (s : State) : Outcome :=
  match a with
  | .strand n k => if runs (s.crew n) k && (s.strand n k).slot.isNone then strandTurn { s with cur := (n, k) } else .next s
  | .event i =>
    if agendaEvent i then
      match exec i s with
      | .refused _ => .next s
      | o => o
    else .next s

/-- Turn a must come before turn b though it is listed after it, when both are due in one cycle: an abort before a
tail write of its queue (21 R321), a request of the PF for a report before one of I3C (25 R379), and the latch of a
snapshot before a counter write (27 R401). -/
def comesBefore (a b : Act) : Bool :=
  match a, b with
  | .event (.abortWrite q _), .event (.tailWrite r _) => q == r
  | .event (.attctlGo false), .event (.attctlGo true) => true
  | .event (.telesnap v), .event (.counterBankWrite _ _ _) => v.getLsbD 63
  | _, _ => false

/-- The turn that is taken of those due in the first one's cycle, and the turns left. -/
def pickTurn (t : Turn) (rest : List Turn) : Turn × List Turn :=
  match (rest.takeWhile fun u => u.due == t.due).find? fun u => comesBefore u.act t.act with
  | some u => (u, t :: rest.erase u)
  | none => (t, rest)

/-- The next turn of the agenda, if it is due. -/
def agendaNow (s : State) : Option (Act × State) :=
  match s.agenda with
  | t :: rest =>
    if t.due ≤ s.cycle then
      let p := pickTurn t rest
      some (p.1.act, { s with agenda := p.2 })
    else none
  | [] => none

/-! ## One step -/

/-- The next thing that happens. -/
def takeStep (s : State) : Outcome :=
  match dueNow s with
  | some i => nextFresh i (exec i s)
  | none =>
    match settleDue s with
    | some s1 => .next s1
    | none =>
      match agendaNow s with
      | some (a, s1) => agendaAct a s1
      | none =>
        if hasTurn s.myCrew s.cur.2 then strandTurn s
        else
          match nextTurn s with
          | some p => .next { s with cur := p }
          | none => endOfCycle s

end Sys2Proof.Machine
end

