-- ==== Sys2Proof/Machine/Place.lean ====
section
/-! DEFINITION. Placing an instruction where the next step fetches it: a context of the PF on crew 0 with one strand
that runs, its PC on a page whose translation its CU holds. It stands for the launch that brings a program to run
(assumption log 44). -/
namespace Sys2Proof.Machine

/-- The strand kind that may execute an instruction whose first word is w0 (09 R152). -/
def placeKind (w0 : W32) : StrandKind :=
  if majorOf w0 = 0x28 then .v
  else if majorOf w0 = 0x2A then .m
  else if majorOf w0 = 0x2B then .c
  else if majorOf w0 = 0x31 then .v
  else .s

/-- The PC of the placed instruction. -/
def placePc : Word := 0x1000#64

/-- The HBM frame of its page. -/
def placeFrame : Nat := 0x1000

/-- The translation of its page: readable and executable code of the PF. -/
def placeTlb (now : Nat) : Tlb :=
  { fn := 0, vpage := 1, frame := placeFrame, r := true, w := false, x := true, host := false, cmp := false, tier := 0,
    gw := false, expiry := now + 65536, single := false }

/-- The strand that runs the placed instruction: nothing of an earlier instruction stands before it. -/
def placeStrand (x : Strand) : Strand :=
  { x with
    pc := placePc
    started := true
    exited := false
    waited := false
    owed := false
    rest := none
    latch := none
    slot := none
    lstop := 0#64
    wleft := max 4096 x.wleft
    pend := {}
    cond := qFetch
    condPc := placePc }

/-- A strand of the crew that does not run. -/
def idleStrand (x : Strand) : Strand := { x with exited := true }

/-- Crew 0 with strand k ready to run. -/
def placeCrew (c : Crew) (k : StrandKind) (now : Nat) : Crew :=
  let c1 := allKinds.foldl (fun c j => c.setStr j (if j = k then placeStrand (c.str j) else idleStrand (c.str j))) c
  { c1 with
    ctx := some { launch := 0, task := 0, tenant := 0, created := now }
    owner := 0
    killed := none
    mark := none
    evicted := []
    starting := false }

/-- The state with an instruction of nbits bits w where the next step fetches. -/
def placeWord (s : State) (nbits w : Nat) : State :=
  let v := w % 2 ^ nbits
  let k := placeKind (BitVec.ofNat 32 v)
  let s1 := s.setCrew 0 (placeCrew (s.crew 0) k s.cycle)
  let s2 := s1.setCu 0 { s1.cu 0 with tlb := install (s1.cu 0).tlb (placeTlb (s1.cuCycle 0)) }
  { s2 with
    cur := (0, k)
    mem := memWrite s2.mem placeFrame (leBytes 8 v)
    frames := sputD false s2.frames (placeFrame / 4096) false
    agenda := [] }

end Sys2Proof.Machine
end

