-- ==== Sys2Proof/Machine/Step.lean ====
section
/-! DEFINITION. One step of the device, and the state with an instruction where the next step fetches it. -/
namespace Sys2Proof.Machine

/-- One step: the next thing that happens (Turn.lean). -/
def step (s : State) : Host.Outcome State Fault Refusal := takeStep s

/-- The state in which the next step fetches and runs the instruction whose bits are w (Place.lean; assumption log
44). -/
def State.withFetchWord (s : State) (nbits w : Nat) : State := placeWord s nbits w

end Sys2Proof.Machine
end

