-- ==== Sys2Proof/Laws/PerInstr.lean ====
section
/-! SUPPORT. Statements made of every instruction as syntax: decoding what the encoder writes gives the instruction
back. -/
namespace Sys2Proof.Laws

/-! ## Fields of words -/

theorem extract_hi {a b : Nat} (x : BitVec a) (y : BitVec b) (lo n : Nat) (h : b ≤ lo) :
    (x ++ y).extractLsb' lo n = x.extractLsb' (lo - b) n := by
  apply BitVec.eq_of_getLsbD_eq
  intro i hi
  simp only [BitVec.getLsbD_extractLsb', BitVec.getLsbD_append]
  have : ¬ lo + i < b := by omega
  simp [hi, this, show lo + i - b = lo - b + i by omega]

theorem extract_lo {a b : Nat} (x : BitVec a) (y : BitVec b) (lo n : Nat) (h : lo + n ≤ b) :
    (x ++ y).extractLsb' lo n = y.extractLsb' lo n := by
  apply BitVec.eq_of_getLsbD_eq
  intro i hi
  simp only [BitVec.getLsbD_extractLsb', BitVec.getLsbD_append]
  have : lo + i < b := by omega
  simp [hi, this]

theorem extract_all {a : Nat} (x : BitVec a) : x.extractLsb' 0 a = x := by simp

/-- Four little-endian bytes make their word again. -/
theorem wordOfBytes_leBytes (w : W32) :
    wordOfBytes (BitVec.ofNat 8 w.toNat) (BitVec.ofNat 8 (w.toNat / 256)) (BitVec.ofNat 8 (w.toNat / 256 / 256))
      (BitVec.ofNat 8 (w.toNat / 256 / 256 / 256)) = w := by
  apply BitVec.eq_of_toNat_eq
  have := w.isLt
  simp only [wordOfBytes, BitVec.toNat_append, BitVec.toNat_ofNat]
  rw [← Nat.shiftLeft_add_eq_or_of_lt (by omega), ← Nat.shiftLeft_add_eq_or_of_lt (by omega),
    ← Nat.shiftLeft_add_eq_or_of_lt (by omega)]
  simp only [Nat.shiftLeft_eq]
  omega

/-- The bytes of a word. -/
def wordBytes (w : W32) : List Byte := leBytes 4 w.toNat

theorem wordBytes_eq (w : W32) (rest : List Byte) :
    wordBytes w ++ rest = BitVec.ofNat 8 w.toNat :: BitVec.ofNat 8 (w.toNat / 256) ::
      BitVec.ofNat 8 (w.toNat / 256 / 256) :: BitVec.ofNat 8 (w.toNat / 256 / 256 / 256) :: rest := rfl

/-- A 32-bit instruction decodes from its bytes as from its word. -/
theorem decodeBytes_one (w : W32) (i : Instr) (rest : List Byte) (hl : isLong w = false)
    (h : decodeFields w 0#32 = .ok i) (hw : i.wf = true) : decodeBytes (wordBytes w ++ rest) = .ok (i, rest) := by
  rw [wordBytes_eq]
  simp only [decodeBytes, wordOfBytes_leBytes, hl, decode, h, hw]
  rfl

/-- A 64-bit instruction decodes from its bytes as from its words. -/
theorem decodeBytes_two (w v : W32) (i : Instr) (rest : List Byte) (hl : isLong w = true)
    (h : decodeFields w v = .ok i) (hw : i.wf = true) :
    decodeBytes (wordBytes w ++ (wordBytes v ++ rest)) = .ok (i, rest) := by
  rw [wordBytes_eq, wordBytes_eq]
  simp only [decodeBytes, wordOfBytes_leBytes, hl, decode, h, hw]
  rfl

theorem eng1_wait (e : Eng) (x : BitVec 21) : fld (encEng1 e x) 29 3 = e.wait := by
  unfold fld encEng1
  simp (disch := decide) only [extract_hi, extract_lo, extract_all, Nat.reduceSub]

theorem eng1_post (e : Eng) (x : BitVec 21) : fld (encEng1 e x) 26 3 = e.post := by
  unfold fld encEng1
  simp (disch := decide) only [extract_hi, extract_lo, extract_all, Nat.reduceSub]

theorem eng1_noknead (e : Eng) (x : BitVec 21) : fld (encEng1 e x) 25 1 = e.noknead := by
  unfold fld encEng1
  simp (disch := decide) only [extract_hi, extract_lo, extract_all, Nat.reduceSub]

theorem eng1_cls (e : Eng) (x : BitVec 21) : fld (encEng1 e x) 21 4 = e.cls := by
  unfold fld encEng1
  simp (disch := decide) only [extract_hi, extract_lo, extract_all, Nat.reduceSub]

theorem eng1_low (e : Eng) (x : BitVec 21) (lo n : Nat) (h : lo + n ≤ 21) :
    fld (encEng1 e x) lo n = x.extractLsb' lo n := extract_lo _ x lo n h

/-! ### The fields of each format -/

theorem ifZero_ok {n : Nat} {z : BitVec n} (i : Instr) (h : z = 0#n) : ifZero z i = .ok i := if_pos h

theorem sys_major (p : BitVec 4) (fn : BitVec 6) (x : BitVec 16) : fld (encSys p fn x) 26 6 = 0#6 := by
  unfold encSys
  simp (disch := decide) only [fld, extract_hi, extract_lo, extract_all, Nat.reduceSub]

theorem sys_p (p : BitVec 4) (fn : BitVec 6) (x : BitVec 16) : fld (encSys p fn x) 22 4 = p := by
  unfold encSys
  simp (disch := decide) only [fld, extract_hi, extract_lo, extract_all, Nat.reduceSub]

theorem sys_fn (p : BitVec 4) (fn : BitVec 6) (x : BitVec 16) : fld (encSys p fn x) 16 6 = fn := by
  unfold encSys
  simp (disch := decide) only [fld, extract_hi, extract_lo, extract_all, Nat.reduceSub]

theorem sys_x (p : BitVec 4) (fn : BitVec 6) (x : BitVec 16) : fld (encSys p fn x) 0 16 = x := by
  unfold encSys
  simp (disch := decide) only [fld, extract_hi, extract_lo, extract_all, Nat.reduceSub]

theorem sys_low (p : BitVec 4) (fn : BitVec 6) (x : BitVec 16) (lo n : Nat) (h : lo + n ≤ 16) :
    fld (encSys p fn x) lo n = x.extractLsb' lo n := extract_lo _ x lo n h

theorem alu_major (p : BitVec 4) (sd sa sb : BitVec 5) (fn : BitVec 7) : fld (encAlu p sd sa sb fn) 26 6 = 1#6 := by
  unfold encAlu
  simp (disch := decide) only [fld, extract_hi, extract_lo, extract_all, Nat.reduceSub]

theorem alu_p (p : BitVec 4) (sd sa sb : BitVec 5) (fn : BitVec 7) : fld (encAlu p sd sa sb fn) 22 4 = p := by
  unfold encAlu
  simp (disch := decide) only [fld, extract_hi, extract_lo, extract_all, Nat.reduceSub]

theorem alu_sd (p : BitVec 4) (sd sa sb : BitVec 5) (fn : BitVec 7) : fld (encAlu p sd sa sb fn) 17 5 = sd := by
  unfold encAlu
  simp (disch := decide) only [fld, extract_hi, extract_lo, extract_all, Nat.reduceSub]

theorem alu_sa (p : BitVec 4) (sd sa sb : BitVec 5) (fn : BitVec 7) : fld (encAlu p sd sa sb fn) 12 5 = sa := by
  unfold encAlu
  simp (disch := decide) only [fld, extract_hi, extract_lo, extract_all, Nat.reduceSub]

theorem alu_sb (p : BitVec 4) (sd sa sb : BitVec 5) (fn : BitVec 7) : fld (encAlu p sd sa sb fn) 7 5 = sb := by
  unfold encAlu
  simp (disch := decide) only [fld, extract_hi, extract_lo, extract_all, Nat.reduceSub]

theorem alu_fn (p : BitVec 4) (sd sa sb : BitVec 5) (fn : BitVec 7) : fld (encAlu p sd sa sb fn) 0 7 = fn := by
  unfold encAlu
  simp (disch := decide) only [fld, extract_hi, extract_lo, extract_all, Nat.reduceSub]

theorem alu_long (p : BitVec 4) (sd sa sb : BitVec 5) (fn : BitVec 7) : isLong (encAlu p sd sa sb fn) = false := by
  simp [isLong, majorOf, alu_major]

theorem alu_decode (p : BitVec 4) (sd sa sb : BitVec 5) (fn : BitVec 7) (w : W32) :
    decodeFields (encAlu p sd sa sb fn) w = decodeAlu (encAlu p sd sa sb fn) := by
  simp [decodeFields, majorOf, alu_major]

theorem imm_major (m : BitVec 6) (a b : BitVec 5) (x : BitVec 16) : fld (encImm m a b x) 26 6 = m := by
  unfold encImm
  simp (disch := decide) only [fld, extract_hi, extract_lo, extract_all, Nat.reduceSub]

theorem imm_a (m : BitVec 6) (a b : BitVec 5) (x : BitVec 16) : fld (encImm m a b x) 21 5 = a := by
  unfold encImm
  simp (disch := decide) only [fld, extract_hi, extract_lo, extract_all, Nat.reduceSub]

theorem imm_b (m : BitVec 6) (a b : BitVec 5) (x : BitVec 16) : fld (encImm m a b x) 16 5 = b := by
  unfold encImm
  simp (disch := decide) only [fld, extract_hi, extract_lo, extract_all, Nat.reduceSub]

theorem imm_x (m : BitVec 6) (a b : BitVec 5) (x : BitVec 16) : fld (encImm m a b x) 0 16 = x := by
  unfold encImm
  simp (disch := decide) only [fld, extract_hi, extract_lo, extract_all, Nat.reduceSub]

theorem imm_low (m : BitVec 6) (a b : BitVec 5) (x : BitVec 16) (lo n : Nat) (h : lo + n ≤ 16) :
    fld (encImm m a b x) lo n = x.extractLsb' lo n := extract_lo _ x lo n h

theorem pred_major (p : BitVec 4) (pd pa pb fn : BitVec 3) : fld (encPred p pd pa pb fn) 26 6 = 0x0A#6 := by
  unfold encPred
  simp (disch := decide) only [fld, extract_hi, extract_lo, extract_all, Nat.reduceSub]

theorem pred_p (p : BitVec 4) (pd pa pb fn : BitVec 3) : fld (encPred p pd pa pb fn) 22 4 = p := by
  unfold encPred
  simp (disch := decide) only [fld, extract_hi, extract_lo, extract_all, Nat.reduceSub]

theorem pred_pd (p : BitVec 4) (pd pa pb fn : BitVec 3) : fld (encPred p pd pa pb fn) 19 3 = pd := by
  unfold encPred
  simp (disch := decide) only [fld, extract_hi, extract_lo, extract_all, Nat.reduceSub]

theorem pred_pa (p : BitVec 4) (pd pa pb fn : BitVec 3) : fld (encPred p pd pa pb fn) 16 3 = pa := by
  unfold encPred
  simp (disch := decide) only [fld, extract_hi, extract_lo, extract_all, Nat.reduceSub]

theorem pred_pb (p : BitVec 4) (pd pa pb fn : BitVec 3) : fld (encPred p pd pa pb fn) 13 3 = pb := by
  unfold encPred
  simp (disch := decide) only [fld, extract_hi, extract_lo, extract_all, Nat.reduceSub]

theorem pred_fn (p : BitVec 4) (pd pa pb fn : BitVec 3) : fld (encPred p pd pa pb fn) 10 3 = fn := by
  unfold encPred
  simp (disch := decide) only [fld, extract_hi, extract_lo, extract_all, Nat.reduceSub]

theorem pred_z (p : BitVec 4) (pd pa pb fn : BitVec 3) : fld (encPred p pd pa pb fn) 0 10 = 0#10 := by
  unfold encPred
  simp (disch := decide) only [fld, extract_hi, extract_lo, extract_all, Nat.reduceSub]

theorem ptr_major (p : BitVec 4) (sd sa sb : BitVec 5) (fn : BitVec 3) (sid : BitVec 4) : fld (encPtr p sd sa sb fn sid) 26 6 = 0x0B#6 := by
  unfold encPtr
  simp (disch := decide) only [fld, extract_hi, extract_lo, extract_all, Nat.reduceSub]

theorem ptr_p (p : BitVec 4) (sd sa sb : BitVec 5) (fn : BitVec 3) (sid : BitVec 4) : fld (encPtr p sd sa sb fn sid) 22 4 = p := by
  unfold encPtr
  simp (disch := decide) only [fld, extract_hi, extract_lo, extract_all, Nat.reduceSub]

theorem ptr_sd (p : BitVec 4) (sd sa sb : BitVec 5) (fn : BitVec 3) (sid : BitVec 4) : fld (encPtr p sd sa sb fn sid) 17 5 = sd := by
  unfold encPtr
  simp (disch := decide) only [fld, extract_hi, extract_lo, extract_all, Nat.reduceSub]

theorem ptr_sa (p : BitVec 4) (sd sa sb : BitVec 5) (fn : BitVec 3) (sid : BitVec 4) : fld (encPtr p sd sa sb fn sid) 12 5 = sa := by
  unfold encPtr
  simp (disch := decide) only [fld, extract_hi, extract_lo, extract_all, Nat.reduceSub]

theorem ptr_sb (p : BitVec 4) (sd sa sb : BitVec 5) (fn : BitVec 3) (sid : BitVec 4) : fld (encPtr p sd sa sb fn sid) 7 5 = sb := by
  unfold encPtr
  simp (disch := decide) only [fld, extract_hi, extract_lo, extract_all, Nat.reduceSub]

theorem ptr_fn (p : BitVec 4) (sd sa sb : BitVec 5) (fn : BitVec 3) (sid : BitVec 4) : fld (encPtr p sd sa sb fn sid) 4 3 = fn := by
  unfold encPtr
  simp (disch := decide) only [fld, extract_hi, extract_lo, extract_all, Nat.reduceSub]

theorem ptr_sid (p : BitVec 4) (sd sa sb : BitVec 5) (fn : BitVec 3) (sid : BitVec 4) : fld (encPtr p sd sa sb fn sid) 0 4 = sid := by
  unfold encPtr
  simp (disch := decide) only [fld, extract_hi, extract_lo, extract_all, Nat.reduceSub]

/-- Word 0 of the V group. -/
def wordV (op : BitVec 8) (e : Eng) (v : VFields) : W32 := 0x28#6 ++ e.p ++ op ++ v.dst ++ v.f ++ v.e
/-- Word 1 of the V group. -/
def wordV1 (e : Eng) (v : VFields) : W32 := encEng1 e (v.src1 ++ v.x ++ v.ty)

theorem wordV_major (op : BitVec 8) (e : Eng) (v : VFields) : fld (wordV op e v) 26 6 = 0x28#6 := by
  unfold wordV
  simp (disch := decide) only [fld, extract_hi, extract_lo, extract_all, Nat.reduceSub]

theorem wordV_op (op : BitVec 8) (e : Eng) (v : VFields) : fld (wordV op e v) 14 8 = op := by
  unfold wordV
  simp (disch := decide) only [fld, extract_hi, extract_lo, extract_all, Nat.reduceSub]

theorem wordV_p (op : BitVec 8) (e : Eng) (v : VFields) : fld (wordV op e v) 22 4 = e.p := by
  unfold wordV
  simp (disch := decide) only [fld, extract_hi, extract_lo, extract_all, Nat.reduceSub]

theorem wordV_eng (op : BitVec 8) (e : Eng) (v : VFields) : engOf (wordV op e v) (wordV1 e v) = e := by
  simp only [engOf, wordV_p, wordV1, eng1_wait, eng1_post, eng1_noknead, eng1_cls]

theorem wordV_of (op : BitVec 8) (e : Eng) (v : VFields) : vOf (wordV op e v) (wordV1 e v) = v := by
  simp (disch := decide) only [vOf, wordV1, eng1_low]
  unfold wordV
  simp (disch := decide) only [fld, extract_hi, extract_lo, extract_all, Nat.reduceSub]

theorem wordV_long (op : BitVec 8) (e : Eng) (v : VFields) : isLong (wordV op e v) = true := by simp [isLong, majorOf, wordV_major]

theorem wordV_decode (op : BitVec 8) (e : Eng) (v : VFields) (w : W32) : decodeFields (wordV op e v) w = decodeVec (wordV op e v) w := by
  simp [decodeFields, majorOf, wordV_major]

/-- Word 0 of the VM group. -/
def wordVM (op : BitVec 8) (e : Eng) (v : VmFields) : W32 := 0x28#6 ++ e.p ++ op ++ v.spec ++ v.flag ++ 0#1
/-- Word 1 of the VM group. -/
def wordVM1 (e : Eng) (v : VmFields) : W32 := encEng1 e (v.sa ++ v.z ++ v.off)

theorem wordVM_major (op : BitVec 8) (e : Eng) (v : VmFields) : fld (wordVM op e v) 26 6 = 0x28#6 := by
  unfold wordVM
  simp (disch := decide) only [fld, extract_hi, extract_lo, extract_all, Nat.reduceSub]

theorem wordVM_op (op : BitVec 8) (e : Eng) (v : VmFields) : fld (wordVM op e v) 14 8 = op := by
  unfold wordVM
  simp (disch := decide) only [fld, extract_hi, extract_lo, extract_all, Nat.reduceSub]

theorem wordVM_p (op : BitVec 8) (e : Eng) (v : VmFields) : fld (wordVM op e v) 22 4 = e.p := by
  unfold wordVM
  simp (disch := decide) only [fld, extract_hi, extract_lo, extract_all, Nat.reduceSub]

theorem wordVM_z (op : BitVec 8) (e : Eng) (v : VmFields) : fld (wordVM op e v) 0 1 = 0#1 := by
  unfold wordVM
  simp (disch := decide) only [fld, extract_hi, extract_lo, extract_all, Nat.reduceSub]

theorem wordVM_eng (op : BitVec 8) (e : Eng) (v : VmFields) : engOf (wordVM op e v) (wordVM1 e v) = e := by
  simp only [engOf, wordVM_p, wordVM1, eng1_wait, eng1_post, eng1_noknead, eng1_cls]

theorem wordVM_of (op : BitVec 8) (e : Eng) (v : VmFields) : vmOf (wordVM op e v) (wordVM1 e v) = v := by
  simp (disch := decide) only [vmOf, wordVM1, eng1_low]
  unfold wordVM
  simp (disch := decide) only [fld, extract_hi, extract_lo, extract_all, Nat.reduceSub]

theorem wordVM_long (op : BitVec 8) (e : Eng) (v : VmFields) : isLong (wordVM op e v) = true := by simp [isLong, majorOf, wordVM_major]

theorem wordVM_decode (op : BitVec 8) (e : Eng) (v : VmFields) (w : W32) : decodeFields (wordVM op e v) w = decodeVec (wordVM op e v) w := by
  simp [decodeFields, majorOf, wordVM_major]

/-- Word 0 of the X group. -/
def wordX (op : BitVec 8) (e : Eng) (x : XFields) : W32 := 0x2A#6 ++ e.p ++ op ++ x.ta ++ x.tb ++ x.e ++ x.f ++ 0#2
/-- Word 1 of the X group. -/
def wordX1 (e : Eng) (x : XFields) : W32 := encEng1 e (x.sn ++ x.fmt ++ x.row ++ x.acc ++ x.sr ++ x.pd)

theorem wordX_major (op : BitVec 8) (e : Eng) (x : XFields) : fld (wordX op e x) 26 6 = 0x2A#6 := by
  unfold wordX
  simp (disch := decide) only [fld, extract_hi, extract_lo, extract_all, Nat.reduceSub]

theorem wordX_op (op : BitVec 8) (e : Eng) (x : XFields) : fld (wordX op e x) 14 8 = op := by
  unfold wordX
  simp (disch := decide) only [fld, extract_hi, extract_lo, extract_all, Nat.reduceSub]

theorem wordX_p (op : BitVec 8) (e : Eng) (x : XFields) : fld (wordX op e x) 22 4 = e.p := by
  unfold wordX
  simp (disch := decide) only [fld, extract_hi, extract_lo, extract_all, Nat.reduceSub]

theorem wordX_z (op : BitVec 8) (e : Eng) (x : XFields) : fld (wordX op e x) 0 2 = 0#2 := by
  unfold wordX
  simp (disch := decide) only [fld, extract_hi, extract_lo, extract_all, Nat.reduceSub]

theorem wordX_eng (op : BitVec 8) (e : Eng) (x : XFields) : engOf (wordX op e x) (wordX1 e x) = e := by
  simp only [engOf, wordX_p, wordX1, eng1_wait, eng1_post, eng1_noknead, eng1_cls]

theorem wordX_of (op : BitVec 8) (e : Eng) (x : XFields) : xOf (wordX op e x) (wordX1 e x) = x := by
  simp (disch := decide) only [xOf, wordX1, eng1_low]
  unfold wordX
  simp (disch := decide) only [fld, extract_hi, extract_lo, extract_all, Nat.reduceSub]

theorem wordX_long (op : BitVec 8) (e : Eng) (x : XFields) : isLong (wordX op e x) = true := by simp [isLong, majorOf, wordX_major]

theorem wordX_decode (op : BitVec 8) (e : Eng) (x : XFields) (w : W32) : decodeFields (wordX op e x) w = decodeMat (wordX op e x) w := by
  simp [decodeFields, majorOf, wordX_major]

/-- Word 0 of the CP group. -/
def wordCP (op : BitVec 8) (e : Eng) (c : CpFields) : W32 := 0x2B#6 ++ e.p ++ op ++ c.sn ++ c.sd ++ c.pd ++ 0#1
/-- Word 1 of the CP group. -/
def wordCP1 (e : Eng) (c : CpFields) : W32 := encEng1 e (c.tile ++ c.flag ++ c.zs ++ c.zd ++ 0#9)

theorem wordCP_major (op : BitVec 8) (e : Eng) (c : CpFields) : fld (wordCP op e c) 26 6 = 0x2B#6 := by
  unfold wordCP
  simp (disch := decide) only [fld, extract_hi, extract_lo, extract_all, Nat.reduceSub]

theorem wordCP_op (op : BitVec 8) (e : Eng) (c : CpFields) : fld (wordCP op e c) 14 8 = op := by
  unfold wordCP
  simp (disch := decide) only [fld, extract_hi, extract_lo, extract_all, Nat.reduceSub]

theorem wordCP_p (op : BitVec 8) (e : Eng) (c : CpFields) : fld (wordCP op e c) 22 4 = e.p := by
  unfold wordCP
  simp (disch := decide) only [fld, extract_hi, extract_lo, extract_all, Nat.reduceSub]

theorem wordCP_z (op : BitVec 8) (e : Eng) (c : CpFields) : fld (wordCP op e c) 0 1 = 0#1 := by
  unfold wordCP
  simp (disch := decide) only [fld, extract_hi, extract_lo, extract_all, Nat.reduceSub]

theorem wordCP_eng (op : BitVec 8) (e : Eng) (c : CpFields) : engOf (wordCP op e c) (wordCP1 e c) = e := by
  simp only [engOf, wordCP_p, wordCP1, eng1_wait, eng1_post, eng1_noknead, eng1_cls]

theorem wordCP_of (op : BitVec 8) (e : Eng) (c : CpFields) : cpOf (wordCP op e c) (wordCP1 e c) = c := by
  simp (disch := decide) only [cpOf, wordCP1, eng1_low]
  unfold wordCP
  simp (disch := decide) only [fld, extract_hi, extract_lo, extract_all, Nat.reduceSub]

theorem wordCP1_z (e : Eng) (c : CpFields) : fld (wordCP1 e c) 0 9 = 0#9 := by
  simp (disch := decide) only [wordCP1, eng1_low, extract_lo, extract_all]

theorem wordCP_rsv (op : BitVec 8) (e : Eng) (c : CpFields) : fld (wordCP op e c) 0 1 ++ fld (wordCP1 e c) 0 9 = 0#(1 + 9) := by
  rw [wordCP_z, wordCP1_z]
  rfl

theorem wordCP_long (op : BitVec 8) (e : Eng) (c : CpFields) : isLong (wordCP op e c) = true := by simp [isLong, majorOf, wordCP_major]

theorem wordCP_decode (op : BitVec 8) (e : Eng) (c : CpFields) (w : W32) : decodeFields (wordCP op e c) w = decodeCopy (wordCP op e c) w := by
  simp [decodeFields, majorOf, wordCP_major]

/-- Word 0 of the SY group. -/
def wordSY (op : BitVec 8) (e : Eng) (y : SyFields) : W32 := 0x2C#6 ++ e.p ++ op ++ y.sa ++ y.sb ++ y.pd ++ 0#1
/-- Word 1 of the SY group. -/
def wordSY1 (e : Eng) (y : SyFields) : W32 := encEng1 e (0#21)

theorem wordSY_major (op : BitVec 8) (e : Eng) (y : SyFields) : fld (wordSY op e y) 26 6 = 0x2C#6 := by
  unfold wordSY
  simp (disch := decide) only [fld, extract_hi, extract_lo, extract_all, Nat.reduceSub]

theorem wordSY_op (op : BitVec 8) (e : Eng) (y : SyFields) : fld (wordSY op e y) 14 8 = op := by
  unfold wordSY
  simp (disch := decide) only [fld, extract_hi, extract_lo, extract_all, Nat.reduceSub]

theorem wordSY_p (op : BitVec 8) (e : Eng) (y : SyFields) : fld (wordSY op e y) 22 4 = e.p := by
  unfold wordSY
  simp (disch := decide) only [fld, extract_hi, extract_lo, extract_all, Nat.reduceSub]

theorem wordSY_z (op : BitVec 8) (e : Eng) (y : SyFields) : fld (wordSY op e y) 0 1 = 0#1 := by
  unfold wordSY
  simp (disch := decide) only [fld, extract_hi, extract_lo, extract_all, Nat.reduceSub]

theorem wordSY_eng (op : BitVec 8) (e : Eng) (y : SyFields) : engOf (wordSY op e y) (wordSY1 e y) = e := by
  simp only [engOf, wordSY_p, wordSY1, eng1_wait, eng1_post, eng1_noknead, eng1_cls]

theorem wordSY_of (op : BitVec 8) (e : Eng) (y : SyFields) : syOf (wordSY op e y) = y := by
  simp (disch := decide) only [syOf, wordSY1, eng1_low]
  unfold wordSY
  simp (disch := decide) only [fld, extract_hi, extract_lo, extract_all, Nat.reduceSub]

theorem wordSY1_z (e : Eng) (y : SyFields) : fld (wordSY1 e y) 0 21 = 0#21 := by
  simp (disch := decide) only [wordSY1, eng1_low, extract_lo, extract_all]

theorem wordSY_rsv (op : BitVec 8) (e : Eng) (y : SyFields) : fld (wordSY op e y) 0 1 ++ fld (wordSY1 e y) 0 21 = 0#(1 + 21) := by
  rw [wordSY_z, wordSY1_z]
  rfl

theorem wordSY_long (op : BitVec 8) (e : Eng) (y : SyFields) : isLong (wordSY op e y) = true := by simp [isLong, majorOf, wordSY_major]

theorem wordSY_decode (op : BitVec 8) (e : Eng) (y : SyFields) (w : W32) : decodeFields (wordSY op e y) w = decodeSync (wordSY op e y) w := by
  simp [decodeFields, majorOf, wordSY_major]

/-- Word 0 of major 0x23. -/
def wordLong (p : BitVec 4) (sd sa si : BitVec 5) (size : BitVec 2) (sext : BitVec 1) (kind : BitVec 3) : W32 :=
  0x23#6 ++ p ++ sd ++ sa ++ si ++ size ++ sext ++ kind ++ 0#1
/-- Word 1 of major 0x23. -/
def wordLong1 (scope z : BitVec 3) (cls : BitVec 4) (x : BitVec 21) : W32 := scope ++ z ++ 0#1 ++ cls ++ x
/-- Word 0 of major 0x24. -/
def wordAmo (p : BitVec 4) (sd sa sb sc : BitVec 5) (size : BitVec 1) : W32 :=
  0x24#6 ++ p ++ sd ++ sa ++ sb ++ sc ++ size ++ 0#1
/-- Word 1 of major 0x24. -/
def wordAmo1 (fn : BitVec 5) (cls : BitVec 4) : W32 := fn ++ 0#2 ++ cls ++ 0#21

theorem wordLong_major (p : BitVec 4) (sd sa si : BitVec 5) (size : BitVec 2) (sext : BitVec 1) (kind : BitVec 3) : fld (wordLong p sd sa si size sext kind) 26 6 = 0x23#6 := by
  unfold wordLong
  simp (disch := decide) only [fld, extract_hi, extract_lo, extract_all, Nat.reduceSub]

theorem wordLong_p (p : BitVec 4) (sd sa si : BitVec 5) (size : BitVec 2) (sext : BitVec 1) (kind : BitVec 3) : fld (wordLong p sd sa si size sext kind) 22 4 = p := by
  unfold wordLong
  simp (disch := decide) only [fld, extract_hi, extract_lo, extract_all, Nat.reduceSub]

theorem wordLong_sd (p : BitVec 4) (sd sa si : BitVec 5) (size : BitVec 2) (sext : BitVec 1) (kind : BitVec 3) : fld (wordLong p sd sa si size sext kind) 17 5 = sd := by
  unfold wordLong
  simp (disch := decide) only [fld, extract_hi, extract_lo, extract_all, Nat.reduceSub]

theorem wordLong_sa (p : BitVec 4) (sd sa si : BitVec 5) (size : BitVec 2) (sext : BitVec 1) (kind : BitVec 3) : fld (wordLong p sd sa si size sext kind) 12 5 = sa := by
  unfold wordLong
  simp (disch := decide) only [fld, extract_hi, extract_lo, extract_all, Nat.reduceSub]

theorem wordLong_si (p : BitVec 4) (sd sa si : BitVec 5) (size : BitVec 2) (sext : BitVec 1) (kind : BitVec 3) : fld (wordLong p sd sa si size sext kind) 7 5 = si := by
  unfold wordLong
  simp (disch := decide) only [fld, extract_hi, extract_lo, extract_all, Nat.reduceSub]

theorem wordLong_size (p : BitVec 4) (sd sa si : BitVec 5) (size : BitVec 2) (sext : BitVec 1) (kind : BitVec 3) : fld (wordLong p sd sa si size sext kind) 5 2 = size := by
  unfold wordLong
  simp (disch := decide) only [fld, extract_hi, extract_lo, extract_all, Nat.reduceSub]

theorem wordLong_sext (p : BitVec 4) (sd sa si : BitVec 5) (size : BitVec 2) (sext : BitVec 1) (kind : BitVec 3) : fld (wordLong p sd sa si size sext kind) 4 1 = sext := by
  unfold wordLong
  simp (disch := decide) only [fld, extract_hi, extract_lo, extract_all, Nat.reduceSub]

theorem wordLong_kind (p : BitVec 4) (sd sa si : BitVec 5) (size : BitVec 2) (sext : BitVec 1) (kind : BitVec 3) : fld (wordLong p sd sa si size sext kind) 1 3 = kind := by
  unfold wordLong
  simp (disch := decide) only [fld, extract_hi, extract_lo, extract_all, Nat.reduceSub]

theorem wordLong_z (p : BitVec 4) (sd sa si : BitVec 5) (size : BitVec 2) (sext : BitVec 1) (kind : BitVec 3) : fld (wordLong p sd sa si size sext kind) 0 1 = 0#1 := by
  unfold wordLong
  simp (disch := decide) only [fld, extract_hi, extract_lo, extract_all, Nat.reduceSub]

theorem wordLong1_scope (scope z : BitVec 3) (cls : BitVec 4) (x : BitVec 21) : fld (wordLong1 scope z cls x) 29 3 = scope := by
  unfold wordLong1
  simp (disch := decide) only [fld, extract_hi, extract_lo, extract_all, Nat.reduceSub]

theorem wordLong1_z (scope z : BitVec 3) (cls : BitVec 4) (x : BitVec 21) : fld (wordLong1 scope z cls x) 26 3 = z := by
  unfold wordLong1
  simp (disch := decide) only [fld, extract_hi, extract_lo, extract_all, Nat.reduceSub]

theorem wordLong1_rsv (scope z : BitVec 3) (cls : BitVec 4) (x : BitVec 21) : fld (wordLong1 scope z cls x) 25 1 = 0#1 := by
  unfold wordLong1
  simp (disch := decide) only [fld, extract_hi, extract_lo, extract_all, Nat.reduceSub]

theorem wordLong1_cls (scope z : BitVec 3) (cls : BitVec 4) (x : BitVec 21) : fld (wordLong1 scope z cls x) 21 4 = cls := by
  unfold wordLong1
  simp (disch := decide) only [fld, extract_hi, extract_lo, extract_all, Nat.reduceSub]

theorem wordLong1_x (scope z : BitVec 3) (cls : BitVec 4) (x : BitVec 21) : fld (wordLong1 scope z cls x) 0 21 = x := by
  unfold wordLong1
  simp (disch := decide) only [fld, extract_hi, extract_lo, extract_all, Nat.reduceSub]

theorem wordLong1_low (scope z : BitVec 3) (cls : BitVec 4) (x : BitVec 21) (lo n : Nat) (h : lo + n ≤ 21) :
    fld (wordLong1 scope z cls x) lo n = x.extractLsb' lo n := extract_lo _ x lo n h

theorem wordAmo_major (p : BitVec 4) (sd sa sb sc : BitVec 5) (size : BitVec 1) : fld (wordAmo p sd sa sb sc size) 26 6 = 0x24#6 := by
  unfold wordAmo
  simp (disch := decide) only [fld, extract_hi, extract_lo, extract_all, Nat.reduceSub]

theorem wordAmo_p (p : BitVec 4) (sd sa sb sc : BitVec 5) (size : BitVec 1) : fld (wordAmo p sd sa sb sc size) 22 4 = p := by
  unfold wordAmo
  simp (disch := decide) only [fld, extract_hi, extract_lo, extract_all, Nat.reduceSub]

theorem wordAmo_sd (p : BitVec 4) (sd sa sb sc : BitVec 5) (size : BitVec 1) : fld (wordAmo p sd sa sb sc size) 17 5 = sd := by
  unfold wordAmo
  simp (disch := decide) only [fld, extract_hi, extract_lo, extract_all, Nat.reduceSub]

theorem wordAmo_sa (p : BitVec 4) (sd sa sb sc : BitVec 5) (size : BitVec 1) : fld (wordAmo p sd sa sb sc size) 12 5 = sa := by
  unfold wordAmo
  simp (disch := decide) only [fld, extract_hi, extract_lo, extract_all, Nat.reduceSub]

theorem wordAmo_sb (p : BitVec 4) (sd sa sb sc : BitVec 5) (size : BitVec 1) : fld (wordAmo p sd sa sb sc size) 7 5 = sb := by
  unfold wordAmo
  simp (disch := decide) only [fld, extract_hi, extract_lo, extract_all, Nat.reduceSub]

theorem wordAmo_sc (p : BitVec 4) (sd sa sb sc : BitVec 5) (size : BitVec 1) : fld (wordAmo p sd sa sb sc size) 2 5 = sc := by
  unfold wordAmo
  simp (disch := decide) only [fld, extract_hi, extract_lo, extract_all, Nat.reduceSub]

theorem wordAmo_size (p : BitVec 4) (sd sa sb sc : BitVec 5) (size : BitVec 1) : fld (wordAmo p sd sa sb sc size) 1 1 = size := by
  unfold wordAmo
  simp (disch := decide) only [fld, extract_hi, extract_lo, extract_all, Nat.reduceSub]

theorem wordAmo_z (p : BitVec 4) (sd sa sb sc : BitVec 5) (size : BitVec 1) : fld (wordAmo p sd sa sb sc size) 0 1 = 0#1 := by
  unfold wordAmo
  simp (disch := decide) only [fld, extract_hi, extract_lo, extract_all, Nat.reduceSub]

theorem wordAmo1_fn (fn : BitVec 5) (cls : BitVec 4) : fld (wordAmo1 fn cls) 27 5 = fn := by
  unfold wordAmo1
  simp (disch := decide) only [fld, extract_hi, extract_lo, extract_all, Nat.reduceSub]

theorem wordAmo1_rsv (fn : BitVec 5) (cls : BitVec 4) : fld (wordAmo1 fn cls) 25 2 = 0#2 := by
  unfold wordAmo1
  simp (disch := decide) only [fld, extract_hi, extract_lo, extract_all, Nat.reduceSub]

theorem wordAmo1_cls (fn : BitVec 5) (cls : BitVec 4) : fld (wordAmo1 fn cls) 21 4 = cls := by
  unfold wordAmo1
  simp (disch := decide) only [fld, extract_hi, extract_lo, extract_all, Nat.reduceSub]

theorem wordAmo1_z (fn : BitVec 5) (cls : BitVec 4) : fld (wordAmo1 fn cls) 0 21 = 0#21 := by
  unfold wordAmo1
  simp (disch := decide) only [fld, extract_hi, extract_lo, extract_all, Nat.reduceSub]

theorem wordAmo_long (p : BitVec 4) (sd sa sb sc : BitVec 5) (size : BitVec 1) : isLong (wordAmo p sd sa sb sc size) = true := by
  simp [isLong, majorOf, wordAmo_major]

theorem wordAmo_decode (p : BitVec 4) (sd sa sb sc : BitVec 5) (size : BitVec 1) (w : W32) :
    decodeFields (wordAmo p sd sa sb sc size) w = decodeAmo (wordAmo p sd sa sb sc size) w := by
  simp [decodeFields, majorOf, wordAmo_major]

theorem wordAmo_rsv (p : BitVec 4) (sd sa sb sc : BitVec 5) (size : BitVec 1) (fn : BitVec 5) (cls : BitVec 4) :
    fld (wordAmo p sd sa sb sc size) 0 1 ++ fld (wordAmo1 fn cls) 25 2 ++ fld (wordAmo1 fn cls) 0 21 = 0#24 := by
  rw [wordAmo_z, wordAmo1_rsv, wordAmo1_z]
  rfl

theorem wordAmo_rsv2 (p : BitVec 4) (sd sa sb : BitVec 5) (size : BitVec 1) (fn : BitVec 5) (cls : BitVec 4) :
    fld (wordAmo p sd sa sb 0#5 size) 0 1 ++ fld (wordAmo1 fn cls) 25 2 ++ fld (wordAmo1 fn cls) 0 21 ++
      fld (wordAmo p sd sa sb 0#5 size) 2 5 = 0#29 := by
  rw [wordAmo_rsv, wordAmo_sc]
  rfl

theorem wordAmo_rsv3 (p : BitVec 4) (sd sa sb : BitVec 5) (fn : BitVec 5) (cls : BitVec 4) :
    fld (wordAmo p sd sa sb 0#5 0#1) 0 1 ++ fld (wordAmo1 fn cls) 25 2 ++ fld (wordAmo1 fn cls) 0 21 ++
      fld (wordAmo p sd sa sb 0#5 0#1) 2 5 ++ fld (wordAmo p sd sa sb 0#5 0#1) 1 1 = 0#30 := by
  rw [wordAmo_rsv2, wordAmo_size]
  rfl

namespace RoundTrip

/-- Decoding the bytes of a well-formed instruction gives it back, with the bytes that follow (spec 09 R139 to R161). -/
def Statement (i : Instr) : Prop :=
  i.isWord = true → i.wf = true → ∀ rest, decodeBytes ((encode i).flatMap wordBytes ++ rest) = .ok (i, rest)

theorem one (i : Instr) (w : W32) (he : encode i = [w]) (hl : isLong w = false) (h : decodeFields w 0#32 = .ok i) :
    Statement i := fun _ hw rest => by
  rw [he]
  simpa using decodeBytes_one w i rest hl h hw

theorem two (i : Instr) (w v : W32) (he : encode i = [w, v]) (hl : isLong w = true) (h : decodeFields w v = .ok i) :
    Statement i := fun _ hw rest => by
  rw [he]
  simpa using decodeBytes_two w v i rest hl h hw

theorem event (i : Instr) (he : encode i = []) : Statement i := fun h _ _ => by
  simp [Instr.isWord, he] at h

theorem exit (p : BitVec 4) : Statement (.exit p) := by
  refine one _ _ rfl (by simp [isLong, majorOf, sys_major]) ?_
  simp (disch := decide) only [decodeFields, majorOf, sys_major, decodeSys, sys_fn, sys_p, sys_low, extract_hi, extract_lo, extract_all, Nat.reduceSub]
  rfl

theorem yield (p : BitVec 4) : Statement (.yield p) := by
  refine one _ _ rfl (by simp [isLong, majorOf, sys_major]) ?_
  simp (disch := decide) only [decodeFields, majorOf, sys_major, decodeSys, sys_fn, sys_p, sys_low, extract_hi, extract_lo, extract_all, Nat.reduceSub]
  rfl

theorem yieldSafe (p : BitVec 4) : Statement (.yieldSafe p) := by
  refine one _ _ rfl (by simp [isLong, majorOf, sys_major]) ?_
  simp (disch := decide) only [decodeFields, majorOf, sys_major, decodeSys, sys_fn, sys_p, sys_low, extract_hi, extract_lo, extract_all, Nat.reduceSub]
  rfl

theorem tret (p : BitVec 4) : Statement (.tret p) := by
  refine one _ _ rfl (by simp [isLong, majorOf, sys_major]) ?_
  simp (disch := decide) only [decodeFields, majorOf, sys_major, decodeSys, sys_fn, sys_p, sys_low, extract_hi, extract_lo, extract_all, Nat.reduceSub]
  rfl

theorem trap (p : BitVec 4) (imm : BitVec 16) : Statement (.trap p imm) := by
  refine one _ _ rfl (by simp [isLong, majorOf, sys_major]) ?_
  simp (disch := decide) only [decodeFields, majorOf, sys_major, decodeSys, sys_fn, sys_p, sys_low, extract_hi, extract_lo, extract_all, Nat.reduceSub]
  rfl

theorem bkpt (p : BitVec 4) (imm : BitVec 16) : Statement (.bkpt p imm) := by
  refine one _ _ rfl (by simp [isLong, majorOf, sys_major]) ?_
  simp (disch := decide) only [decodeFields, majorOf, sys_major, decodeSys, sys_fn, sys_p, sys_low, extract_hi, extract_lo, extract_all, Nat.reduceSub]
  rfl

theorem acctflush (p : BitVec 4) : Statement (.acctflush p) := by
  refine one _ _ rfl (by simp [isLong, majorOf, sys_major]) ?_
  simp (disch := decide) only [decodeFields, majorOf, sys_major, decodeSys, sys_fn, sys_p, sys_low, extract_hi, extract_lo, extract_all, Nat.reduceSub]
  rfl

theorem fence (p : BitVec 4) (scope : BitVec 3) (mask : BitVec 16) : Statement (.fence p scope mask) := fun hw hf => by
  have h : scope.toNat ≤ 5 := by simpa [Instr.wf] using hf
  have cases : scope = 0#3 ∨ scope = 1#3 ∨ scope = 2#3 ∨ scope = 3#3 ∨ scope = 4#3 ∨ scope = 5#3 := by
    simp only [← BitVec.toNat_inj, BitVec.toNat_ofNat]
    omega
  refine one _ _ rfl (by simp [isLong, majorOf, sys_major]) ?_ hw hf
  rcases cases with rfl | rfl | rfl | rfl | rfl | rfl <;>
    (simp only [decodeFields, majorOf, sys_major, decodeSys, sys_fn, sys_p, sys_x]; rfl)

theorem mfsr (p : BitVec 4) (sd : BitVec 5) (num : BitVec 11) : Statement (.mfsr p sd num) := by
  refine one _ _ rfl (by simp [isLong, majorOf, sys_major]) ?_
  simp (disch := decide) only [decodeFields, majorOf, sys_major, decodeSys, sys_fn, sys_p, sys_low, extract_hi, extract_lo, extract_all, Nat.reduceSub]
  rfl

theorem mtsr (p : BitVec 4) (sa : BitVec 5) (num : BitVec 11) : Statement (.mtsr p sa num) := by
  refine one _ _ rfl (by simp [isLong, majorOf, sys_major]) ?_
  simp (disch := decide) only [decodeFields, majorOf, sys_major, decodeSys, sys_fn, sys_p, sys_low, extract_hi, extract_lo, extract_all, Nat.reduceSub]
  rfl

theorem waitt (p : BitVec 4) (sa : BitVec 5) : Statement (.waitt p sa) := by
  refine one _ _ rfl (by simp [isLong, majorOf, sys_major]) ?_
  simp (disch := decide) only [decodeFields, majorOf, sys_major, decodeSys, sys_fn, sys_p, sys_low, extract_hi, extract_lo, extract_all, Nat.reduceSub]
  rfl

theorem tkpush (p : BitVec 4) (mask : BitVec 3) : Statement (.tkpush p mask) := by
  refine one _ _ rfl (by simp [isLong, majorOf, sys_major]) ?_
  simp (disch := decide) only [decodeFields, majorOf, sys_major, decodeSys, sys_fn, sys_p, sys_low, extract_hi, extract_lo, extract_all, Nat.reduceSub]
  rfl

theorem tkpop (p : BitVec 4) (mask : BitVec 3) : Statement (.tkpop p mask) := by
  refine one _ _ rfl (by simp [isLong, majorOf, sys_major]) ?_
  simp (disch := decide) only [decodeFields, majorOf, sys_major, decodeSys, sys_fn, sys_p, sys_low, extract_hi, extract_lo, extract_all, Nat.reduceSub]
  rfl

theorem gsync (p : BitVec 4) (g : BitVec 8) : Statement (.gsync p g) := by
  refine one _ _ rfl (by simp [isLong, majorOf, sys_major]) ?_
  simp (disch := decide) only [decodeFields, majorOf, sys_major, decodeSys, sys_fn, sys_p, sys_low, extract_hi, extract_lo, extract_all, Nat.reduceSub]
  rfl

theorem qwr (p : BitVec 4) (sa : BitVec 5) (q : BitVec 3) (f : BitVec 1) : Statement (.qwr p sa q f) := by
  refine one _ _ rfl (by simp [isLong, majorOf, sys_major]) ?_
  simp (disch := decide) only [decodeFields, majorOf, sys_major, decodeSys, sys_fn, sys_p, sys_low, extract_hi, extract_lo, extract_all, Nat.reduceSub]
  rfl

theorem qrd (p : BitVec 4) (sd : BitVec 5) (q : BitVec 3) (e : BitVec 1) : Statement (.qrd p sd q e) := by
  refine one _ _ rfl (by simp [isLong, majorOf, sys_major]) ?_
  simp (disch := decide) only [decodeFields, majorOf, sys_major, decodeSys, sys_fn, sys_p, sys_low, extract_hi, extract_lo, extract_all, Nat.reduceSub]
  rfl

theorem add (p : BitVec 4) (sd sa sb : BitVec 5) : Statement (.add p sd sa sb) := by
  refine one _ _ rfl (alu_long ..) ?_
  rw [alu_decode, decodeAlu, alu_fn]
  exact congrArg Except.ok (congr (congr (congr (congrArg Instr.add (alu_p ..)) (alu_sd ..)) (alu_sa ..)) (alu_sb ..))

theorem sub (p : BitVec 4) (sd sa sb : BitVec 5) : Statement (.sub p sd sa sb) := by
  refine one _ _ rfl (alu_long ..) ?_
  rw [alu_decode, decodeAlu, alu_fn]
  exact congrArg Except.ok (congr (congr (congr (congrArg Instr.sub (alu_p ..)) (alu_sd ..)) (alu_sa ..)) (alu_sb ..))

theorem and (p : BitVec 4) (sd sa sb : BitVec 5) : Statement (.and p sd sa sb) := by
  refine one _ _ rfl (alu_long ..) ?_
  rw [alu_decode, decodeAlu, alu_fn]
  exact congrArg Except.ok (congr (congr (congr (congrArg Instr.and (alu_p ..)) (alu_sd ..)) (alu_sa ..)) (alu_sb ..))

theorem or (p : BitVec 4) (sd sa sb : BitVec 5) : Statement (.or p sd sa sb) := by
  refine one _ _ rfl (alu_long ..) ?_
  rw [alu_decode, decodeAlu, alu_fn]
  exact congrArg Except.ok (congr (congr (congr (congrArg Instr.or (alu_p ..)) (alu_sd ..)) (alu_sa ..)) (alu_sb ..))

theorem xor (p : BitVec 4) (sd sa sb : BitVec 5) : Statement (.xor p sd sa sb) := by
  refine one _ _ rfl (alu_long ..) ?_
  rw [alu_decode, decodeAlu, alu_fn]
  exact congrArg Except.ok (congr (congr (congr (congrArg Instr.xor (alu_p ..)) (alu_sd ..)) (alu_sa ..)) (alu_sb ..))

theorem sll (p : BitVec 4) (sd sa sb : BitVec 5) : Statement (.sll p sd sa sb) := by
  refine one _ _ rfl (alu_long ..) ?_
  rw [alu_decode, decodeAlu, alu_fn]
  exact congrArg Except.ok (congr (congr (congr (congrArg Instr.sll (alu_p ..)) (alu_sd ..)) (alu_sa ..)) (alu_sb ..))

theorem srl (p : BitVec 4) (sd sa sb : BitVec 5) : Statement (.srl p sd sa sb) := by
  refine one _ _ rfl (alu_long ..) ?_
  rw [alu_decode, decodeAlu, alu_fn]
  exact congrArg Except.ok (congr (congr (congr (congrArg Instr.srl (alu_p ..)) (alu_sd ..)) (alu_sa ..)) (alu_sb ..))

theorem sra (p : BitVec 4) (sd sa sb : BitVec 5) : Statement (.sra p sd sa sb) := by
  refine one _ _ rfl (alu_long ..) ?_
  rw [alu_decode, decodeAlu, alu_fn]
  exact congrArg Except.ok (congr (congr (congr (congrArg Instr.sra (alu_p ..)) (alu_sd ..)) (alu_sa ..)) (alu_sb ..))

theorem mul (p : BitVec 4) (sd sa sb : BitVec 5) : Statement (.mul p sd sa sb) := by
  refine one _ _ rfl (alu_long ..) ?_
  rw [alu_decode, decodeAlu, alu_fn]
  exact congrArg Except.ok (congr (congr (congr (congrArg Instr.mul (alu_p ..)) (alu_sd ..)) (alu_sa ..)) (alu_sb ..))

theorem mulh (p : BitVec 4) (sd sa sb : BitVec 5) : Statement (.mulh p sd sa sb) := by
  refine one _ _ rfl (alu_long ..) ?_
  rw [alu_decode, decodeAlu, alu_fn]
  exact congrArg Except.ok (congr (congr (congr (congrArg Instr.mulh (alu_p ..)) (alu_sd ..)) (alu_sa ..)) (alu_sb ..))

theorem mulhu (p : BitVec 4) (sd sa sb : BitVec 5) : Statement (.mulhu p sd sa sb) := by
  refine one _ _ rfl (alu_long ..) ?_
  rw [alu_decode, decodeAlu, alu_fn]
  exact congrArg Except.ok (congr (congr (congr (congrArg Instr.mulhu (alu_p ..)) (alu_sd ..)) (alu_sa ..)) (alu_sb ..))

theorem div (p : BitVec 4) (sd sa sb : BitVec 5) : Statement (.div p sd sa sb) := by
  refine one _ _ rfl (alu_long ..) ?_
  rw [alu_decode, decodeAlu, alu_fn]
  exact congrArg Except.ok (congr (congr (congr (congrArg Instr.div (alu_p ..)) (alu_sd ..)) (alu_sa ..)) (alu_sb ..))

theorem divu (p : BitVec 4) (sd sa sb : BitVec 5) : Statement (.divu p sd sa sb) := by
  refine one _ _ rfl (alu_long ..) ?_
  rw [alu_decode, decodeAlu, alu_fn]
  exact congrArg Except.ok (congr (congr (congr (congrArg Instr.divu (alu_p ..)) (alu_sd ..)) (alu_sa ..)) (alu_sb ..))

theorem rem (p : BitVec 4) (sd sa sb : BitVec 5) : Statement (.rem p sd sa sb) := by
  refine one _ _ rfl (alu_long ..) ?_
  rw [alu_decode, decodeAlu, alu_fn]
  exact congrArg Except.ok (congr (congr (congr (congrArg Instr.rem (alu_p ..)) (alu_sd ..)) (alu_sa ..)) (alu_sb ..))

theorem remu (p : BitVec 4) (sd sa sb : BitVec 5) : Statement (.remu p sd sa sb) := by
  refine one _ _ rfl (alu_long ..) ?_
  rw [alu_decode, decodeAlu, alu_fn]
  exact congrArg Except.ok (congr (congr (congr (congrArg Instr.remu (alu_p ..)) (alu_sd ..)) (alu_sa ..)) (alu_sb ..))

theorem min (p : BitVec 4) (sd sa sb : BitVec 5) : Statement (.min p sd sa sb) := by
  refine one _ _ rfl (alu_long ..) ?_
  rw [alu_decode, decodeAlu, alu_fn]
  exact congrArg Except.ok (congr (congr (congr (congrArg Instr.min (alu_p ..)) (alu_sd ..)) (alu_sa ..)) (alu_sb ..))

theorem max (p : BitVec 4) (sd sa sb : BitVec 5) : Statement (.max p sd sa sb) := by
  refine one _ _ rfl (alu_long ..) ?_
  rw [alu_decode, decodeAlu, alu_fn]
  exact congrArg Except.ok (congr (congr (congr (congrArg Instr.max (alu_p ..)) (alu_sd ..)) (alu_sa ..)) (alu_sb ..))

theorem minu (p : BitVec 4) (sd sa sb : BitVec 5) : Statement (.minu p sd sa sb) := by
  refine one _ _ rfl (alu_long ..) ?_
  rw [alu_decode, decodeAlu, alu_fn]
  exact congrArg Except.ok (congr (congr (congr (congrArg Instr.minu (alu_p ..)) (alu_sd ..)) (alu_sa ..)) (alu_sb ..))

theorem maxu (p : BitVec 4) (sd sa sb : BitVec 5) : Statement (.maxu p sd sa sb) := by
  refine one _ _ rfl (alu_long ..) ?_
  rw [alu_decode, decodeAlu, alu_fn]
  exact congrArg Except.ok (congr (congr (congr (congrArg Instr.maxu (alu_p ..)) (alu_sd ..)) (alu_sa ..)) (alu_sb ..))

theorem clz (p : BitVec 4) (sd sa : BitVec 5) : Statement (.clz p sd sa) := by
  refine one _ _ rfl (alu_long ..) ?_
  rw [alu_decode, decodeAlu, alu_fn]
  exact (ifZero_ok _ (alu_sb ..)).trans (congrArg Except.ok (congr (congr (congrArg Instr.clz (alu_p ..)) (alu_sd ..)) (alu_sa ..)))

theorem ctz (p : BitVec 4) (sd sa : BitVec 5) : Statement (.ctz p sd sa) := by
  refine one _ _ rfl (alu_long ..) ?_
  rw [alu_decode, decodeAlu, alu_fn]
  exact (ifZero_ok _ (alu_sb ..)).trans (congrArg Except.ok (congr (congr (congrArg Instr.ctz (alu_p ..)) (alu_sd ..)) (alu_sa ..)))

theorem popc (p : BitVec 4) (sd sa : BitVec 5) : Statement (.popc p sd sa) := by
  refine one _ _ rfl (alu_long ..) ?_
  rw [alu_decode, decodeAlu, alu_fn]
  exact (ifZero_ok _ (alu_sb ..)).trans (congrArg Except.ok (congr (congr (congrArg Instr.popc (alu_p ..)) (alu_sd ..)) (alu_sa ..)))

theorem addi (sd sa : BitVec 5) (imm : BitVec 16) : Statement (.addi sd sa imm) := by
  refine one _ _ rfl (by simp [isLong, majorOf, imm_major]) ?_
  simp only [decodeFields, majorOf, imm_major, imm_a, imm_b, imm_x]
  rfl

theorem andi (sd sa : BitVec 5) (imm : BitVec 16) : Statement (.andi sd sa imm) := by
  refine one _ _ rfl (by simp [isLong, majorOf, imm_major]) ?_
  simp only [decodeFields, majorOf, imm_major, imm_a, imm_b, imm_x]
  rfl

theorem ori (sd sa : BitVec 5) (imm : BitVec 16) : Statement (.ori sd sa imm) := by
  refine one _ _ rfl (by simp [isLong, majorOf, imm_major]) ?_
  simp only [decodeFields, majorOf, imm_major, imm_a, imm_b, imm_x]
  rfl

theorem xori (sd sa : BitVec 5) (imm : BitVec 16) : Statement (.xori sd sa imm) := by
  refine one _ _ rfl (by simp [isLong, majorOf, imm_major]) ?_
  simp only [decodeFields, majorOf, imm_major, imm_a, imm_b, imm_x]
  rfl

theorem slli (sd sa : BitVec 5) (n : BitVec 6) : Statement (.slli sd sa n) := by
  refine one _ _ rfl (by simp [isLong, majorOf, imm_major]) ?_
  simp (disch := decide) only [decodeFields, majorOf, imm_major, decodeShift, imm_a, imm_b, imm_low, extract_hi, extract_lo, extract_all, Nat.reduceSub]
  rfl

theorem srli (sd sa : BitVec 5) (n : BitVec 6) : Statement (.srli sd sa n) := by
  refine one _ _ rfl (by simp [isLong, majorOf, imm_major]) ?_
  simp (disch := decide) only [decodeFields, majorOf, imm_major, decodeShift, imm_a, imm_b, imm_low, extract_hi, extract_lo, extract_all, Nat.reduceSub]
  rfl

theorem srai (sd sa : BitVec 5) (n : BitVec 6) : Statement (.srai sd sa n) := by
  refine one _ _ rfl (by simp [isLong, majorOf, imm_major]) ?_
  simp (disch := decide) only [decodeFields, majorOf, imm_major, decodeShift, imm_a, imm_b, imm_low, extract_hi, extract_lo, extract_all, Nat.reduceSub]
  rfl

theorem lui (sd : BitVec 5) (imm : BitVec 21) : Statement (.lui sd imm) := by
  have m : fld (0x07#6 ++ sd ++ imm) 26 6 = 0x07#6 := by
    simp (disch := decide) only [fld, extract_hi, extract_all, Nat.reduceSub]
  refine one _ (0x07#6 ++ sd ++ imm) rfl (by simp [isLong, majorOf, m]) ?_
  simp only [decodeFields, majorOf, m]
  simp (disch := decide) only [fld, extract_hi, extract_lo, extract_all, Nat.reduceSub]
  rfl

theorem cmp (p : BitVec 4) (pd : BitVec 3) (cond : BitVec 4) (sa sb : BitVec 5) : Statement (.cmp p pd cond sa sb) := by
  have m : fld (0x08#6 ++ p ++ pd ++ cond ++ sa ++ sb ++ 0#5) 26 6 = 0x08#6 := by
    simp (disch := decide) only [fld, extract_hi, extract_all, Nat.reduceSub]
  refine one _ (0x08#6 ++ p ++ pd ++ cond ++ sa ++ sb ++ 0#5) rfl (by simp [isLong, majorOf, m]) ?_
  simp only [decodeFields, majorOf, m]
  simp (disch := decide) only [fld, extract_hi, extract_lo, extract_all, Nat.reduceSub]
  rfl

theorem cmpi (pd : BitVec 3) (cond : BitVec 4) (sa : BitVec 5) (imm : BitVec 14) : Statement (.cmpi pd cond sa imm) := by
  have m : fld (0x09#6 ++ pd ++ cond ++ sa ++ imm) 26 6 = 0x09#6 := by
    simp (disch := decide) only [fld, extract_hi, extract_all, Nat.reduceSub]
  refine one _ (0x09#6 ++ pd ++ cond ++ sa ++ imm) rfl (by simp [isLong, majorOf, m]) ?_
  simp only [decodeFields, majorOf, m]
  simp (disch := decide) only [fld, extract_hi, extract_lo, extract_all, Nat.reduceSub]
  rfl

theorem pand (p : BitVec 4) (pd pa pb : BitVec 3) : Statement (.pand p pd pa pb) := by
  refine one _ _ rfl (by simp [isLong, majorOf, pred_major]) ?_
  simp only [decodeFields, majorOf, pred_major, decodePred, pred_fn, pred_p, pred_pd, pred_pa, pred_pb, pred_z]
  rfl

theorem por (p : BitVec 4) (pd pa pb : BitVec 3) : Statement (.por p pd pa pb) := by
  refine one _ _ rfl (by simp [isLong, majorOf, pred_major]) ?_
  simp only [decodeFields, majorOf, pred_major, decodePred, pred_fn, pred_p, pred_pd, pred_pa, pred_pb, pred_z]
  rfl

theorem pxor (p : BitVec 4) (pd pa pb : BitVec 3) : Statement (.pxor p pd pa pb) := by
  refine one _ _ rfl (by simp [isLong, majorOf, pred_major]) ?_
  simp only [decodeFields, majorOf, pred_major, decodePred, pred_fn, pred_p, pred_pd, pred_pa, pred_pb, pred_z]
  rfl

theorem pandn (p : BitVec 4) (pd pa pb : BitVec 3) : Statement (.pandn p pd pa pb) := by
  refine one _ _ rfl (by simp [isLong, majorOf, pred_major]) ?_
  simp only [decodeFields, majorOf, pred_major, decodePred, pred_fn, pred_p, pred_pd, pred_pa, pred_pb, pred_z]
  rfl

theorem porn (p : BitVec 4) (pd pa pb : BitVec 3) : Statement (.porn p pd pa pb) := by
  refine one _ _ rfl (by simp [isLong, majorOf, pred_major]) ?_
  simp only [decodeFields, majorOf, pred_major, decodePred, pred_fn, pred_p, pred_pd, pred_pa, pred_pb, pred_z]
  rfl

theorem lea (p : BitVec 4) (sd sa sb : BitVec 5) : Statement (.lea p sd sa sb) := by
  refine one _ _ rfl (by simp [isLong, majorOf, ptr_major]) ?_
  simp only [decodeFields, majorOf, ptr_major, decodePtr, ptr_fn, ptr_p, ptr_sd, ptr_sa, ptr_sb, ptr_sid]
  rfl

theorem tag (p : BitVec 4) (sd sa : BitVec 5) (sid : BitVec 4) : Statement (.tag p sd sa sid) := by
  refine one _ _ rfl (by simp [isLong, majorOf, ptr_major]) ?_
  simp only [decodeFields, majorOf, ptr_major, decodePtr, ptr_fn, ptr_p, ptr_sd, ptr_sa, ptr_sb, ptr_sid]
  rfl

theorem space (p : BitVec 4) (sd sa : BitVec 5) : Statement (.space p sd sa) := by
  refine one _ _ rfl (by simp [isLong, majorOf, ptr_major]) ?_
  simp only [decodeFields, majorOf, ptr_major, decodePtr, ptr_fn, ptr_p, ptr_sd, ptr_sa, ptr_sb, ptr_sid]
  rfl

theorem rng (p : BitVec 4) (sd : BitVec 5) : Statement (.rng p sd) := by
  have m : fld (0x0C#6 ++ p ++ sd ++ 0#5 ++ 0#2 ++ 0#10) 26 6 = 0x0C#6 := by
    simp (disch := decide) only [fld, extract_hi, extract_all, Nat.reduceSub]
  refine one _ (0x0C#6 ++ p ++ sd ++ 0#5 ++ 0#2 ++ 0#10) rfl (by simp [isLong, majorOf, m]) ?_
  simp only [decodeFields, majorOf, m, decodeRng]
  simp (disch := decide) only [fld, extract_hi, extract_lo, extract_all, Nat.reduceSub]
  rfl

theorem rngc (p : BitVec 4) (sd sn : BitVec 5) : Statement (.rngc p sd sn) := by
  have m : fld (0x0C#6 ++ p ++ sd ++ sn ++ 1#2 ++ 0#10) 26 6 = 0x0C#6 := by
    simp (disch := decide) only [fld, extract_hi, extract_all, Nat.reduceSub]
  refine one _ (0x0C#6 ++ p ++ sd ++ sn ++ 1#2 ++ 0#10) rfl (by simp [isLong, majorOf, m]) ?_
  simp only [decodeFields, majorOf, m, decodeRng]
  simp (disch := decide) only [fld, extract_hi, extract_lo, extract_all, Nat.reduceSub]
  rfl

theorem br (p : BitVec 4) (disp : BitVec 22) : Statement (.br p disp) := by
  have m : fld (0x10#6 ++ p ++ disp) 26 6 = 0x10#6 := by
    simp (disch := decide) only [fld, extract_hi, extract_all, Nat.reduceSub]
  refine one _ (0x10#6 ++ p ++ disp) rfl (by simp [isLong, majorOf, m]) ?_
  simp only [decodeFields, majorOf, m]
  simp (disch := decide) only [fld, extract_hi, extract_lo, extract_all, Nat.reduceSub]
  rfl

theorem jmp (disp : BitVec 26) : Statement (.jmp disp) := by
  have m : fld (0x11#6 ++ disp) 26 6 = 0x11#6 := by
    simp (disch := decide) only [fld, extract_hi, extract_all, Nat.reduceSub]
  refine one _ (0x11#6 ++ disp) rfl (by simp [isLong, majorOf, m]) ?_
  simp only [decodeFields, majorOf, m]
  simp (disch := decide) only [fld, extract_hi, extract_lo, extract_all, Nat.reduceSub]
  rfl

theorem call (disp : BitVec 26) : Statement (.call disp) := by
  have m : fld (0x12#6 ++ disp) 26 6 = 0x12#6 := by
    simp (disch := decide) only [fld, extract_hi, extract_all, Nat.reduceSub]
  refine one _ (0x12#6 ++ disp) rfl (by simp [isLong, majorOf, m]) ?_
  simp only [decodeFields, majorOf, m]
  simp (disch := decide) only [fld, extract_hi, extract_lo, extract_all, Nat.reduceSub]
  rfl

theorem jr (p : BitVec 4) (sa : BitVec 5) : Statement (.jr p sa) := by
  have m : fld (0x13#6 ++ p ++ 0#5 ++ sa ++ 0#12) 26 6 = 0x13#6 := by
    simp (disch := decide) only [fld, extract_hi, extract_all, Nat.reduceSub]
  refine one _ (0x13#6 ++ p ++ 0#5 ++ sa ++ 0#12) rfl (by simp [isLong, majorOf, m]) ?_
  simp only [decodeFields, majorOf, m, decodeJr]
  simp (disch := decide) only [fld, extract_hi, extract_lo, extract_all, Nat.reduceSub]
  rfl

theorem callr (p : BitVec 4) (sa : BitVec 5) : Statement (.callr p sa) := by
  have m : fld (0x13#6 ++ p ++ 1#5 ++ sa ++ 0#12) 26 6 = 0x13#6 := by
    simp (disch := decide) only [fld, extract_hi, extract_all, Nat.reduceSub]
  refine one _ (0x13#6 ++ p ++ 1#5 ++ sa ++ 0#12) rfl (by simp [isLong, majorOf, m]) ?_
  simp only [decodeFields, majorOf, m, decodeJr]
  simp (disch := decide) only [fld, extract_hi, extract_lo, extract_all, Nat.reduceSub]
  rfl

theorem loop (id : BitVec 2) (stages : BitVec 3) (sa : BitVec 5) (off : BitVec 16) : Statement (.loop id stages sa off) := by
  have m : fld (0x14#6 ++ id ++ stages ++ sa ++ off) 26 6 = 0x14#6 := by
    simp (disch := decide) only [fld, extract_hi, extract_all, Nat.reduceSub]
  refine one _ (0x14#6 ++ id ++ stages ++ sa ++ off) rfl (by simp [isLong, majorOf, m]) ?_
  simp only [decodeFields, majorOf, m]
  simp (disch := decide) only [fld, extract_hi, extract_lo, extract_all, Nat.reduceSub]
  rfl

theorem ldb (sd sa : BitVec 5) (off : BitVec 16) : Statement (.ldb sd sa off) := by
  refine one _ _ rfl (by simp [isLong, majorOf, imm_major]) ?_
  simp only [decodeFields, majorOf, imm_major, imm_a, imm_b, imm_x]
  rfl

theorem ldbu (sd sa : BitVec 5) (off : BitVec 16) : Statement (.ldbu sd sa off) := by
  refine one _ _ rfl (by simp [isLong, majorOf, imm_major]) ?_
  simp only [decodeFields, majorOf, imm_major, imm_a, imm_b, imm_x]
  rfl

theorem ldh (sd sa : BitVec 5) (off : BitVec 16) : Statement (.ldh sd sa off) := by
  refine one _ _ rfl (by simp [isLong, majorOf, imm_major]) ?_
  simp only [decodeFields, majorOf, imm_major, imm_a, imm_b, imm_x]
  rfl

theorem ldhu (sd sa : BitVec 5) (off : BitVec 16) : Statement (.ldhu sd sa off) := by
  refine one _ _ rfl (by simp [isLong, majorOf, imm_major]) ?_
  simp only [decodeFields, majorOf, imm_major, imm_a, imm_b, imm_x]
  rfl

theorem ldw (sd sa : BitVec 5) (off : BitVec 16) : Statement (.ldw sd sa off) := by
  refine one _ _ rfl (by simp [isLong, majorOf, imm_major]) ?_
  simp only [decodeFields, majorOf, imm_major, imm_a, imm_b, imm_x]
  rfl

theorem ldwu (sd sa : BitVec 5) (off : BitVec 16) : Statement (.ldwu sd sa off) := by
  refine one _ _ rfl (by simp [isLong, majorOf, imm_major]) ?_
  simp only [decodeFields, majorOf, imm_major, imm_a, imm_b, imm_x]
  rfl

theorem ldd (sd sa : BitVec 5) (off : BitVec 16) : Statement (.ldd sd sa off) := by
  refine one _ _ rfl (by simp [isLong, majorOf, imm_major]) ?_
  simp only [decodeFields, majorOf, imm_major, imm_a, imm_b, imm_x]
  rfl

theorem stb (sb sa : BitVec 5) (off : BitVec 16) : Statement (.stb sb sa off) := by
  refine one _ _ rfl (by simp [isLong, majorOf, imm_major]) ?_
  simp only [decodeFields, majorOf, imm_major, imm_a, imm_b, imm_x]
  rfl

theorem sth (sb sa : BitVec 5) (off : BitVec 16) : Statement (.sth sb sa off) := by
  refine one _ _ rfl (by simp [isLong, majorOf, imm_major]) ?_
  simp only [decodeFields, majorOf, imm_major, imm_a, imm_b, imm_x]
  rfl

theorem stw (sb sa : BitVec 5) (off : BitVec 16) : Statement (.stw sb sa off) := by
  refine one _ _ rfl (by simp [isLong, majorOf, imm_major]) ?_
  simp only [decodeFields, majorOf, imm_major, imm_a, imm_b, imm_x]
  rfl

theorem std (sb sa : BitVec 5) (off : BitVec 16) : Statement (.std sb sa off) := by
  refine one _ _ rfl (by simp [isLong, majorOf, imm_major]) ?_
  simp only [decodeFields, majorOf, imm_major, imm_a, imm_b, imm_x]
  rfl

theorem ldx (p : BitVec 4) (sd sa si : BitVec 5) (size : BitVec 2) (sext : BitVec 1) (z : BitVec 3) (cls : BitVec 4) (off : BitVec 21) :
    Statement (.ldx p sd sa si size sext z cls off) := by
  refine two _ (wordLong p sd sa si size sext 0#3) (wordLong1 0#3 z cls off) rfl (by simp [isLong, majorOf, wordLong_major]) ?_
  simp (disch := decide) only [decodeFields, majorOf, wordLong_major, decodeLong, wordLong_p, wordLong_sd, wordLong_sa,
    wordLong_si, wordLong_size, wordLong_sext, wordLong_kind, wordLong_z, wordLong1_scope, wordLong1_z, wordLong1_rsv,
    wordLong1_cls, wordLong1_x, wordLong1_low, extract_hi, extract_lo, extract_all, Nat.reduceSub]
  rfl

theorem stx (p : BitVec 4) (sb sa si : BitVec 5) (size : BitVec 2) (z : BitVec 3) (cls : BitVec 4) (off : BitVec 21) :
    Statement (.stx p sb sa si size z cls off) := by
  refine two _ (wordLong p sb sa si size 0#1 1#3) (wordLong1 0#3 z cls off) rfl (by simp [isLong, majorOf, wordLong_major]) ?_
  simp (disch := decide) only [decodeFields, majorOf, wordLong_major, decodeLong, wordLong_p, wordLong_sd, wordLong_sa,
    wordLong_si, wordLong_size, wordLong_sext, wordLong_kind, wordLong_z, wordLong1_scope, wordLong1_z, wordLong1_rsv,
    wordLong1_cls, wordLong1_x, wordLong1_low, extract_hi, extract_lo, extract_all, Nat.reduceSub]
  rfl

theorem ldxAcq (p : BitVec 4) (sd sa si : BitVec 5) (scope z : BitVec 3) (cls : BitVec 4) (mask : BitVec 16) :
    Statement (.ldxAcq p sd sa si scope z cls mask) := by
  refine two _ (wordLong p sd sa si 3#2 0#1 2#3) (wordLong1 scope z cls (0#5 ++ mask)) rfl (by simp [isLong, majorOf, wordLong_major]) ?_
  simp (disch := decide) only [decodeFields, majorOf, wordLong_major, decodeLong, wordLong_p, wordLong_sd, wordLong_sa,
    wordLong_si, wordLong_size, wordLong_sext, wordLong_kind, wordLong_z, wordLong1_scope, wordLong1_z, wordLong1_rsv,
    wordLong1_cls, wordLong1_x, wordLong1_low, extract_hi, extract_lo, extract_all, Nat.reduceSub]
  rfl

theorem stxRel (p : BitVec 4) (sb sa si : BitVec 5) (scope z : BitVec 3) (cls : BitVec 4) (mask : BitVec 16) :
    Statement (.stxRel p sb sa si scope z cls mask) := by
  refine two _ (wordLong p sb sa si 3#2 0#1 3#3) (wordLong1 scope z cls (0#5 ++ mask)) rfl (by simp [isLong, majorOf, wordLong_major]) ?_
  simp (disch := decide) only [decodeFields, majorOf, wordLong_major, decodeLong, wordLong_p, wordLong_sd, wordLong_sa,
    wordLong_si, wordLong_size, wordLong_sext, wordLong_kind, wordLong_z, wordLong1_scope, wordLong1_z, wordLong1_rsv,
    wordLong1_cls, wordLong1_x, wordLong1_low, extract_hi, extract_lo, extract_all, Nat.reduceSub]
  rfl

theorem amoAdd (p : BitVec 4) (sd sa sb : BitVec 5) (size : BitVec 1) (cls : BitVec 4) :
    Statement (.amoAdd p sd sa sb size cls) := by
  refine two _ (wordAmo p sd sa sb 0#5 size) (wordAmo1 0#5 cls) rfl (wordAmo_long ..) ?_
  rw [wordAmo_decode, decodeAmo, wordAmo1_fn]
  exact (ifZero_ok _ (wordAmo_rsv2 ..)).trans (congrArg Except.ok (congr (congr (congr (congr (congr (congrArg Instr.amoAdd (wordAmo_p ..)) (wordAmo_sd ..)) (wordAmo_sa ..)) (wordAmo_sb ..)) (wordAmo_size ..)) (wordAmo1_cls ..)))

theorem amoMin (p : BitVec 4) (sd sa sb : BitVec 5) (size : BitVec 1) (cls : BitVec 4) :
    Statement (.amoMin p sd sa sb size cls) := by
  refine two _ (wordAmo p sd sa sb 0#5 size) (wordAmo1 1#5 cls) rfl (wordAmo_long ..) ?_
  rw [wordAmo_decode, decodeAmo, wordAmo1_fn]
  exact (ifZero_ok _ (wordAmo_rsv2 ..)).trans (congrArg Except.ok (congr (congr (congr (congr (congr (congrArg Instr.amoMin (wordAmo_p ..)) (wordAmo_sd ..)) (wordAmo_sa ..)) (wordAmo_sb ..)) (wordAmo_size ..)) (wordAmo1_cls ..)))

theorem amoMax (p : BitVec 4) (sd sa sb : BitVec 5) (size : BitVec 1) (cls : BitVec 4) :
    Statement (.amoMax p sd sa sb size cls) := by
  refine two _ (wordAmo p sd sa sb 0#5 size) (wordAmo1 2#5 cls) rfl (wordAmo_long ..) ?_
  rw [wordAmo_decode, decodeAmo, wordAmo1_fn]
  exact (ifZero_ok _ (wordAmo_rsv2 ..)).trans (congrArg Except.ok (congr (congr (congr (congr (congr (congrArg Instr.amoMax (wordAmo_p ..)) (wordAmo_sd ..)) (wordAmo_sa ..)) (wordAmo_sb ..)) (wordAmo_size ..)) (wordAmo1_cls ..)))

theorem amoMinu (p : BitVec 4) (sd sa sb : BitVec 5) (size : BitVec 1) (cls : BitVec 4) :
    Statement (.amoMinu p sd sa sb size cls) := by
  refine two _ (wordAmo p sd sa sb 0#5 size) (wordAmo1 3#5 cls) rfl (wordAmo_long ..) ?_
  rw [wordAmo_decode, decodeAmo, wordAmo1_fn]
  exact (ifZero_ok _ (wordAmo_rsv2 ..)).trans (congrArg Except.ok (congr (congr (congr (congr (congr (congrArg Instr.amoMinu (wordAmo_p ..)) (wordAmo_sd ..)) (wordAmo_sa ..)) (wordAmo_sb ..)) (wordAmo_size ..)) (wordAmo1_cls ..)))

theorem amoMaxu (p : BitVec 4) (sd sa sb : BitVec 5) (size : BitVec 1) (cls : BitVec 4) :
    Statement (.amoMaxu p sd sa sb size cls) := by
  refine two _ (wordAmo p sd sa sb 0#5 size) (wordAmo1 4#5 cls) rfl (wordAmo_long ..) ?_
  rw [wordAmo_decode, decodeAmo, wordAmo1_fn]
  exact (ifZero_ok _ (wordAmo_rsv2 ..)).trans (congrArg Except.ok (congr (congr (congr (congr (congr (congrArg Instr.amoMaxu (wordAmo_p ..)) (wordAmo_sd ..)) (wordAmo_sa ..)) (wordAmo_sb ..)) (wordAmo_size ..)) (wordAmo1_cls ..)))

theorem amoAnd (p : BitVec 4) (sd sa sb : BitVec 5) (size : BitVec 1) (cls : BitVec 4) :
    Statement (.amoAnd p sd sa sb size cls) := by
  refine two _ (wordAmo p sd sa sb 0#5 size) (wordAmo1 5#5 cls) rfl (wordAmo_long ..) ?_
  rw [wordAmo_decode, decodeAmo, wordAmo1_fn]
  exact (ifZero_ok _ (wordAmo_rsv2 ..)).trans (congrArg Except.ok (congr (congr (congr (congr (congr (congrArg Instr.amoAnd (wordAmo_p ..)) (wordAmo_sd ..)) (wordAmo_sa ..)) (wordAmo_sb ..)) (wordAmo_size ..)) (wordAmo1_cls ..)))

theorem amoOr (p : BitVec 4) (sd sa sb : BitVec 5) (size : BitVec 1) (cls : BitVec 4) :
    Statement (.amoOr p sd sa sb size cls) := by
  refine two _ (wordAmo p sd sa sb 0#5 size) (wordAmo1 6#5 cls) rfl (wordAmo_long ..) ?_
  rw [wordAmo_decode, decodeAmo, wordAmo1_fn]
  exact (ifZero_ok _ (wordAmo_rsv2 ..)).trans (congrArg Except.ok (congr (congr (congr (congr (congr (congrArg Instr.amoOr (wordAmo_p ..)) (wordAmo_sd ..)) (wordAmo_sa ..)) (wordAmo_sb ..)) (wordAmo_size ..)) (wordAmo1_cls ..)))

theorem amoXor (p : BitVec 4) (sd sa sb : BitVec 5) (size : BitVec 1) (cls : BitVec 4) :
    Statement (.amoXor p sd sa sb size cls) := by
  refine two _ (wordAmo p sd sa sb 0#5 size) (wordAmo1 7#5 cls) rfl (wordAmo_long ..) ?_
  rw [wordAmo_decode, decodeAmo, wordAmo1_fn]
  exact (ifZero_ok _ (wordAmo_rsv2 ..)).trans (congrArg Except.ok (congr (congr (congr (congr (congr (congrArg Instr.amoXor (wordAmo_p ..)) (wordAmo_sd ..)) (wordAmo_sa ..)) (wordAmo_sb ..)) (wordAmo_size ..)) (wordAmo1_cls ..)))

theorem amoSwp (p : BitVec 4) (sd sa sb : BitVec 5) (size : BitVec 1) (cls : BitVec 4) :
    Statement (.amoSwp p sd sa sb size cls) := by
  refine two _ (wordAmo p sd sa sb 0#5 size) (wordAmo1 8#5 cls) rfl (wordAmo_long ..) ?_
  rw [wordAmo_decode, decodeAmo, wordAmo1_fn]
  exact (ifZero_ok _ (wordAmo_rsv2 ..)).trans (congrArg Except.ok (congr (congr (congr (congr (congr (congrArg Instr.amoSwp (wordAmo_p ..)) (wordAmo_sd ..)) (wordAmo_sa ..)) (wordAmo_sb ..)) (wordAmo_size ..)) (wordAmo1_cls ..)))

theorem cas (p : BitVec 4) (sd sa sb sc : BitVec 5) (size : BitVec 1) (cls : BitVec 4) :
    Statement (.cas p sd sa sb sc size cls) := by
  refine two _ (wordAmo p sd sa sb sc size) (wordAmo1 9#5 cls) rfl (wordAmo_long ..) ?_
  rw [wordAmo_decode, decodeAmo, wordAmo1_fn]
  exact (ifZero_ok _ (wordAmo_rsv ..)).trans (congrArg Except.ok (congr (congr (congr (congr (congr (congr (congrArg Instr.cas (wordAmo_p ..)) (wordAmo_sd ..)) (wordAmo_sa ..)) (wordAmo_sb ..)) (wordAmo_sc ..)) (wordAmo_size ..)) (wordAmo1_cls ..)))

theorem amoFadd (p : BitVec 4) (sd sa sb : BitVec 5) (cls : BitVec 4) :
    Statement (.amoFadd p sd sa sb cls) := by
  refine two _ (wordAmo p sd sa sb 0#5 0#1) (wordAmo1 10#5 cls) rfl (wordAmo_long ..) ?_
  rw [wordAmo_decode, decodeAmo, wordAmo1_fn]
  exact (ifZero_ok _ (wordAmo_rsv3 ..)).trans (congrArg Except.ok (congr (congr (congr (congr (congrArg Instr.amoFadd (wordAmo_p ..)) (wordAmo_sd ..)) (wordAmo_sa ..)) (wordAmo_sb ..)) (wordAmo1_cls ..)))

theorem li32 (p : BitVec 4) (sd : BitVec 5) (imm : BitVec 32) : Statement (.li32 p sd imm) := by
  have m : fld (0x25#6 ++ p ++ sd ++ 0#17) 26 6 = 0x25#6 := by
    simp (disch := decide) only [fld, extract_hi, extract_all, Nat.reduceSub]
  refine two _ (0x25#6 ++ p ++ sd ++ 0#17) imm rfl (by simp [isLong, majorOf, m]) ?_
  simp only [decodeFields, majorOf, m]
  simp (disch := decide) only [fld, extract_hi, extract_lo, extract_all, Nat.reduceSub]
  rfl

theorem lih (p : BitVec 4) (sd : BitVec 5) (imm : BitVec 32) : Statement (.lih p sd imm) := by
  have m : fld (0x26#6 ++ p ++ sd ++ 0#17) 26 6 = 0x26#6 := by
    simp (disch := decide) only [fld, extract_hi, extract_all, Nat.reduceSub]
  refine two _ (0x26#6 ++ p ++ sd ++ 0#17) imm rfl (by simp [isLong, majorOf, m]) ?_
  simp only [decodeFields, majorOf, m]
  simp (disch := decide) only [fld, extract_hi, extract_lo, extract_all, Nat.reduceSub]
  rfl

theorem vadd (e : Eng) (v : VFields) : Statement (.vadd e v) := by
  refine two _ (wordV 0x00#8 e v) (wordV1 e v) rfl (wordV_long ..) ?_
  rw [wordV_decode, decodeVec, wordV_op]
  exact congrArg Except.ok (congr (congrArg Instr.vadd (wordV_eng ..)) (wordV_of ..))

theorem vsub (e : Eng) (v : VFields) : Statement (.vsub e v) := by
  refine two _ (wordV 0x01#8 e v) (wordV1 e v) rfl (wordV_long ..) ?_
  rw [wordV_decode, decodeVec, wordV_op]
  exact congrArg Except.ok (congr (congrArg Instr.vsub (wordV_eng ..)) (wordV_of ..))

theorem vmul (e : Eng) (v : VFields) : Statement (.vmul e v) := by
  refine two _ (wordV 0x02#8 e v) (wordV1 e v) rfl (wordV_long ..) ?_
  rw [wordV_decode, decodeVec, wordV_op]
  exact congrArg Except.ok (congr (congrArg Instr.vmul (wordV_eng ..)) (wordV_of ..))

theorem vfma (e : Eng) (v : VFields) : Statement (.vfma e v) := by
  refine two _ (wordV 0x03#8 e v) (wordV1 e v) rfl (wordV_long ..) ?_
  rw [wordV_decode, decodeVec, wordV_op]
  exact congrArg Except.ok (congr (congrArg Instr.vfma (wordV_eng ..)) (wordV_of ..))

theorem vmin (e : Eng) (v : VFields) : Statement (.vmin e v) := by
  refine two _ (wordV 0x04#8 e v) (wordV1 e v) rfl (wordV_long ..) ?_
  rw [wordV_decode, decodeVec, wordV_op]
  exact congrArg Except.ok (congr (congrArg Instr.vmin (wordV_eng ..)) (wordV_of ..))

theorem vmax (e : Eng) (v : VFields) : Statement (.vmax e v) := by
  refine two _ (wordV 0x05#8 e v) (wordV1 e v) rfl (wordV_long ..) ?_
  rw [wordV_decode, decodeVec, wordV_op]
  exact congrArg Except.ok (congr (congrArg Instr.vmax (wordV_eng ..)) (wordV_of ..))

theorem vabs (e : Eng) (v : VFields) : Statement (.vabs e v) := by
  refine two _ (wordV 0x06#8 e v) (wordV1 e v) rfl (wordV_long ..) ?_
  rw [wordV_decode, decodeVec, wordV_op]
  exact congrArg Except.ok (congr (congrArg Instr.vabs (wordV_eng ..)) (wordV_of ..))

theorem vneg (e : Eng) (v : VFields) : Statement (.vneg e v) := by
  refine two _ (wordV 0x07#8 e v) (wordV1 e v) rfl (wordV_long ..) ?_
  rw [wordV_decode, decodeVec, wordV_op]
  exact congrArg Except.ok (congr (congrArg Instr.vneg (wordV_eng ..)) (wordV_of ..))

theorem vexp2 (e : Eng) (v : VFields) : Statement (.vexp2 e v) := by
  refine two _ (wordV 0x08#8 e v) (wordV1 e v) rfl (wordV_long ..) ?_
  rw [wordV_decode, decodeVec, wordV_op]
  exact congrArg Except.ok (congr (congrArg Instr.vexp2 (wordV_eng ..)) (wordV_of ..))

theorem vlog2 (e : Eng) (v : VFields) : Statement (.vlog2 e v) := by
  refine two _ (wordV 0x09#8 e v) (wordV1 e v) rfl (wordV_long ..) ?_
  rw [wordV_decode, decodeVec, wordV_op]
  exact congrArg Except.ok (congr (congrArg Instr.vlog2 (wordV_eng ..)) (wordV_of ..))

theorem vrcp (e : Eng) (v : VFields) : Statement (.vrcp e v) := by
  refine two _ (wordV 0x0A#8 e v) (wordV1 e v) rfl (wordV_long ..) ?_
  rw [wordV_decode, decodeVec, wordV_op]
  exact congrArg Except.ok (congr (congrArg Instr.vrcp (wordV_eng ..)) (wordV_of ..))

theorem vrsqrt (e : Eng) (v : VFields) : Statement (.vrsqrt e v) := by
  refine two _ (wordV 0x0B#8 e v) (wordV1 e v) rfl (wordV_long ..) ?_
  rw [wordV_decode, decodeVec, wordV_op]
  exact congrArg Except.ok (congr (congrArg Instr.vrsqrt (wordV_eng ..)) (wordV_of ..))

theorem vtanh (e : Eng) (v : VFields) : Statement (.vtanh e v) := by
  refine two _ (wordV 0x0C#8 e v) (wordV1 e v) rfl (wordV_long ..) ?_
  rw [wordV_decode, decodeVec, wordV_op]
  exact congrArg Except.ok (congr (congrArg Instr.vtanh (wordV_eng ..)) (wordV_of ..))

theorem vand (e : Eng) (v : VFields) : Statement (.vand e v) := by
  refine two _ (wordV 0x10#8 e v) (wordV1 e v) rfl (wordV_long ..) ?_
  rw [wordV_decode, decodeVec, wordV_op]
  exact congrArg Except.ok (congr (congrArg Instr.vand (wordV_eng ..)) (wordV_of ..))

theorem vor (e : Eng) (v : VFields) : Statement (.vor e v) := by
  refine two _ (wordV 0x11#8 e v) (wordV1 e v) rfl (wordV_long ..) ?_
  rw [wordV_decode, decodeVec, wordV_op]
  exact congrArg Except.ok (congr (congrArg Instr.vor (wordV_eng ..)) (wordV_of ..))

theorem vxor (e : Eng) (v : VFields) : Statement (.vxor e v) := by
  refine two _ (wordV 0x12#8 e v) (wordV1 e v) rfl (wordV_long ..) ?_
  rw [wordV_decode, decodeVec, wordV_op]
  exact congrArg Except.ok (congr (congrArg Instr.vxor (wordV_eng ..)) (wordV_of ..))

theorem vshl (e : Eng) (v : VFields) : Statement (.vshl e v) := by
  refine two _ (wordV 0x13#8 e v) (wordV1 e v) rfl (wordV_long ..) ?_
  rw [wordV_decode, decodeVec, wordV_op]
  exact congrArg Except.ok (congr (congrArg Instr.vshl (wordV_eng ..)) (wordV_of ..))

theorem vshr (e : Eng) (v : VFields) : Statement (.vshr e v) := by
  refine two _ (wordV 0x14#8 e v) (wordV1 e v) rfl (wordV_long ..) ?_
  rw [wordV_decode, decodeVec, wordV_op]
  exact congrArg Except.ok (congr (congrArg Instr.vshr (wordV_eng ..)) (wordV_of ..))

theorem vsra (e : Eng) (v : VFields) : Statement (.vsra e v) := by
  refine two _ (wordV 0x15#8 e v) (wordV1 e v) rfl (wordV_long ..) ?_
  rw [wordV_decode, decodeVec, wordV_op]
  exact congrArg Except.ok (congr (congrArg Instr.vsra (wordV_eng ..)) (wordV_of ..))

theorem vcmpEq (e : Eng) (v : VFields) : Statement (.vcmpEq e v) := by
  refine two _ (wordV 0x18#8 e v) (wordV1 e v) rfl (wordV_long ..) ?_
  rw [wordV_decode, decodeVec, wordV_op]
  exact congrArg Except.ok (congr (congrArg Instr.vcmpEq (wordV_eng ..)) (wordV_of ..))

theorem vcmpNe (e : Eng) (v : VFields) : Statement (.vcmpNe e v) := by
  refine two _ (wordV 0x19#8 e v) (wordV1 e v) rfl (wordV_long ..) ?_
  rw [wordV_decode, decodeVec, wordV_op]
  exact congrArg Except.ok (congr (congrArg Instr.vcmpNe (wordV_eng ..)) (wordV_of ..))

theorem vcmpLt (e : Eng) (v : VFields) : Statement (.vcmpLt e v) := by
  refine two _ (wordV 0x1A#8 e v) (wordV1 e v) rfl (wordV_long ..) ?_
  rw [wordV_decode, decodeVec, wordV_op]
  exact congrArg Except.ok (congr (congrArg Instr.vcmpLt (wordV_eng ..)) (wordV_of ..))

theorem vcmpLe (e : Eng) (v : VFields) : Statement (.vcmpLe e v) := by
  refine two _ (wordV 0x1B#8 e v) (wordV1 e v) rfl (wordV_long ..) ?_
  rw [wordV_decode, decodeVec, wordV_op]
  exact congrArg Except.ok (congr (congrArg Instr.vcmpLe (wordV_eng ..)) (wordV_of ..))

theorem vsel (e : Eng) (v : VFields) : Statement (.vsel e v) := by
  refine two _ (wordV 0x1C#8 e v) (wordV1 e v) rfl (wordV_long ..) ?_
  rw [wordV_decode, decodeVec, wordV_op]
  exact congrArg Except.ok (congr (congrArg Instr.vsel (wordV_eng ..)) (wordV_of ..))

theorem vcvt (e : Eng) (v : VFields) : Statement (.vcvt e v) := by
  refine two _ (wordV 0x20#8 e v) (wordV1 e v) rfl (wordV_long ..) ?_
  rw [wordV_decode, decodeVec, wordV_op]
  exact congrArg Except.ok (congr (congrArg Instr.vcvt (wordV_eng ..)) (wordV_of ..))

theorem vqblk (e : Eng) (v : VFields) : Statement (.vqblk e v) := by
  refine two _ (wordV 0x21#8 e v) (wordV1 e v) rfl (wordV_long ..) ?_
  rw [wordV_decode, decodeVec, wordV_op]
  exact congrArg Except.ok (congr (congrArg Instr.vqblk (wordV_eng ..)) (wordV_of ..))

theorem vunpk (e : Eng) (v : VFields) : Statement (.vunpk e v) := by
  refine two _ (wordV 0x22#8 e v) (wordV1 e v) rfl (wordV_long ..) ?_
  rw [wordV_decode, decodeVec, wordV_op]
  exact congrArg Except.ok (congr (congrArg Instr.vunpk (wordV_eng ..)) (wordV_of ..))

theorem vdrop (e : Eng) (v : VFields) : Statement (.vdrop e v) := by
  refine two _ (wordV 0x23#8 e v) (wordV1 e v) rfl (wordV_long ..) ?_
  rw [wordV_decode, decodeVec, wordV_op]
  exact congrArg Except.ok (congr (congrArg Instr.vdrop (wordV_eng ..)) (wordV_of ..))

theorem vrsum (e : Eng) (v : VFields) : Statement (.vrsum e v) := by
  refine two _ (wordV 0x28#8 e v) (wordV1 e v) rfl (wordV_long ..) ?_
  rw [wordV_decode, decodeVec, wordV_op]
  exact congrArg Except.ok (congr (congrArg Instr.vrsum (wordV_eng ..)) (wordV_of ..))

theorem vrmax (e : Eng) (v : VFields) : Statement (.vrmax e v) := by
  refine two _ (wordV 0x29#8 e v) (wordV1 e v) rfl (wordV_long ..) ?_
  rw [wordV_decode, decodeVec, wordV_op]
  exact congrArg Except.ok (congr (congrArg Instr.vrmax (wordV_eng ..)) (wordV_of ..))

theorem vrmin (e : Eng) (v : VFields) : Statement (.vrmin e v) := by
  refine two _ (wordV 0x2A#8 e v) (wordV1 e v) rfl (wordV_long ..) ?_
  rw [wordV_decode, decodeVec, wordV_op]
  exact congrArg Except.ok (congr (congrArg Instr.vrmin (wordV_eng ..)) (wordV_of ..))

theorem vmov (e : Eng) (v : VFields) : Statement (.vmov e v) := by
  refine two _ (wordV 0x30#8 e v) (wordV1 e v) rfl (wordV_long ..) ?_
  rw [wordV_decode, decodeVec, wordV_op]
  exact congrArg Except.ok (congr (congrArg Instr.vmov (wordV_eng ..)) (wordV_of ..))

theorem vshuf (e : Eng) (v : VFields) : Statement (.vshuf e v) := by
  refine two _ (wordV 0x31#8 e v) (wordV1 e v) rfl (wordV_long ..) ?_
  rw [wordV_decode, decodeVec, wordV_op]
  exact congrArg Except.ok (congr (congrArg Instr.vshuf (wordV_eng ..)) (wordV_of ..))

theorem viota (e : Eng) (v : VFields) : Statement (.viota e v) := by
  refine two _ (wordV 0x32#8 e v) (wordV1 e v) rfl (wordV_long ..) ?_
  rw [wordV_decode, decodeVec, wordV_op]
  exact congrArg Except.ok (congr (congrArg Instr.viota (wordV_eng ..)) (wordV_of ..))

theorem vsplat (e : Eng) (v : VFields) : Statement (.vsplat e v) := by
  refine two _ (wordV 0x33#8 e v) (wordV1 e v) rfl (wordV_long ..) ?_
  rw [wordV_decode, decodeVec, wordV_op]
  exact congrArg Except.ok (congr (congrArg Instr.vsplat (wordV_eng ..)) (wordV_of ..))

theorem vld (e : Eng) (v : VmFields) : Statement (.vld e v) := by
  refine two _ (wordVM 0x38#8 e v) (wordVM1 e v) rfl (wordVM_long ..) ?_
  rw [wordVM_decode, decodeVec, wordVM_op]
  exact (ifZero_ok _ (wordVM_z ..)).trans (congrArg Except.ok (congr (congrArg Instr.vld (wordVM_eng ..)) (wordVM_of ..)))

theorem vst (e : Eng) (v : VmFields) : Statement (.vst e v) := by
  refine two _ (wordVM 0x39#8 e v) (wordVM1 e v) rfl (wordVM_long ..) ?_
  rw [wordVM_decode, decodeVec, wordVM_op]
  exact (ifZero_ok _ (wordVM_z ..)).trans (congrArg Except.ok (congr (congrArg Instr.vst (wordVM_eng ..)) (wordVM_of ..)))

theorem vldt (e : Eng) (v : VmFields) : Statement (.vldt e v) := by
  refine two _ (wordVM 0x3A#8 e v) (wordVM1 e v) rfl (wordVM_long ..) ?_
  rw [wordVM_decode, decodeVec, wordVM_op]
  exact (ifZero_ok _ (wordVM_z ..)).trans (congrArg Except.ok (congr (congrArg Instr.vldt (wordVM_eng ..)) (wordVM_of ..)))

theorem vgath (e : Eng) (v : VFields) : Statement (.vgath e v) := by
  refine two _ (wordV 0x3B#8 e v) (wordV1 e v) rfl (wordV_long ..) ?_
  rw [wordV_decode, decodeVec, wordV_op]
  exact congrArg Except.ok (congr (congrArg Instr.vgath (wordV_eng ..)) (wordV_of ..))

theorem vrng (e : Eng) (v : VFields) : Statement (.vrng e v) := by
  refine two _ (wordV 0x40#8 e v) (wordV1 e v) rfl (wordV_long ..) ?_
  rw [wordV_decode, decodeVec, wordV_op]
  exact congrArg Except.ok (congr (congrArg Instr.vrng (wordV_eng ..)) (wordV_of ..))

theorem vtrn (e : Eng) (v : VFields) : Statement (.vtrn e v) := by
  refine two _ (wordV 0x41#8 e v) (wordV1 e v) rfl (wordV_long ..) ?_
  rw [wordV_decode, decodeVec, wordV_op]
  exact congrArg Except.ok (congr (congrArg Instr.vtrn (wordV_eng ..)) (wordV_of ..))

theorem alease (e : Eng) (x : XFields) : Statement (.alease e x) := by
  refine two _ (wordX 0x00#8 e x) (wordX1 e x) rfl (wordX_long ..) ?_
  rw [wordX_decode, decodeMat, wordX_op]
  exact (ifZero_ok _ (wordX_z ..)).trans (congrArg Except.ok (congr (congrArg Instr.alease (wordX_eng ..)) (wordX_of ..)))

theorem arelease (e : Eng) (x : XFields) : Statement (.arelease e x) := by
  refine two _ (wordX 0x01#8 e x) (wordX1 e x) rfl (wordX_long ..) ?_
  rw [wordX_decode, decodeMat, wordX_op]
  exact (ifZero_ok _ (wordX_z ..)).trans (congrArg Except.ok (congr (congrArg Instr.arelease (wordX_eng ..)) (wordX_of ..)))

theorem lds (e : Eng) (x : XFields) : Statement (.lds e x) := by
  refine two _ (wordX 0x08#8 e x) (wordX1 e x) rfl (wordX_long ..) ?_
  rw [wordX_decode, decodeMat, wordX_op]
  exact (ifZero_ok _ (wordX_z ..)).trans (congrArg Except.ok (congr (congrArg Instr.lds (wordX_eng ..)) (wordX_of ..)))

theorem ldsP (e : Eng) (x : XFields) : Statement (.ldsP e x) := by
  refine two _ (wordX 0x09#8 e x) (wordX1 e x) rfl (wordX_long ..) ?_
  rw [wordX_decode, decodeMat, wordX_op]
  exact (ifZero_ok _ (wordX_z ..)).trans (congrArg Except.ok (congr (congrArg Instr.ldsP (wordX_eng ..)) (wordX_of ..)))

theorem ldsCb (e : Eng) (x : XFields) : Statement (.ldsCb e x) := by
  refine two _ (wordX 0x0A#8 e x) (wordX1 e x) rfl (wordX_long ..) ?_
  rw [wordX_decode, decodeMat, wordX_op]
  exact (ifZero_ok _ (wordX_z ..)).trans (congrArg Except.ok (congr (congrArg Instr.ldsCb (wordX_eng ..)) (wordX_of ..)))

theorem ldsBs (e : Eng) (x : XFields) : Statement (.ldsBs e x) := by
  refine two _ (wordX 0x0B#8 e x) (wordX1 e x) rfl (wordX_long ..) ?_
  rw [wordX_decode, decodeMat, wordX_op]
  exact (ifZero_ok _ (wordX_z ..)).trans (congrArg Except.ok (congr (congrArg Instr.ldsBs (wordX_eng ..)) (wordX_of ..)))

theorem mswap (e : Eng) (x : XFields) : Statement (.mswap e x) := by
  refine two _ (wordX 0x10#8 e x) (wordX1 e x) rfl (wordX_long ..) ?_
  rw [wordX_decode, decodeMat, wordX_op]
  exact (ifZero_ok _ (wordX_z ..)).trans (congrArg Except.ok (congr (congrArg Instr.mswap (wordX_eng ..)) (wordX_of ..)))

theorem mmul (e : Eng) (x : XFields) : Statement (.mmul e x) := by
  refine two _ (wordX 0x18#8 e x) (wordX1 e x) rfl (wordX_long ..) ?_
  rw [wordX_decode, decodeMat, wordX_op]
  exact (ifZero_ok _ (wordX_z ..)).trans (congrArg Except.ok (congr (congrArg Instr.mmul (wordX_eng ..)) (wordX_of ..)))

theorem mmulBs (e : Eng) (x : XFields) : Statement (.mmulBs e x) := by
  refine two _ (wordX 0x19#8 e x) (wordX1 e x) rfl (wordX_long ..) ?_
  rw [wordX_decode, decodeMat, wordX_op]
  exact (ifZero_ok _ (wordX_z ..)).trans (congrArg Except.ok (congr (congrArg Instr.mmulBs (wordX_eng ..)) (wordX_of ..)))

theorem mdrain (e : Eng) (x : XFields) : Statement (.mdrain e x) := by
  refine two _ (wordX 0x20#8 e x) (wordX1 e x) rfl (wordX_long ..) ?_
  rw [wordX_decode, decodeMat, wordX_op]
  exact (ifZero_ok _ (wordX_z ..)).trans (congrArg Except.ok (congr (congrArg Instr.mdrain (wordX_eng ..)) (wordX_of ..)))

theorem mzero (e : Eng) (x : XFields) : Statement (.mzero e x) := by
  refine two _ (wordX 0x21#8 e x) (wordX1 e x) rfl (wordX_long ..) ?_
  rw [wordX_decode, decodeMat, wordX_op]
  exact (ifZero_ok _ (wordX_z ..)).trans (congrArg Except.ok (congr (congrArg Instr.mzero (wordX_eng ..)) (wordX_of ..)))

theorem mcbt (e : Eng) (x : XFields) : Statement (.mcbt e x) := by
  refine two _ (wordX 0x28#8 e x) (wordX1 e x) rfl (wordX_long ..) ?_
  rw [wordX_decode, decodeMat, wordX_op]
  exact (ifZero_ok _ (wordX_z ..)).trans (congrArg Except.ok (congr (congrArg Instr.mcbt (wordX_eng ..)) (wordX_of ..)))

theorem cpy (e : Eng) (c : CpFields) : Statement (.cpy e c) := by
  refine two _ (wordCP 0x00#8 e c) (wordCP1 e c) rfl (wordCP_long ..) ?_
  rw [wordCP_decode, decodeCopy, wordCP_op]
  exact (ifZero_ok _ (wordCP_rsv ..)).trans (congrArg Except.ok (congr (congrArg Instr.cpy (wordCP_eng ..)) (wordCP_of ..)))

theorem cpyLd (e : Eng) (c : CpFields) : Statement (.cpyLd e c) := by
  refine two _ (wordCP 0x01#8 e c) (wordCP1 e c) rfl (wordCP_long ..) ?_
  rw [wordCP_decode, decodeCopy, wordCP_op]
  exact (ifZero_ok _ (wordCP_rsv ..)).trans (congrArg Except.ok (congr (congrArg Instr.cpyLd (wordCP_eng ..)) (wordCP_of ..)))

theorem cpySt (e : Eng) (c : CpFields) : Statement (.cpySt e c) := by
  refine two _ (wordCP 0x02#8 e c) (wordCP1 e c) rfl (wordCP_long ..) ?_
  rw [wordCP_decode, decodeCopy, wordCP_op]
  exact (ifZero_ok _ (wordCP_rsv ..)).trans (congrArg Except.ok (congr (congrArg Instr.cpySt (wordCP_eng ..)) (wordCP_of ..)))

theorem cgath (e : Eng) (c : CpFields) : Statement (.cgath e c) := by
  refine two _ (wordCP 0x03#8 e c) (wordCP1 e c) rfl (wordCP_long ..) ?_
  rw [wordCP_decode, decodeCopy, wordCP_op]
  exact (ifZero_ok _ (wordCP_rsv ..)).trans (congrArg Except.ok (congr (congrArg Instr.cgath (wordCP_eng ..)) (wordCP_of ..)))

theorem cscat (e : Eng) (c : CpFields) : Statement (.cscat e c) := by
  refine two _ (wordCP 0x04#8 e c) (wordCP1 e c) rfl (wordCP_long ..) ?_
  rw [wordCP_decode, decodeCopy, wordCP_op]
  exact (ifZero_ok _ (wordCP_rsv ..)).trans (congrArg Except.ok (congr (congrArg Instr.cscat (wordCP_eng ..)) (wordCP_of ..)))

theorem cred (e : Eng) (c : CpFields) : Statement (.cred e c) := by
  refine two _ (wordCP 0x05#8 e c) (wordCP1 e c) rfl (wordCP_long ..) ?_
  rw [wordCP_decode, decodeCopy, wordCP_op]
  exact (ifZero_ok _ (wordCP_rsv ..)).trans (congrArg Except.ok (congr (congrArg Instr.cred (wordCP_eng ..)) (wordCP_of ..)))

theorem cpref (e : Eng) (c : CpFields) : Statement (.cpref e c) := by
  refine two _ (wordCP 0x06#8 e c) (wordCP1 e c) rfl (wordCP_long ..) ?_
  rw [wordCP_decode, decodeCopy, wordCP_op]
  exact (ifZero_ok _ (wordCP_rsv ..)).trans (congrArg Except.ok (congr (congrArg Instr.cpref (wordCP_eng ..)) (wordCP_of ..)))

theorem cring (e : Eng) (c : CpFields) : Statement (.cring e c) := by
  refine two _ (wordCP 0x07#8 e c) (wordCP1 e c) rfl (wordCP_long ..) ?_
  rw [wordCP_decode, decodeCopy, wordCP_op]
  exact (ifZero_ok _ (wordCP_rsv ..)).trans (congrArg Except.ok (congr (congrArg Instr.cring (wordCP_eng ..)) (wordCP_of ..)))

theorem collOpen (e : Eng) (c : CpFields) : Statement (.collOpen e c) := by
  refine two _ (wordCP 0x10#8 e c) (wordCP1 e c) rfl (wordCP_long ..) ?_
  rw [wordCP_decode, decodeCopy, wordCP_op]
  exact (ifZero_ok _ (wordCP_rsv ..)).trans (congrArg Except.ok (congr (congrArg Instr.collOpen (wordCP_eng ..)) (wordCP_of ..)))

theorem collAred (e : Eng) (c : CpFields) : Statement (.collAred e c) := by
  refine two _ (wordCP 0x11#8 e c) (wordCP1 e c) rfl (wordCP_long ..) ?_
  rw [wordCP_decode, decodeCopy, wordCP_op]
  exact (ifZero_ok _ (wordCP_rsv ..)).trans (congrArg Except.ok (congr (congrArg Instr.collAred (wordCP_eng ..)) (wordCP_of ..)))

theorem collAgath (e : Eng) (c : CpFields) : Statement (.collAgath e c) := by
  refine two _ (wordCP 0x12#8 e c) (wordCP1 e c) rfl (wordCP_long ..) ?_
  rw [wordCP_decode, decodeCopy, wordCP_op]
  exact (ifZero_ok _ (wordCP_rsv ..)).trans (congrArg Except.ok (congr (congrArg Instr.collAgath (wordCP_eng ..)) (wordCP_of ..)))

theorem collBcast (e : Eng) (c : CpFields) : Statement (.collBcast e c) := by
  refine two _ (wordCP 0x13#8 e c) (wordCP1 e c) rfl (wordCP_long ..) ?_
  rw [wordCP_decode, decodeCopy, wordCP_op]
  exact (ifZero_ok _ (wordCP_rsv ..)).trans (congrArg Except.ok (congr (congrArg Instr.collBcast (wordCP_eng ..)) (wordCP_of ..)))

theorem collClose (e : Eng) (c : CpFields) : Statement (.collClose e c) := by
  refine two _ (wordCP 0x14#8 e c) (wordCP1 e c) rfl (wordCP_long ..) ?_
  rw [wordCP_decode, decodeCopy, wordCP_op]
  exact (ifZero_ok _ (wordCP_rsv ..)).trans (congrArg Except.ok (congr (congrArg Instr.collClose (wordCP_eng ..)) (wordCP_of ..)))

theorem send (e : Eng) (c : CpFields) : Statement (.send e c) := by
  refine two _ (wordCP 0x18#8 e c) (wordCP1 e c) rfl (wordCP_long ..) ?_
  rw [wordCP_decode, decodeCopy, wordCP_op]
  exact (ifZero_ok _ (wordCP_rsv ..)).trans (congrArg Except.ok (congr (congrArg Instr.send (wordCP_eng ..)) (wordCP_of ..)))

theorem recv (e : Eng) (c : CpFields) : Statement (.recv e c) := by
  refine two _ (wordCP 0x19#8 e c) (wordCP1 e c) rfl (wordCP_long ..) ?_
  rw [wordCP_decode, decodeCopy, wordCP_op]
  exact (ifZero_ok _ (wordCP_rsv ..)).trans (congrArg Except.ok (congr (congrArg Instr.recv (wordCP_eng ..)) (wordCP_of ..)))

theorem japp (e : Eng) (c : CpFields) : Statement (.japp e c) := by
  refine two _ (wordCP 0x20#8 e c) (wordCP1 e c) rfl (wordCP_long ..) ?_
  rw [wordCP_decode, decodeCopy, wordCP_op]
  exact (ifZero_ok _ (wordCP_rsv ..)).trans (congrArg Except.ok (congr (congrArg Instr.japp (wordCP_eng ..)) (wordCP_of ..)))

theorem jwait (e : Eng) (c : CpFields) : Statement (.jwait e c) := by
  refine two _ (wordCP 0x21#8 e c) (wordCP1 e c) rfl (wordCP_long ..) ?_
  rw [wordCP_decode, decodeCopy, wordCP_op]
  exact (ifZero_ok _ (wordCP_rsv ..)).trans (congrArg Except.ok (congr (congrArg Instr.jwait (wordCP_eng ..)) (wordCP_of ..)))

theorem jfetch (e : Eng) (c : CpFields) : Statement (.jfetch e c) := by
  refine two _ (wordCP 0x22#8 e c) (wordCP1 e c) rfl (wordCP_long ..) ?_
  rw [wordCP_decode, decodeCopy, wordCP_op]
  exact (ifZero_ok _ (wordCP_rsv ..)).trans (congrArg Except.ok (congr (congrArg Instr.jfetch (wordCP_eng ..)) (wordCP_of ..)))

theorem glzPost (e : Eng) (c : CpFields) : Statement (.glzPost e c) := by
  refine two _ (wordCP 0x28#8 e c) (wordCP1 e c) rfl (wordCP_long ..) ?_
  rw [wordCP_decode, decodeCopy, wordCP_op]
  exact (ifZero_ok _ (wordCP_rsv ..)).trans (congrArg Except.ok (congr (congrArg Instr.glzPost (wordCP_eng ..)) (wordCP_of ..)))

theorem glzWait (e : Eng) (c : CpFields) : Statement (.glzWait e c) := by
  refine two _ (wordCP 0x29#8 e c) (wordCP1 e c) rfl (wordCP_long ..) ?_
  rw [wordCP_decode, decodeCopy, wordCP_op]
  exact (ifZero_ok _ (wordCP_rsv ..)).trans (congrArg Except.ok (congr (congrArg Instr.glzWait (wordCP_eng ..)) (wordCP_of ..)))

theorem binit (e : Eng) (y : SyFields) : Statement (.binit e y) := by
  refine two _ (wordSY 0x00#8 e y) (wordSY1 e y) rfl (wordSY_long ..) ?_
  rw [wordSY_decode, decodeSync, wordSY_op]
  exact (ifZero_ok _ (wordSY_rsv ..)).trans (congrArg Except.ok (congr (congrArg Instr.binit (wordSY_eng ..)) (wordSY_of ..)))

theorem bexpect (e : Eng) (y : SyFields) : Statement (.bexpect e y) := by
  refine two _ (wordSY 0x01#8 e y) (wordSY1 e y) rfl (wordSY_long ..) ?_
  rw [wordSY_decode, decodeSync, wordSY_op]
  exact (ifZero_ok _ (wordSY_rsv ..)).trans (congrArg Except.ok (congr (congrArg Instr.bexpect (wordSY_eng ..)) (wordSY_of ..)))

theorem barrive (e : Eng) (y : SyFields) : Statement (.barrive e y) := by
  refine two _ (wordSY 0x02#8 e y) (wordSY1 e y) rfl (wordSY_long ..) ?_
  rw [wordSY_decode, decodeSync, wordSY_op]
  exact (ifZero_ok _ (wordSY_rsv ..)).trans (congrArg Except.ok (congr (congrArg Instr.barrive (wordSY_eng ..)) (wordSY_of ..)))

theorem bwait (e : Eng) (y : SyFields) : Statement (.bwait e y) := by
  refine two _ (wordSY 0x03#8 e y) (wordSY1 e y) rfl (wordSY_long ..) ?_
  rw [wordSY_decode, decodeSync, wordSY_op]
  exact (ifZero_ok _ (wordSY_rsv ..)).trans (congrArg Except.ok (congr (congrArg Instr.bwait (wordSY_eng ..)) (wordSY_of ..)))

theorem btest (e : Eng) (y : SyFields) : Statement (.btest e y) := by
  refine two _ (wordSY 0x04#8 e y) (wordSY1 e y) rfl (wordSY_long ..) ?_
  rw [wordSY_decode, decodeSync, wordSY_op]
  exact (ifZero_ok _ (wordSY_rsv ..)).trans (congrArg Except.ok (congr (congrArg Instr.btest (wordSY_eng ..)) (wordSY_of ..)))

theorem rinit (e : Eng) (y : SyFields) : Statement (.rinit e y) := by
  refine two _ (wordSY 0x08#8 e y) (wordSY1 e y) rfl (wordSY_long ..) ?_
  rw [wordSY_decode, decodeSync, wordSY_op]
  exact (ifZero_ok _ (wordSY_rsv ..)).trans (congrArg Except.ok (congr (congrArg Instr.rinit (wordSY_eng ..)) (wordSY_of ..)))

theorem rwaitf (e : Eng) (y : SyFields) : Statement (.rwaitf e y) := by
  refine two _ (wordSY 0x09#8 e y) (wordSY1 e y) rfl (wordSY_long ..) ?_
  rw [wordSY_decode, decodeSync, wordSY_op]
  exact (ifZero_ok _ (wordSY_rsv ..)).trans (congrArg Except.ok (congr (congrArg Instr.rwaitf (wordSY_eng ..)) (wordSY_of ..)))

theorem rrel (e : Eng) (y : SyFields) : Statement (.rrel e y) := by
  refine two _ (wordSY 0x0A#8 e y) (wordSY1 e y) rfl (wordSY_long ..) ?_
  rw [wordSY_decode, decodeSync, wordSY_op]
  exact (ifZero_ok _ (wordSY_rsv ..)).trans (congrArg Except.ok (congr (congrArg Instr.rrel (wordSY_eng ..)) (wordSY_of ..)))

theorem patch (index : BitVec 6) (select : BitVec 4) (value : BitVec 16) : Statement (.patch index select value) := by
  have m : fld (0x30#6 ++ index ++ select ++ value) 26 6 = 0x30#6 := by
    simp (disch := decide) only [fld, extract_hi, extract_all, Nat.reduceSub]
  refine one _ (0x30#6 ++ index ++ select ++ value) rfl (by simp [isLong, majorOf, m]) ?_
  simp only [decodeFields, majorOf, m]
  simp (disch := decide) only [fld, extract_hi, extract_lo, extract_all, Nat.reduceSub]
  rfl

theorem tload (p : BitVec 4) (sa : BitVec 5) : Statement (.tload p sa) := by
  have m : fld (0x31#6 ++ p ++ 0#1 ++ sa ++ 0#16) 26 6 = 0x31#6 := by
    simp (disch := decide) only [fld, extract_hi, extract_all, Nat.reduceSub]
  refine one _ (0x31#6 ++ p ++ 0#1 ++ sa ++ 0#16) rfl (by simp [isLong, majorOf, m]) ?_
  simp only [decodeFields, majorOf, m, decodeTable]
  simp (disch := decide) only [fld, extract_hi, extract_lo, extract_all, Nat.reduceSub]
  rfl

theorem krules (p : BitVec 4) (sa : BitVec 5) : Statement (.krules p sa) := by
  have m : fld (0x31#6 ++ p ++ 1#1 ++ sa ++ 0#16) 26 6 = 0x31#6 := by
    simp (disch := decide) only [fld, extract_hi, extract_all, Nat.reduceSub]
  refine one _ (0x31#6 ++ p ++ 1#1 ++ sa ++ 0#16) rfl (by simp [isLong, majorOf, m]) ?_
  simp only [decodeFields, majorOf, m, decodeTable]
  simp (disch := decide) only [fld, extract_hi, extract_lo, extract_all, Nat.reduceSub]
  rfl

theorem kneadGroupIssue (entry : Nat) : Statement (.kneadGroupIssue entry) := event _ rfl
theorem engineInstructionCompletion (crew op : Nat) : Statement (.engineInstructionCompletion crew op) := event _ rfl
theorem asyncTrapEntry (crew : Nat) (k : StrandKind) : Statement (.asyncTrapEntry crew k) := event _ rfl
theorem waittWake (crew : Nat) (k : StrandKind) (at_ : Word) : Statement (.waittWake crew k at_) := event _ rfl
theorem jwaitDeadline (crew : Nat) (sd : BitVec 5) (pd : BitVec 3) (chained : Nat) : Statement (.jwaitDeadline crew sd pd chained) := event _ rfl
theorem watchdogExpiry (crew : Nat) (k : StrandKind) : Statement (.watchdogExpiry crew k) := event _ rfl
theorem leaseGrant (cu : Nat) : Statement (.leaseGrant cu) := event _ rfl
theorem leaseLimit (cu : Nat) : Statement (.leaseLimit cu) := event _ rfl
theorem rampStep (cu : Nat) : Statement (.rampStep cu) := event _ rfl
theorem copyUnit (crew op : Nat) : Statement (.copyUnit crew op) := event _ rfl
theorem copyCompletion (crew op : Nat) : Statement (.copyCompletion crew op) := event _ rfl
theorem fabricOpCompletion (crew op : Nat) : Statement (.fabricOpCompletion crew op) := event _ rfl
theorem collectiveChunk (chunk : Chunk) : Statement (.collectiveChunk chunk) := event _ rfl
theorem sendData (chunk : Chunk) : Statement (.sendData chunk) := event _ rfl
theorem remoteAccess (acc : RemoteReq) : Statement (.remoteAccess acc) := event _ rfl
theorem acknowledgement (tag : Nat) (data : List Byte) : Statement (.acknowledgement tag data) := event _ rfl
theorem journalArrival (group : Nat) (src : Nat) (entry : List Byte) (fetched : Bool) : Statement (.journalArrival group src entry fetched) := event _ rfl
theorem jfetchRequest (group : Nat) (src : Nat) (first count : Nat) : Statement (.jfetchRequest group src first count) := event _ rfl
theorem jappResend (crew op : Nat) : Statement (.jappResend crew op) := event _ rfl
theorem flitReceive (port : Nat) (flit : List Byte) : Statement (.flitReceive port flit) := event _ rfl
theorem retryRequest (port seq : Nat) : Statement (.retryRequest port seq) := event _ rfl
theorem portRetrain (port : Nat) (ok : Bool) : Statement (.portRetrain port ok) := event _ rfl
theorem glazeCardRun (crew card : Nat) : Statement (.glazeCardRun crew card) := event _ rfl
theorem glazeCardCompletion (crew card : Nat) : Statement (.glazeCardCompletion crew card) := event _ rfl
theorem translationWalk (cu fn : Nat) (va : Word) (need : BitVec 3) : Statement (.translationWalk cu fn va need) := event _ rfl
theorem clockSkewDetection (cu : Nat) (drift : Int) : Statement (.clockSkewDetection cu drift) := event _ rfl
theorem fqrespWrite (v : Word) : Statement (.fqrespWrite v) := event _ rfl
theorem fqheadWrite (v : Word) : Statement (.fqheadWrite v) := event _ rfl
theorem xrRootWrite (fn : Nat) (stage2 : Bool) (v : Word) : Statement (.xrRootWrite fn stage2 v) := event _ rfl
theorem fcmdWrite (v : Word) : Statement (.fcmdWrite v) := event _ rfl
theorem queueConfigWrite (q : Nat) (hi : Bool) (v : Word) : Statement (.queueConfigWrite q hi v) := event _ rfl
theorem tailWrite (q : Nat) (v : BitVec 32) : Statement (.tailWrite q v) := event _ rfl
theorem abortWrite (q : Nat) (v : BitVec 32) : Statement (.abortWrite q v) := event _ rfl
theorem functionLevelReset (vf : Nat) : Statement (.functionLevelReset vf) := event _ rfl
theorem launchRecordRead (q : Nat) : Statement (.launchRecordRead q) := event _ rfl
theorem tilePreloadComplete (crew : Nat) : Statement (.tilePreloadComplete crew) := event _ rfl
theorem taskCompletion (crew : Nat) : Statement (.taskCompletion crew) := event _ rfl
theorem launchCompletion (launch : Nat) : Statement (.launchCompletion launch) := event _ rfl
theorem accountRecordEviction (crew : Nat) : Statement (.accountRecordEviction crew) := event _ rfl
theorem accountCountOverflow (crew : Nat) : Statement (.accountCountOverflow crew) := event _ rfl
theorem preemptWrite (v : Word) : Statement (.preemptWrite v) := event _ rfl
theorem contextSave (crew : Nat) : Statement (.contextSave crew) := event _ rfl
theorem spillcfgWrite (v : Word) : Statement (.spillcfgWrite v) := event _ rfl
theorem stagecfgWrite (v : Word) : Statement (.stagecfgWrite v) := event _ rfl
theorem powerControlInterval (power temp0 temp1 : Nat) : Statement (.powerControlInterval power temp0 temp1) := event _ rfl
theorem pwrcfgWrite (v : Word) : Statement (.pwrcfgWrite v) := event _ rfl
theorem rowcapWrite (v : BitVec 16) : Statement (.rowcapWrite v) := event _ rfl
theorem uncorrectableError (who : Consumer) (unit sub : Nat) (pa : Word) : Statement (.uncorrectableError who unit sub pa) := event _ rfl
theorem bootStart (passes : List (Nat × Bool)) : Statement (.bootStart passes) := event _ rfl
theorem bootclr (v : Word) : Statement (.bootclr v) := event _ rfl
theorem bootctl (v : Word) : Statement (.bootctl v) := event _ rfl
theorem fwsvn (v : Word) : Statement (.fwsvn v) := event _ rfl
theorem attctlGo (i3c : Bool) : Statement (.attctlGo i3c) := event _ rfl
theorem telesnap (v : Word) : Statement (.telesnap v) := event _ rfl
theorem counterBankWrite (tenant k : Nat) (v : Word) : Statement (.counterBankWrite tenant k v) := event _ rfl
theorem recorderConfigWrite (q : Nat) (hi : Bool) (v : Word) : Statement (.recorderConfigWrite q hi v) := event _ rfl
theorem registerWrite (reg : HostReg) (v : Word) : Statement (.registerWrite reg v) := event _ rfl
theorem unassignedEncoding (w0 w1 : W32) : Statement (.unassignedEncoding w0 w1) := event _ rfl
theorem instructionFetchFault (cause : Nat) (tval : Word) : Statement (.instructionFetchFault cause tval) := event _ rfl
theorem zeroingComplete (what : ZeroTarget) : Statement (.zeroingComplete what) := event _ rfl
theorem clockCopyResync (cu : Nat) : Statement (.clockCopyResync cu) := event _ rfl
theorem correctedSoftError (unit sub : Nat) (pa : Word) (overflow : Bool) : Statement (.correctedSoftError unit sub pa overflow) := event _ rfl
theorem cxlMemAccess (write : Bool) (pa : Nat) (data : List Byte) : Statement (.cxlMemAccess write pa data) := event _ rfl
theorem reductionContextClaim  : Statement (.reductionContextClaim) := event _ rfl
theorem translationExpiry  : Statement (.translationExpiry) := event _ rfl
theorem frameFormatComplete  : Statement (.frameFormatComplete) := event _ rfl
theorem dispatch  : Statement (.dispatch) := event _ rfl
theorem priorityAging  : Statement (.priorityAging) := event _ rfl
theorem epochBoundary  : Statement (.epochBoundary) := event _ rfl
theorem partitionExamination  : Statement (.partitionExamination) := event _ rfl
theorem attestationReportComplete  : Statement (.attestationReportComplete) := event _ rfl
theorem telesnapComplete  : Statement (.telesnapComplete) := event _ rfl

end RoundTrip
end Sys2Proof.Laws
end

