-- ==== Sys2Proof/Safety.lean ====
section
/-! DEFINITION. The terms in which statements speak of steps: what completes, what stays as it was, and what every step
keeps. -/
namespace Sys2Proof.Machine

/-- The instruction completes in this state: exec answers a next state. -/
def Completes (i : Instr) (s : State) : Prop := ∃ t, exec i s = .next t

/-- Every byte of memory reads as before. -/
def SameMemory (s t : State) : Prop := ∀ a, memByte t.mem a = memByte s.mem a

/-- Every byte of memory outside n bytes from key k reads as before. -/
def SameMemoryOff (k n : Nat) (s t : State) : Prop := ∀ a, a < k ∨ k + n ≤ a → memByte t.mem a = memByte s.mem a

/-- No step from this state stops the device with a fault. -/
def StepSafe (s : State) : Prop := ∀ f, step s ≠ .fault f

/-! ## When an instruction executes -/

/-- The strand kinds that may execute an instruction (spec 09 R152): engine instructions their own strand, scalar
memory and barriers the scalar and copy strands, tokens and gsync the scalar strand, rule tables the strands that have
them. No strand executes an event of the table. -/
def strandKinds : Instr → List StrandKind
  | .exit _ | .yield _ | .yieldSafe _ | .tret _ | .trap _ _ | .bkpt _ _ | .acctflush _ | .fence _ _ _ | .mfsr _ _ _
  | .mtsr _ _ _ | .waitt _ _ | .qwr _ _ _ _ | .qrd _ _ _ _ | .add _ _ _ _ | .sub _ _ _ _ | .and _ _ _ _
  | .or _ _ _ _ | .xor _ _ _ _ | .sll _ _ _ _ | .srl _ _ _ _ | .sra _ _ _ _ | .mul _ _ _ _ | .mulh _ _ _ _
  | .mulhu _ _ _ _ | .div _ _ _ _ | .divu _ _ _ _ | .rem _ _ _ _ | .remu _ _ _ _ | .min _ _ _ _ | .max _ _ _ _
  | .minu _ _ _ _ | .maxu _ _ _ _ | .clz _ _ _ | .ctz _ _ _ | .popc _ _ _ | .addi _ _ _ | .andi _ _ _ | .ori _ _ _
  | .xori _ _ _ | .slli _ _ _ | .srli _ _ _ | .srai _ _ _ | .lui _ _ | .cmp _ _ _ _ _ | .cmpi _ _ _ _
  | .pand _ _ _ _ | .por _ _ _ _ | .pxor _ _ _ _ | .pandn _ _ _ _ | .porn _ _ _ _ | .lea _ _ _ _ | .tag _ _ _ _
  | .space _ _ _ | .rng _ _ | .rngc _ _ _ | .br _ _ | .jmp _ | .call _ | .jr _ _ | .callr _ _ | .loop _ _ _ _
  | .li32 _ _ _ | .lih _ _ _ | .patch _ _ _ | .tload _ _ => anyKind
  | .ldb _ _ _ | .ldbu _ _ _ | .ldh _ _ _ | .ldhu _ _ _ | .ldw _ _ _ | .ldwu _ _ _ | .ldd _ _ _ | .stb _ _ _
  | .sth _ _ _ | .stw _ _ _ | .std _ _ _ | .ldx _ _ _ _ _ _ _ _ _ | .stx _ _ _ _ _ _ _ _ | .ldxAcq _ _ _ _ _ _ _ _
  | .stxRel _ _ _ _ _ _ _ _ | .amoAdd _ _ _ _ _ _ | .amoMin _ _ _ _ _ _ | .amoMax _ _ _ _ _ _
  | .amoMinu _ _ _ _ _ _ | .amoMaxu _ _ _ _ _ _ | .amoAnd _ _ _ _ _ _ | .amoOr _ _ _ _ _ _ | .amoXor _ _ _ _ _ _
  | .amoSwp _ _ _ _ _ _ | .cas _ _ _ _ _ _ _ | .amoFadd _ _ _ _ _ | .binit _ _ | .bexpect _ _ | .barrive _ _
  | .bwait _ _ | .btest _ _ | .rinit _ _ | .rwaitf _ _ | .rrel _ _ => memKinds
  | .tkpush _ _ | .tkpop _ _ | .gsync _ _ => [.s]
  | .vadd _ _ | .vsub _ _ | .vmul _ _ | .vfma _ _ | .vmin _ _ | .vmax _ _ | .vabs _ _ | .vneg _ _ | .vexp2 _ _
  | .vlog2 _ _ | .vrcp _ _ | .vrsqrt _ _ | .vtanh _ _ | .vand _ _ | .vor _ _ | .vxor _ _ | .vshl _ _ | .vshr _ _
  | .vsra _ _ | .vcmpEq _ _ | .vcmpNe _ _ | .vcmpLt _ _ | .vcmpLe _ _ | .vsel _ _ | .vcvt _ _ | .vqblk _ _
  | .vunpk _ _ | .vdrop _ _ | .vrsum _ _ | .vrmax _ _ | .vrmin _ _ | .vmov _ _ | .vshuf _ _ | .viota _ _
  | .vsplat _ _ | .vld _ _ | .vst _ _ | .vldt _ _ | .vgath _ _ | .vrng _ _ | .vtrn _ _ => [.v]
  | .alease _ _ | .arelease _ _ | .lds _ _ | .ldsP _ _ | .ldsCb _ _ | .ldsBs _ _ | .mswap _ _ | .mmul _ _
  | .mmulBs _ _ | .mdrain _ _ | .mzero _ _ | .mcbt _ _ => [.m]
  | .cpy _ _ | .cpyLd _ _ | .cpySt _ _ | .cgath _ _ | .cscat _ _ | .cred _ _ | .cpref _ _ | .cring _ _
  | .collOpen _ _ | .collAred _ _ | .collAgath _ _ | .collBcast _ _ | .collClose _ _ | .send _ _ | .recv _ _
  | .japp _ _ | .jwait _ _ | .jfetch _ _ | .glzPost _ _ | .glzWait _ _ => [.c]
  | .krules _ _ => [.v, .m]
  | .kneadGroupIssue _ | .engineInstructionCompletion _ _ | .asyncTrapEntry _ _ | .waittWake _ _ _
  | .jwaitDeadline _ _ _ _ | .watchdogExpiry _ _ | .leaseGrant _ | .leaseLimit _ | .rampStep _ | .copyUnit _ _
  | .copyCompletion _ _ | .fabricOpCompletion _ _ | .collectiveChunk _ | .sendData _ | .remoteAccess _
  | .acknowledgement _ _ | .journalArrival _ _ _ _ | .jfetchRequest _ _ _ _ | .jappResend _ _ | .flitReceive _ _
  | .retryRequest _ _ | .portRetrain _ _ | .glazeCardRun _ _ | .glazeCardCompletion _ _ | .translationWalk _ _ _ _
  | .clockSkewDetection _ _ | .fqrespWrite _ | .fqheadWrite _ | .xrRootWrite _ _ _ | .fcmdWrite _
  | .queueConfigWrite _ _ _ | .tailWrite _ _ | .abortWrite _ _ | .functionLevelReset _ | .launchRecordRead _
  | .tilePreloadComplete _ | .taskCompletion _ | .launchCompletion _ | .accountRecordEviction _
  | .accountCountOverflow _ | .preemptWrite _ | .contextSave _ | .spillcfgWrite _ | .stagecfgWrite _
  | .powerControlInterval _ _ _ | .pwrcfgWrite _ | .rowcapWrite _ | .uncorrectableError _ _ _ _ | .bootStart _
  | .bootclr _ | .bootctl _ | .fwsvn _ | .attctlGo _ | .telesnap _ | .counterBankWrite _ _ _
  | .recorderConfigWrite _ _ _ | .registerWrite _ _ | .unassignedEncoding _ _ | .instructionFetchFault _ _
  | .zeroingComplete _ | .clockCopyResync _ | .correctedSoftError _ _ _ _ | .cxlMemAccess _ _ _
  | .reductionContextClaim | .translationExpiry | .frameFormatComplete | .dispatch | .priorityAging
  | .epochBoundary | .partitionExamination | .attestationReportComplete | .telesnapComplete => []

/-- The predicate field of an instruction; a format without one always executes (spec 09 R140). -/
def predField : Instr → BitVec 4
  | .exit p | .yield p | .yieldSafe p | .tret p | .trap p _ | .bkpt p _ | .acctflush p | .fence p _ _ | .mfsr p _ _
  | .mtsr p _ _ | .waitt p _ | .tkpush p _ | .tkpop p _ | .gsync p _ | .qwr p _ _ _ | .qrd p _ _ _ | .add p _ _ _
  | .sub p _ _ _ | .and p _ _ _ | .or p _ _ _ | .xor p _ _ _ | .sll p _ _ _ | .srl p _ _ _ | .sra p _ _ _
  | .mul p _ _ _ | .mulh p _ _ _ | .mulhu p _ _ _ | .div p _ _ _ | .divu p _ _ _ | .rem p _ _ _ | .remu p _ _ _
  | .min p _ _ _ | .max p _ _ _ | .minu p _ _ _ | .maxu p _ _ _ | .clz p _ _ | .ctz p _ _ | .popc p _ _
  | .cmp p _ _ _ _ | .pand p _ _ _ | .por p _ _ _ | .pxor p _ _ _ | .pandn p _ _ _ | .porn p _ _ _ | .lea p _ _ _
  | .tag p _ _ _ | .space p _ _ | .rng p _ | .rngc p _ _ | .br p _ | .jr p _ | .callr p _ | .ldx p _ _ _ _ _ _ _ _
  | .stx p _ _ _ _ _ _ _ | .ldxAcq p _ _ _ _ _ _ _ | .stxRel p _ _ _ _ _ _ _ | .amoAdd p _ _ _ _ _
  | .amoMin p _ _ _ _ _ | .amoMax p _ _ _ _ _ | .amoMinu p _ _ _ _ _ | .amoMaxu p _ _ _ _ _ | .amoAnd p _ _ _ _ _
  | .amoOr p _ _ _ _ _ | .amoXor p _ _ _ _ _ | .amoSwp p _ _ _ _ _ | .cas p _ _ _ _ _ _ | .amoFadd p _ _ _ _
  | .li32 p _ _ | .lih p _ _ | .tload p _ | .krules p _ => p
  | .vadd e _ | .vsub e _ | .vmul e _ | .vfma e _ | .vmin e _ | .vmax e _ | .vabs e _ | .vneg e _ | .vexp2 e _
  | .vlog2 e _ | .vrcp e _ | .vrsqrt e _ | .vtanh e _ | .vand e _ | .vor e _ | .vxor e _ | .vshl e _ | .vshr e _
  | .vsra e _ | .vcmpEq e _ | .vcmpNe e _ | .vcmpLt e _ | .vcmpLe e _ | .vsel e _ | .vcvt e _ | .vqblk e _
  | .vunpk e _ | .vdrop e _ | .vrsum e _ | .vrmax e _ | .vrmin e _ | .vmov e _ | .vshuf e _ | .viota e _
  | .vsplat e _ | .vld e _ | .vst e _ | .vldt e _ | .vgath e _ | .vrng e _ | .vtrn e _ | .alease e _
  | .arelease e _ | .lds e _ | .ldsP e _ | .ldsCb e _ | .ldsBs e _ | .mswap e _ | .mmul e _ | .mmulBs e _
  | .mdrain e _ | .mzero e _ | .mcbt e _ | .cpy e _ | .cpyLd e _ | .cpySt e _ | .cgath e _ | .cscat e _ | .cred e _
  | .cpref e _ | .cring e _ | .collOpen e _ | .collAred e _ | .collAgath e _ | .collBcast e _ | .collClose e _
  | .send e _ | .recv e _ | .japp e _ | .jwait e _ | .jfetch e _ | .glzPost e _ | .glzWait e _ | .binit e _
  | .bexpect e _ | .barrive e _ | .bwait e _ | .btest e _ | .rinit e _ | .rwaitf e _ | .rrel e _ => e.p
  | .addi _ _ _ | .andi _ _ _ | .ori _ _ _ | .xori _ _ _ | .slli _ _ _ | .srli _ _ _ | .srai _ _ _ | .lui _ _
  | .cmpi _ _ _ _ | .jmp _ | .call _ | .loop _ _ _ _ | .ldb _ _ _ | .ldbu _ _ _ | .ldh _ _ _ | .ldhu _ _ _
  | .ldw _ _ _ | .ldwu _ _ _ | .ldd _ _ _ | .stb _ _ _ | .sth _ _ _ | .stw _ _ _ | .std _ _ _ | .patch _ _ _
  | .kneadGroupIssue _ | .engineInstructionCompletion _ _ | .asyncTrapEntry _ _ | .waittWake _ _ _
  | .jwaitDeadline _ _ _ _ | .watchdogExpiry _ _ | .leaseGrant _ | .leaseLimit _ | .rampStep _ | .copyUnit _ _
  | .copyCompletion _ _ | .fabricOpCompletion _ _ | .collectiveChunk _ | .sendData _ | .remoteAccess _
  | .acknowledgement _ _ | .journalArrival _ _ _ _ | .jfetchRequest _ _ _ _ | .jappResend _ _ | .flitReceive _ _
  | .retryRequest _ _ | .portRetrain _ _ | .glazeCardRun _ _ | .glazeCardCompletion _ _ | .translationWalk _ _ _ _
  | .clockSkewDetection _ _ | .fqrespWrite _ | .fqheadWrite _ | .xrRootWrite _ _ _ | .fcmdWrite _
  | .queueConfigWrite _ _ _ | .tailWrite _ _ | .abortWrite _ _ | .functionLevelReset _ | .launchRecordRead _
  | .tilePreloadComplete _ | .taskCompletion _ | .launchCompletion _ | .accountRecordEviction _
  | .accountCountOverflow _ | .preemptWrite _ | .contextSave _ | .spillcfgWrite _ | .stagecfgWrite _
  | .powerControlInterval _ _ _ | .pwrcfgWrite _ | .rowcapWrite _ | .uncorrectableError _ _ _ _ | .bootStart _
  | .bootclr _ | .bootctl _ | .fwsvn _ | .attctlGo _ | .telesnap _ | .counterBankWrite _ _ _
  | .recorderConfigWrite _ _ _ | .registerWrite _ _ | .unassignedEncoding _ _ | .instructionFetchFault _ _
  | .zeroingComplete _ | .clockCopyResync _ | .correctedSoftError _ _ _ _ | .cxlMemAccess _ _ _
  | .reductionContextClaim | .translationExpiry | .frameFormatComplete | .dispatch | .priorityAging
  | .epochBoundary | .partitionExamination | .attestationReportComplete | .telesnapComplete => always

/-- The instruction executes in the strand in focus: its kind may execute it, nothing has yet to write its predicate
or a register or predicate that it uses (spec 10 R162), and its predicate holds (R140, R142). -/
def Issues (s : State) (i : Instr) : Prop :=
  s.cur.2 ∈ strandKinds i ∧ predWait s (predField i) = none ∧ interlock s i = none ∧ s.me.predHolds (predField i) = true

/-- The instruction executes and does not stand with only its posts to make (spec 02 R21). -/
def IssuesHeld (s : State) (i : Instr) : Prop := Issues s i ∧ s.me.owed = false

/-- No earlier access of the strand that another device has yet to perform comes before one of class c (spec 04 R59,
R62). -/
def InOrder (s : State) (c : Nat) : Prop := classHeld s c = false

/-- Every earlier access of the strand has been performed: a release may act (spec 02 R22). -/
def Released (s : State) : Prop := mine s = []

/-- No hardware loop of the strand in focus ends at its PC (spec 10 R173). -/
def NoLoopEnd (s : State) : Prop := innermostAt s.me s.me.pc = none

/-- The instruction completes in this state: exec answers a next state, which is the end (retire) of the instruction in
state u, with n issue slots used. -/
def EndsIn (i : Instr) (s u : State) (n : Nat := 1) : Prop := exec i s = .next (retire i u n)

/-- The instruction completes with the value v written to register sd of its strand and nothing else changed but by its
end. -/
def SetsReg (i : Instr) (s : State) (sd : BitVec 5) (v : Word) (n : Nat := 1) : Prop :=
  EndsIn i s (s.setMe (s.me.setReg sd v)) n

/-- The instruction completes with the value b written to predicate pd. -/
def SetsPred (i : Instr) (s : State) (pd : BitVec 3) (b : Bool) : Prop := EndsIn i s (s.setMe (s.me.setPred pd b))

/-- The instruction takes a synchronous trap at its own PC with a cause and TVAL. -/
def Traps (i : Instr) (s : State) (cause : Nat) (tval : Word) : Prop := exec i s = .next (trapMe s cause tval)

/-- The strand waits at the instruction, charged to cause q, with the state otherwise u. -/
def Waits (i : Instr) (s : State) (q : Nat) (u : State) : Prop := exec i s = .next (holdMe q u)

/-- An aligned access of n bytes at a reaches the bytes of this device at key k: the checks of spec 10 R176 pass; s1
is the state with the translations that the access has cached. -/
def Reaches (s : State) (a : Word) (n z : Nat) (need : BitVec 3) (s1 : State) (k : Nat) : Prop :=
  pointerCheck a n z n a = none ∧ placesOf s a n z need = .ok (s1, [(k, n)]) ∧ isWindowKey k = false

/-! ## When an engine instruction starts -/

/-- The gate of an engine instruction is open (spec 02 R16, R17, R21; 03 R54; 11 R194): its crew's tiles are not being
zeroed, no tile operand makes it wait, no ring row that it reads is still being produced, and its wait tokens are
there. -/
def GateOpen (s : State) (e : Eng) (u : TileUse) (reads : List RowSpec) : Prop :=
  s.myCrew.zeroing = false ∧ u.waits s.myCrew s.cur.2 = false ∧ (∀ r ∈ reads, ringWaits s.myCrew r = false) ∧ s.myCrew.canTake s.cur.2 e.wait = true

/-- A V group instruction that starts (11 R193 to R196): its gate is open, its sources are the rows, in order, and its
destination is d, every row that a register names lying in its tile. -/
def VStarts (s : State) (e : Eng) (v : VFields) (reads : List (RowSpec × BitVec 1)) (rows : List Row) (d : Option (Nat × Nat)) :
    Prop :=
  GateOpen s e (useOf reads (rowSpec v.dst) v.f) (reads.map Prod.fst) ∧
    readRows s.myCrew s.me (reads.map Prod.fst) = .ok rows ∧ (rowSpec v.dst).place s.me = .ok d

/-- The instruction completes for its strand by starting with the result row, the strand being x after its draws. -/
def VGives (i : Instr) (s : State) (e : Eng) (v : VFields) (reads : List (RowSpec × BitVec 1)) (d : Option (Nat × Nat))
    (row : Row) (x : Strand) : Prop :=
  EndsIn i s (startVector (s.setMe x) e (useOf reads (rowSpec v.dst) v.f) d row)

/-- A matrix instruction that starts (12 R219 to R221): an array instruction's crew holds the lease, which is not
ending, and its planes are not being zeroed; its gate is open and the unit it needs is free. -/
def MStarts (s : State) (e : Eng) (u : TileUse) (array busy : Bool) : Prop :=
  (array = true → holdsLease s s.cur.1 = true ∧ leaseEnding s (cuOf s.cur.1) = false ∧ planesZeroing s = false) ∧
    GateOpen s e u [] ∧ busy = false

/-- The matrix instruction completes for its strand by starting operation o, counted on the lease if it is an array
instruction. -/
def MGives (i : Instr) (s : State) (e : Eng) (u : TileUse) (array : Bool) (s1 : State) (o : EngOp) : Prop :=
  EndsIn i s (if array then countArray (startOp s1 e u { o with isArray := true }) else startOp s1 e u o)

/-- An operation of the copy engine may start (13 R242; 14 R265; 03 R54): the engine has room, no earlier access of
the strand comes before its class, and no object that it names is being zeroed. -/
def EngineOpen (s : State) (e : Eng) (objs : List Word) : Prop := startWait s false e.cls.toNat objs = none

/-- A copy that starts (13 R241, R242; 04 R72): its gate is open, the slot of a cring is free, the engine is open, and
its descriptor and the ring object of a cring pass every check. -/
def CopyReady (s : State) (i : Instr) (opc : Nat) (e : Eng) (c : CpFields) (ring : List Word) : Prop :=
  let r := s.me.regsFrom c.sn 8
  GateOpen s e (copyUse opc c) [] ∧ ringFull s opc r = false ∧ EngineOpen s e (dObjects opc r) ∧ dCheck s i opc c r = .ok () ∧
    (if opc = 7 then ringCheck s i c r = .ok ring else ring = [])

/-- An instruction that its strand waits at performs its effect (02 R21, R22): it takes its wait tokens; then it makes
its posts and completes; while a counter of its post mask is at 15 it waits charged to TOKEN_WAIT, and while an access
that its post covers has yet to be performed charged to MEM_WAIT, with only its posts to make. -/
def Performs (i : Instr) (e : Eng) (s u : State) : Prop :=
  let v := u.setMyCrew (u.myCrew.take u.cur.2 e.wait)
  let owing := v.setMe { v.me with owed := true }
  let may := v.myCrew.canPost v.cur.2 e.post = true
  (may → e.post = 0#3 ∨ Released v → EndsIn i s (v.setMyCrew (v.myCrew.post v.cur.2 e.post))) ∧
    (may → e.post ≠ 0#3 → ¬Released v → Waits i s qMem owing) ∧ (¬may → Waits i s qToken owing)

/-- An instruction that its strand waits at may have its effect (02 R21, R22; 04 R59): its wait tokens are there, and no
earlier access of the strand that has yet to be performed comes before it. -/
def MayPerform (s : State) (e : Eng) (release : Bool := false) : Prop :=
  s.myCrew.canTake s.cur.2 e.wait = true ∧ InOrder s e.cls.toNat ∧ (release = true → Released s)

end Sys2Proof.Machine
end

