-- ==== Sys2Proof/Certificates/Slice0/Obligations.lean ====
section
/-! DEFINITION. The statements for the provers. Values are written as the rules of spec/ give them; how an instruction
ends (retire), transfers, traps (trapMe) and waits (holdMe) has statements of its own. -/
open Sys2Proof Sys2Proof.Machine

/-! ## Scalar arithmetic (10 R163 to R168) -/

/-- Register-register arithmetic (10 R163): the value that each form writes to sd, as the table gives it. -/
def Obligations.AluResults : Prop :=
  ∀ (s : State) (p : BitVec 4) (sd sa sb : BitVec 5),
    let a := s.me.reg sa
    let b := s.me.reg sb
    let n := b.toNat % 64
    ∀ f ∈ ([
      (.add p sd sa sb, BitVec.ofInt 64 (a.toInt + b.toInt)),
      (.sub p sd sa sb, BitVec.ofInt 64 (a.toInt - b.toInt)),
      (.and p sd sa sb, a &&& b),
      (.or p sd sa sb, a ||| b),
      (.xor p sd sa sb, a ^^^ b),
      (.sll p sd sa sb, BitVec.ofNat 64 (a.toNat * 2 ^ n)),
      (.srl p sd sa sb, BitVec.ofNat 64 (a.toNat / 2 ^ n)),
      (.sra p sd sa sb, BitVec.ofInt 64 (a.toInt / 2 ^ n)),
      (.mul p sd sa sb, BitVec.ofNat 64 (a.toNat * b.toNat)),
      (.mulh p sd sa sb, BitVec.ofInt 64 (a.toInt * b.toInt / 2 ^ 64)),
      (.mulhu p sd sa sb, BitVec.ofNat 64 (a.toNat * b.toNat / 2 ^ 64)),
      (.min p sd sa sb, BitVec.ofInt 64 (min a.toInt b.toInt)),
      (.max p sd sa sb, BitVec.ofInt 64 (max a.toInt b.toInt)),
      (.minu p sd sa sb, BitVec.ofNat 64 (min a.toNat b.toNat)),
      (.maxu p sd sa sb, BitVec.ofNat 64 (max a.toNat b.toNat))] : List (Instr × Word)),
      Issues s f.1 → SetsReg f.1 s sd f.2

/-- Division (10 R164): DIV0 with the dividend in TVAL and sd unchanged where TSTAT.div0_trap is 1, all ones and the
dividend where it is 0; otherwise the quotient towards zero and the remainder with the sign of the dividend. Each
takes 20 issue slots (19 R309). -/
def Obligations.DivisionResults : Prop :=
  ∀ (s : State) (p : BitVec 4) (sd sa sb : BitVec 5),
    let a := s.me.reg sa
    let b := s.me.reg sb
    ∀ f ∈ ([
      (.div p sd sa sb, BitVec.ofInt 64 (a.toInt.tdiv b.toInt), BitVec.allOnes 64),
      (.divu p sd sa sb, BitVec.ofNat 64 (a.toNat / b.toNat), BitVec.allOnes 64),
      (.rem p sd sa sb, BitVec.ofInt 64 (a.toInt.tmod b.toInt), a),
      (.remu p sd sa sb, BitVec.ofNat 64 (a.toNat % b.toNat), a)] : List (Instr × Word × Word)),
      Issues s f.1 →
        (b ≠ 0#64 → SetsReg f.1 s sd f.2.1 20) ∧
        (b = 0#64 → s.me.div0 = false → SetsReg f.1 s sd f.2.2 20) ∧
        (b = 0#64 → s.me.div0 = true → Traps f.1 s cDiv0 a)

/-- Immediates and wide constants (10 R165): the value that each form writes to sd. Counting bits (10 R163): leading
zeros, trailing zeros and ones; 64 for a zero operand. -/
def Obligations.ImmediatesAndCounts : Prop :=
  (∀ (s : State) (p : BitVec 4) (sd sa : BitVec 5) (imm : BitVec 16) (n : BitVec 6) (up : BitVec 21) (w : BitVec 32),
     let a := s.me.reg sa
     let i := BitVec.ofInt 64 imm.toInt
     ∀ f ∈ ([
       (.addi sd sa imm, BitVec.ofInt 64 (a.toInt + imm.toInt)),
       (.andi sd sa imm, a &&& i),
       (.ori sd sa imm, a ||| i),
       (.xori sd sa imm, a ^^^ i),
       (.slli sd sa n, BitVec.ofNat 64 (a.toNat * 2 ^ n.toNat)),
       (.srli sd sa n, BitVec.ofNat 64 (a.toNat / 2 ^ n.toNat)),
       (.srai sd sa n, BitVec.ofInt 64 (a.toInt / 2 ^ n.toNat)),
       (.lui sd up, BitVec.ofInt 64 (up.toInt * 2 ^ 16)),
       (.li32 p sd w, BitVec.ofInt 64 w.toInt),
       (.lih p sd w, BitVec.ofNat 64 (w.toNat * 2 ^ 32 + (s.me.reg sd).toNat % 2 ^ 32))] : List (Instr × Word)),
       Issues s f.1 → SetsReg f.1 s sd f.2) ∧
  (∀ (s : State) (p : BitVec 4) (sd sa : BitVec 5),
     let a := s.me.reg sa
     (Issues s (.clz p sd sa) → ∃ n : Nat, n ≤ 64 ∧ (∀ k < n, a.getLsbD (63 - k) = false) ∧
       (n < 64 → a.getLsbD (63 - n) = true) ∧ SetsReg (.clz p sd sa) s sd (BitVec.ofNat 64 n)) ∧
     (Issues s (.ctz p sd sa) → ∃ n : Nat, n ≤ 64 ∧ (∀ k < n, a.getLsbD k = false) ∧
       (n < 64 → a.getLsbD n = true) ∧ SetsReg (.ctz p sd sa) s sd (BitVec.ofNat 64 n)) ∧
     (Issues s (.popc p sd sa) →
       SetsReg (.popc p sd sa) s sd (BitVec.ofNat 64 ((List.range 64).map fun k => a.toNat / 2 ^ k % 2).sum)))

/-- Compares (10 R167): the formats C (major 0x08) and CI (major 0x09) hold cmp and cmpi; each sets pd to the truth of
its condition, cmp on two registers and cmpi on a register and the sign-extended immediate: eq, ne, lt and ge signed,
ltu and geu unsigned. -/
def Obligations.CompareResults : Prop :=
  ∀ (s : State) (p : BitVec 4) (pd : BitVec 3) (cond : BitVec 4) (sa sb : BitVec 5) (imm : BitVec 14),
    let truth (a b : Word) : Prop :=
      match cond.toNat with
      | 0 => a = b
      | 1 => a ≠ b
      | 2 => a.toInt < b.toInt
      | 3 => b.toInt ≤ a.toInt
      | 4 => a.toNat < b.toNat
      | _ => b.toNat ≤ a.toNat
    let a := s.me.reg sa
    cond.toNat < 6 →
      (∀ w : W32, decode (0x08#6 ++ p ++ pd ++ cond ++ sa ++ sb ++ 0#5) w = .ok (.cmp p pd cond sa sb) ∧
        decode (0x09#6 ++ pd ++ cond ++ sa ++ imm) w = .ok (.cmpi pd cond sa imm)) ∧
      (Issues s (.cmp p pd cond sa sb) →
        ∃ t : Bool, (t = true ↔ truth a (s.me.reg sb)) ∧ SetsPred (.cmp p pd cond sa sb) s pd t) ∧
      (Issues s (.cmpi pd cond sa imm) →
        ∃ t : Bool, (t = true ↔ truth a (BitVec.ofInt 64 imm.toInt)) ∧ SetsPred (.cmpi pd cond sa imm) s pd t)

/-- Predicate logic (10 R168): pd := pa AND pb, pa OR pb, pa XOR pb, pa AND NOT pb, pa OR NOT pb. -/
def Obligations.PredicateLogic : Prop :=
  ∀ (s : State) (p : BitVec 4) (pd pa pb : BitVec 3),
    let a := s.me.pred pa
    let b := s.me.pred pb
    ∀ f ∈ ([
      (.pand p pd pa pb, a && b),
      (.por p pd pa pb, a || b),
      (.pxor p pd pa pb, xor a b),
      (.pandn p pd pa pb, a && !b),
      (.porn p pd pa pb, a || !b)] : List (Instr × Bool)),
      Issues s f.1 → SetsPred f.1 s pd f.2

/-- Addresses and tags (10 R166): lea writes the sum where it keeps its space and obeys the pointer layout (03 R41),
and raises SPACE_INVALID with the sum otherwise; tag replaces the space; space reads it. Random words (10 R179, R180):
rng draws from the strand's context stream and advances RNGCTR modulo 2^40; rngc reads four registers, draws nothing,
and raises ILLEGAL on a reserved bit, the instruction's words then being in TVAL (the model's choice, assumption log
46: R180 says "the word"). -/
def Obligations.AddressesAndRandom : Prop :=
  (∀ (s : State) (p : BitVec 4) (sd sa sb : BitVec 5) (sid : BitVec 4),
     let a := s.me.reg sa
     let q := a + s.me.reg sb
     (Issues s (.lea p sd sa sb) →
       (q.toNat / 2 ^ 60 = a.toNat / 2 ^ 60 → ptrOk q = true → SetsReg (.lea p sd sa sb) s sd q) ∧
       (q.toNat / 2 ^ 60 ≠ a.toNat / 2 ^ 60 ∨ ptrOk q = false → Traps (.lea p sd sa sb) s cSpace q)) ∧
     (Issues s (.tag p sd sa sid) →
       SetsReg (.tag p sd sa sid) s sd (BitVec.ofNat 64 (sid.toNat * 2 ^ 60 + a.toNat % 2 ^ 60))) ∧
     (Issues s (.space p sd sa) → SetsReg (.space p sd sa) s sd (BitVec.ofNat 64 (a.toNat / 2 ^ 60)))) ∧
  (∀ (s : State) (p : BitVec 4) (sd sn : BitVec 5),
     let x := s.me
     let r (k : Nat) : Word := x.reg (sn + BitVec.ofNat 5 k)
     (Issues s (.rng p sd) →
       EndsIn (.rng p sd) s (s.setMe ({ x with rngctr := BitVec.ofNat 40 (x.rngctr.toNat + 1) }.setReg sd
         (rngOut x.rngkey dContext 0 x.rngctr.toNat)))) ∧
     (Issues s (.rngc p sd sn) → (r 2).toNat < 2 ^ 24 → (r 3).toNat < 2 ^ 40 →
       SetsReg (.rngc p sd sn) s sd (rngOut (r 0) (r 1) (r 2).toNat (r 3).toNat)) ∧
     (Issues s (.rngc p sd sn) → 2 ^ 24 ≤ (r 2).toNat ∨ 2 ^ 40 ≤ (r 3).toNat →
       Traps (.rngc p sd sn) s cIllegal (wordsOf (encode (.rngc p sd sn)))))

/-! ## Control transfer (10 R169 to R174) -/

/-- Transfers (10 R169 to R171): the PC becomes the target; call and callr write s1 := PC + 4, after sa is read; a
target that is misaligned or outside GLOBAL traps at the transfer with the target in TVAL. No transfer changes another
register or a predicate, and where it leaves no hardware loop no memory. -/
def Obligations.TransferResults : Prop :=
  ∀ (s : State) (p : BitVec 4) (sa : BitVec 5) (d22 : BitVec 22) (d26 : BitVec 26),
    let pc := s.me.pc
    ∀ f ∈ ([
      (.br p d22, pc + BitVec.ofInt 64 (4 * d22.toInt), false),
      (.jmp d26, pc + BitVec.ofInt 64 (4 * d26.toInt), false),
      (.call d26, pc + BitVec.ofInt 64 (4 * d26.toInt), true),
      (.jr p sa, s.me.reg sa, false),
      (.callr p sa, s.me.reg sa, true)] : List (Instr × Word × Bool)),
      let t := f.2.1
      Issues s f.1 →
        (t.toNat % 4 = 0 → t.toNat < 2 ^ 57 →
          ∃ u, exec f.1 s = .next u ∧ u.cur = s.cur ∧ u.me.pc = t ∧ u.me.preds = s.me.preds ∧ u.me.level = s.me.level ∧
            (∀ r, u.me.reg r = if f.2.2 = true ∧ r = 1#5 then pc + 4#64 else s.me.reg r) ∧
            (f.2.2 = true ∨ (leaveLoops s.me pc t).2 = [] → u.mem = s.mem)) ∧
        (t.toNat % 4 ≠ 0 → Traps f.1 s cMisalign t) ∧
        (t.toNat % 4 = 0 → 2 ^ 57 ≤ t.toNat → Traps f.1 s cSpace t)

/-- A loop instruction that passes its checks (10 R172, R173): N = 0 goes on after the body, N > 0 enters the body with
iteration 0 and the stage predicates set; a check that fails raises ILLEGAL with the loop word. s1 is the state with the
translation of the end address cached. -/
def Obligations.LoopStarts : Prop :=
  ∀ (s s1 : State) (id : BitVec 2) (stages : BitVec 3) (sa : BitVec 5) (off : BitVec 16) (w : W32) (k : Fin 4),
    let i : Instr := .loop id stages sa off
    let x := s.me
    let n := (x.reg sa).toNat
    let start := x.pc + 4#64
    let last := x.pc + BitVec.ofNat 64 (4 * off.toNat)
    let bad := 2 ^ 32 ≤ n ∨ (x.loop k).active = true ∨
      (stages ≠ 0#3 ∧ ∃ j, (x.loop j).active = true ∧ 0 < (x.loop j).stages) ∨ overlaps x start last = true
    k.val = id.toNat → Issues s i →
      (bad → Traps i s cIllegal (wordsOf (encode i))) ∧
      (¬bad → fetchWord s last = .ok (s1, w) →
        (0x10 ≤ majorOf w ∧ majorOf w ≤ 0x14 → Traps i s cIllegal (wordsOf (encode i))) ∧
        (majorOf w < 0x10 ∨ 0x14 < majorOf w →
          (n = 0 → exec i s = .next (transfer (last + (if isLong w then 8#64 else 4#64)) s1)) ∧
          (0 < n → EndsIn i s (s1.setMe (stagePreds (x.setLoop k
            { active := true, stages := stages.toNat, trips := n, i := 0, start, last, level := x.level, fresh := true })
            stages.toNat n 0)))))

/-- The end of an instruction (10 R173, 02 R40). Where no loop ends at the PC, the PC becomes the next instruction's
address, and registers, predicates, trap level, system registers, the other strands and all of memory stay. Where the
innermost active loop ends there and iterations are left, the PC becomes the first instruction of its body and its
iteration rises by one. A last iteration (10 R173): where the innermost active loop that ends at the PC has no
iteration left and no other active loop ends there, it becomes inactive and the PC becomes the next instruction's
address. -/
def Obligations.InstructionEnds : Prop :=
  (∀ (i : Instr) (s : State) (n : Nat),
     (NoLoopEnd s →
       let t := retire i s n
       t.cur = s.cur ∧ t.me.pc = s.me.pc + BitVec.ofNat 64 (s.me.lenOf i) ∧ (∀ r, t.me.reg r = s.me.reg r) ∧
         t.me.preds = s.me.preds ∧ t.me.level = s.me.level ∧ t.me.div0 = s.me.div0 ∧ t.me.tvec = s.me.tvec ∧
         t.me.tsave = s.me.tsave ∧ t.me.t1 = s.me.t1 ∧ t.me.t2 = s.me.t2 ∧ t.me.rngkey = s.me.rngkey ∧
         t.me.rngctr = s.me.rngctr ∧ t.me.lstop = s.me.lstop ∧ t.mem = s.mem ∧
         (∀ m, m ≠ s.cur.1 → t.crew m = s.crew m) ∧ (∀ k, k ≠ s.cur.2 → t.strand s.cur.1 k = s.strand s.cur.1 k)) ∧
     (∀ id, innermostAt s.me s.me.pc = some id →
       let l := s.me.loop id
       l.i + 1 < l.total →
         (retire i s n).me.pc = l.start ∧ ((retire i s n).me.loop id).i = l.i + 1 ∧ (retire i s n).mem = s.mem ∧
           ∀ r, (retire i s n).me.reg r = s.me.reg r)) ∧
  (∀ (i : Instr) (s : State) (id : Fin 4),
     innermostAt s.me s.me.pc = some id → (s.me.loop id).total ≤ (s.me.loop id).i + 1 →
       (∀ j, j ≠ id → ¬((s.me.loop j).active = true ∧ (s.me.loop j).level = s.me.level ∧ (s.me.loop j).last = s.me.pc)) →
       (retire i s).me.pc = s.me.pc + BitVec.ofNat 64 (s.me.lenOf i) ∧ ((retire i s).me.loop id).active = false ∧
         ∀ r, (retire i s).me.reg r = s.me.reg r)

/-! ## Memory (10 R175 to R178) -/

/-- Loads (10 R175 to R177): sd := the bytes at the address, extended as the form says; memory, the other registers
and the predicates stay. The bytes are counted for the tenant (27 R400; which bytes the counters count is the model's
choice, assumption log 78). Stated for an access that no earlier access of its class holds (04 R59). -/
def Obligations.LoadResults : Prop :=
  ∀ (s s1 : State) (p : BitVec 4) (sd sa si : BitVec 5) (off : BitVec 16) (loff : BitVec 21) (size : BitVec 2)
    (sext : BitVec 1) (scope z : BitVec 3) (cls : BitVec 4) (mask : BitVec 16) (k : Nat),
    let short := s.me.reg sa + BitVec.ofInt 64 off.toInt
    let long (o : Int) := s.me.reg sa + s.me.reg si + BitVec.ofInt 64 o
    ∀ f ∈ ([
      (.ldb sd sa off, short, 1, true, 0, 0),
      (.ldbu sd sa off, short, 1, false, 0, 0),
      (.ldh sd sa off, short, 2, true, 0, 0),
      (.ldhu sd sa off, short, 2, false, 0, 0),
      (.ldw sd sa off, short, 4, true, 0, 0),
      (.ldwu sd sa off, short, 4, false, 0, 0),
      (.ldd sd sa off, short, 8, false, 0, 0),
      (.ldx p sd sa si size sext z cls loff, long loff.toInt, 2 ^ size.toNat, decide (sext = 1#1), z.toNat, cls.toNat),
      (.ldxAcq p sd sa si scope z cls mask, long 0, 8, false, z.toNat, cls.toNat)] : List (Instr × Word × Nat × Bool × Nat × Nat)),
      let n := f.2.2.1
      let b := leNat (memBytes s.mem k n)
      Issues s f.1 → InOrder s f.2.2.2.2.2 → Reaches s f.2.1 n f.2.2.2.2.1 1#3 s1 k →
        EndsIn f.1 s ((countPlaces s1 s.myCrew.tenant false [(k, n)]).setMe
          (s.me.setReg sd (if f.2.2.2.1 then BitVec.ofInt 64 (BitVec.ofNat (8 * n) b).toInt else BitVec.ofNat 64 b)))

/-- Stores (10 R175 to R177): the low bytes of sb stand at the address, lowest byte first; every other byte of memory
and every register stays. The address is the one the form computes. Stated for an access that no earlier access of its
class, nor of the mask of a release, holds (04 R59, R62). -/
def Obligations.StoreResults : Prop :=
  ∀ (s s1 : State) (p : BitVec 4) (sb sa si : BitVec 5) (off : BitVec 16) (loff : BitVec 21) (size : BitVec 2)
    (scope z : BitVec 3) (cls : BitVec 4) (mask : BitVec 16) (k : Nat),
    let short := s.me.reg sa + BitVec.ofInt 64 off.toInt
    let long (o : Int) := s.me.reg sa + s.me.reg si + BitVec.ofInt 64 o
    ∀ f ∈ ([
      (.stb sb sa off, short, 1, 0, 0, 0#16),
      (.sth sb sa off, short, 2, 0, 0, 0#16),
      (.stw sb sa off, short, 4, 0, 0, 0#16),
      (.std sb sa off, short, 8, 0, 0, 0#16),
      (.stx p sb sa si size z cls loff, long loff.toInt, 2 ^ size.toNat, z.toNat, cls.toNat, 0#16),
      (.stxRel p sb sa si scope z cls mask, long 0, 8, z.toNat, cls.toNat, mask)] :
        List (Instr × Word × Nat × Nat × Nat × BitVec 16)),
      let n := f.2.2.1
      Issues s f.1 → InOrder s f.2.2.2.2.1 → maskHeld s f.2.2.2.2.2 = false → Reaches s f.2.1 n f.2.2.2.1 2#3 s1 k →
        ∃ u, EndsIn f.1 s u ∧ u.cur = s.cur ∧ u.crews = s.crews ∧ SameMemoryOff k n s u ∧
          ∀ j < n, memByte u.mem (k + j) = BitVec.ofNat 8 ((s.me.reg sb).toNat / 2 ^ (8 * j))

/-- Atomics (10 R178, 04 R66): sd := the old value, zero-extended; memory := what the function gives; nothing else
changes. cas writes only where the old value equals sb. In CLUSTER and LOCAL space an atomic raises SPACE_INVALID.
Stated for an access that no earlier access of its class holds (04 R59). -/
def Obligations.AtomicResults : Prop :=
  ∀ (s s1 : State) (p : BitVec 4) (sd sa sb sc : BitVec 5) (size : BitVec 1) (cls : BitVec 4) (k : Nat),
    let a := s.me.reg sa
    let n := if size = 1#1 then 8 else 4
    let w (m : Nat) : Nat := 2 ^ (8 * m)
    let int (m x : Nat) : Int := (BitVec.ofNat (8 * m) x).toInt
    let old (m : Nat) : Nat := leNat (memBytes s.mem k m)
    let y (m : Nat) : Nat := (s.me.reg sb).toNat % w m
    let o := old n
    let b := y n
    ∀ f ∈ ([
      (.amoAdd p sd sa sb size cls, n, (o + b) % w n),
      (.amoMin p sd sa sb size cls, n, if int n b < int n o then b else o),
      (.amoMax p sd sa sb size cls, n, if int n o < int n b then b else o),
      (.amoMinu p sd sa sb size cls, n, min o b),
      (.amoMaxu p sd sa sb size cls, n, max o b),
      (.amoAnd p sd sa sb size cls, n, o &&& b),
      (.amoOr p sd sa sb size cls, n, o ||| b),
      (.amoXor p sd sa sb size cls, n, o ^^^ b),
      (.amoSwp p sd sa sb size cls, n, b),
      (.cas p sd sa sb sc size cls, n, if o = b then (s.me.reg sc).toNat % w n else o),
      (.amoFadd p sd sa sb cls, 4, rne32 (Val.add (fp32 (old 4)) (fp32 (y 4))))] : List (Instr × Nat × Nat)),
      let m := f.2.1
      (Issues s f.1 → InOrder s cls.toNat → spaceOf a ≠ 2 → spaceOf a ≠ 3 → Reaches s a m 0 3#3 s1 k →
        ∃ u, EndsIn f.1 s (u.setMe (s.me.setReg sd (BitVec.ofNat 64 (old m)))) ∧ u.cur = s.cur ∧ u.crews = s.crews ∧
          SameMemoryOff k m s u ∧ ∀ j < m, memByte u.mem (k + j) = BitVec.ofNat 8 (f.2.2 / 2 ^ (8 * j))) ∧
      (Issues s f.1 → spaceOf a = 2 ∨ spaceOf a = 3 → Traps f.1 s cSpace a)

/-- The order of the checks of a scalar load or store (10 R176, 03 R42, R43): a swizzle on a GLOBAL pointer raises
ILLEGAL, then a bad space, reserved bit or end raises SPACE_INVALID, then an address that is no multiple of the size
MISALIGN, each with the address in TVAL; the trap changes no memory. An access to a scratchpad (03 R44 to R47): an
aligned access of 1, 2, 4 or 8 bytes whose pointer is legal reaches, in the slice that the pointer names, the offset
after the swizzle, where the segment belongs to the tenant and is not being zeroed; where another tenant owns it, a
load raises XLATE_PERM. An access to GLOBAL through a cached translation (22 R340, R343): where the CU's copy of the
page's translation has not expired and allows the access, an aligned access reaches the byte of its frame at the page
offset, and nothing changes. -/
def Obligations.AccessChecks : Prop :=
  (∀ (s : State) (p : BitVec 4) (sd sa si : BitVec 5) (off : BitVec 16) (loff : BitVec 21) (size : BitVec 2)
     (sext : BitVec 1) (scope z : BitVec 3) (cls : BitVec 4) (mask : BitVec 16),
     let short := s.me.reg sa + BitVec.ofInt 64 off.toInt
     let long (o : Int) := s.me.reg sa + s.me.reg si + BitVec.ofInt 64 o
     ∀ f ∈ ([
       (.ldb sd sa off, short, 1, 0), (.ldbu sd sa off, short, 1, 0), (.ldh sd sa off, short, 2, 0),
       (.ldhu sd sa off, short, 2, 0), (.ldw sd sa off, short, 4, 0), (.ldwu sd sa off, short, 4, 0),
       (.ldd sd sa off, short, 8, 0), (.stb sd sa off, short, 1, 0), (.sth sd sa off, short, 2, 0),
       (.stw sd sa off, short, 4, 0), (.std sd sa off, short, 8, 0),
       (.ldx p sd sa si size sext z cls loff, long loff.toInt, 2 ^ size.toNat, z.toNat),
       (.stx p sd sa si size z cls loff, long loff.toInt, 2 ^ size.toNat, z.toNat),
       (.ldxAcq p sd sa si scope z cls mask, long 0, 8, z.toNat),
       (.stxRel p sd sa si scope z cls mask, long 0, 8, z.toNat)] : List (Instr × Word × Nat × Nat)),
       let a := f.2.1
       let n := f.2.2.1
       let swizzled := f.2.2.2 ≠ 0 ∧ spaceOf a = 0
       let spaceBad := ptrOk a = false ∨ fieldSize a < ptrOff a + n
       Issues s f.1 →
         (swizzled → Traps f.1 s cIllegal a) ∧
         (¬swizzled → spaceBad → Traps f.1 s cSpace a) ∧
         (¬swizzled → ¬spaceBad → a.toNat % n ≠ 0 → Traps f.1 s cMisalign a) ∧
         ∀ c, SameMemory s (trapMe s c a)) ∧
  (∀ (s : State) (a : Word) (n z : Nat) (need : BitVec 3),
     let b := padByte (cuOf s.cur.1) a (ptrOff a)
     let k := sliceKey b.1 (swizzle z b.2)
     s.cur.1 < 384 → isPad a = true → ptrOk a = true → n ∈ [1, 2, 4, 8] → ptrOff a + n ≤ fieldSize a → a.toNat % n = 0 →
       z < 7 →
       (segOwner s (segOf k) = s.myCrew.tenant → (segOf k % 16) ∉ (s.cu (segOf k / 16)).zeroSegs →
         Reaches s a n z need s k) ∧
       (segOwner s (segOf k) ≠ s.myCrew.tenant → placesOf s a n z need = .error (.trap cPerm a))) ∧
  (∀ (s : State) (a : Word) (n : Nat) (need : BitVec 3) (t : Tlb),
     let cu := cuOf s.cur.1
     spaceOf a = 0 → ptrOk a = true → n ∈ [1, 2, 4, 8] → a.toNat % n = 0 →
       faultOf s (.strand s.cur.1 s.cur.2) = none → unitOk s cu = true →
       cached (s.cu cu).tlb s.myCrew.tenant (a.toNat / 4096) (s.cuCycle cu) 0 = some t →
       tlbCheck s t need a.toNat = .ok t → t.gw = false → s.has t.frame = true → formatting s t.frame = false →
       Reaches s a n 0 need s (t.frame + a.toNat % 4096))

/-! ## System instructions (10 R181 to R191) -/

/-- exit (10 R181, 12 R220): the strand ends at any trap level; it waits, charged to MEM_WAIT, while a load or atomic
of it has not been answered, and the copy strand while an operation is held or has units unchecked; a matrix strand
that holds the lease waits for its array instructions, charged as arelease is, and then gives it up. yield and
yield.safe (10 R182, 02 R34, 23 R359): the watchdog is reloaded, a value below 4,096 acting as 4,096; a yield.safe of
the scalar strand of a marked crew is a safe point where no copy is pending, the lease is not held and every strand is
at level 0, and a request for the lease is withdrawn there; elsewhere it acts as yield. fence (10 R186, 04 R60)
completes once every earlier access with a class of its mask has been performed, and waits until then charged to
MEM_WAIT. That a pending operation of the copy engine of any kind prevents a safe point is assumption log 63, and that
a wait of exit for the array is charged to THROTTLE in a cycle that the array withholds log 83 (the model's choices). -/
def Obligations.StrandControl : Prop :=
  (∀ (s : State) (p : BitVec 4),
     let i : Instr := .exit p
     let ends (u : State) : Prop := exec i s = .next (u.setMe (exitStrand u.me)) ∧ (u.setMe (exitStrand u.me)).me.exited = true
     let unchecked := s.cur.2 = .c ∧ exitHeld s.myCrew = true
     let holder := s.cur.2 = .m ∧ holdsLease s s.cur.1 = true
     Issues s i →
       (unchecked ∨ s.me.late ≠ [] → Waits i s qMem s) ∧
       (¬unchecked → s.me.late = [] →
         (¬holder → ends s) ∧
         (holder → arrayBusy s.myCrew = true → Waits i s
           (if (s.myCrew.inflight.any fun o => o.unit == .array) && !arrayOpen s (cuOf s.cur.1) then qThrottle else qTile) s) ∧
         (holder → arrayBusy s.myCrew = false → ends (endLease s (cuOf s.cur.1))))) ∧
  (∀ (s : State) (p : BitVec 4) (scope : BitVec 3) (mask : BitVec 16),
     let x := { s.me with wleft := max s.me.wdog.toNat 4096 }
     let u := s.setMe x
     let safe := u.myCrew.mark.isSome = true ∧ u.myCrew.ops = [] ∧ holdsLease u u.cur.1 = false ∧
       ∀ k, (u.myCrew.str k).level = 0
     let i : Instr := .fence p scope mask
     (Issues s (.yield p) → EndsIn (.yield p) s u) ∧
     (Issues s (.yieldSafe p) →
       (s.cur.2 = .s → safe →
         EndsIn (.yieldSafe p) s (withdraw (u.setMyCrew { u.myCrew with mark := some true }) u.cur.1)) ∧
       (s.cur.2 ≠ .s ∨ ¬safe → EndsIn (.yieldSafe p) s u)) ∧
     (Issues s i →
       ((∀ r ∈ mine s, mask.getLsbD r.cls = false) → EndsIn i s (s.setMe s.me)) ∧
       (¬(∀ r ∈ mine s, mask.getLsbD r.cls = false) → Waits i s qMem s)))

/-- Tokens (10 R188, 02 R20, R21): tkpush adds one to each counter of the mask, all together, or waits charged to
TOKEN_WAIT while one is at 15; tkpop takes one from each, a pending increment then being made, or waits while one is
0; a mask of 0 is ILLEGAL. Mailboxes (10 R189, 02 R16; 03 R54): qwr writes sa to the mailbox, FULL after :f, and waits
where it is FILLING, FULL under :f, read by another strand or being zeroed; qrd reads it into sd, EMPTY after :e, and
waits where it is FILLING, being zeroed, or EMPTY under :e. tkpush and a qwr with :f are releases (02 R22): they wait,
charged to MEM_WAIT, while an earlier access of the strand has not been performed. -/
def Obligations.TokensAndMailboxes : Prop :=
  (∀ (s : State) (p : BitVec 4) (mask : BitVec 3),
     let c := s.myCrew
     let dst := (maskStrands .s mask).map fun y => tokIdx .s y
     let from_ := (maskStrands .s mask).map fun y => tokIdx y .s
     (Issues s (.tkpush p mask) → mask ≠ 0#3 →
       ((∀ j ∈ dst, c.tok j < 15) → Released s → ∃ d : Crew, EndsIn (.tkpush p mask) s (s.setMyCrew d) ∧
         (∀ j, d.tok j = if j ∈ dst then c.tok j + 1 else c.tok j) ∧ { d with tokens := c.tokens } = c) ∧
       ((∀ j ∈ dst, c.tok j < 15) → ¬Released s → Waits (.tkpush p mask) s qMem s) ∧
       (¬(∀ j ∈ dst, c.tok j < 15) → Waits (.tkpush p mask) s qToken s)) ∧
     (Issues s (.tkpop p mask) → mask ≠ 0#3 →
       ((∀ j ∈ from_, 0 < c.tok j) → ∃ d : Crew, EndsIn (.tkpop p mask) s (s.setMyCrew d) ∧
         (∀ j, d.tok j = if j ∈ from_ ∧ c.pendOf j = 0 then c.tok j - 1 else c.tok j) ∧
         (∀ j, d.pendOf j = if j ∈ from_ then c.pendOf j - 1 else c.pendOf j) ∧
         { d with tokens := c.tokens, pendTok := c.pendTok } = c) ∧
       (¬(∀ j ∈ from_, 0 < c.tok j) → Waits (.tkpop p mask) s qToken s)) ∧
     (Issues s (.tkpush p 0#3) → Traps (.tkpush p 0#3) s cIllegal (wordsOf (encode (.tkpush p 0#3)))) ∧
     (Issues s (.tkpop p 0#3) → Traps (.tkpop p 0#3) s cIllegal (wordsOf (encode (.tkpop p 0#3))))) ∧
  (∀ (s : State) (p : BitVec 4) (sd sa : BitVec 5) (q : BitVec 3) (b : BitVec 1),
     let c := s.myCrew
     let j := 26 + q.toNat
     let shut := c.zeroing = true ∨ c.feOf j = .filling
     let full := shut ∨ (b = 1#1 ∧ c.feOf j = .full) ∨ c.readByOther s.cur.2 j = true
     (Issues s (.qwr p sa q b) →
       (¬full → (b = 1#1 → Released s) →
         ∃ d : Crew, EndsIn (.qwr p sa q b) s (s.setMyCrew d) ∧ d.mail q = s.me.reg sa ∧ (∀ r, r ≠ q → d.mail r = c.mail r) ∧
           (∀ m, d.feOf m = if m = j ∧ b = 1#1 then .full else c.feOf m) ∧ { d with qs := c.qs, qfe := c.qfe } = c) ∧
       (¬full → b = 1#1 → ¬Released s → Waits (.qwr p sa q b) s qMem s) ∧
       (full → Waits (.qwr p sa q b) s qTile s)) ∧
     (Issues s (.qrd p sd q b) →
       (¬shut → (b = 1#1 → c.feOf j ≠ .empty) →
         EndsIn (.qrd p sd q b) s ((if b = 1#1 then s.setMyCrew (c.setFe j .empty) else s).setMe (s.me.setReg sd (c.mail q)))) ∧
       (shut ∨ (b = 1#1 ∧ c.feOf j = .empty) → Waits (.qrd p sd q b) s qTile s)))

/-- waitt (10 R191, 04 R74): it sleeps until CYCLE reaches sa; then every promise of the crew not later than sa must
be kept or acquired: it acquires them, or raises PROMISE_MISSED with sa in TVAL. acctflush (10 R185, 07 R111): where
every write of the account may be made, and none of it has yet to be performed by another device, the instruction
completes with the flush performed. -/
def Obligations.SleepAndFlush : Prop :=
  (∀ (s : State) (p : BitVec 4) (sa : BitVec 5),
     let v := s.me.reg sa
     let c := s.myCrew
     let acquired := c.promises.map fun q => if q.cycle.toNat ≤ v.toNat then { q with acquired := true } else q
     let kept := ∀ q ∈ c.promises, q.cycle.toNat ≤ v.toNat → q.acquired = true ∨ q.done = true
     Issues s (.waitt p sa) →
       (s.cuCycle (cuOf s.cur.1) < v.toNat → Waits (.waitt p sa) s qSleep s) ∧
       (v.toNat ≤ s.cuCycle (cuOf s.cur.1) → kept → EndsIn (.waitt p sa) s (s.setMyCrew { c with promises := acquired })) ∧
       (v.toNat ≤ s.cuCycle (cuOf s.cur.1) → ¬kept → Traps (.waitt p sa) s cPromise v)) ∧
  (∀ (s s1 : State) (p : BitVec 4),
     IssuesHeld s (.acctflush p) → flushReady true s s.cur.1 = .ok s1 →
       acctPending (acctFlush s1 s1.cur.1) (acctFlush s1 s1.cur.1).cur.1 = false →
       EndsIn (.acctflush p) s (acctFlush s1 s1.cur.1))

/-- gsync (10 R190, 02 R22, R29, R30): a task that is no member of the group raises ILLEGAL; the arrival is counted
once, when every earlier access has been performed, and the strand waits until then charged to MEM_WAIT; it goes on
when every member has arrived as often or has completed, and otherwise waits charged to BARRIER_WAIT. Stated for a
strand whose arrival is registered already and for one that arrives: an arrival is kept for the trap level, PC and
group at which it was made (the model's choice, assumption log 25: R29 does not name what it is kept for). -/
def Obligations.GroupSync : Prop :=
  ∀ (s : State) (p : BitVec 4) (g : BitVec 8) (c : Ctx) (l : Launch) (k : Nat),
    let i : Instr := .gsync p g
    let n := g.toNat
    Issues s i → s.myCrew.ctx = some c →
      (groupSlot c.gmask c.grps n = none → Traps i s cIllegal (wordsOf (encode i))) ∧
      (groupSlot c.gmask c.grps n = some k → s.launch c.launch = some l →
        ((s.me.arrival n).isSome = true →
          let r := ((l.nodes[c.task]?).bind fun x => x.roundsOf n).getD 0
          (roundDone l n r = true → EndsIn i s (s.setMe s.me.dropArrival)) ∧
          (roundDone l n r = false → Waits i s qBarrier (gsyncWait s n))) ∧
        ((s.me.arrival n).isSome = false → ¬Released s → Waits i s qMem s) ∧
        ((s.me.arrival n).isSome = false → Released s →
          let l1 := l.mapNode c.task fun x => x.arrive k
          let r := ((l1.nodes[c.task]?).bind fun x => x.roundsOf n).getD 0
          let x := s.me.dropArrival
          let u := (s.setLaunch l1).setMe { x with gsyncs := { level := x.level, pc := x.pc, group := n } :: x.gsyncs }
          (roundDone l1 n r = true → EndsIn i s (u.setMe u.me.dropArrival)) ∧
          (roundDone l1 n r = false → Waits i s qBarrier (gsyncWait u n))))

/-- System register reads (10 R187, 09 R160): sd := the register that the number names. System register writes (10
R187, 09 R160, 23 R359, 05 R87, 06 R96): the register that the number names takes the written value in its writable
bits; writes to read-only registers are ignored; WDOG and KPERM raise PRIV and change nothing. LHORIZON reads the
largest expiry that the tenant's translations have had, or that one of its walks in flight may give (22 R347). A write
of 1 to an ASTAT bit clears it, but for one that has been set in the same cycle. -/
def Obligations.SystemRegisters : Prop :=
  (∀ (s : State) (p : BitVec 4) (sd : BitVec 5) (num : BitVec 11),
     let x := s.me
     let c := s.myCrew
     ∀ f ∈ ([
       (0x00, BitVec.ofNat 64 (s.cuCycle (cuOf s.cur.1))),
       (0x01, BitVec.ofNat 64 ((if x.div0 = true then 256 else 0) + x.level)),
       (0x02, x.tvec), (0x03, x.tsave), (0x04, BitVec.ofNat 64 x.wdog.toNat), (0x05, BitVec.ofNat 64 c.kperm.toNat),
       (0x08, x.t1.epc), (0x09, x.t1.cause), (0x0A, x.t1.val), (0x0B, x.t1.scr),
       (0x0C, x.t2.epc), (0x0D, x.t2.cause), (0x0E, x.t2.val), (0x0F, x.t2.scr),
       (0x10, c.acctbase), (0x11, c.energy), (0x12, mxthrot s (cuOf s.cur.1)), (0x13, x.lstop),
       (0x14, BitVec.ofNat 64 c.astat.toNat), (0x18, x.rngkey), (0x19, BitVec.ofNat 64 x.rngctr.toNat),
       (0x20, BitVec.ofNat 64 ((s.walking.filter fun w => w.req.fn == c.tenant).foldl
         (fun a w => max a (w.start + 2 ^ 24 - 4)) (s.tenant c.tenant).horizon))] : List (Nat × Word)),
       num.toNat = f.1 → Issues s (.mfsr p sd num) → SetsReg (.mfsr p sd num) s sd f.2) ∧
  (∀ (s : State) (p : BitVec 4) (sa : BitVec 5) (num : BitVec 11),
     let x := s.me
     let v := s.me.reg sa
     let lstop := BitVec.ofNat 64 (v.toNat / 2 ^ 63 * 2 ^ 63 + v.toNat % 2 ^ 48 / 2 ^ 8 * 2 ^ 8 + v.toNat % 16 / 4 * 4)
     let i : Instr := .mtsr p sa num
     Issues s i →
       (∀ f ∈ ([
         (0x01, { x with div0 := v.getLsbD 8 }),
         (0x02, { x with tvec := BitVec.ofNat 64 (v.toNat % 2 ^ 57 / 4 * 4 + v.toNat % 2) }),
         (0x03, { x with tsave := v }),
         (0x08, { x with t1 := { x.t1 with epc := v } }),
         (0x09, { x with t1 := { x.t1 with cause := BitVec.ofNat 64 (v.toNat % 2048) } }),
         (0x0A, { x with t1 := { x.t1 with val := v } }),
         (0x0B, { x with t1 := { x.t1 with scr := v } }),
         (0x0C, { x with t2 := { x.t2 with epc := v } }),
         (0x0D, { x with t2 := { x.t2 with cause := BitVec.ofNat 64 (v.toNat % 2048) } }),
         (0x0E, { x with t2 := { x.t2 with val := v } }),
         (0x0F, { x with t2 := { x.t2 with scr := v } }),
         (0x13, { x with lstop := lstop }),
         (0x18, { x with rngkey := v }),
         (0x19, { x with rngctr := BitVec.ofNat 40 v.toNat })] : List (Nat × Strand)),
         num.toNat = f.1 → EndsIn i s (s.setMe f.2)) ∧
       (num.toNat = 0x14 → EndsIn i s (s.setMyCrew
         { s.myCrew with astat := s.myCrew.astat &&& (~~~(BitVec.ofNat 8 v.toNat) ||| s.myCrew.astatNow) })) ∧
       (num.toNat ∈ [0x00, 0x10, 0x11, 0x12, 0x20] → EndsIn i s s) ∧
       (num.toNat = 0x04 ∨ num.toNat = 0x05 → Traps i s cPriv (wordsOf (encode i))))

/-! ## Traps (23 R357 to R364, 10 R183, R184) -/

/-- Taking a trap below level 2 with TVEC.en 1 (23 R357, R359): the registers of the new level save the PC, the cause
with its flags and the value, the level rises by one and the PC becomes TVEC.handler; the general registers, the
predicates, the registers of the other level, every other strand's registers and all of memory stay. A third trap
level, or a trap with TVEC.en 0, kills the context with the cause (23 R364): every strand is charged IDLE from then
on, and memory stays. -/
def Obligations.TrapEntry : Prop :=
  (∀ (s : State) (crew : Nat) (k : StrandKind) (cause flags : Nat) (val epc : Word) (m : Option Nat),
     let x := s.strand crew k
     let t := takeTrap s crew k cause flags val epc m
     let y := t.strand crew k
     x.level < 2 → x.tvec.getLsbD 0 = true →
       y.level = x.level + 1 ∧ y.pc = BitVec.ofNat 64 (x.tvec.toNat % 2 ^ 57 / 4 * 4) ∧
       (y.trapRegs (x.level + 1)).epc = epc ∧ (y.trapRegs (x.level + 1)).cause = BitVec.ofNat 64 (flags + cause) ∧
       (y.trapRegs (x.level + 1)).val = val ∧ (y.trapRegs (x.level + 1)).scr = (x.trapRegs (x.level + 1)).scr ∧
       y.trapRegs (2 - x.level) = x.trapRegs (2 - x.level) ∧
       (∀ r, y.reg r = x.reg r) ∧ y.preds = x.preds ∧ y.tsave = x.tsave ∧ y.tvec = x.tvec ∧ y.div0 = x.div0 ∧
       y.loops = x.loops ∧ (∀ j, j ≠ k → t.strand crew j = s.strand crew j) ∧ (∀ n, n ≠ crew → t.crew n = s.crew n) ∧
       t.mem = s.mem ∧
       (k = .v → (t.crew crew).ring = List.replicate 4 {})) ∧
  (∀ (s : State) (crew : Nat) (k : StrandKind) (cause flags : Nat) (val epc : Word) (m : Option Nat),
     let x := s.strand crew k
     let t := takeTrap s crew k cause flags val epc m
     x.level = 2 ∨ x.tvec.getLsbD 0 = false → (s.crew crew).ctx.isSome = true → (s.crew crew).killed = none →
       (t.crew crew).killed = some cause ∧ (∀ j, (t.strand crew j).exited = true ∨ (t.strand crew j).cond = qIdle) ∧
         t.mem = s.mem ∧ ∀ n, n ≠ crew → t.crew n = s.crew n)

/-- trap and bkpt (10 R183): SOFTWARE with TVAL := imm and TEPC := the next PC; BKPT with TVAL := imm and TEPC := its
PC; both take the trap at every level. Below level 2 with TVEC.en 1 the strand then stands at its handler; otherwise
the context is killed with the cause (23 R364) and memory stays. tret (10 R184, 23 R357 to R359): at level n ≥
1 the PC becomes TEPCn and the level n - 1, the vector strand gets its ring back, and registers, predicates and memory
stay; at level 0 it is ILLEGAL; a TEPCn that is no legal target traps with TEPCn in TVAL. While a load or atomic of
the level has not been answered, tret waits (the model's own, assumption log 61). -/
def Obligations.SoftwareTraps : Prop :=
  (∀ (s : State) (p : BitVec 4) (imm : BitVec 16),
     let x := s.me
     let u := s.setMe x.useSlot.begun
     let soft := takeTrap u s.cur.1 s.cur.2 cSoftware 0 (BitVec.ofNat 64 imm.toNat) (x.pc + BitVec.ofNat 64 (x.lenOf (.trap p imm)))
     let brk := takeTrap u s.cur.1 s.cur.2 cBkpt 0 (BitVec.ofNat 64 imm.toNat) x.pc
     let handled (t : State) : Prop := t.me.pc = BitVec.ofNat 64 (x.tvec.toNat % 2 ^ 57 / 4 * 4) ∧ t.me.level = x.level + 1
     let lives := x.level < 2 ∧ x.tvec.getLsbD 0 = true
     let dies := (x.level = 2 ∨ x.tvec.getLsbD 0 = false) ∧ s.myCrew.ctx.isSome = true ∧ s.myCrew.killed = none
     (Issues s (.trap p imm) → exec (.trap p imm) s = .next soft ∧ (lives → handled soft) ∧
       (dies → soft.myCrew.killed = some cSoftware ∧ soft.mem = s.mem)) ∧
     (Issues s (.bkpt p imm) → exec (.bkpt p imm) s = .next brk ∧ (lives → handled brk) ∧
       (dies → brk.myCrew.killed = some cBkpt ∧ brk.mem = s.mem))) ∧
  (∀ (s : State) (p : BitVec 4),
     let i : Instr := .tret p
     let x := s.me
     let e := (x.trapRegs x.level).epc
     let answered := ∀ l ∈ x.late, l.level ≠ x.level
     Issues s i →
       (x.level = 0 → Traps i s cIllegal (wordsOf (encode i))) ∧
       (0 < x.level → (∃ l ∈ x.late, l.level = x.level) → Waits i s qMem s) ∧
       (0 < x.level → answered → e.toNat % 4 = 0 → e.toNat < 2 ^ 57 → ∃ t, exec i s = .next t ∧ t.me.pc = e ∧ t.me.level = x.level - 1 ∧
         (∀ r, t.me.reg r = x.reg r) ∧ t.me.preds = x.preds ∧ t.me.t1 = x.t1 ∧ t.me.t2 = x.t2 ∧ t.mem = s.mem ∧
         (s.cur.2 = .v → t.myCrew.ring = (x.trapRegs x.level).ring)) ∧
       (0 < x.level → answered → e.toNat % 4 ≠ 0 → Traps i s cMisalign e) ∧
       (0 < x.level → answered → e.toNat % 4 = 0 → 2 ^ 57 ≤ e.toNat → Traps i s cSpace e))

/-! ## Vector instructions (11 R193 to R214) -/

/-- What the start of a vector instruction does (11 R194, R195; 02 R16, R21): its result row is ~1 and the older rows
move on; the instruction is in flight with the row it will write; its destination is FILLING; its wait tokens are
taken. Tiles, memory, registers and every other crew stay. -/
def Obligations.VectorStart : Prop :=
  ∀ (s : State) (e : Eng) (u : TileUse) (d : Option (Nat × Nat)) (row : Row),
    let c := s.myCrew
    let t := startVector s e u d row
    let n := t.myCrew
    t.cur = s.cur ∧ t.mem = s.mem ∧ n.tiles = c.tiles ∧ n.ring = { row, op := some c.seq } :: c.ring.take 3 ∧
      n.seq = c.seq + 1 ∧ n.tokens = (c.take s.cur.2 e.wait).tokens ∧ n.qs = c.qs ∧
      (∃ o, n.inflight = c.inflight ++ [o] ∧ o.id = c.seq ∧ o.post = e.post ∧
        o.rows = d.toList.map fun p => (128 * p.1 + p.2, row)) ∧
      (∀ i, n.feOf i = if i < 34 ∧ u.write.map Prod.fst = some i then .filling else c.feOf i) ∧
      (∀ k, t.strand s.cur.1 k = s.strand s.cur.1 k) ∧ ∀ m, m ≠ s.cur.1 → t.crew m = s.crew m

/-- Two-source vector arithmetic, bits, compares and permutes (11 R199, R201, R202, R203, R211): the result row,
element by element; vfma also reads its destination and vsel the mask row ~1. -/
def Obligations.VectorPairs : Prop :=
  ∀ (s : State) (e : Eng) (v : VFields) (a b m : Row) (d : Option (Nat × Nat)),
    let ty := v.ty.toNat
    let w := tyBits ty
    let bits (x : Row) (k : Nat) : Nat := rowElem ty x k
    let num (x : Row) (k : Nat) : Val := valueOf ty (rowElem ty x k)
    let int (x : Row) (k : Nat) : Int := (BitVec.ofNat w (rowElem ty x k)).toInt
    let arith (fv : Val → Val → Val) (fi : Int → Int → Int) : Row := buildRow ty fun k =>
      if tyIsInt ty then (BitVec.ofInt w (fi (int a k) (int b k))).toNat else roundTo ty .rne (fv (num a k) (num b k))
    let fused : Row := buildRow ty fun k =>
      if tyIsInt ty then (BitVec.ofInt w (int m k + int a k * int b k)).toNat
      else roundTo ty .rne (Val.add (num m k) (Val.mul (num a k) (num b k)))
    let cmp (c : Nat) : Row := buildRow ty fun k => if valCond c (num a k) (num b k) then 2 ^ w - 1 else 0
    let n := srcs2 v
    (∀ f ∈ ([
      (.vadd e v, arith Val.add (· + ·)),
      (.vsub e v, arith (fun x y => Val.add x y.neg) (· - ·)),
      (.vmul e v, arith Val.mul (· * ·)),
      (.vmin e v, arith Val.min' min),
      (.vmax e v, arith Val.max' max),
      (.vand e v, a &&& b),
      (.vor e v, a ||| b),
      (.vxor e v, a ^^^ b),
      (.vshl e v, buildRow ty fun k => bits a k * 2 ^ (bits b k % w)),
      (.vshr e v, buildRow ty fun k => bits a k / 2 ^ (bits b k % w)),
      (.vsra e v, buildRow ty fun k => (BitVec.ofInt w (int a k / 2 ^ (bits b k % w))).toNat),
      (.vcmpEq e v, cmp 0),
      (.vcmpNe e v, cmp 1),
      (.vcmpLt e v, cmp 2),
      (.vcmpLe e v, cmp 3),
      (.vshuf e v, buildRow ty fun k => bits a (bits b k % perRow ty))] : List (Instr × Row)),
      Issues s f.1 → VStarts s e v n [a, b] d → VGives f.1 s e v n d f.2 s.me) ∧
    (Issues s (.vfma e v) → VStarts s e v (n ++ [(rowSpec v.dst, 0#1)]) [a, b, m] d →
      VGives (.vfma e v) s e v (n ++ [(rowSpec v.dst, 0#1)]) d fused s.me) ∧
    (Issues s (.vsel e v) → VStarts s e v (n ++ [(.ring 1, 0#1)]) [a, b, m] d →
      VGives (.vsel e v) s e v (n ++ [(.ring 1, 0#1)]) d
        (buildRow ty fun k => if bits m k ≠ 0 then bits a k else bits b k) s.me)

/-- One-source vector forms (11 R199, R200, R206, R207, R210, R211): the result row. The special functions are those
of 05 R88, the block encoding that of 05 R80. exp2Val, log2Val, rcpVal, rsqrtVal and tanhBits stand for the exact
values that R88 rounds (the model's reading, assumption log 17). -/
def Obligations.VectorSingles : Prop :=
  ∀ (s : State) (e : Eng) (v : VFields) (a : Row) (d : Option (Nat × Nat)),
    let ty := v.ty.toNat
    let w := tyBits ty
    let num (k : Nat) : Val := valueOf ty (rowElem ty a k)
    let int (k : Nat) : Int := (BitVec.ofNat w (rowElem ty a k)).toInt
    let arith (fv : Val → Val) (fi : Int → Int) : Row := buildRow ty fun k =>
      if tyIsInt ty then (BitVec.ofInt w (fi (int k))).toNat else roundTo ty .rne (fv (num k))
    let special (f : Val → Val) : Row := buildRow 0 fun k => rne32 (f (fp32 (rowElem 0 a k)))
    let all := List.range (perRow ty)
    let reduce (fv : Val) (fi : Int) : Row := buildRow 7 fun _ => if tyIsInt ty then (BitVec.ofInt 32 fi).toNat else rne32 fv
    let c := perRow ty / 16
    let n := srcs1 v
    ∀ f ∈ ([
      (.vabs e v, arith Val.abs fun z => (z.natAbs : Int)),
      (.vneg e v, arith Val.neg fun z => -z),
      (.vexp2 e v, special exp2Val),
      (.vlog2 e v, special log2Val),
      (.vrcp e v, special rcpVal),
      (.vrsqrt e v, special rsqrtVal),
      (.vtanh e v, buildRow 0 fun k => tanhBits (rowElem 0 a k % 2 ^ 32)),
      (.vqblk e v, qblkRow (v.x.getLsbD 3) (v.x.toNat % 8) a),
      (.vunpk e v, unpkRow ty (v.x.getLsbD 2) (v.x.toNat % 4) a),
      (.vrsum e v, reduce (treeSum (Nat.log2 (perRow ty)) (all.map num)) ((all.map int).foldl (· + ·) 0)),
      (.vrmax e v, reduce (foldFirst Val.max' .nan (all.map num)) (foldFirst max 0 (all.map int))),
      (.vrmin e v, reduce (foldFirst Val.min' .nan (all.map num)) (foldFirst min 0 (all.map int))),
      (.vmov e v, a),
      (.vtrn e v, buildRow ty fun k => rowElem ty a (c * (k % 16) + k / 16))] : List (Instr × Row)),
      Issues s f.1 → VStarts s e v n [a] d → VGives f.1 s e v n d f.2 s.me

/-- Conversions (11 R204): a narrowing form writes one part of its row, rounded as its mode says, the rest zero, and
draws 256 values from the context stream in mode 2; a widening form converts one part exactly. The descriptor of mode
3 must be legal (11 R205). Dropout and random rows (11 R208, R209; 06 R95): vdrop clears the elements whose draw lies
below the threshold; vrng fills the row from the draws; the context stream advances by one draw per element, and the
descriptor form draws nothing. viota and vsplat (11 R211) read no row. -/
def Obligations.VectorConversions : Prop :=
  (∀ (s : State) (e : Eng) (v : VFields) (a : Row) (d : Option (Nat × Nat)),
     let i : Instr := .vcvt e v
     let ty := v.ty.toNat
     let mode := v.x.toNat / 8 % 4
     let part := v.x.toNat % 4
     let narrow (r : Nat → Round) : Row := buildRow ty fun j =>
       if j / 256 = part then roundTo ty (r (j % 256)) (fp32 (rowElem 0 a (j % 256))) else 0
     let gives (row : Row) (x : Strand) : Prop := VGives i s e v (srcs1 v) d row x
     Issues s i → VStarts s e v (srcs1 v) [a] d →
       (v.x.toNat < 32 → mode = 0 → gives (narrow fun _ => .rne) s.me) ∧
       (v.x.toNat < 32 → mode = 1 → gives (narrow fun _ => .rz) s.me) ∧
       (v.x.toNat < 32 → mode = 2 → gives (narrow fun k => .sr (ctxDraw s.me k).toNat true) (s.me.drew 256)) ∧
       (v.x.toNat < 32 → mode = 3 → descOk s.me = true →
         gives (narrow fun k => .sr (descDraw s.me dRound (256 * part + k)).toNat true) s.me) ∧
       (32 ≤ v.x.toNat → gives (buildRow 0 fun k =>
         roundTo 0 (if mode = 1 then .rz else .rne) (valueOf ty (rowElem ty a (256 * part + k)))) s.me)) ∧
  (∀ (s : State) (e : Eng) (v : VFields) (a : Row) (d : Option (Nat × Nat)),
     let ty := v.ty.toNat
     let desc := v.x.getLsbD 5
     let t := s.me.reg (BitVec.ofNat 5 (v.x.toNat % 32))
     let r (k : Nat) : Nat := if desc then (descDraw s.me dDrop k).toNat else (ctxDraw s.me k).toNat
     let x := if desc then s.me else s.me.drew (perRow ty)
     (desc = true → descOk s.me = true) →
       (Issues s (.vdrop e v) → VStarts s e v (srcs1 v) [a] d → t.toNat < 2 ^ 16 →
         VGives (.vdrop e v) s e v (srcs1 v) d
           (buildRow ty fun k => if r k % 2 ^ 16 < t.toNat then 0 else rowElem ty a k) x) ∧
       (Issues s (.vdrop e v) → VStarts s e v (srcs1 v) [a] d → 2 ^ 16 ≤ t.toNat →
         Traps (.vdrop e v) s cIllegal (wordsOf (encode (.vdrop e v)))) ∧
       (Issues s (.vrng e v) → VStarts s e v [] [] d →
         VGives (.vrng e v) s e v [] d
           (buildRow ty fun k => if ty = 0 then roundTo 0 .rne (.fin false (r k / 2 ^ 40) (-24)) else r k % 2 ^ tyBits ty) x) ∧
       (Issues s (.viota e v) → VStarts s e v [] [] d →
         VGives (.viota e v) s e v [] d
           (buildRow ty fun k => if tyIsInt ty then k % 2 ^ tyBits ty else roundTo ty .rne (.fin false k 0)) s.me) ∧
       (Issues s (.vsplat e v) → VStarts s e v [] [] d →
         VGives (.vsplat e v) s e v [] d (buildRow ty fun _ => t.toNat) s.me))

/-- Vector memory forms (11 R212 to R214) on bytes of this device: vld and vldt start with the bytes at their
addresses, vldt transposed; vst writes the row's bytes, every other byte of memory staying, and starts; vgath loads
256 elements at sb + 4 times its indices. ps are the places of the bytes, in order, and s1 the state with the
translations cached; which bytes the counters of 27 R400 count is the model's choice (assumption log 78). Stated for an
access that no earlier access of its class holds (04 R59). -/
def Obligations.VectorMemory : Prop :=
  ∀ (s s1 : State) (e : Eng) (vm : VmFields) (v : VFields) (row : Row) (d : Option (Nat × Nat)) (ps : List Place),
    let a := s.me.reg vm.sa + BitVec.ofInt 64 (32 * vm.off.toInt)
    let far := ∃ p ∈ ps, isWindowKey p.1 = true
    let opened (reads : List (RowSpec × BitVec 1)) (dst : RowSpec) (f : BitVec 1) : Prop :=
      GateOpen s e (useOf reads dst f) (reads.map Prod.fst) ∧ dst.place s.me = .ok d
    let loaded : Row := bytesRow (readPlaces s1.mem ps)
    let u := dropAsked (countPlaces s1 s1.myCrew.tenant false ps) (.strand s1.cur.1 s1.cur.2)
    ¬far → InOrder s e.cls.toNat →
      (Issues s (.vld e vm) → opened [] (rowSpec vm.spec) vm.flag → pieceCheck 1024 vm.z.toNat a 0 32 = none →
        placesOf s a 1024 vm.z.toNat 1#3 = .ok (s1, ps) →
        EndsIn (.vld e vm) s (startVector u e (useOf [] (rowSpec vm.spec) vm.flag) d loaded)) ∧
      (Issues s (.vldt e vm) → opened [] (rowSpec vm.spec) vm.flag → pieceCheck 64 vm.z.toNat a (1024 * 15) 64 = none →
        piecePlaces 64 vm.z.toNat ((List.range 16).map fun r => a + BitVec.ofNat 64 (1024 * r)) s = .ok (s1, ps) →
        EndsIn (.vldt e vm) s (startVector u e (useOf [] (rowSpec vm.spec) vm.flag) d
          (buildRow 7 fun j => rowElem 7 loaded (16 * (j % 16) + j / 16)))) ∧
      (Issues s (.vst e vm) → opened [(rowSpec vm.spec, vm.flag)] .none 0#1 → readRow s.myCrew s.me (rowSpec vm.spec) = .ok row →
        pieceCheck 1024 vm.z.toNat a 0 32 = none → placesOf s a 1024 vm.z.toNat 2#3 = .ok (s1, ps) →
        ∃ t, EndsIn (.vst e vm) s (startVector t e (useOf [(rowSpec vm.spec, vm.flag)] .none 0#1) none row) ∧
          t.crews = s.crews ∧ t.cur = s.cur ∧
          t.mem = (storePlaces (mySender s1 e.cls.toNat) ps (leBytes 1024 row.toNat) s1).mem ∧
          ∀ k, (∀ p ∈ ps, k < p.1 ∨ p.1 + p.2 ≤ k) → memByte t.mem k = memByte s.mem k) ∧
      (Issues s (.vgath e v) → opened [(rowSpec v.src1, v.e)] (rowSpec v.dst) v.f →
        readRow s.myCrew s.me (rowSpec v.src1) = .ok row →
        gatherPlaces ((List.range 256).map fun k => s.me.reg (BitVec.ofNat 5 (v.x.toNat % 32)) +
          BitVec.ofInt 64 (4 * (BitVec.ofNat 32 (rowElem 7 row k)).toInt)) s = .ok (s1, ps) →
        EndsIn (.vgath e v) s (startVector u e (useOf [(rowSpec v.src1, v.e)] (rowSpec v.dst) v.f) d loaded))

/-! ## Matrix instructions (12 R216 to R235) -/

/-- alease and arelease (12 R219, R220): alease of the holder completes with pd saying whether the active plane is
complete for its crew, and of any other crew requests the lease and waits charged to LEASE_WAIT; arelease waits for
the started array instructions, charged to TILE_WAIT (R219), or to THROTTLE in a cycle that the array withholds from
one of them (the model's choice, assumption log 83: R219 names TILE_WAIT alone), then gives the lease up. -/
def Obligations.LeaseInstructions : Prop :=
  ∀ (s : State) (e : Eng) (x : XFields),
    let crew := s.cur.1
    let cu := cuOf crew
    let c := s.cu cu
    let asked := rampTurn (s.setCu cu { c with requests := c.requests ++ [crew % 4] }) cu (c.lease.isSome || !c.requests.isEmpty)
    let given := if holdsLease s crew then endLease s cu else s
    (IssuesHeld s (.alease e x) → MayPerform s e →
      (holdsLease s crew = true → planesZeroing s = false →
        Performs (.alease e x) e s (s.setMe (s.me.setPred x.pd (planeComplete c.active s.myCrew.tenant crew)))) ∧
      (holdsLease s crew = true → planesZeroing s = true → Waits (.alease e x) s qLease s) ∧
      (holdsLease s crew = false → crew % 4 ∈ c.requests → Waits (.alease e x) s qLease s) ∧
      (holdsLease s crew = false → crew % 4 ∉ c.requests → Waits (.alease e x) s qLease asked)) ∧
    (IssuesHeld s (.arelease e x) → MayPerform s e →
      (arrayBusy s.myCrew = true → Waits (.arelease e x) s
        (if (s.myCrew.inflight.any fun o => o.unit == .array) && !arrayOpen s cu then qThrottle else qTile) s) ∧
      (arrayBusy s.myCrew = false →
        Performs (.arelease e x) e s (given.setMyCrew { given.myCrew with leased := false })))

/-- Weight loads and swaps (12 R217, R224 to R229; 06 R89 to R93): an lds form starts on the load path with the part of
the shadow plane that it loads, counted on the lease; mswap starts a swap once the started array instructions have
completed. What a part holds: lds the elements that the tile's bytes hold at the places of R217; lds.p each of them
with its noise added, or subtracted, and rounded once; lds.cb one eighth expanded from indices of three bits through
the tables of the codebook; lds.bs the codes of the tile with the scales and specials of the side tile's rows. -/
def Obligations.WeightLoads : Prop :=
  ∀ (s : State) (e : Eng) (x : XFields),
    let c := s.myCrew
    let ta := (x.ta.toNat, decide (x.e = 1#1))
    let busy := unitBusy c .load || unitBusy c .swap
    let r := s.me.regsFrom x.sn 4
    let load (p : PlanePart) : EngOp := { id := 0, kind := .m, unit := .load, part := some p }
    let n := x.row.toNat
    let wide := x.fmt.toNat = 1 ∨ x.fmt.toNat = 2
    let byte (sel b : Nat) : Nat := (c.row sel (b / 1024)).toNat / 2 ^ (8 * (b % 1024)) % 256
    let pair (sel b : Nat) : Nat := byte sel b + 256 * byte sel (b + 1)
    let holds (p : PlanePart) (mask : BitVec 8) (rows : List Nat) (w m : Nat) (f : Nat → Nat → Nat) : Prop :=
      p.mask = mask ∧ p.rows.map Prod.fst = rows ∧ ∀ q ∈ p.rows, ∀ j < m, elemOf w j q.2.toNat = f q.1 j
    let half : List Nat := (List.range 128).map fun i => 128 * n + i
    let halfMask : BitVec 8 := if n = 0 then 0x0F#8 else 0xF0#8
    let elem (i j : Nat) : Nat := if wide then pair x.ta.toNat (512 * (i % 128) + 2 * j) else byte x.ta.toNat (256 * i + j)
    let noise (i j : Nat) : Val :=
      let a := r.getD 1 0#64
      let b := r.getD 2 0#64
      let flat := ((b.bits 21 0 + i) * (r.getD 3 0#64).bits 21 0 + (b.bits 43 22 + j)) % 2 ^ 44
      let nib := (rngOut (r.getD 0 0#64) dPerturb (a.bits 23 0) (flat / 16)).toNat / 2 ^ (4 * (flat % 16)) % 16
      let neg := xor (decide (8 ≤ nib)) (a.bits 36 36 == 1)
      if a.bits 35 32 = 0 then .fin neg (([5, 15, 26, 37, 50, 64, 84, 120] : List Nat).getD (nib % 8) 0) ((a.bits 31 24 : Int) - 127 - 6)
      else .fin neg 1 ((a.bits 31 24 : Int) - 127)
    let noisy (w i j : Nat) : Nat :=
      roundTo x.fmt.toNat .rne (Val.add (valueOf x.fmt.toNat (elem i j)) (noise i j)) % 2 ^ w
    let cb := 24 + x.tb.toNat
    let index (k : Nat) : Nat :=
      let bit (b : Nat) : Nat := byte x.ta.toNat (3072 * n + b / 8) / 2 ^ (b % 8) % 2
      bit (3 * k) + 2 * bit (3 * k + 1) + 4 * bit (3 * k + 2)
    let entry (k : Nat) : Nat := pair cb (16 * (k / 128) + 2 * index k)
    (Issues s (.lds e x) → MStarts s e { reads := [ta] } true busy →
      MGives (.lds e x) s e { reads := [ta] } true s (load (ldsPart c x))) ∧
    (Issues s (.ldsP e x) → MStarts s e { reads := [ta] } true busy → ldsPOk r = true →
      MGives (.ldsP e x) s e { reads := [ta] } true s (load (ldsPPart c x r))) ∧
    (Issues s (.ldsCb e x) → MStarts s e { reads := [ta, (24 + x.tb.toNat, true)] } true busy →
      MGives (.ldsCb e x) s e { reads := [ta, (24 + x.tb.toNat, true)] } true s (load (ldsCbPart c x))) ∧
    (Issues s (.ldsBs e x) → MStarts s e { reads := [ta, (x.tb.toNat, false)] } true busy →
      MGives (.ldsBs e x) s e { reads := [ta, (x.tb.toNat, false)] } true s (load (ldsBsPart c x))) ∧
    (Issues s (.mswap e x) → MStarts s e {} true (arrayBusy c) →
      MGives (.mswap e x) s e {} true s { id := 0, kind := .m, unit := .swap }) ∧
    ((ldsPart c x).fmt = x.fmt.toNat ∧ (ldsPPart c x r).fmt = x.fmt.toNat ∧ (ldsCbPart c x).fmt = x.fmt.toNat ∧
      (ldsBsPart c x).fmt = 5) ∧
    (wide → holds (ldsPart c x) halfMask half 16 256 elem ∧ holds (ldsPPart c x r) halfMask half 16 256 (noisy 16)) ∧
    (¬wide → holds (ldsPart c x) 0xFF#8 (List.range 256) 8 256 elem) ∧
    (x.fmt.toNat = 3 ∨ x.fmt.toNat = 4 → holds (ldsPPart c x r) 0xFF#8 (List.range 256) 8 256 (noisy 8)) ∧
    holds (ldsCbPart c x) (1#8 <<< n) ((List.range 32).map fun i => 32 * n + i) 16 256
      (fun i j => entry (256 * (i - 32 * n) + j)) ∧
    holds (ldsBsPart c x) 0xFF#8 (List.range 256) 8 256 (fun i j => byte x.ta.toNat (256 * i + j)) ∧
    ((ldsBsPart c x).scales.map Prod.fst = List.range 256 ∧ (ldsBsPart c x).specials.map Prod.fst = List.range 256 ∧
      (∀ q ∈ (ldsBsPart c x).scales, ∀ g < 16,
        elemOf 8 g q.2.toNat = byte x.tb.toNat (1024 * (q.1 / 4) + (16 * (q.1 % 4) + g))) ∧
      ∀ q ∈ (ldsBsPart c x).specials, ∀ g < 16,
        elemOf 8 g q.2.toNat = byte x.tb.toNat (1024 * (q.1 / 4) + (64 + 16 * (q.1 % 4) + g)))

/-- Products (12 R230, R231; 05 R84, R85): a product whose formats pair with the active plane starts with the
accumulator rows it will write, and its array cycles are counted (27 R400); formats that do not pair raise ILLEGAL. In
an INT8 product column i of vector v is its old value, where the product accumulates, plus the sum over k of
activation k times weight (i, k), modulo 2^32. In a product of a floating format the column takes the exact sum of
each group of 32 products in turn, rounding after each: 8 groups on BF16, FP16, E4M3 and E5M2, and 16 on E2M1, whose
elements carry the scales and specials of their blocks. -/
def Obligations.ProductResults : Prop :=
  ∀ (s : State) (e : Eng) (x : XFields),
    let c := s.myCrew
    let cu := cuOf s.cur.1
    let p := (s.cu cu).active
    let u : TileUse := { reads := [(x.ta.toNat, decide (x.e = 1#1))], write := some (x.tb.toNat, decide (x.f = 1#1)) }
    let cycles := (x.row.toNat + 1) * (if x.fmt.toNat = 1 ∨ x.fmt.toNat = 2 then 4 else 1)
    let pf := p.fmt.getD 0
    let rows := (List.range (x.row.toNat + 1)).map fun n => (128 * x.tb.toNat + n, mmulRow c p pf x n)
    let o : EngOp := { id := 0, kind := .m, unit := .array, rows }
    let paired (i : Instr) (bs : Bool) : Prop :=
      Issues s i → MStarts s e u true (unitBusy c .swap) →
        (pairOk bs p.fmt x.fmt.toNat = true → arrayOpen s cu = true → MGives i s e u true (countFor s c.tenant 2 cycles) o) ∧
        (pairOk bs p.fmt x.fmt.toNat = true → arrayOpen s cu = false → c.grouped = false → Waits i s qThrottle s) ∧
        (pairOk bs p.fmt x.fmt.toNat = false → Traps i s cIllegal (wordsOf (encode i)))
    let column (n i : Nat) : Nat := rowElem 0 (mmulRow c p pf x n) i
    let old (n i : Nat) : Nat := if x.acc = 1#1 then rowElem 0 (c.row x.tb.toNat n) i else 0
    let grouped (groups : Nat) (act wt : Nat → Val) (acc : Nat) : Nat :=
      rne32 ((List.range groups).foldl (fun a g => rne32v (Val.add a
        (sumExact ((List.range 32).map fun k => Val.mul (act (32 * g + k)) (wt (32 * g + k)))))) (fp32 acc)) % 2 ^ 32
    paired (.mmul e x) false ∧ paired (.mmulBs e x) true ∧
      (∀ n i, x.fmt.toNat = 6 → n < 64 → i < 256 →
        let byte (m k : Nat) : Int := (BitVec.ofNat 8 (m / 2 ^ (8 * k))).toInt
        let act := tileChunk c x.ta.toNat 256 n
        let acc : Int := if x.acc = 1#1 then (BitVec.ofNat 32 (rowElem 0 (c.row x.tb.toNat n) i)).toInt else 0
        rowElem 7 (mmulRow c p pf x n) i =
          (BitVec.ofInt 32 (acc + ((List.range 256).map fun k => byte act k * byte (p.row i).toNat k).sum)).toNat) ∧
      (∀ n i, x.fmt.toNat = 1 ∨ x.fmt.toNat = 2 → pf = x.fmt.toNat → n < 128 → i < 256 →
        let act (k : Nat) : Val := valueOf pf (tileChunk c x.ta.toNat 512 n / 2 ^ (16 * k) % 2 ^ 16)
        column n i = grouped 8 act (fun k => valueOf pf ((p.row i).toNat / 2 ^ (16 * k) % 2 ^ 16)) (old n i)) ∧
      (∀ n i, x.fmt.toNat = 3 ∨ x.fmt.toNat = 4 → pf = 3 ∨ pf = 4 → n < 128 → i < 256 →
        let act (k : Nat) : Val := valueOf x.fmt.toNat (tileChunk c x.ta.toNat 256 n / 2 ^ (8 * k) % 2 ^ 8)
        column n i = grouped 8 act (fun k => valueOf pf ((p.row i).toNat / 2 ^ (8 * k) % 2 ^ 8)) (old n i)) ∧
      (∀ n i, x.fmt.toNat = 5 → n < 128 → i < 256 →
        let side (b : Nat) : Nat := (c.row x.ta.toNat (32 + n / 4)).toNat / 2 ^ (8 * b) % 256
        let block (k : Nat) : Nat := (512 * n + k) / 32 % 64
        let act (k : Nat) : Val :=
          e2m1Value (tileChunk c x.ta.toNat 256 n / 2 ^ (4 * k) % 16) (side (block k)) (side (64 + block k))
        column n i = grouped 16 act
          (fun k => e2m1Value ((p.row i).toNat / 2 ^ (4 * k) % 16) (p.scale i (k / 32)) (p.special i (k / 32))) (old n i))

/-- Drains and tile forms (12 R227, R232 to R235): mdrain into a tile starts with the rows it will write, and into
memory, whose bytes and barrier pass the checks, with the bytes and the arrivals of each row; with sr it draws 256
values per row; mzero starts with a tile of zeros; mcbt with the row it copies into a codebook bank. -/
def Obligations.DrainsAndTiles : Prop :=
  ∀ (s s1 : State) (e : Eng) (x : XFields) (ps : List (List Place)),
    let c := s.myCrew
    let r := s.me.regsFrom x.sn 5
    let n := x.row.toNat + 1
    let size := drainBytes x.fmt.toNat
    let out := drainRows c s.me x r
    let drawn (u : State) : State := if x.sr = 1#1 then u.setMe (u.me.drew (256 * n)) else u
    let base : EngOp := { id := 0, kind := .m, unit := .drain, nanTile := if out.2 then some (x.ta.toNat - 16) else none }
    let w := some (x.tb.toNat, decide (x.f = 1#1))
    let wb := some (24 + x.tb.toNat, decide (x.f = 1#1))
    let ta := (x.ta.toNat, decide (x.e = 1#1))
    let zeros := (List.range (tileRows x.tb.toNat)).map fun k => (128 * x.tb.toNat + k, 0#8192)
    (Issues s (.mdrain e x) → x.tb ≠ 16#5 → MStarts s e { reads := [ta], write := w } false (unitBusy c .drain) →
      drainOk r x.fmt.toNat n false = true →
      MGives (.mdrain e x) s e { reads := [ta], write := w } false (drawn s)
        { base with rows := drainTile c x.tb.toNat size out.1 }) ∧
    (Issues s (.mdrain e x) → x.tb = 16#5 → MStarts s e { reads := [ta] } false (unitBusy c .drain) →
      drainOk r x.fmt.toNat n true = true → drainMem s r size n = .ok (s1, ps) →
      MGives (.mdrain e x) s e { reads := [ta] } false (drawn s1)
        { base with
          left := drainParts s1 (r.getD 2 0#64) ((r.getD 3 0#64).bits 31 0) size ps out.1
          bar := r.getD 4 0#64
          arrive := size
          arrivals := n }) ∧
    (Issues s (.mzero e x) → MStarts s e { write := w } false false →
      MGives (.mzero e x) s e { write := w } false s { id := 0, kind := .m, unit := .self, rows := zeros }) ∧
    (Issues s (.mcbt e x) → MStarts s e { reads := [ta], write := wb } false false →
      MGives (.mcbt e x) s e { reads := [ta], write := wb } false s
        { id := 0, kind := .m, unit := .self, rows := [(128 * (24 + x.tb.toNat), c.row x.ta.toNat x.row.toNat)] })

/-! ## Copies and the fabric (13, 14) -/

/-- The start of a copy (13 R241 to R243, R246 to R252): the operation enters the engine with its fields, the eight
registers it read and one unit for every 4 KiB of its stream; sd becomes zero, or the promised cycle, which is not
before CYCLE; cpref leaves sd for its completion. -/
def Obligations.CopyStarts : Prop :=
  ∀ (s : State) (e : Eng) (c : CpFields) (ring : List Word),
    let r := s.me.regsFrom c.sn 8
    ∀ f ∈ ([(.cpy e c, 0), (.cpyLd e c, 1), (.cpySt e c, 2), (.cgath e c, 3), (.cscat e c, 4), (.cred e c, 5),
        (.cpref e c, 6), (.cring e c, 7)] : List (Instr × Nat)),
      let opc := f.2
      let o : AsyncOp := { id := 0, opc, fields := c, regs := r, total := (dTotal r + 4095) / 4096, ring }
      let u := enterEngine s e (copyUse opc c) o
      Issues s f.1 → CopyReady s f.1 opc e c ring →
        ∃ t, EndsIn f.1 s t ∧ t.mem = s.mem ∧ t.myCrew.ops = u.myCrew.ops ∧ t.myCrew.tokens = u.myCrew.tokens ∧
          (∀ i, t.myCrew.feOf i = u.myCrew.feOf i) ∧
          (opc = 6 → t = u) ∧
          (opc ≠ 6 → dProm r = false → t = u.setMe (u.me.setReg c.sd 0#64)) ∧
          (opc ≠ 6 → dProm r = true → ∃ p : Word, t.me = s.me.setReg c.sd p ∧
            (s.cuCycle (cuOf s.cur.1) < 2 ^ 63 → s.cuCycle (cuOf s.cur.1) ≤ p.toNat) ∧
            t.myCrew.promises = s.myCrew.promises ++ [{ op := s.myCrew.seq, cycle := p }])

/-- The start of a fabric operation (13 R242; 14 R265, R267, R269, R273 to R276): when its gate is open, the engine
may take it and its registers pass every check, giving operation o, the operation enters the engine under the crew's
next number and the strand goes on; a check that fails traps. coll.open also asks the arbiter for a context; a
collective counts on its handle; send and recv take a place in the device's order; japp and jfetch bind the header
that they name. -/
def Obligations.FabricStarts : Prop :=
  ∀ (s s1 : State) (e : Eng) (c : CpFields) (o : AsyncOp),
    let id := s1.myCrew.seq
    let u := enterEngine s1 e {} o
    let opened (i : Instr) (bar : Word) : Prop := Issues s i ∧ GateOpen s e {} [] ∧ EngineOpen s e [bar]
    let starts (i : Instr) (bar : Word) (check : Res (State × AsyncOp)) (t : State) : Prop :=
      opened i bar → check = .ok (s1, o) → EndsIn i s t
    let shut (i : Instr) (bar : Word) (check : Res (State × AsyncOp)) : Prop :=
      (∀ cause v, opened i bar → check = .error (.trap cause v) → Traps i s cause v) ∧
      ∀ cause v, opened i bar → check = .error (.xtrap cause v s1) → exec i s = .next (trapMe s1 cause v)
    let handle := sget? u.redCtxs ((s.me.reg c.sn).toNat % 64)
    let bar := s.me.regN (c.sn.toNat + 5)
    (starts (.collOpen e c) 0#64 (openCheck (.collOpen e c) c s)
      { u with claims := u.claims ++ [{ crew := u.cur.1, op := id, tenant := u.myCrew.tenant }] }) ∧
    (∀ f ∈ ([(.collAred e c, 0x11), (.collAgath e c, 0x12), (.collBcast e c, 0x13)] : List (Instr × Nat)),
      (∀ x, handle = some x → starts f.1 bar (collCheck f.1 f.2 c s)
        { u with redCtxs := sput u.redCtxs ((s.me.reg c.sn).toNat % 64) { x with issued := x.issued + 1 } }) ∧
      shut f.1 bar (collCheck f.1 f.2 c s)) ∧
    (∀ f ∈ ([(.send e c, 0x18), (.recv e c, 0x19)] : List (Instr × Nat)),
      starts f.1 bar (sendCheck f.1 f.2 c s) { u with remoteSeq := u.remoteSeq + 1 } ∧ shut f.1 bar (sendCheck f.1 f.2 c s)) ∧
    starts (.japp e c) 0#64 (jappCheck (.japp e c) c s) (bindNow (s.me.reg c.sn) bar u) ∧
    shut (.japp e c) 0#64 (jappCheck (.japp e c) c s) ∧
    starts (.jfetch e c) 0#64 (jfetchCheck (.jfetch e c) c s) (bindNow (s.me.reg c.sn) (s.me.regN (c.sn.toNat + 3)) u) ∧
    shut (.jfetch e c) 0#64 (jfetchCheck (.jfetch e c) c s) ∧
    shut (.collOpen e c) 0#64 (openCheck (.collOpen e c) c s)

/-- Fabric instructions that their strand waits at (14 R265, R272, R275, R278, R279). coll.close closes a handle that
its task holds and on which nothing is in flight, with sd zero; jwait gives the header's chained count once it is
above the register's or the deadline has passed, with pd telling which; glz.post puts a card behind those of its crew,
its status word zero and sd the number ahead; glz.wait gives the status word once it is done, and is charged to
COLL_WAIT while its card waits for the journal (06 R102). -/
def Obligations.HeldFabric : Prop :=
  ∀ (s : State) (e : Eng) (c : CpFields),
    let p := s.me.reg c.sn
    let ahead := (crewCards s s.cur.1).length
    let room := MayPerform s e ∧ s.myCrew.ops.length < 16
    (∀ h x, IssuesHeld s (.collClose e c) → room → ownHandle s p = some (h, x) →
      (handleBusy s.myCrew h = false →
        Performs (.collClose e c) e s ((closeContext s h).setMe ((closeContext s h).me.setReg c.sd 0#64))) ∧
      (handleBusy s.myCrew h = true → Waits (.collClose e c) s qColl s)) ∧
    (IssuesHeld s (.collClose e c) → room → ownHandle s p = none →
      Traps (.collClose e c) s cIllegal (wordsOf (encode (.collClose e c)))) ∧
    (∀ s1 s2 h h2, IssuesHeld s (.jwait e c) → room → readHeader (retryAll s) p = .ok (s1, h) →
      (if (s.me.regN (c.sn.toNat + 1)).toNat < h.chained then s2 = s1 ∧ h2 = h
        else chainOn (strandJournal s1 p) (h.capacity + 1) h s1 = .ok (s2, h2)) →
      let r : State × Nat := (dropAsked s2 (.strand s1.cur.1 s1.cur.2), h2.chained)
      let n := (s.me.regN (c.sn.toNat + 1)).toNat
      let deadline := (s.me.regN (c.sn.toNat + 2)).toNat
      let due := deadline ≠ 2 ^ 64 - 1 ∧ deadline ≤ r.1.cuCycle (cuOf r.1.cur.1)
      (n < r.2 ∨ due → Performs (.jwait e c) e s
        (r.1.setMe ((r.1.me.setReg c.sd (BitVec.ofNat 64 r.2)).setPred c.pd (decide (n < r.2))))) ∧
      (r.2 ≤ n → ¬ due → Waits (.jwait e c) s qColl r.1)) ∧
    (∀ s1 s2 b, IssuesHeld s (.glzPost e c) → room → ahead < 16 → cardCheck p = none → loadBytes s p 256 0 64 = .ok (s1, b) →
      cardBad b = false → cardPointers b = none → fabPointers s1 [] (cardBar b) = .ok () →
      barZeroing s1 (cuOf s1.cur.1) (cardBar b) = false →
      storeBytes s1 (p + 192#64) (leBytes 4 0) 0 4 e.cls.toNat = .ok s2 →
      let card : Card := {
        id := s2.cardSeq
        crew := s2.cur.1
        launch := (ownerOf s2.myCrew).1
        task := (ownerOf s2.myCrew).2
        ptr := p
        bytes := b
        cls := e.cls
        tenant := s2.myCrew.tenant }
      Performs (.glzPost e c) e s
        ({ s2 with cards := s2.cards ++ [card], cardSeq := s2.cardSeq + 1 }.setMe (s2.me.setReg c.sd (BitVec.ofNat 64 ahead)))) ∧
    (∀ s1 bs, IssuesHeld s (.glzWait e c) → room → cardCheck p = none → loadBytes s (p + 192#64) 4 0 4 = .ok (s1, bs) →
      ((leNat bs).testBit 31 = true →
        Performs (.glzWait e c) e s (s1.setMe (s1.me.setReg c.sd (BitVec.ofNat 64 (leNat bs))))) ∧
      ((leNat bs).testBit 31 = false → Waits (.glzWait e c) s (if cardWaits s1 p then qColl else qMem) s1))

/-- An arrival of n bytes (04 R68, R70): with p = pending - n above zero, pending becomes p; otherwise the phase flips
and pending becomes expected; and with p below zero the overrun bit is set, overrun_bytes grows by -p up to its
largest value, and the scalar strand of the context that initialised the object, still on its crew, has
BARRIER_OVERRUN pending with the pointer. No other byte of memory changes, the reserved bits among them. The pointer
is the one that the arrival used, whatever alias of the object that is (the model's choice, assumption log 21). -/
def Obligations.BarrierArrival : Prop :=
  ∀ (s : State) (k : Nat) (ptr : Word) (n : Int),
    let q := barPending s.mem k - n
    let r := arrive s k ptr n
    let t := r.1
    (0 < q → q < 2 ^ 31 → r.2 = false ∧ barPending t.mem k = q ∧ SameMemoryOff (k + 4) 4 s t) ∧
    (q ≤ 0 → r.2 = true ∧ barPhase t.mem k = 1 - barPhase s.mem k ∧ barPending t.mem k = signedNat 4 (memNat s.mem k 4) ∧
      memNat t.mem k 4 = memNat s.mem k 4 ∧ memNat t.mem (k + 8) 1 = memNat s.mem (k + 8) 1 ^^^ 1 ∧
      memNat t.mem (k + 10) 2 = memNat s.mem (k + 10) 2 ∧ SameMemoryOff (k + 4) 12 s t) ∧
    (q = 0 → SameMemoryOff (k + 4) 5 s t) ∧
    (q < 0 → memNat t.mem (k + 9) 1 = memNat s.mem (k + 9) 1 ||| 1 ∧
      memNat t.mem (k + 12) 4 = min (memNat s.mem (k + 12) 4 + (-q).toNat) 0xFFFFFFFF ∧
      ∀ crew launch task x, sget? s.inits k = some (crew, launch, task) → (s.crew crew).ctx = some x → x.launch = launch →
        x.task = task → (t.crew crew).ss.pend.overrun = (s.crew crew).ss.pend.overrun ++ [ptr])

/-- Barrier and ring instructions (04 R69, R71 to R73; 14 R258 to R263): on an object whose pointer and operand pass
the checks, binit writes the object and records the context; bexpect and barrive are arrivals, pd telling whether the
phase flipped; bwait performs once the phase bit differs from its operand and waits until then; btest tells in pd
whether it differs; rinit writes the ring with both indexes zero, whatever the object held before (the model's choice,
assumption log 9); rwaitf performs once its slot is filled; rrel
releases one slot. barrive and rrel are releases (02 R22): stated for a strand all of whose earlier accesses have been
performed. -/
def Obligations.BarriersAndRings : Prop :=
  ∀ (s : State) (e : Eng) (y : SyFields) (k : Nat),
    let p := s.me.reg y.sa
    let v := s.me.reg y.sb
    let bar (i : Instr) (release : Bool := false) : Prop :=
      IssuesHeld s i ∧ MayPerform s e release ∧ objectKey s p 16 = .ok k ∧ barReserved s.mem k = false
    let ring (i : Instr) (release : Bool := false) : Prop :=
      IssuesHeld s i ∧ MayPerform s e release ∧ objectKey s p 32 = .ok k
    let setPd (u : State) (b : Bool) : State := u.setMe (u.me.setPred y.pd b)
    let added := arrive s k p (-v.toInt)
    let taken := arrive s k p v.toNat
    let m := s.mem
    (∀ x, bar (.binit e y) → 1 ≤ v.toNat → v.toNat < 2 ^ 31 → s.myCrew.ctx = some x →
      Performs (.binit e y) e s { s with
        mem := memWrite m k (leBytes 4 v.toNat ++ leBytes 4 v.toNat ++ leBytes 8 0)
        inits := sput s.inits k (s.cur.1, x.launch, x.task) }) ∧
    (bar (.bexpect e y) → -(2 ^ 31) ≤ v.toInt → v.toInt < 2 ^ 31 →
      (barPending m k + v.toInt < 2 ^ 31 → Performs (.bexpect e y) e s (setPd added.1 added.2)) ∧
      (2 ^ 31 ≤ barPending m k + v.toInt → Traps (.bexpect e y) s cIllegal p)) ∧
    (bar (.barrive e y) true → v.toNat < 2 ^ 31 → Performs (.barrive e y) e s (setPd taken.1 taken.2)) ∧
    (bar (.bwait e y) → v.toNat < 2 →
      (barPhase m k ≠ v.toNat → Performs (.bwait e y) e s s) ∧ (barPhase m k = v.toNat → Waits (.bwait e y) s qBarrier s)) ∧
    (bar (.btest e y) → v.toNat < 2 → Performs (.btest e y) e s (setPd s (decide (barPhase m k ≠ v.toNat)))) ∧
    (ring (.rinit e y) →
      let size := s.me.regN (y.sb.toNat + 1)
      let count := s.me.regN (y.sb.toNat + 2)
      ptrOk v = true → v.toNat % 32 = 0 → size.toNat % 32 = 0 → 32 ≤ size.toNat → size.toNat < 2 ^ 32 → count ≠ 0#64 →
      count.toNat < 2 ^ 32 →
      Performs (.rinit e y) e s
        { s with mem := memWrite m k (leBytes 8 v.toNat ++ leBytes 4 size.toNat ++ leBytes 4 count.toNat ++ leBytes 16 0) }) ∧
    (ring (.rwaitf e y) → ringCount m k ≠ 0 →
      (v.toNat < ringRead m k → Traps (.rwaitf e y) s cIllegal p) ∧
      (ringRead m k ≤ v.toNat → v.toNat < ringWrite m k → Performs (.rwaitf e y) e s s) ∧
      (ringRead m k ≤ v.toNat → ringWrite m k ≤ v.toNat → Waits (.rwaitf e y) s qBarrier s)) ∧
    (ring (.rrel e y) true → ringCount m k ≠ 0 →
      (ringRead m k < ringWrite m k →
        Performs (.rrel e y) e s { s with mem := memWrite m (k + 24) (leBytes 8 (ringRead m k + 1)) }) ∧
      (ringWrite m k ≤ ringRead m k → Traps (.rrel e y) s cIllegal (wordsOf (encode (.rrel e y)))))

/-- Tables and patch (09 R149, R150; 18 R304; 19 R306): tload and krules load their table into the older bank, which
becomes the active one, and advance the generation; krules traps with the address of the first bad entry, the older
bank holding what it has read and the active one unchanged; patch puts the amended words of its template at the PC of
its strand and ends its turn with no other effect: they issue in the strand's next turn (the model's choice,
assumption log 57: R149 and R150 tell no turns apart). -/
def Obligations.TablesAndPatch : Prop :=
  ∀ (s s1 : State) (p : BitVec 4) (sa : BitVec 5) (index : BitVec 6) (select : BitVec 4) (value : BitVec 16) (bs : List Byte)
    (ws : List W32) (k : Nat),
    let a := s.me.reg sa
    let x := s1.me
    (Issues s (.tload p sa) → loadBytes s a 512 0 64 = .ok (s1, bs) →
      EndsIn (.tload p sa) s (s1.setMe { x with tmplA := bankOf bs, tmplO := x.tmplA, tgen := x.tgen + 1#32 })) ∧
    (Issues s (.krules p sa) → loadBytes s a 4096 0 64 = .ok (s1, bs) → tableBad bs = none →
      EndsIn (.krules p sa) s (s1.setMe { x with ruleA := bankOf bs, ruleO := x.ruleA, rgen := x.rgen + 1#32 })) ∧
    (Issues s (.krules p sa) → loadBytes s a 4096 0 64 = .ok (s1, bs) → tableBad bs = some k →
      exec (.krules p sa) s =
        .next (trapMe (s1.setMe { x with ruleO := bankOf bs }) cIllegal (a + BitVec.ofNat 64 (64 * k)))) ∧
    (amended s.me index select value = some ws →
      exec (.patch index select value) s = .next (s.setMe { s.me with latch := some ws })) ∧
    (amended s.me index select value = none →
      Traps (.patch index select value) s cIllegal (wordsOf (encode (.patch index select value))))

/-! ## Events of the strands, engines and the fabric -/

/-- Events of strands (02 R37; 04 R74; 09 R142, R161; 10 R171; 14 R275; 23 R357, R361): an unassigned encoding raises
ILLEGAL with its words; a fetch fault traps at the PC that it was to fetch, its slot charged FETCH, or TRAP above
level 0 (07 R107, R108); an asynchronous cause is taken in its order, the instruction at the PC not having issued; a
watchdog at zero kills the context; a waitt whose cycle has come goes on; a jwait whose deadline has come ends with pd
false. -/
def Obligations.StrandEvents : Prop :=
  ∀ (s : State) (crew : Nat) (k : StrandKind) (w0 w1 : W32) (cause : Nat) (v : Word),
    let c := s.crew crew
    let x := c.str k
    let without (q : Pend) : State := s.setCrew crew (c.setStr k { x with pend := q })
    exec (.unassignedEncoding w0 w1) s = .next (trapMe s cIllegal (if isLong w0 then w1 ++ w0 else 0#32 ++ w0)) ∧
    exec (.instructionFetchFault cause v) s = .next (takeTrap (s.setMe { s.me with
      slot := some (if 0 < s.me.level then qTrap else qFetch, s.me.pc, 1) }) s.cur.1 s.cur.2 cause 0 v s.me.pc) ∧
    (∀ id h, atBoundary c .c = true → k = .c → x.level ≤ 1 → heldOp c = some (id, h) →
      exec (.asyncTrapEntry crew k) s = .next (takeTrap
        (s.setCrew crew { c with
          ops := c.ops.map fun o => if o.id = id then { o with held := some { h with reported := some (x.level + 1) } } else o })
        crew k h.cause 0x600 (if h.cause = cStage2 then h.va else BitVec.ofNat 64 (h.side % 4 * 2 ^ 62 + h.progress % 2 ^ 62))
        x.pc)) ∧
    (∀ rest, atBoundary c .c = true → k = .c → x.level ≤ 1 → heldOp c = none → x.pend.conflict = v :: rest →
      exec (.asyncTrapEntry crew k) s =
        .next (takeTrap (without { x.pend with conflict := rest }) crew k cConflict 0x200 v x.pc)) ∧
    (∀ rest, atBoundary c .s = true → k = .s → x.level = 0 → x.pend.overrun = v :: rest →
      exec (.asyncTrapEntry crew k) s =
        .next (takeTrap (without { x.pend with overrun := rest }) crew k cOverrun 0x200 v x.pc)) ∧
    (∀ rest, atBoundary c .s = true → k = .s → x.level = 0 → x.pend.overrun = [] → x.pend.skew = v :: rest →
      exec (.asyncTrapEntry crew k) s =
        .next (takeTrap (without { x.pend with skew := rest }) crew k cSkew 0x200 v x.pc)) ∧
    (c.ctx.isSome = true → c.killed = none → x.started = true → x.exited = false → x.wleft = 0 →
      exec (.watchdogExpiry crew k) s = .next (killContext s crew cWatchdog)) ∧
    (∀ s1 p sa, waitingAt s crew k qSleep = some (s1, .waitt p sa) → Issues s1 (.waitt p sa) → s1.me.reg sa = v →
      v.toNat ≤ s1.cuCycle (cuOf crew) → (∀ q ∈ s1.myCrew.promises, q.cycle.toNat ≤ v.toNat → q.acquired = true ∨ q.done = true) →
      exec (.waittWake crew k v) s = .next (retire (.waitt p sa) (s1.setMyCrew { s1.myCrew with
        promises := s1.myCrew.promises.map fun q => if q.cycle.toNat ≤ v.toNat then { q with acquired := true } else q }) 1)) ∧
    (∀ s1 s2 s3 e f h h2 n, waitingAt s crew .c qColl = some (s1, .jwait e f) → IssuesHeld s1 (.jwait e f) →
      MayPerform s1 e → s1.myCrew.ops.length < 16 → s1.journalHeld = [] → readHeader s1 (s1.me.reg f.sn) = .ok (s2, h) →
      h.chained = n → n ≤ (s1.me.regN (f.sn.toNat + 1)).toNat →
      chainOn (strandJournal s2 (s1.me.reg f.sn)) (h.capacity + 1) h s2 = .ok (s3, h2) →
      let u := dropAsked s3 (.strand s2.cur.1 s2.cur.2)
      let deadline := (s1.me.regN (f.sn.toNat + 2)).toNat
      deadline ≠ 2 ^ 64 - 1 → deadline ≤ s1.cuCycle (cuOf crew) → deadline ≤ u.cuCycle (cuOf u.cur.1) →
      exec (.jwaitDeadline crew f.sd f.pd n) s = exec (.jwait e f) s1 ∧
        Performs (.jwait e f) e s1 (u.setMe ((u.me.setReg f.sd (BitVec.ofNat 64 h2.chained)).setPred f.pd
          (decide ((s1.me.regN (f.sn.toNat + 1)).toNat < h2.chained)))))

/-- A Knead group (18 R287, R299, R300, R302): when the words at the PC of the strand in focus open a group of entry
n, its replacements decode and its head's predicate holds, the replacements have their effect and the strand goes on
past the members; with the predicate false nothing but the previous-result ring of V changes; a replacement that is no
instruction, or one that traps, traps for the group with no effect but what the walks of its accesses have left. A
group whose last replacement has to wait for the access of the one before it holds the strand (the model's own,
assumption log 96), and ends once that replacement can be carried out. -/
def Obligations.GroupIssues : Prop :=
  (∀ (s s1 : State) (n : Nat) (ws : List W32) (ms : List WinItem) (head last : WinItem) (bodies : List Body) (cause : Nat)
    (v : Word),
    let e := ruleEntry s.me.ruleA n
    let slots := max 1 (ruleRepls e)
    let rs := (List.range (ruleRepls e)).map fun j => replWords (s.cur.2 == .m) e ms j
    let c := s.myCrew
    let second := rs.getD 1 (0#32, 0#32)
    let rest : GroupRest := { entry := n, w0 := second.1, w1 := second.2, members := ms.length, slots, pc := last.pc
                              len := last.len, ring := c.ring }
    s.me.rest = none → headWords s = some ws → kneadAt s ws = .group n ms → ms.head? = some head →
      ms.getLast? = some last →
      (decodeRepls rs = .error v → exec (.kneadGroupIssue n) s = .next (trapGroup s ms.length slots cIllegal v)) ∧
      (decodeRepls rs = .ok bodies → s.me.predHolds head.p = false →
        exec (.kneadGroupIssue n) s = .next (retireGroup last.pc last.len slots
          (if s.cur.2 = .m then s
           else s.setMyCrew { c with ring := (List.replicate ms.length ({} : RingEnt) ++ c.ring).take 4 }))) ∧
      (decodeRepls rs = .ok bodies → s.me.predHolds head.p = true → groupEffect s e ms rs bodies = .ok (s1, false) →
        exec (.kneadGroupIssue n) s = .next (retireGroup last.pc last.len slots s1)) ∧
      (decodeRepls rs = .ok bodies → s.me.predHolds head.p = true → groupEffect s e ms rs bodies = .ok (s1, true) →
        exec (.kneadGroupIssue n) s = .next (holdMe qMem (s1.setMe { s1.me with rest := some rest }))) ∧
      (decodeRepls rs = .ok bodies → s.me.predHolds head.p = true → groupEffect s e ms rs bodies = .error (.trap cause v) →
        exec (.kneadGroupIssue n) s = .next (trapGroup s ms.length slots cause v)) ∧
      (decodeRepls rs = .ok bodies → s.me.predHolds head.p = true → groupEffect s e ms rs bodies = .error (.xtrap cause v s1) →
        exec (.kneadGroupIssue n) s = .next (trapGroup s1 ms.length slots cause v))) ∧
  (∀ (s s1 : State) (r : GroupRest) (b : Body) (o : Option Word), s.me.rest = some r →
    decodeRepls [(r.w0, r.w1)] = .ok [b] → b (excuse s false allOperands) = .ok (s1, o) →
      exec (.kneadGroupIssue r.entry) s = .next (retireGroup r.pc r.len r.slots
        (noRest (endRing (excuse s1 false []) r.ring r.members))))

/-- The array lease and its ramp (02 R24, R25; 03 R53; 07 R117; 12 R220): a free array, or one whose holder has
completed its array instructions while its lease is ending or after its context was killed, passes to the next
requester in rotation, its planes zeroed when an owner tag records another tenant, and is free when there is none; a
lease is ending once its limit is reached while a request waits; the ramp level falls by one while the array is held
or requested and rises by one otherwise. -/
def Obligations.LeaseAndRamp : Prop :=
  ∀ (s : State) (cu j : Nat) (l : Lease),
    let c := s.cu cu
    let n := (s.crew (4 * cu + j)).tenant
    let foreign := foreignPlane c.active n || foreignPlane c.shadow n
    let granted := ∃ t, exec (.leaseGrant cu) s = .next t ∧ t.mem = s.mem ∧
      (t.cu cu).lease = some { crew := 4 * cu + j, grant := s.cycle, zeroing := foreign } ∧
      (t.cu cu).requests = c.requests.filter (fun k => decide (k ≠ j)) ∧
      (foreign = true → (t.cu cu).active = {} ∧ (t.cu cu).shadow = {}) ∧
      (foreign = false → (t.cu cu).active = c.active ∧ (t.cu cu).shadow = c.shadow)
    let busy := c.lease.isSome || !c.requests.isEmpty
    (c.lease = none → nextRequest c.requests c.lastHolder = some j → granted) ∧
    (c.lease = some l → leaseEnding s cu = true ∨ (s.crew l.crew).killed.isSome = true → arrayBusy (s.crew l.crew) = false →
      (nextRequest c.requests (l.crew % 4) = some j → granted) ∧
      (nextRequest c.requests (l.crew % 4) = none → ∃ t, exec (.leaseGrant cu) s = .next t ∧ t.mem = s.mem ∧
        (t.cu cu).lease = none ∧ (t.cu cu).lastHolder = l.crew % 4 ∧ (t.cu cu).requests = c.requests)) ∧
    (c.lease = some l → 64 ≤ l.used ∨ l.grant + 32768 ≤ s.cycle → c.requests ≠ [] → l.ending = false →
      exec (.leaseLimit cu) s = .next (s.setCu cu { c with lease := some { l with ending := true } })) ∧
    (s.power.rampw ≠ 0 → c.rampNext ≤ s.cycle → (busy = true → 0 < c.ramp) → (busy = false → c.ramp < 15) →
      ∃ t, exec (.rampStep cu) s = .next t ∧ t.mem = s.mem ∧
        (t.cu cu).ramp = (if busy then c.ramp - 1 else c.ramp + 1) ∧ (t.cu cu).rampAt = s.cycle ∧
        (t.cu cu).rampNext = s.cycle + s.power.rampw)

/-- Completions of engines (02 R16, R17, R21, R22; 04 R72; 12 R218, R229, R234; 13 R244, R246 to R253): the oldest
started operation of a unit, whose rows have been stored and performed and whose post covers nothing that is not
performed, completes: it leaves flight, its destination takes its state and its row, its posts are made; a swap
exchanges the planes; a drain with one part of a row left stores it. A copy performs its next unit, or ends one whose
remote writes are answered: a unit that is one run on this device moves its bytes, by the index of its row in cgath and
cscat, into or from a tile in cpy.ld and cpy.st, element by element in cred; a unit of cpref outside GLOBAL has no page,
and is done without a check of its owner (the model's reading, assumption log 18). A copy that has performed its last
unit completes: it leaves the engine, its destination takes its state, its promise is kept, its posts are made; the slot
of a cring becomes visible when every earlier one is, and cpref writes sd and pd. -/
def Obligations.EngineCompletions : Prop :=
  ∀ (s s1 : State) (crew op : Nat) (o : AsyncOp) (g : EngOp),
    let c := s.crew crew
    let cu := s.cu (cuOf crew)
    let found := c.ops.find? (fun x => x.id = op) = some o
    let runs := o.held = none ∧ clockOk s (cuOf crew) = true ∧ faultOpen s crew o.id = false ∧ o.finished = false ∧ o.opc < 8 ∧
      c.zeroing = false
    let starts := o.sent = false ∧ stopped c o = false
    let here (p : Place) : Prop := isWindowKey p.1 = false
    let started := c.inflight.find? (fun x => x.id = op) = some g ∧ firstOfUnit c g = true
    let r := o.regs
    let ring := padKey (cuOf crew) (dReg r 1)
    let slot := (dReg r 5).toNat
    let reduced (rop ty a b : Nat) : Nat :=
      if ty = 7 then
        let a := (BitVec.ofNat 32 a).toInt
        let b := (BitVec.ofNat 32 b).toInt
        (BitVec.ofInt 32 (if rop = 0 then a + b else if rop = 1 then max a b else min a b)).toNat
      else
        let a := valueOf ty a
        let b := valueOf ty b
        roundTo ty .rne (if rop = 0 then Val.add a b else if rop = 1 then Val.max' a b else Val.min' a b)
    let kept (p : AsyncOp) : Prop := p.opc = o.opc ∧ p.id = o.id ∧ p.regs = r ∧ p.fields = o.fields ∧ p.ring = o.ring ∧
      p.next = o.next ∧ p.total = o.total
    (started → g.left = [] → (∀ r ∈ s.remote, r.crew = crew → r.op ≠ some g.id) → barZeroing s (cuOf crew) g.bar = false →
      postHeld s crew g.kind g.post g.after = false →
      ∃ t, exec (.engineInstructionCompletion crew op) s = .next t ∧
        (t.crew crew).inflight.map EngOp.id = (c.inflight.filter fun x => decide (x.id ≠ g.id)).map EngOp.id ∧
        (t.crew crew).tokens = (c.post g.kind g.post).tokens ∧ (t.crew crew).pendTok = (c.post g.kind g.post).pendTok ∧
        (∀ i f, g.dst = some (i, f) → i < 34 → (t.crew crew).feOf i = f) ∧
        (∀ n row, g.rows = [(n, row)] → sget 0#8192 (t.crew crew).tiles n = row) ∧
        (g.unit = .swap → (t.cu (cuOf crew)).active = cu.shadow ∧ (t.cu (cuOf crew)).shadow = cu.active) ∧
        (∀ p, g.unit ≠ .swap → g.part = some p → (t.cu (cuOf crew)).shadow = loadPart cu.shadow c.tenant crew p) ∧
        (g.arrivals = 0 → t.mem = s.mem)) ∧
    (∀ p, started → g.left = [p] → g.stored = [] → clockOk s (cuOf crew) = true → here (p.key, p.bs.length) →
      formatting s p.key = false → (∀ n, p.till = some n → s.cuCycle (cuOf crew) < n) → g.bar = 0#64 →
      ∃ t, exec (.engineInstructionCompletion crew op) s = .next t ∧ t.mem = memWrite s.mem p.key p.bs) ∧
    (found → runs → o.sent = true → opSending s crew o.id = false →
      exec (.copyUnit crew op) s = .next (unitDone s crew o (unitBytes o.regs o.next))) ∧
    (found → runs → starts → unitStep s crew o = .ok s1 → exec (.copyUnit crew op) s = .next s1) ∧
    (found → runs → starts → o.opc = 6 → spaceOf (dReg o.regs 0) ≠ 0 →
      exec (.copyUnit crew op) s = .next (unitDone s crew o 0)) ∧
    (∀ q n i j s0 s2 s3 o1 o2 o3 x, found → runs → starts → o.opc ≠ 6 → o.used = [] → unitRuns r o.next = [(q, n)] →
      dBar r = 0#64 → kept o1 → kept o2 → kept o3 →
      (if o.opc = 3 ∨ o.opc = 4 then
        ∃ k s1, opPlaces s crew o.anew (dReg r 4 + BitVec.ofNat 64 (dIdxSize r * (q / dLen r))) (dIdxSize r) 0 1#3 2 =
            .ok (s1, o1, [(k, dIdxSize r)]) ∧ here (k, dIdxSize r) ∧ s0 = countPlaces s1 (s1.crew crew).tenant false
              [(k, dIdxSize r)] ∧ x = signedNat (dIdxSize r) (memNat s1.mem k (dIdxSize r))
       else s0 = s ∧ o1 = o.anew ∧ x = 0) →
      (if o.opc = 2 then s2 = s0 ∧ o2 = o1
       else opPlaces s0 crew o1 (srcAddr o q x) n o.fields.zs.toNat 1#3 0 = .ok (s2, o2, [(i, n)]) ∧ here (i, n)) →
      (if o.opc = 1 then s3 = s2 ∧ o3 = o2
       else opPlaces s2 crew o2 (dstAddr o q x) n o.fields.zd.toNat 2#3 (if o.opc = 7 then 3 else 1) =
         .ok (s3, o3, [(j, n)]) ∧ here (j, n)) →
      (let src := if o.opc = 2 then [] else [(i, n)]
       clashes o3 (allRuns (countPlaces s3 (s3.crew crew).tenant false src) crew o3) = false) →
      (∀ w ∈ s3.remote, w.crew = crew → w.op ≠ some o.id) →
      ∃ t y, exec (.copyUnit crew op) s = .next t ∧
        (t.crew crew).ops = ((s3.crew crew).ops.map fun z => if z.id = o.id then y else z) ∧ y.next = o.next + 1 ∧
        y.finished = decide (o.total ≤ o.next + 1) ∧ y.sent = false ∧
        (o.opc ∈ [0, 3, 4, 7] → t.mem = memWrite s3.mem j (memBytes s3.mem i n)) ∧
        (o.opc = 1 → t.mem = s3.mem ∧ ∀ b < n, ((dReg r 1).toNat + dstDelta o q x).toNat + n ≤ 65536 →
          (t.crew crew).tileByte o.fields.tile.toNat (((dReg r 1).toNat + dstDelta o q x).toNat + b) = memByte s3.mem (i + b)) ∧
        (o.opc = 2 → t.mem = memWrite s3.mem j ((List.range n).map fun b =>
          (s3.crew crew).tileByte o.fields.tile.toNat (((dReg r 0).toNat + srcDelta o q x).toNat + b))) ∧
        (o.opc = 5 → n % elemBytes (dRty r) = 0 → SameMemoryOff j n s3 t ∧
          let es := elemBytes (dRty r)
          ∀ e < n / es, memNat t.mem (j + es * e) es =
            reduced (dRop r) (dRty r) (memNat s3.mem (j + es * e) es) (memNat s3.mem (i + es * e) es) % 2 ^ (8 * es))) ∧
    (found → o.finished = true → o.opc < 8 → opSending s crew o.id = false → postHeld s crew .c o.post o.after = false →
      ∃ t, exec (.copyCompletion crew op) s = .next t ∧
        (t.crew crew).ops = (c.ops.filter fun x => decide (x.id ≠ o.id)) ∧
        (∀ p ∈ (t.crew crew).promises, p.op = o.id → p.done = true) ∧
        (t.crew crew).tokens = (c.post .c o.post).tokens ∧ (t.crew crew).pendTok = (c.post .c o.post).pendTok ∧
        (∀ i f, o.dstFe = some (i, f) → i < 34 → o.opc ≠ 2 → (t.crew crew).feOf i = f) ∧
        (o.opc ≠ 7 → t.mem = s.mem) ∧
        (o.opc = 7 → o.cut = false → ringWrite s.mem ring = slot → sget [] s.ringFills ring = [] →
          t.mem = memWrite s.mem (ring + 16) (leBytes 8 (slot + 1))) ∧
        (o.opc = 7 → o.cut = false → ringWrite s.mem ring < slot → ringWrite s.mem ring ∉ sget [] s.ringFills ring →
          t.mem = s.mem ∧ slot ∈ sget [] t.ringFills ring) ∧
        (o.opc = 6 → o.fields.sd ≠ 0#5 → (t.crew crew).sc.reg o.fields.sd = BitVec.ofNat 64 o.count) ∧
        (o.opc = 6 → o.fields.pd ≠ 0#3 → (t.crew crew).sc.pred o.fields.pd = (o.count == 0)))

/-- Completions of the fabric (14 R265 to R267, R273, R274, R276; 26 R387, R392, R393): a fabric operation performs
its next piece; a japp whose members have all answered completes with its position in sd, a send whose data is
acknowledged with status 0, a jfetch whose entries have been applied with its status and their number, or with status
2 when its window entry is gone; each leaves the engine. A japp whose messages have had no answer for 2^20 cycles
sends them again, except to members that the driver has removed. The arbiter answers one claim in a cycle, the next in
rotation, with status 8 when no handle is free or the tenant holds as many contexts as its cap and 64 allow, 9 when the
staging pool has no room, and otherwise with pd true and a free handle, the lowest (the model's choice, assumption log
23); its coll.open completes at once, or once what its post covers has been performed (the model's reading, log 82); a
claim whose operation is gone is dropped. -/
def Obligations.FabricCompletions : Prop :=
  ∀ (s s1 : State) (crew op : Nat) (o : AsyncOp) (k : Claim),
    let c := s.crew crew
    let found := c.ops.find? (fun x => x.id = op) = some o
    let runs := o.held = none ∧ clockOk s (cuOf crew) = true ∧ faultOpen s crew o.id = false ∧ stopped c o = false ∧ 8 ≤ o.opc ∧ entryBusy s o.window = false
    let free := postHeld s crew .c o.post o.after = false
    let ends (n : Nat) (i : Instr) (v : Word) : Prop :=
      ∃ t, exec i s = .next t ∧ (t.crew n).ops = ((s.crew n).ops.filter fun x => decide (x.id ≠ o.id)) ∧
        (o.fields.sd ≠ 0#5 → (t.crew n).sc.reg o.fields.sd = v)
    let opened (i : Instr) (pd : Bool) (v : Word) : Prop :=
      ∃ t, exec i s = .next t ∧ t.arbNext = s.cycle + 1 ∧
        (t.crew k.crew).ops = (if postHeld s k.crew .c o.post o.after then
            (s.crew k.crew).ops.map fun x => if x.id = o.id then { o with finished := true } else x
          else (s.crew k.crew).ops.filter fun x => decide (x.id ≠ o.id)) ∧
        (o.fields.sd ≠ 0#5 → (t.crew k.crew).sc.reg o.fields.sd = v) ∧
        (o.fields.pd ≠ 0#3 → (t.crew k.crew).sc.pred o.fields.pd = pd) ∧
        (pd = false → t.redCtxs = s.redCtxs ∧ t.stagingUsed = s.stagingUsed)
    let mine (r : RemoteWait) : Prop := r.crew = crew ∧ r.op = some o.id
    (found → runs → fabricStep s crew o = .ok s1 → free ∨ (∃ x ∈ (s1.crew crew).ops, x.id = o.id) →
      exec (.fabricOpCompletion crew op) s = .next s1) ∧
    (found → runs → free → o.opc = 0x10 → o.finished = true → ∃ t, exec (.fabricOpCompletion crew op) s = .next t ∧
      (t.crew crew).ops = (c.ops.filter fun x => decide (x.id ≠ o.id)) ∧ t.mem = s.mem) ∧
    (found → runs → free → o.opc = 0x20 → o.sent = true → 2 ≤ o.phase → opSending s crew o.id = false →
      ends crew (.fabricOpCompletion crew op) (BitVec.ofNat 64 o.pos)) ∧
    (∀ w, found → runs → free → o.opc = 0x18 → 3 ≤ o.phase → sendLost s o = some w → opSending s crew o.id = false →
      ends crew (.fabricOpCompletion crew op) (fabWord 0 0)) ∧
    (∀ w, found → runs → free → o.opc = 0x22 → o.phase = 2 → winEntry s o.window = some w →
      ends crew (.fabricOpCompletion crew op) (fabWord o.status o.count)) ∧
    (found → runs → free → o.opc = 0x22 → winEntry s o.window = none →
      ends crew (.fabricOpCompletion crew op) (fabWord 2 0)) ∧
    (c.ops.find? (fun x => decide (x.id = op) && decide (x.opc = 0x20)) = some o → o.sent = true → o.sentAt + 2 ^ 20 ≤ s.cycle →
      (∃ r ∈ s.remote, mine r) →
      ∃ t, exec (.jappResend crew op) s = .next t ∧
        (t.crew crew).ops = (c.ops.map fun x => if x.id = o.id then { o with sentAt := s.cycle } else x) ∧
        ((∀ r ∈ s.remote, mine r → r.msg.dst ∉ (winEntry s o.window).elim [] (winRanks s)) → ∀ r ∈ t.remote, ¬mine r)) ∧
    (nextClaim s = some k → (s.crew k.crew).ops.find? (fun x => x.id = k.op) = none →
      exec .reductionContextClaim s =
        .next { s with claims := s.claims.filter fun x => !(x.crew == k.crew && x.op == k.op) }) ∧
    (nextClaim s = some k → (s.crew k.crew).ops.find? (fun x => x.id = k.op) = some o → s.arbNext ≤ s.cycle →
      let v := dReg o.regs 1
      let staging := stagingOf o.members o.self (v.bits 35 32) (v.bits 31 0)
      let most := min 64 (s.tenant k.tenant).cap
      (freeHandle s = none → opened .reductionContextClaim false (fabWord 8 0)) ∧
      (∀ h, freeHandle s = some h → most ≤ heldContexts s k.tenant → opened .reductionContextClaim false (fabWord 8 0)) ∧
      (∀ h, freeHandle s = some h → heldContexts s k.tenant < most →
        (poolBytes s < s.stagingUsed + staging → opened .reductionContextClaim false (fabWord 9 0)) ∧
        (s.stagingUsed + staging ≤ poolBytes s →
          opened .reductionContextClaim true (BitVec.ofNat 64 h) ∧
          ∃ t x, exec .reductionContextClaim s = .next t ∧ sget? t.redCtxs h = some x ∧ x.tenant = k.tenant ∧
            x.group = o.group ∧ x.crew = k.crew ∧ t.stagingUsed = s.stagingUsed + staging ∧ t.arbLast = k.tenant)))

/-- Messages from other devices (06 R101; 10 R162; 13 R250; 14 R273, R276; 22 R355; 26 R383, R386, R387, R389, R393):
while a port carries traffic and the window table is not being formatted, a chunk, an announcement or an access for a
group of which this device is no member gives an error record; a collective chunk is staged once and acknowledged each
time; data of a send is staged, or acknowledged again when it has been matched or written, and a notice of a loss is
acted on once; an access whose bytes lie in the receive region is performed once, and answered again with the same
answer, a cred unit through 4,096 bytes of staging; a journal entry is applied; the entries that a jfetch asks for are
sent, then their number, or status 5 where no header is bound; an acknowledgement ends the wait for its message, and
writes the register of a load that it answers; an access that has been discarded gives an error record here. The
payload that comes in, and the memory that an access moves, count to the tenant of the window entry (27 R400). The
model's choices: the kind and unit of these records (assumption log 11), the form of messages and acknowledgements
(log 32), what the byte counters count (log 78). -/
def Obligations.FabricMessages : Prop :=
  ∀ (s : State) (k : Chunk) (acc : RemoteReq) (group src first count tag : Nat) (data : List Byte) (w : Win),
    let inst := k.params.headD 0
    let old := decide (inst < sget 0 s.opens k.group) && !(s.redCtxs.any fun p => p.2.group = k.group && p.2.inst = inst)
    let member := memberKey k.group k.src
    let written := s.applied.any fun a => a.1 = member && a.2.1 = k.params.getD 3 0
    let answered := s.applied.find? fun a => a.1 = acc.srcRank && a.2.1 = accessKey acc
    let u := payload 10 s acc.group acc.data.length
    let uk := payload 10 s k.group k.data.length
    let uj := payload 10 s group data.length
    let finish (x : State) : State :=
      let r := performAccess x acc
      ackTo (countAccess { r.1 with applied := r.1.applied ++ [(acc.srcRank, accessKey acc, r.2)] } acc w r.2.length) 1
        acc.srcRank acc.group [acc.tag] (0#8 :: r.2)
    let lost := Host.Outcome.next (pushErr s 3 4 0 0x1FF 0)
    let told := loseGroup uk k.group
    let req : Instr := .jfetchRequest group src first count
    linkUp s = true → (tableBusy s = false →
      (groupEntry s k.group = none → exec (.collectiveChunk k) s = lost ∧ exec (.sendData k) s = lost) ∧
      (groupEntry s k.group = some w →
        exec (.collectiveChunk k) s = .next (ackTo (if old then uk else addChunk uk k) 2
          (memberRank (if old then uk else addChunk uk k) w k.src) k.group [k.oper, k.number, inst] [0#8]) ∧
        (written = true → exec (.sendData k) s = .next (ackChunk uk w k)) ∧
        (written = false → k.params.getD 1 0 ≠ 10 → exec (.sendData k) s = .next (addChunk uk k)) ∧
        (written = false → k.params.getD 1 0 = 10 → exec (.sendData k) s =
          .next (ackChunk { told with applied := told.applied ++ [(member, k.params.getD 3 0, [])] } w k))) ∧
      (∀ a, answered = some a →
        exec (.remoteAccess acc) s = .next (ackTo u 1 acc.srcRank acc.group [acc.tag] (0#8 :: a.2.2))) ∧
      (answered = none → accessEntry u acc = none → exec (.remoteAccess acc) s = .next (discardAccess u acc)) ∧
      (answered = none → accessEntry u acc = some w →
        (acc.kind ≠ 3 → spansBusy u (accessSpans acc) = false → exec (.remoteAccess acc) s = .next (finish u)) ∧
        (acc.kind = 3 → inStaging u acc = true → exec (.remoteAccess acc) s = .next u) ∧
        (acc.kind = 3 → inStaging u acc = false → u.stagingUsed + 4096 ≤ poolBytes u → exec (.remoteAccess acc) s =
          .next { u with staged := u.staged ++ [acc], stagingUsed := u.stagingUsed + 4096 })) ∧
      (28 ≤ data.length →
        ((applyArrival uj { group, src, entry := data, fetched := false }).2 = none →
          exec (.journalArrival group src data false) s =
            .next (retryAll (applyArrival uj { group, src, entry := data, fetched := false }).1)) ∧
        Completes (.journalArrival group src data false) s ∧ Completes (.journalArrival group src data true) s) ∧
      (0 < count → count ≤ 1024 →
        Completes req s ∧
        (groupEntry s group = none → exec req s = lost) ∧
        (groupEntry s group = some w → boundAgent s group = none →
          exec req s = .next (ackTo s 4 (memberRank s w src) group [first] (5#8 :: leBytes 8 0))) ∧
        ∀ g s1 st es, groupEntry s group = some w → boundAgent s group = some g → answerFrom g first count s = .ok (s1, st, es) →
          let u := g.rest s1
          let rank := memberRank u w src
          exec req s = .next (ackTo (sendEntries u w rank group es) 4 rank group [first] (BitVec.ofNat 8 st :: leBytes 8 es.length)))) ∧
      (acc.kind = 1 → acc.data.length = acc.size → memBytes (performAccess u acc).1.mem acc.off acc.size = acc.data) ∧
      (∀ x : State, tableBusy x = false → spansBusy x (accessSpans acc) = false →
        let x1 := { x with staged := x.staged.filter fun y => decide (y ≠ acc), stagingUsed := x.stagingUsed - 4096 }
        (accessEntry x1 acc = some w → applyStaged x acc = finish x1) ∧
        (accessEntry x1 acc = none → applyStaged x acc = discardAccess x1 acc)) ∧
      exec (.acknowledgement tag data) s = .next (acknowledge (countAnswer s tag data.length) tag data) ∧
      (∀ x, s.remote.find? (fun r => r.tag = tag) = some x → x.load = false → x.msg.kind ≠ 4 → data.headD 0#8 = 0#8 →
        exec (.acknowledgement tag data) s = .next { s with remote := s.remote.filter fun r => decide (r.tag ≠ tag) }) ∧
      (∀ x, s.remote.find? (fun r => r.tag = tag) = some x → x.msg.kind = 1 → data.headD 0#8 ≠ 0#8 →
        ∃ t, exec (.acknowledgement tag data) s = .next t ∧
          t.errs = (pushErr s 3 4 (s.crew x.crew).tenant x.crew 0).errs ∧
          t.mem = (pushErr s 3 4 (s.crew x.crew).tenant x.crew 0).mem) ∧
      (∀ x n l, s.remote.find? (fun r => r.tag = tag) = some x → x.load = true → x.by_ = some n →
        (s.strand x.crew (kindOf n)).late = [l] → l.parts = [(tag + 1, [])] → l.sd ≠ 0#5 →
        ∃ t, exec (.acknowledgement tag (0#8 :: data)) s = .next t ∧ t.mem = s.mem ∧
          (t.strand x.crew (kindOf n)).late = [] ∧
          ∀ q, (t.strand x.crew (kindOf n)).reg q =
            if q = l.sd then extend l.sext l.size data else (s.strand x.crew (kindOf n)).reg q)

/-- Links and Glaze cards (06 R102 to R104, R405; 14 R278; 22 R349; 26 R382 to R384): a good flit in order is accepted
and advances the last seq, and one that asks for a retry is answered; any other gets one retry request and no second;
a retry request sends the flits from its seq again, and the sixteenth for one seq retrains the port; a retraining that
succeeds brings the port up, and the third failure takes it down. A card whose turn has come and whose header is
malformed ends with status 1; one that has started makes the accesses of its next chunk; a card that is done, and
whose bytes have been performed, writes its code with bit 31 to its status word, after the index or address that the
code has; once those words have been performed it arrives with the bytes it wrote, and leaves. The kind and unit of
the error records (assumption log 11) and the place of the seq in a retry request (log 31) are the model's choices. -/
def Obligations.LinksAndCards : Prop :=
  ∀ (s s1 s2 : State) (port seq crew card : Nat) (flit : List Byte) (k : Card) (code : Nat) (ts : List Tlb),
    let p := s.port port
    let link := leNat (flit.take 8)
    let inOrder := crc32c (flit.take 252) = leNat (flit.drop 252) ∧ BitVec.ofNat 12 link = p.lastSeq + 1#12
    let good := { p.acked (BitVec.ofNat 12 (link / 2 ^ 12)) s.cycle with lastSeq := BitVec.ofNat 12 link, sentRetry := false }
    let legal := flitOk link (leNat ((flit.drop 8).take 8)) = true
    let same := p.retrySeq = BitVec.ofNat 12 seq
    let resent : Port := { p with
      retries := min (2 ^ 32 - 1) (p.retries + 1)
      retrySeq := BitVec.ofNat 12 seq
      retryCount := if same then p.retryCount + 1 else 1
      resend := p.unacked.drop (BitVec.ofNat 12 seq - (p.nextSeq - BitVec.ofNat 12 p.unacked.length)).toNat }
    let again := if p.training || !p.up then p else p.train
    let run : Instr := .glazeCardRun crew card
    let first := chunkElems * k.next
    let n := min chunkElems (cardElems k.bytes - first)
    let leaves (t : State) : State :=
      let u := arriveAt t (cuOf k.crew) (cardBar k.bytes) k.written
      { u with cards := u.cards.filter fun x => decide (x.id ≠ k.id) }
    (port < 18 → p.up = true → flit.length = 256 →
      (inOrder → legal → link / 2 ^ 24 % 16 ≠ 2 → exec (.flitReceive port flit) s = .next (flushOut (s.setPort port good))) ∧
      (inOrder → legal → link / 2 ^ 24 % 16 = 2 → exec (.flitReceive port flit) s =
        .next (flushOut (s.setPort port (good.retry (BitVec.ofNat 12 (leNat ((flit.drop 16).take 2))))))) ∧
      (inOrder → ¬legal →
        exec (.flitReceive port flit) s = .next (flushOut (pushErr (s.setPort port good) 3 4 0 0x1FF 0))) ∧
      (¬inOrder → p.sentRetry = true → exec (.flitReceive port flit) s = .next s) ∧
      (¬inOrder → p.sentRetry = false → exec (.flitReceive port flit) s =
        .next (s.setPort port (p.sendRetry (p.lastSeq + 1#12) s.cycle)))) ∧
    (port < 18 → p.up = true → exec (.retryRequest port seq) s =
      .next (s.setPort port (if 16 ≤ resent.retryCount then { resent.train with retryCount := 0 } else resent))) ∧
    (port < 18 → mustTrain s p = true →
      exec (.portRetrain port true) s = .next (flushOut (s.setPort port { again with
        up := true, training := false, attempts := 0, resend := again.unacked, ackCycle := s.cycle })) ∧
      (again.attempts < 2 → exec (.portRetrain port false) s =
        .next (s.setPort port { again with attempts := again.attempts + 1, training := again.up })) ∧
      (2 ≤ again.attempts → exec (.portRetrain port false) s = .next (loseAll (resendFrom (pushErr
        (s.setPort port { again with up := false, training := false, attempts := 3, unacked := [] }) 3 4 0 0x1FF 0) port)))) ∧
    (s.cards.find? (fun x => decide (x.crew = crew) && decide (x.id = card)) = some k →
      (k.doneCode = none → k.started = false → cardTurn s k = true →
        jHeader { header := cardHeader k.bytes, agent := cardAgent k } s = .ok (s1, none) →
        exec run s = .next (cardEnd s1 k 1 0)) ∧
      (k.doneCode = none → k.started = true →
        cardPages (cardAgent k) k.used (cardElems k.bytes) (cardSpans k.bytes) s = .ok (s1, ts) →
        cardAccess s1 { k with used := ts } first n = .ok s2 →
        exec run s = .next ((dropAsked (countFor s2 k.tenant 11 n) (.card k.id)).setCard { k with
          used := ts
          next := k.next + 1
          written := k.written + (((cardSpans k.bytes).map fun p => p.2.1 * n)).foldl (· + ·) 0
          doneCode := if cardElems k.bytes ≤ first + n then some 0 else none })) ∧
      (k.doneCode = some code → k.posted = true → cardSending s k = false →
        exec (.glazeCardCompletion crew card) s = .next (leaves s)) ∧
      (k.doneCode = some code → k.posted = false → cardSending s k = false →
        (if 1 ≤ code ∧ code ≤ 3 then cardPut k 196 (leBytes 4 k.badIndex) s
          else if code = 4 then cardPut k 200 (leBytes 8 k.faultAddr.toNat) s else .ok s) = .ok s1 →
        cardPut k 192 (leBytes 4 (2 ^ 31 + code)) s1 = .ok s2 → s2.cards = s.cards →
        let u := s2.setCard { k with posted := true }
        (cardSending u k = true → exec (.glazeCardCompletion crew card) s = .next u) ∧
        (cardSending u k = false → exec (.glazeCardCompletion crew card) s = .next (leaves u))))

/-! ## Events of translation, the host interface, power, boot and scheduling -/

/-- Translation and clock copies (22 R340, R343, R348, R350): a walk that translates or traps leaves what it has
cached, and one that fails in its second stage or at a page under migration sends its fault record; entries whose
expiry their unit's copy of CYCLE has reached are dropped, a walker's non-leaf entries with them, and no others; a
drift of at most 16 is only kept, and CYCLE does not decrease; a greater one drops the unit's entries, a cluster
walker's with its non-leaf ones, writes an error record, leaves CLOCK_SKEW pending on the scalar strand of every
context of a CU, and holds the unit until its copy is set again. How far each unit's copy lies from the reference is
the model's own field, which only these events move (assumption log 49). -/
def Obligations.TranslationAndClock : Prop :=
  ∀ (s s1 : State) (cu fn : Nat) (va : Word) (need : BitVec 3) (drift : Int) (t : Tlb)
    (cause l k pa ent frame : Nat) (err : Bool),
    let c := s.cu cu
    let now := s.cuCycle cu
    let serves := unitServes s cu fn = true ∧ clockOk s cu = true ∧ need ≠ 0#3 ∧ va.bits 63 57 = 0
    let kept (u : Nat) (l : List Tlb) : List Tlb := l.filter fun t => decide (s.cuCycle u < t.expiry)
    let fresh := { s with
      cus := s.cus.map fun p => (p.1, { p.2 with tlb := kept p.1 p.2.tlb })
      clusterTlb := s.clusterTlb.map fun p => (p.1, kept (walkerOf (8 * p.1)) p.2)
      walkCache := s.walkCache.map fun p => (p.1, p.2.filter fun t => decide (s.cuCycle p.1 < t.expiry)) }
    let expired := (∃ p ∈ s.cus, ∃ t ∈ p.2.tlb, t.expiry ≤ s.cuCycle p.1) ∨
      (∃ p ∈ s.clusterTlb, ∃ t ∈ p.2, t.expiry ≤ s.cuCycle (walkerOf (8 * p.1))) ∨
      (∃ p ∈ s.walkCache, ∃ t ∈ p.2, t.expiry ≤ s.cuCycle p.1)
    let record : ErrRec :=
      { pa := 0, cycle := s.cycle, crew := 0x1FF, fn := 0, unit := 4, kind := 4, tag := BitVec.allOnes 64 }
    let told := drainErrs 1 { s with errs := s.errs ++ [record] }
    (serves → Completes (.translationWalk cu fn va need) s) ∧
    (serves → (walkIn s cu fn va.toNat need = (s1, .ok t) ∨ walkIn s cu fn va.toNat need = (s1, .trap cause err)) →
      exec (.translationWalk cu fn va need) s = .next s1) ∧
    (serves → walkIn s cu fn va.toNat need = (s1, .stall l k pa ent frame) →
      exec (.translationWalk cu fn va need) s =
        .next (joinFault s1 fn va need l k pa ent frame (s.cuCycle (walkerOf cu)) .other)) ∧
    (expired → exec .translationExpiry s = .next fresh) ∧
    (clockUnit cu = true → 0 ≤ (s.cycle : Int) + drift → drift.natAbs ≤ 16 →
      exec (.clockSkewDetection cu drift) s = .next (s.setCu cu { c with drift := drift, floor := now }) ∧
      now ≤ (s.setCu cu { c with drift := drift, floor := now }).cuCycle cu) ∧
    (clockUnit cu = true → 0 ≤ (s.cycle : Int) + drift → 16 < drift.natAbs →
      ∃ u, exec (.clockSkewDetection cu drift) s = .next u ∧ (u.cu cu).resync = true ∧ now ≤ (u.cu cu).floor ∧
        u.errs = told.errs ∧ u.er = told.er ∧ u.mem = told.mem ∧
        (cu < 96 → (u.cu cu).tlb = [] ∧ u.clusterTlb = s.clusterTlb ∧ u.walkCache = s.walkCache ∧
          ∀ j < 4, (u.crew (4 * cu + j)).ss.pend.skew = (s.crew (4 * cu + j)).ss.pend.skew ++
            (if (s.crew (4 * cu + j)).ctx.isSome then [BitVec.ofInt 64 drift] else [])) ∧
        (96 ≤ cu → u.clusterTlb = sput s.clusterTlb (cu - 97) [] ∧ u.walkCache = sput s.walkCache cu [] ∧
          u.crews = s.crews)) ∧
    (c.resync = true ∨ 2 < c.drift.natAbs → now ≤ s.cycle + 2 →
      exec (.clockCopyResync cu) s = .next (s.setCu cu { c with drift := 0, floor := now, resync := false }))

/-- Writes to queues, to recorders and to the host's memory windows (21 R318 to R321, R329; 27 R402): a disabled queue
takes its base; the high half clears err by a 1, takes the vector, and while the queue is off an owner up to 384 and an
lsize from 1 to 16, and turns the queue on with its ring empty, or sets err where the owner has 64 queues on; a
doorbell moves the tail of an enabled queue by what its ring has room for, and otherwise sets err
with ecode 1; a queue that is off, aborted or in error ignores it; the value 1 aborts; a reset of a virtual function
aborts and disables its queues; a recorder keeps lsize and base while it is enabled; the host's CXL.mem writes store
at the physical address, inside what the HDM decoder exposes. That ecode stays when err is cleared is assumption log
47, and the form of the HDM decoder, one base and one size, log 76 (the model's choices). -/
def Obligations.QueueWrites : Prop :=
  ∀ (s : State) (q vf pa : Nat) (v : Word) (d : BitVec 32) (data : List Byte),
    let x := s.queue q
    let r := s.recorder q
    let n := (d - x.tail).toNat
    let room : Int := (2 ^ x.lsize : Nat) - (x.tail - x.head).toNat
    let live := x.en = true ∧ x.aborted = false ∧ x.err = false
    let owner := if x.en then x.owner else if v.bits 56 48 ≤ 384 then v.bits 56 48 else 0
    let lsize := if x.en then x.lsize else if 1 ≤ v.bits 4 0 ∧ v.bits 4 0 ≤ 16 then v.bits 4 0 else 1
    let high := { x with err := x.err && !v.getLsbD 62, vector := v.bits 47 32, owner := owner, lsize := lsize }
    let others := (s.queues.filter fun p => p.2.en && p.2.owner == owner).length
    let size := v.bits 56 52
    let recorder : Recorder := {
      en := v.getLsbD 63
      lsize := if r.en then r.lsize else if 1 ≤ size ∧ size ≤ 16 then size else 1
      base := if r.en then r.base else v.bits 51 8 * 256
      written := if v.getLsbD 63 && !r.en then 0#32 else r.written }
    s.boot.mode = 1 →
      (q < 2048 →
        (x.en = false → exec (.queueConfigWrite q false v) s = .next (s.setQueue q { x with base := v &&& 0x01FFFFFFFFFFFFC0#64 })) ∧
        (x.en = true → exec (.queueConfigWrite q false v) s = .next s) ∧
        (v.getLsbD 63 = false → exec (.queueConfigWrite q true v) s = .next (s.setQueue q { high with en := false })) ∧
        (v.getLsbD 63 = true → x.en = true → exec (.queueConfigWrite q true v) s = .next (s.setQueue q high)) ∧
        (v.getLsbD 63 = true → x.en = false → owner ≠ 0 → 64 ≤ others →
          exec (.queueConfigWrite q true v) s = .next (s.setQueue q { high with err := true })) ∧
        (v.getLsbD 63 = true → x.en = false → owner = 0 ∨ others < 64 → exec (.queueConfigWrite q true v) s =
          .next (s.setQueue q { high with en := true, head := 0#32, tail := 0#32, aborted := false })) ∧
        (live → n ≤ room → n < 2 ^ 31 → exec (.tailWrite q d) s = .next (s.setQueue q { x with tail := d })) ∧
        (live → room < n ∨ 2 ^ 31 ≤ n → exec (.tailWrite q d) s = .next (s.setQueue q { x with err := true, ecode := 1 })) ∧
        (¬live → exec (.tailWrite q d) s = .next s) ∧
        exec (.abortWrite q 1#32) s = .next (abortQueue s q) ∧
        (d ≠ 1#32 → exec (.abortWrite q d) s = .next s) ∧
        exec (.recorderConfigWrite q false v) s = .next { s with recorders := sput s.recorders q recorder } ∧
        exec (.recorderConfigWrite q true v) s = .next s) ∧
      (0 < vf → vf ≤ 384 → exec (.functionLevelReset vf) s = .next ((s.queues.filter fun p => p.2.owner == vf).foldl
        (fun s p => (abortQueue s p.1).setQueue p.1 { (abortQueue s p.1).queue p.1 with en := false }) s)) ∧
      (data ≠ [] → hdmCovers s pa data.length = true →
        exec (.cxlMemAccess true pa data) s = .next { s with mem := memWrite s.mem pa data } ∧
        exec (.cxlMemAccess false pa data) s = .next s)

/-- Writes of memory management (21 R335, R336; 22 R341, R351, R353, R355; 26 R393): an answer ends the fault record
that it names, whose accesses walk again, or marks it unresolved, and any other id is ignored; the fault queue takes
its head and vector; a root pointer is kept masked; a frame command starts, or sets err when it is bad, and is ignored
while one runs; its frames read zero when it completes; the staging pool moves only while nothing is reserved, the
spill area only while it is off and empty; a crew is marked for saving, whether or not it runs a context. -/
def Obligations.ManagementWrites : Prop :=
  ∀ (s : State) (fn : Nat) (v : Word) (f : FaultRec),
    let id := v.bits 31 0
    let named := s.faults.find? fun f => f.id == id && f.written && !f.unres
    let bad := decide (2 ≤ v.bits 62 61) || decide (hbmSize < (v.bits 51 12 + v.bits 11 4 + 1) * 4096)
    let n := v.bits 8 0
    let keep := s.regs.spillEn || decide (0 < poolSpilled s)
    let root := v &&& rootMask
    (s.boot.mode = 1 →
      (named = none → exec (.fqrespWrite v) s = .next s) ∧
      (named = some f → v.getLsbD 32 = true → exec (.fqrespWrite v) s = .next (releaseWalk (markUnres s id))) ∧
      (named = some f → v.getLsbD 32 = false → exec (.fqrespWrite v) s = .next (answerWalk s f) ∧
        SameMemory s (markUnres s id)) ∧
      exec (.fqheadWrite v) s = .next (drainAllFaults
        { s with fq := { s.fq with head := v.extractLsb' 0 32, vector := v.bits 63 48 } }) ∧
      (fn ≤ 384 → exec (.xrRootWrite fn false v) s = .next (s.setTenant fn { s.tenant fn with xr1 := root })) ∧
      (0 < fn → fn ≤ 384 → exec (.xrRootWrite fn true v) s = .next (s.setTenant fn { s.tenant fn with xr2 := root })) ∧
      exec (.xrRootWrite 0 true v) s = .next s ∧
      (s.regs.fcmdGo = true → exec (.fcmdWrite v) s = .next s) ∧
      (s.regs.fcmdGo = false → ∃ t, exec (.fcmdWrite v) s = .next t ∧ t.mem = s.mem ∧ t.frames = s.frames ∧
        t.regs.fcmdGo = (v.getLsbD 63 && !bad) ∧ t.regs.fcmdFrame = v.bits 51 12 ∧ t.regs.fcmdCount = v.bits 11 4 ∧
        (v.getLsbD 63 = true → bad = true → t.regs.fcmdErr = true)) ∧
      (s.stagingUsed = 0 → exec (.stagecfgWrite v) s = .next { s with
        regs := { s.regs with stageBlocks := v.bits 63 52, stageBase := v.bits 51 21 * 2 ^ 21 } }) ∧
      (s.stagingUsed ≠ 0 → exec (.stagecfgWrite v) s = .next s) ∧
      exec (.spillcfgWrite v) s = .next (poolFill (2 * s.pool.length) (noteFull { s with regs := { s.regs with
        spillBlocks := if keep then s.regs.spillBlocks else v.bits 63 52
        spillBase := if keep then s.regs.spillBase else v.bits 51 16 * 65536
        spillFull := s.regs.spillFull && !v.getLsbD 1
        spillEn := v.getLsbD 0 } })) ∧
      (v.getLsbD 63 = true → n < 384 → (freeArea s).isSome = true → poolFull s = false →
        exec (.preemptWrite v) s = .next (s.setCrew n { s.crew n with
          mark := some ((s.crew n).mark.getD false), markKept := true }))) ∧
    (s.regs.fcmdGo = true → ∃ t, exec .frameFormatComplete s = .next t ∧ t.regs.fcmdGo = false ∧
      (∀ a, s.regs.fcmdFrame * 4096 ≤ a → a < (s.regs.fcmdFrame + s.regs.fcmdCount + 1) * 4096 → memByte t.mem a = 0#8) ∧
      SameMemoryOff (s.regs.fcmdFrame * 4096) ((s.regs.fcmdCount + 1) * 4096) s t)

/-- Power and counters (27 R397, R398, R400, R401): the caps are clamped; a new ramp length waits for the next
multiple of 16; a control interval moves the row step by one up above the cap and one down below it by more than the
hysteresis, each die's step by one from its warning threshold on and down 5 °C below it, and to 15 with trip at its
trip threshold, which stays; the steps act 16 cycles later; the vector is raised once per new condition; a counter
takes the value written; a snapshot latches every bank, the cycle and its place, or sets err when its place is bad, and
completes in memory, its bytes 63:8 free (assumption log 98); one that runs ignores another go, and takes addr and
clears err (the model's reading, log 39); a place is bad past the top of the host's 2^52 bytes (the model's, log 54). -/
def Obligations.PowerAndCounters : Prop :=
  ∀ (s : State) (v : Word) (w : BitVec 16) (p t0 t1 tenant k : Nat),
    let next := s.power.next s.cycle p t0 t1
    let cap := min s.power.cap s.power.rowcap
    let therm (temp trips warns th : Nat) (trip : Bool) (th' : Nat) (trip' : Bool) : Prop :=
      (trip = true ∨ 16 * trips ≤ temp → th' = 15 ∧ trip' = true) ∧
      (trip = false → temp < 16 * trips → trip' = false ∧
        (16 * warns ≤ temp → th' = min 15 (th + 1)) ∧
        (temp < 16 * warns → 16 * warns ≤ temp + 80 → th' = th) ∧
        (temp + 80 < 16 * warns → th' = th - 1))
    let cleared := s.regs.snapErr && !v.getLsbD 62
    let addr := v.bits 51 6 * 64
    let place := decide (addr + snapSize ≤ 2 ^ 52)
    let banks := s.regs.snapBanks.flatMap fun b => b.flatMap fun x => leBytes 8 x.toNat
    (s.nextPower ≤ s.cycle → exec (.powerControlInterval p t0 t1) s = .next (raiseNew
      { s with power := next, nextPower := s.nextPower + controlCycles } next.vector
      [(s.power.overCap, next.overCap), (s.power.trip0, next.trip0), (s.power.trip1, next.trip1)])) ∧
    ((cap < p → next.row = min 15 (s.power.row + 1)) ∧
      (p ≤ cap → cap - s.power.hyst ≤ p → next.row = s.power.row) ∧
      (p ≤ cap → p < cap - s.power.hyst → next.row = s.power.row - 1) ∧
      therm t0 s.power.tripc0 s.power.warnc0 s.power.th0 s.power.trip0 next.th0 next.trip0 ∧
      therm t1 s.power.tripc1 s.power.warnc1 s.power.th1 s.power.trip1 next.th1 next.trip1 ∧
      next.stepAt = s.cycle + 16 ∧ next.rowF = s.power.row ∧ next.th0F = s.power.th0 ∧ next.th1F = s.power.th1 ∧
      next.intervals = s.power.intervals + 1#32 ∧ next.power = min p 4095 ∧
      (next.overCap = true ↔ s.power.overCap = true ∨ (cap < p ∧ s.power.row = 15)) ∧
      next.temp0 = t0 % 65536 ∧ next.temp1 = t1 % 65536 ∧ next.vector = s.power.vector ∧ next.cap = s.power.cap ∧
      next.rowcap = s.power.rowcap ∧ next.hyst = s.power.hyst ∧ next.rampw = s.power.rampw) ∧
    exec (.rowcapWrite w) s = .next { s with power := { s.power with rowcap := min (max (w.toNat % 4096) 800) 2000 } } ∧
    (s.boot.mode = 1 →
      exec (.pwrcfgWrite v) s = .next { s with power := { s.power with
        vector := v.bits 63 48
        hyst := v.bits 39 32
        rampwNew := some (min (v.bits 28 12) 65536)
        rampwAt := s.cycle / 16 * 16 + 16
        cap := min (max (v.bits 11 0) 800) 2000 } } ∧
      (∀ h : k < 16, tenant ≤ 384 → exec (.counterBankWrite tenant k v) s =
        .next (s.setTenant tenant { s.tenant tenant with counters := (s.tenant tenant).counters.set k v h })) ∧
      (s.regs.snapGo = true ∨ v.getLsbD 63 = false → exec (.telesnap v) s = .next { s with
        regs := { s.regs with snapErr := cleared, snapAddr := addr } }) ∧
      (s.regs.snapGo = false → v.getLsbD 63 = true → place = true → exec (.telesnap v) s = .next { s with regs := { s.regs with
        snapGo := true
        snapErr := cleared
        snapAddr := addr
        snapTo := addr
        snapCycle := s.cycle
        snapBanks := (List.range 385).map fun n => (s.tenant n).counters.toList } }) ∧
      (s.regs.snapGo = false → v.getLsbD 63 = true → place = false →
        ∃ t, exec (.telesnap v) s = .next t ∧ t.regs.snapErr = true ∧ t.regs.snapGo = false)) ∧
    (s.regs.snapGo = true → ∃ free : List Byte, free.length = 56 ∧ exec .telesnapComplete s = .next { s with
      mem := memWrite s.mem (hostKey s.regs.snapTo) (leBytes 8 s.regs.snapCycle ++ free ++ banks)
      fresh := s.fresh + 1
      regs := { s.regs with snapGo := false } })

/-- Boot and attestation (25 R371 to R381; 21 R318): a start counts itself, has no step's outcome yet and runs the
steps; one whose record shows no earlier attempt, whose firmware in bank 0 verifies and all of whose other steps pass
is operational; 0x5A clears the record's entries and commits; bit 0 of BOOTCTL restarts; 0xA5 fuses the running
version, which never falls; a request for a report takes the address, the nonce and a leaf and is refused by status 1
while one runs, 2 for a bad address, 3 without a leaf; the report is written with go zero. Of
every register that the host writes but the attestation ones, a write does nothing in the management-only mode and is
not possible before the link is up (mode 0, assumption log 30, the model's choice). What a start clears of the
registers the spec does not list: log 29 (the model's choice). -/
def Obligations.BootAndAttestation : Prop :=
  ∀ (s : State) (v : Word) (i3c : Bool) (k : Nat) (reg : HostReg) (passes : List (Nat × Bool)) (q : Nat) (hi : Bool)
    (d : BitVec 32) (fn : Nat),
    let b := s.boot
    let begun := b.begin
    let place := b.attAddr.toNat % 2048 = 0 ∧ b.attAddr.toNat + 2048 ≤ 2 ^ 52
    let report := reportBytes b s.fresh s.cycle
    let fused := max b.svnFused b.svnRun
    (b.mode = 0 → exec (.bootStart passes) s = .next (runSteps passes 10 1 { s with boot := begun })) ∧
    (begun.failed = 0#10 ∧ begun.step = 0 ∧ begun.bank = 0 ∧ begun.starts = min (2 ^ 32 - 1) (b.starts + 1) ∧
      ∀ e ∈ begun.entries, e.outcome = 0) ∧
    (b.mode = 0 → b.load.entries = List.replicate 10 {} → passes = (List.range 10).map (fun k => (k + 1, true)) →
      ∃ t, exec (.bootStart passes) s = .next t ∧
        (imageOk (b.bankImage 0) b.svnFused = true → t.boot.mode = 1 ∧ t.boot.failed = 0#10)) ∧
    exec (.bootclr 0x5A#64) s = .next { s with boot := ({ b with entries := List.replicate 10 {} }).commit } ∧
    (v ≠ 0x5A#64 → exec (.bootclr v) s = .next s) ∧
    (v.getLsbD 0 = true → ∃ t, exec (.bootctl v) s = .next t ∧ t.boot.mode = 0 ∧ t.mem = s.mem ∧ t.cycle = s.cycle ∧
      t.crews = State.reset.crews ∧ t.boot.leaf = b.leaf ∧ t.boot.svnFused = b.svnFused ∧ t.boot.starts = b.starts) ∧
    (v.getLsbD 0 = false → exec (.bootctl v) s = .next s) ∧
    (b.mode = 1 → exec (.fwsvn 0xA5#64) s = .next { s with boot := { b with svnFused := fused } }) ∧
    (b.mode = 1 → v ≠ 0xA5#64 → exec (.fwsvn v) s = .next s) ∧
    (b.attGo = true → exec (.attctlGo i3c) s = .next { s with boot := { b with attStatus := 1 } }) ∧
    (b.attGo = false → i3c = false → ¬place → exec (.attctlGo i3c) s = .next { s with boot := { b with attStatus := 2 } }) ∧
    (b.attGo = false → i3c = true ∨ place → lmsLeaves ≤ b.leaf →
      exec (.attctlGo i3c) s = .next { s with boot := { b with attStatus := 3 } }) ∧
    (b.attGo = false → i3c = true ∨ place → b.leaf < lmsLeaves → exec (.attctlGo i3c) s = .next { s with
      boot := { b with
        attGo := true
        attStatus := 0
        attI3c := i3c
        reqAddr := b.attAddr
        reqNonce := b.attNonce
        attLeaf := b.leaf
        leaf := b.leaf + 1 } }) ∧
    (b.attGo = true → b.attI3c = true → exec .attestationReportComplete s = .next { s with
      fresh := s.fresh + 1
      boot := { b with attGo := false, attStatus := 0, attBuf := report } }) ∧
    (b.attGo = true → b.attI3c = false → exec .attestationReportComplete s = .next { s with
      fresh := s.fresh + 1
      boot := { b with attGo := false, attStatus := 0 }
      mem := memWrite s.mem (hostKey b.reqAddr.toNat) report }) ∧
    exec (.registerWrite .attaddr v) s = .next { s with boot := { b with attAddr := v } } ∧
    exec (.registerWrite (.attnonce k) v) s = .next { s with
      boot := { b with attNonce := b.attNonce.mapIdx fun i w => if i = k then v else w } } ∧
    (b.mode = 1 → reg ≠ .attaddr → (∀ j, reg ≠ .attnonce j) → exec (.registerWrite reg v) s = .next (regWrite reg v s)) ∧
    (∀ i ∈ [Instr.queueConfigWrite q hi v, .tailWrite q d, .abortWrite q d, .functionLevelReset fn,
        .recorderConfigWrite q hi v, .fqrespWrite v, .fqheadWrite v, .xrRootWrite fn hi v, .fcmdWrite v, .stagecfgWrite v,
        .spillcfgWrite v, .preemptWrite v, .pwrcfgWrite v, .counterBankWrite fn k v, .telesnap v, .fwsvn v],
      (b.mode = 2 → exec i s = .next s) ∧
      (b.mode ≠ 1 → b.mode ≠ 2 → ∃ row, exec i s = .refused (.notEnabled row))) ∧
    (reg ≠ .attaddr → (∀ j, reg ≠ .attnonce j) →
      (b.mode = 1 ∨ b.mode = 2 → Completes (.registerWrite reg v) s) ∧
      (b.mode = 2 → exec (.registerWrite reg v) s = .next s) ∧
      (b.mode ≠ 1 → b.mode ≠ 2 → ∃ row, exec (.registerWrite reg v) s = .refused (.notEnabled row)))

/-- Launches and scheduling (02 R27, R31, R32, R35, R404; 21 R323, R327, R328, R330, R331, R333, R335, R336; 23 R368):
the queue engine reads the next record into a launch and moves the head by one; the dispatcher runs when an entry can
be dispatched or enter; a crew whose tile preload is done starts its strands; a task that is over, its account and
task records writable, leaves its crew free; a launch that is over leaves; a marked crew at a safe point whose
accounts can be written is saved and freed; what cannot be written yet waits; the entry that ranks first has the
highest deficit, then the lowest tenant, the highest effective priority, the earliest readiness, the lowest launch and
the lowest task; an effective priority rises by one with every aging interval since readiness, up to 15, and the event
of aging changes nothing else; an epoch moves the deficits and clears what was used; an examination takes back marks
that no longer hold and sets at most one. -/
def Obligations.Scheduling : Prop :=
  ∀ (s s1 s2 : State) (q crew id area w : Nat) (x : Ctx) (l m : Launch) (n : Node) (bs : List Byte) (e : PoolEnt)
    (es : List PoolEnt),
    let c := s.crew crew
    let interval := 1024 * 2 ^ s.regs.ageK
    let prio (u : State) (a : PoolEnt) : Nat := min 15 (a.prio + (u.cycle - a.readyAt) / interval)
    let deficit (a : PoolEnt) : Int := deficitOf s a.tenant
    let before (a b : PoolEnt) : Prop :=
      deficit b < deficit a ∨ (deficit a = deficit b ∧
      (a.tenant < b.tenant ∨ (a.tenant = b.tenant ∧
      (prio s b < prio s a ∨ (prio s a = prio s b ∧
      (a.readyAt < b.readyAt ∨ (a.readyAt = b.readyAt ∧
      (a.launch < b.launch ∨ (a.launch = b.launch ∧ a.task < b.task)))))))))
    let read : Launch := { id := s.launchSeq, queue := q, owner := (s.queue q).owner, record := [], start := s.cycle }
    (nextQueue s = some q → s.launches.length < 1024 → poolFull s = false → Completes (.launchRecordRead q) s) ∧
    (nextQueue s = some q → s.launches.length < 1024 → poolFull s = false →
      agentRead (loadAgent read) (headAddr (s.queue q)) 64 s = .ok (s1, bs) → loadLaunch s1 read bs = (s2, .read m) →
      let u := { dropAsked s2 (.queue q) with
        launches := s2.launches ++ [m], launchSeq := s2.launchSeq + 1, lastQueue := some q }
      exec (.launchRecordRead q) s = .next (enterReady (u.setQueue q { u.queue q with head := (s.queue q).head + 1#32 }) m)) ∧
    (nextQueue s = some q → s.launches.length < 1024 → poolFull s = false →
      agentRead (loadAgent read) (headAddr (s.queue q)) 64 s = .error (.wait w s1) →
      exec (.launchRecordRead q) s = .next s1) ∧
    (canDispatch s = true → exec .dispatch s = .next (dispatchAll (enterLate (dispatchAll s)))) ∧
    (c.ctx = some x → c.starting = true → c.killed = none → c.preloadBad = false → c.ops = [] →
      exec (.tilePreloadComplete crew) s = .next (s.setCrew crew (startStrands c))) ∧
    (c.ctx = some x → taskOver s crew = true → s.launch x.launch = some l → l.nodes[x.task]? = some n →
      Completes (.taskCompletion crew) s) ∧
    (c.ctx = some x → taskOver s crew = true → s.launch x.launch = some l → l.nodes[x.task]? = some n →
      recordsReady s crew l x = .ok s1 → ∃ t, exec (.taskCompletion crew) s = .next t ∧ (t.crew crew).ctx = none) ∧
    (c.ctx = some x → taskOver s crew = true → s.launch x.launch = some l → l.nodes[x.task]? = some n →
      recordsReady s crew l x = .error s1 → exec (.taskCompletion crew) s = .next s1) ∧
    (s.launch id = some l → launchOver s l = true → taskRecords l = false → recordAt l = false →
      exec (.launchCompletion id) s = .next (launchDone s l)) ∧
    (s.launch id = some l → launchOver s l = true → Completes (.launchCompletion id) s) ∧
    (c.ctx = some x → freeArea s = some area → canSave s crew = true → areaBusy s area = false →
      Completes (.contextSave crew) s) ∧
    (c.ctx = some x → freeArea s = some area → canSave s crew = true → areaBusy s area = false →
      flushReady false s crew = .ok s1 →
      ∃ t, exec (.contextSave crew) s = .next t ∧ (t.crew crew).ctx = none) ∧
    (c.ctx = some x → freeArea s = some area → canSave s crew = true → areaBusy s area = false →
      flushReady false s crew = .error (.wait w s1) → exec (.contextSave crew) s = .next s1) ∧
    (bestOf s es = some e → e ∈ es ∧ ∀ a ∈ es, ¬before a e) ∧
    (∀ u : State, e.readyAt ≤ s.cycle → u.cycle = s.cycle + interval → prio u e = min 15 (prio s e + 1)) ∧
    ((s.pool.any fun e => decide (e.readyAt < s.cycle) && (s.cycle - e.readyAt) % agingOf s == 0) = true →
      exec .priorityAging s = .next s) ∧
    (s.nextEpoch ≤ s.cycle → exec .epochBoundary s = .next { s with
      tenants := s.tenants.map fun p => (p.1, { p.2 with deficit := nextDeficit p.2, used := 0 })
      nextEpoch := s.nextEpoch + epochCycles }) ∧
    (s.nextExam ≤ s.cycle → exec .partitionExamination s = .next (markOne
      { s with crews := s.crews.map (unmark s), nextExam := s.nextExam + 1024 }))

/-- Accounts, errors and zeroing (03 R53, R54; 07 R110; 14 R259; 23 R365): a displaced accumulator goes to the account
area, a full one too; an uncorrectable error gives a record and kills every context that consumed the data, through an
access, a started instruction or operation, a walk on which contexts or Glaze cards wait, or a Glaze card, with cause
MEM_ERROR (when each consumes it, and what of it is undone, is the model's reading, assumption log 69); a corrected
one gives a record only when its count overflows; a resource whose zeroing is complete may be used, and the
initialisers of a zeroed segment are forgotten. -/
def Obligations.AccountsAndErrors : Prop :=
  ∀ (s : State) (crew cu seg unit sub op id : Nat) (crews cards : List Nat) (pa : Word) (r : AccRec) (rest : List AccRec)
    (l : Lease) (k : Card) (s1 s2 : State) (w : Nat),
    let c := s.crew crew
    let known := unit < 5 ∧ (unit = 0 → sub < 12)
    let live (n : Nat) := n < 384 ∧ (s.crew n).ctx.isSome = true
    (c.evicted = r :: rest → r.acc.count < accMax → exec (.accountRecordEviction crew) s = .next (writeEvicted s crew r)) ∧
    (c.evicted = r :: rest → accMax ≤ r.acc.count → exec (.accountCountOverflow crew) s = .next (writeEvicted s crew r)) ∧
    (c.evicted = r :: rest → acctReady false s crew 1 = .ok s1 →
      writeRec crew (s1.setCrew crew { s1.crew crew with evicted := (s1.crew crew).evicted.drop 1 }) r = .ok s2 →
      writeEvicted s crew r = dropAsked s2 (.acct crew)) ∧
    (c.evicted = r :: rest → acctReady false s crew 1 = .error (.wait w s1) → writeEvicted s crew r = s1) ∧
    (known → exec (.uncorrectableError .nobody unit sub pa) s =
      .next (pushBad s unit sub 0 0x1FF (BitVec.allOnes 64) pa)) ∧
    (known → live crew → exec (.uncorrectableError (.access crew) unit sub pa) s =
      .next (killContext (pushBadOf s unit sub crew pa) crew cMemError)) ∧
    (known → live crew → (c.inflight.any fun o => o.id == op) = true ∨ (c.ops.any fun o => o.id == op) = true →
      exec (.uncorrectableError (.started crew op) unit sub pa) s =
        .next (killContext ((pushBadOf s unit sub crew pa).setCrew crew (dropStarted c op)) crew cMemError)) ∧
    (known → live crew → (∀ n ∈ crews, live n) → (∀ id ∈ cards, ∃ k ∈ s.cards, k.id = id) →
      exec (.uncorrectableError (.walk (crew :: crews) cards) unit sub pa) s = .next (cards.foldl killCard
        ((crew :: crews).foldl (fun s n => killContext s n cMemError) (pushBadOf s unit sub crew pa)))) ∧
    (known → (s.cards.find? fun k => cards.contains k.id) = some k → (∀ id ∈ cards, ∃ k ∈ s.cards, k.id = id) →
      exec (.uncorrectableError (.walk [] cards) unit sub pa) s =
        .next (cards.foldl killCard (pushBadCard s unit sub k pa))) ∧
    (known → (s.cards.find? fun k => k.id = id) = some k →
      exec (.uncorrectableError (.card id) unit sub pa) s = .next (killCard (pushBadCard s unit sub k pa) id)) ∧
    (∀ u : State, (u.cards.find? fun k => k.id = id) = some k →
      let u1 := { u with cards := u.cards.filter fun x => decide (x.id ≠ id) }
      killCard u id = killTask (dropAsked (dropWaiter u1 (.card id)) (.card id)) k.crew k.launch k.task) ∧
    (known → exec (.correctedSoftError unit sub pa false) s = .next s ∧
      exec (.correctedSoftError unit sub pa true) s = .next (pushErr s (errKind 2 unit sub) unit 0 0x1FF pa.toNat)) ∧
    (c.zeroing = true → exec (.zeroingComplete (.crew crew)) s = .next (s.setCrew crew { c with zeroing := false })) ∧
    ((s.cu cu).lease = some l → l.zeroing = true → exec (.zeroingComplete (.planes cu)) s =
      .next (s.setCu cu { s.cu cu with lease := some { l with zeroing := false } })) ∧
    (seg ∈ (s.cu cu).zeroSegs → exec (.zeroingComplete (.segment cu seg)) s =
      .next (forgetInits (s.setCu cu { s.cu cu with zeroSegs := (s.cu cu).zeroSegs.filter fun x => decide (x ≠ seg) })
        (16 * cu + seg)))

/-! ## The order of checks and what instructions leave unchanged -/

/-- The order of checks (07 R107; 09 R140 to R142, R152; 10 R162; 02 R21; 11 R194) of every instruction but patch,
whose checks are those of its amended instruction: a strand of a kind that may not execute it traps ILLEGAL with the
words whatever the predicate; then it waits for its predicate; then, with a false predicate, it ends with no effect, a
V instruction pushing a row of zero bits; then it waits while what it uses has yet to be written, charged to that wait
or to one of its own that R107 puts before it; while what it reads is missing, only its tile and token waits are
known. An instruction that has only its posts to make (the model's state of it, assumption log 26) makes them when no
counter of its mask is at 15 and every earlier access has been performed, and waits charged to TOKEN_WAIT or MEM_WAIT
otherwise. -/
def Obligations.CheckOrder : Prop :=
  ∀ (i : Instr) (s : State),
    let c := s.myCrew
    strandKinds i ≠ [] → (∀ a b v, i ≠ .patch a b v) →
      (s.me.owed = false →
        (s.cur.2 ∉ strandKinds i → Traps i s cIllegal (wordsOf (encode i))) ∧
        (∀ q, s.cur.2 ∈ strandKinds i → predWait s (predField i) = some q → Waits i s q s) ∧
        (s.cur.2 ∈ strandKinds i → predWait s (predField i) = none → s.me.predHolds (predField i) = false →
          EndsIn i s (if strandKinds i = [.v] then s.setMyCrew { c with ring := ({} : RingEnt) :: c.ring.take 3 } else s)) ∧
        (∀ q, s.cur.2 ∈ strandKinds i → predWait s (predField i) = none → s.me.predHolds (predField i) = true →
          interlock s i = some q → ∃ r, Waits i s r s ∧ causeRank r ≤ causeRank q ∧
          (regWait s (regSources i, []) ≠ none → r = q ∨ r = qTile ∨ r = qToken))) ∧
      (∀ (e : Eng) (x : XFields) (f : CpFields) (y : SyFields), s.me.owed = true →
        i ∈ [Instr.binit e y, .bexpect e y, .barrive e y, .bwait e y, .btest e y, .rinit e y, .rwaitf e y, .rrel e y,
          .collClose e f, .jwait e f, .glzPost e f, .glzWait e f, .alease e x, .arelease e x] →
        let v := s.setMyCrew (c.post s.cur.2 e.post)
        let can := c.canPost s.cur.2 e.post
        (can = true → e.post = 0#3 ∨ Released s → EndsIn i s (v.setMe { v.me with owed := false })) ∧
        (can = true → e.post ≠ 0#3 → ¬Released s → Waits i s qMem s) ∧
        (can = false → Waits i s qToken s))

/-- The frame of the scalar instructions (10 R163 to R168, R179, R180, R187): whatever way one ends that answers
a next state, its effect, a trap or a wait, it changes no register but its destination, no predicate but its
destination, no byte of memory and none of the registers TVEC, TSAVE, LSTOP and RNGKEY. -/
def Obligations.ScalarFrame : Prop :=
  ∀ (s t : State) (p cond sid : BitVec 4) (sd sa sb : BitVec 5) (imm : BitVec 16) (imm14 : BitVec 14) (imm21 : BitVec 21)
    (imm32 : BitVec 32) (n : BitVec 6) (pd pa pb : BitVec 3) (num : BitVec 11),
    let dest := [Instr.add p sd sa sb, .sub p sd sa sb, .and p sd sa sb, .or p sd sa sb, .xor p sd sa sb, .sll p sd sa sb,
      .srl p sd sa sb, .sra p sd sa sb, .mul p sd sa sb, .mulh p sd sa sb, .mulhu p sd sa sb, .div p sd sa sb, .divu p sd sa sb,
      .rem p sd sa sb, .remu p sd sa sb, .min p sd sa sb, .max p sd sa sb, .minu p sd sa sb, .maxu p sd sa sb, .clz p sd sa,
      .ctz p sd sa, .popc p sd sa, .addi sd sa imm, .andi sd sa imm, .ori sd sa imm, .xori sd sa imm, .slli sd sa n,
      .srli sd sa n, .srai sd sa n, .lui sd imm21, .lea p sd sa sb, .tag p sd sa sid, .space p sd sa, .rng p sd, .rngc p sd sa,
      .li32 p sd imm32, .lih p sd imm32, .mfsr p sd num]
    let test := [Instr.cmp p pd cond sa sb, .cmpi pd cond sa imm14, .pand p pd pa pb, .por p pd pa pb, .pxor p pd pa pb,
      .pandn p pd pa pb, .porn p pd pa pb]
    let kept := SameMemory s t ∧ t.cur = s.cur ∧ t.me.tvec = s.me.tvec ∧ t.me.tsave = s.me.tsave ∧ t.me.lstop = s.me.lstop ∧
      t.me.rngkey = s.me.rngkey
    NoLoopEnd s →
      (∀ i ∈ dest, exec i s = .next t → kept ∧ t.me.preds = s.me.preds ∧ ∀ r, r ≠ sd → t.me.reg r = s.me.reg r) ∧
      (∀ i ∈ test, exec i s = .next t → kept ∧ (∀ r, t.me.reg r = s.me.reg r) ∧ ∀ k, k ≠ pd → t.me.pred k = s.me.pred k)

/-- The frame of loads, stores and atomics (03 R46; 10 R175 to R178): where the places of the access, found as the
instruction finds them from its address, lie on this device, whatever way the instruction ends that answers a next
state, it changes no register but its destination and no predicate; a load no byte of memory, a store only bytes of
its places, an atomic only the bytes at its place. -/
def Obligations.MemoryFrame : Prop :=
  ∀ (s t s1 : State) (p : BitVec 4) (sd sa si sc : BitVec 5) (off : BitVec 16) (loff : BitVec 21) (size : BitVec 2)
    (sext : BitVec 1) (scope z : BitVec 3) (cls : BitVec 4) (mask : BitVec 16) (a4 : BitVec 1) (ps : List Place) (k n : Nat),
    let short := s.me.reg sa + BitVec.ofInt 64 off.toInt
    let long (o : Int) := s.me.reg sa + s.me.reg si + BitVec.ofInt 64 o
    let found (a : Word) (n z : Nat) (need : BitVec 3) := placesOf s a n z need = .ok (s1, ps) ∧ ∀ q ∈ ps, isWindowKey q.1 = false
    let others (d : BitVec 5) := t.cur = s.cur ∧ (∀ r, r ≠ d → t.me.reg r = s.me.reg r) ∧ t.me.preds = s.me.preds
    NoLoopEnd s →
      (∀ f ∈ ([(.ldb sd sa off, short, 1, 0), (.ldbu sd sa off, short, 1, 0), (.ldh sd sa off, short, 2, 0),
          (.ldhu sd sa off, short, 2, 0), (.ldw sd sa off, short, 4, 0), (.ldwu sd sa off, short, 4, 0),
          (.ldd sd sa off, short, 8, 0), (.ldx p sd sa si size sext z cls loff, long loff.toInt, 2 ^ size.toNat, z.toNat),
          (.ldxAcq p sd sa si scope z cls mask, long 0, 8, z.toNat)] : List (Instr × Word × Nat × Nat)),
        found f.2.1 f.2.2.1 f.2.2.2 1#3 → exec f.1 s = .next t → SameMemory s t ∧ others sd) ∧
      (∀ f ∈ ([(.stb sd sa off, short, 1, 0), (.sth sd sa off, short, 2, 0), (.stw sd sa off, short, 4, 0),
          (.std sd sa off, short, 8, 0), (.stx p sd sa si size z cls loff, long loff.toInt, 2 ^ size.toNat, z.toNat),
          (.stxRel p sd sa si scope z cls mask, long 0, 8, z.toNat)] : List (Instr × Word × Nat × Nat)),
        found f.2.1 f.2.2.1 f.2.2.2 2#3 → exec f.1 s = .next t →
          (∀ a, (∀ q ∈ ps, a < q.1 ∨ q.1 + q.2 ≤ a) → memByte t.mem a = memByte s.mem a) ∧ others 0#5) ∧
      (∀ f ∈ ([(.amoAdd p sd sa sc a4 cls, a4), (.amoMin p sd sa sc a4 cls, a4), (.amoMax p sd sa sc a4 cls, a4),
          (.amoMinu p sd sa sc a4 cls, a4), (.amoMaxu p sd sa sc a4 cls, a4), (.amoAnd p sd sa sc a4 cls, a4),
          (.amoOr p sd sa sc a4 cls, a4), (.amoXor p sd sa sc a4 cls, a4), (.amoSwp p sd sa sc a4 cls, a4),
          (.cas p sd sa sc si a4 cls, a4), (.amoFadd p sd sa sc cls, 0#1)] : List (Instr × BitVec 1)),
        let w := if f.2 = 1#1 then 8 else 4
        placesOf s (s.me.reg sa) w 0 3#3 = .ok (s1, [(k, n)]) → isWindowKey k = false → exec f.1 s = .next t →
          SameMemoryOff k w s t ∧ others sd)

/-- The frame of the engine instructions that start without an access to memory (02 R21; 11 R193; 12 R219 to R221; 13
R242): one that starts, waits or traps changes no register and no predicate of its strand (a copy may write sd) and no
byte of memory; what it computes reaches tiles and memory at its completion. -/
def Obligations.EngineFrame : Prop :=
  ∀ (s t : State) (e : Eng) (v : VFields) (x : XFields) (c : CpFields),
    let same := SameMemory s t ∧ t.cur = s.cur ∧ t.me.preds = s.me.preds ∧ t.myCrew.tiles = s.myCrew.tiles
    NoLoopEnd s →
      (∀ i ∈ [Instr.vadd e v, .vsub e v, .vmul e v, .vfma e v, .vmin e v, .vmax e v, .vabs e v, .vneg e v, .vexp2 e v,
          .vlog2 e v, .vrcp e v, .vrsqrt e v, .vtanh e v, .vand e v, .vor e v, .vxor e v, .vshl e v, .vshr e v, .vsra e v,
          .vcmpEq e v, .vcmpNe e v, .vcmpLt e v, .vcmpLe e v, .vsel e v, .vcvt e v, .vqblk e v, .vunpk e v, .vdrop e v,
          .vrsum e v, .vrmax e v, .vrmin e v, .vmov e v, .vshuf e v, .viota e v, .vsplat e v, .vrng e v, .vtrn e v,
          .lds e x, .ldsP e x, .ldsCb e x, .ldsBs e x, .mswap e x, .mmul e x, .mmulBs e x, .mzero e x, .mcbt e x],
        exec i s = .next t → same ∧ ∀ r, t.me.reg r = s.me.reg r) ∧
      (∀ i ∈ [Instr.cpy e c, .cpyLd e c, .cpySt e c, .cgath e c, .cscat e c, .cred e c, .cpref e c, .cring e c],
        exec i s = .next t → same ∧ ∀ r, r ≠ c.sd → t.me.reg r = s.me.reg r)

/-! ## Decoding, fetching and the whole device -/

/-- Decoding and encoding agree (09 R139 to R161): the bytes of every well-formed instruction word, whatever follows
them, decode to the instruction, with every operand at every value that its encoding admits. -/
def Obligations.RoundTrip : Prop := ∀ i : Instr, Laws.RoundTrip.Statement i

/-- No word is taken as another instruction (09 R139, R142, R161): what two words decode to is a well-formed
instruction word whose encoding is word 0, with word 1 where word 0 makes a 64-bit instruction; so no bit is ignored
and no two encodings share an instruction. -/
def Obligations.DecodeEncode : Prop :=
  ∀ (w0 w1 : W32) (i : Instr), decode w0 w1 = .ok i →
    i.isWord = true ∧ i.wf = true ∧ encode i = (if isLong w0 then [w0, w1] else [w0])

/-- Words written out from the formats of the spec (09 R143 to R149 and its worked encodings) decode to their
instructions, and the all-zero word to none. -/
def Obligations.SpecWords : Prop :=
  let e : Eng := { p := 0#4, wait := 0#3, post := 0#3, noknead := 0#1, cls := 0#4 }
  decode 0x08000000#32 0#32 = .ok (.addi 0#5 0#5 0#16) ∧
    decode 0x08A60010#32 0#32 = .ok (.addi 5#5 6#5 16#16) ∧
    decode 0x00010000#32 0#32 = .ok (.exit 0#4) ∧
    decode 0x8CCE5060#32 0x00400008#32 = .ok (.ldx 3#4 7#5 5#5 0#5 3#2 0#1 0#3 2#4 8#21) ∧
    decode 0xA0000400#32 0x00040008#32 =
      .ok (.vadd e { dst := 0x100#12, f := 0#1, e := 0#1, src1 := 0x200#12, x := 1#6, ty := 0#3 }) ∧
    decode 0xC0590011#32 0#32 = .ok (.patch 5#6 9#4 17#16) ∧
    decode (0x01#6 ++ 0b1010#4 ++ 3#5 ++ 4#5 ++ 5#5 ++ 0x01#7) 0#32 = .ok (.sub 0b1010#4 3#5 4#5 5#5) ∧
    decode (0x14#6 ++ 2#2 ++ 3#3 ++ 9#5 ++ 6#16) 0#32 = .ok (.loop 2#2 3#3 9#5 6#16) ∧
    decode (0x2C#6 ++ 0#4 ++ 0x02#8 ++ 7#5 ++ 8#5 ++ 1#3 ++ 0#1) (0#3 ++ 0#3 ++ 0#1 ++ 0#4 ++ 0#21) =
      .ok (.barrive e { sa := 7#5, sb := 8#5, pd := 1#3 }) ∧
    ∀ i, decode 0#32 0#32 ≠ .ok i

/-- A step runs the decoded instruction (09 R139, R149; 10 R171; 18 R287; 07 R114; 26 R387; 27 R400): when nothing of
the device or of the agenda is due and the strand in focus has a turn of this cycle, no group to finish, no lost load
and no LSTOP stop, the step fetches the words at its PC, or takes those that a patch has amended; words that open no
Knead group and decode to i run as exec of i in the state of the fetch; words that decode to nothing raise ILLEGAL; a
group issues; a strand that no longer waits then needs nothing more of what it has asked other devices for the fetch,
and the code counts as read from HBM. A fetch that faults traps, and one that waits holds the strand. An event that is
due comes first. The order of what falls in one cycle is assumption log 4, the latch of amended words log 57, the
count of code bytes log 78 (the model's choices). -/
def Obligations.StepRunsDecoded : Prop :=
  ∀ (s s1 s2 : State) (ws : List W32) (ps : List Place) (n : Nat) (i : Instr) (k : Nat) (ms : List WinItem) (cause : Nat) (v : Word),
    let w0 := ws.headD 0#32
    let w1 := (ws.drop 1).headD 0#32
    let turn := dueNow s = none ∧ settleDue s = none ∧ agendaNow s = none ∧ hasTurn s.myCrew s.cur.2 = true ∧
      s.me.rest = none ∧ lostLate s.me = none ∧ lstopAt s.me = none
    let fetched := (s.me.latch = none ∧ fetchWords s s.me.pc = .ok (s1, ws)) ∨ (s.me.latch = some ws ∧ s1 = s)
    let done (o : Outcome) := fetchDone s1 (codePlaces s1 (codeBytes s1 ws)) o
    (turn → fetched → kneadAt s1 ws = .alone → decode w0 w1 = .ok i → step s = done (exec i s1)) ∧
    (turn → fetched → kneadAt s1 ws = .alone → (∀ i, decode w0 w1 ≠ .ok i) →
      step s = done (.next (trapMe s1 cIllegal (if isLong w0 then w1 ++ w0 else 0#32 ++ w0)))) ∧
    (turn → fetched → kneadAt s1 ws = .group k ms → step s = done (exec (.kneadGroupIssue k) s1)) ∧
    (∀ t, fetchDone s ps (.next t) = .next (if (t.strand s.cur.1 s.cur.2).waited then t
      else countPlaces (dropAsked (dropAsked t (.fetch s.cur.1 s.cur.2)) (.look s.cur.1 s.cur.2)) s.myCrew.tenant false ps)) ∧
    (s.me.latch.isSome = true → codePlaces s n = []) ∧
    (s.me.latch = none → agentPlaces (fetchAgent s) 4#3 qFetch 0 (pagesOf n) s.me.pc n s = .ok (s2, ps) →
      codePlaces s n = ps) ∧
    (turn → s.me.latch = none → fetchWords s s.me.pc = .error (.trap cause v) → ∃ t, step s = .next t ∧
      exec (.instructionFetchFault cause v) s = .next t) ∧
    (turn → s.me.latch = none → fetchWords s s.me.pc = .error (.xtrap cause v s1) → ∃ t, step s = .next t ∧
      exec (.instructionFetchFault cause v) s1 = .next t) ∧
    (turn → s.me.latch = none → fetchWords s s.me.pc = .error (.wait k s1) → step s = .next (holdMe k s1)) ∧
    (∀ t, dueNow s = some i → exec i s = .next t → ∃ n, step s = .next { t with fresh := n })

/-- Memory keeps its canonical form (the model's own, assumption log 2): addresses strictly rising, and no cell that
holds what an unlisted address reads as. Every step from a state whose memory has the form answers, if it answers a
next state, one whose memory has it. -/
def Obligations.MemoryWfKept : Prop :=
  ∀ s t : State, Memory.wf s.mem = true → step s = .next t → Memory.wf t.mem = true

/-- The memory after reset has the canonical form (the model's own, assumption log 2). -/
def Obligations.ResetMemoryWf : Prop := Memory.wf State.reset.mem = true

/-- What reset leaves (02 R25; 07 R117; 14 R267; 21 R319, R332, R336; 22 R344; 25 R374; 26 R392; 27 R397): CYCLE is 0
and the module is booting; every queue is off with lsize 1; tenant 0 may use every crew and 64 contexts, the others
none; the registers are as their maps give; every array is free with its ramp at 15 and crew rank 3 its last holder.
Every tile and mailbox is EMPTY, every token counter 0 and every charge counter 0: the spec gives these at task start
or at creation, and that they hold at reset already is the model's choice (assumption log 1). -/
def Obligations.ResetValues : Prop :=
  let s := State.reset
  s.cycle = 0 ∧ s.boot.mode = 0 ∧ s.boot.failed = 0#10 ∧ s.arbLast = 384 ∧ s.regs.ageK = 4 ∧ s.regs.preEn = true ∧
    s.regs.preMargin = 0x100000 ∧ s.regs.saveCount = 0 ∧ s.regs.spillEn = false ∧ s.regs.fcmdGo = false ∧
    s.power.cap = 2000 ∧ s.power.rowcap = 2000 ∧ s.power.hyst = 20 ∧ s.power.rampw = 256 ∧ s.power.row = 0 ∧
    s.power.tripc0 = 105 ∧ s.power.warnc0 = 95 ∧ s.power.tripc1 = 105 ∧ s.power.warnc1 = 95 ∧
    (s.tenant 0).crews = BitVec.allOnes 384 ∧ (s.tenant 0).cap = 64 ∧
    (∀ n, 0 < n → (s.tenant n).crews = 0#384 ∧ (s.tenant n).cap = 0 ∧ (s.tenant n).target = 0) ∧
    (∀ q, (s.queue q).en = false ∧ (s.queue q).err = false ∧ (s.queue q).lsize = 1 ∧ (s.queue q).owner = 0) ∧
    (∀ n, (s.cu n).lease = none ∧ (s.cu n).lastHolder = 3 ∧ (s.cu n).ramp = 15) ∧
    (∀ n, (∀ i, (s.crew n).feOf i = .empty) ∧ (∀ i, (s.crew n).tok i = 0) ∧ (s.crew n).ctx = none ∧
      ∀ k, ((s.crew n).str k).level = 0 ∧ ((s.crew n).str k).counters = Vector.replicate 16 0#64)
end

