-- ==== Sys2Proof/Laws/State.lean ====
section
/-! SUPPORT. One lemma for each field and each update of the state, of a crew and of a strand: what an update leaves
as it was, and what a read of an updated part gives. -/
namespace Sys2Proof.Machine

/-! ## Keyed stores -/

theorem sget_sinsert_self {β : Type} (d v : β) (st : Store β) (k : Nat) (h : sget? st k = none) :
    sget d (sinsert k v st) k = v := by
  induction st with
  | nil => simp [sinsert, sget]
  | cons c r ih =>
    obtain ⟨a, b⟩ := c
    simp only [sget?] at h
    split at h
    · cases h
    · rename_i hak
      unfold sinsert
      split
      · simp [sget]
      · simp [sget, hak, ih h]

theorem sget_sinsert_ne {β : Type} (d v : β) (st : Store β) (k j : Nat) (h : j ≠ k) :
    sget d (sinsert k v st) j = sget d st j := by
  induction st with
  | nil => simp [sinsert, sget, Ne.symm h]
  | cons c r ih =>
    obtain ⟨a, b⟩ := c
    unfold sinsert
    split
    · simp [sget, Ne.symm h]
    · simp [sget, ih]

theorem sget?_sdel_self {β : Type} (st : Store β) (k : Nat) : sget? (sdel st k) k = none := by
  induction st with
  | nil => rfl
  | cons c r ih =>
    obtain ⟨a, b⟩ := c
    by_cases h : a = k
    · simpa [sdel, h] using ih
    · simpa [sdel, h, sget?] using ih

theorem sget_sdel_self {β : Type} (d : β) (st : Store β) (k : Nat) : sget d (sdel st k) k = d := by
  induction st with
  | nil => rfl
  | cons c r ih =>
    obtain ⟨a, b⟩ := c
    by_cases h : a = k
    · simpa [sdel, h] using ih
    · simpa [sdel, h, sget] using ih

theorem sget_sdel_ne {β : Type} (d : β) (st : Store β) (k j : Nat) (h : j ≠ k) :
    sget d (sdel st k) j = sget d st j := by
  induction st with
  | nil => rfl
  | cons c r ih =>
    obtain ⟨a, b⟩ := c
    by_cases hk : a = k
    · have : a ≠ j := fun e => h (e.symm.trans hk)
      simpa [sdel, hk, sget, Ne.symm h] using ih
    · by_cases hj : a = j
      · simp [sdel, sget, hj, h]
      · simpa [sdel, hk, sget, hj] using ih

/-- A key reads what was put there last. -/
@[simp] theorem sget_sput_self {β : Type} (d v : β) (st : Store β) (k : Nat) : sget d (sput st k v) k = v :=
  sget_sinsert_self d v _ k (sget?_sdel_self st k)

/-- Another key reads as before. -/
theorem sget_sput_ne {β : Type} (d v : β) (st : Store β) (k j : Nat) (h : j ≠ k) :
    sget d (sput st k v) j = sget d st j := by
  rw [sput, sget_sinsert_ne d v _ k j h, sget_sdel_ne d st k j h]

/-- A key reads what was put there last, the default included. -/
@[simp] theorem sget_sputD_self {β : Type} [DecidableEq β] (d v : β) (st : Store β) (k : Nat) :
    sget d (sputD d st k v) k = v := by
  unfold sputD
  split
  · next h => rw [sget_sdel_self, h]
  · exact sget_sinsert_self d v _ k (sget?_sdel_self st k)

/-- Another key reads as before. -/
theorem sget_sputD_ne {β : Type} [DecidableEq β] (d v : β) (st : Store β) (k j : Nat) (h : j ≠ k) :
    sget d (sputD d st k v) j = sget d st j := by
  unfold sputD
  split
  · exact sget_sdel_ne d st k j h
  · rw [sget_sinsert_ne d v _ k j h, sget_sdel_ne d st k j h]

/-! ## The units of the state -/

@[simp] theorem setCrew_cur (s : State) (n : Nat) (c : Crew) : (s.setCrew n c).cur = s.cur := rfl
@[simp] theorem setCrew_cycle (s : State) (n : Nat) (c : Crew) : (s.setCrew n c).cycle = s.cycle := rfl
@[simp] theorem setCrew_mem (s : State) (n : Nat) (c : Crew) : (s.setCrew n c).mem = s.mem := rfl
@[simp] theorem setCrew_cus (s : State) (n : Nat) (c : Crew) : (s.setCrew n c).cus = s.cus := rfl
@[simp] theorem setCrew_clusterTlb (s : State) (n : Nat) (c : Crew) : (s.setCrew n c).clusterTlb = s.clusterTlb := rfl
@[simp] theorem setCrew_walkCache (s : State) (n : Nat) (c : Crew) : (s.setCrew n c).walkCache = s.walkCache := rfl
@[simp] theorem setCrew_walking (s : State) (n : Nat) (c : Crew) : (s.setCrew n c).walking = s.walking := rfl
@[simp] theorem setCrew_frames (s : State) (n : Nat) (c : Crew) : (s.setCrew n c).frames = s.frames := rfl
@[simp] theorem setCrew_segs (s : State) (n : Nat) (c : Crew) : (s.setCrew n c).segs = s.segs := rfl
@[simp] theorem setCrew_inits (s : State) (n : Nat) (c : Crew) : (s.setCrew n c).inits = s.inits := rfl
@[simp] theorem setCrew_queues (s : State) (n : Nat) (c : Crew) : (s.setCrew n c).queues = s.queues := rfl
@[simp] theorem setCrew_recorders (s : State) (n : Nat) (c : Crew) : (s.setCrew n c).recorders = s.recorders := rfl
@[simp] theorem setCrew_lastQueue (s : State) (n : Nat) (c : Crew) : (s.setCrew n c).lastQueue = s.lastQueue := rfl
@[simp] theorem setCrew_launches (s : State) (n : Nat) (c : Crew) : (s.setCrew n c).launches = s.launches := rfl
@[simp] theorem setCrew_launchSeq (s : State) (n : Nat) (c : Crew) : (s.setCrew n c).launchSeq = s.launchSeq := rfl
@[simp] theorem setCrew_pool (s : State) (n : Nat) (c : Crew) : (s.setCrew n c).pool = s.pool := rfl
@[simp] theorem setCrew_tenants (s : State) (n : Nat) (c : Crew) : (s.setCrew n c).tenants = s.tenants := rfl
@[simp] theorem setCrew_regs (s : State) (n : Nat) (c : Crew) : (s.setCrew n c).regs = s.regs := rfl
@[simp] theorem setCrew_areas (s : State) (n : Nat) (c : Crew) : (s.setCrew n c).areas = s.areas := rfl
@[simp] theorem setCrew_fq (s : State) (n : Nat) (c : Crew) : (s.setCrew n c).fq = s.fq := rfl
@[simp] theorem setCrew_faults (s : State) (n : Nat) (c : Crew) : (s.setCrew n c).faults = s.faults := rfl
@[simp] theorem setCrew_faultSeq (s : State) (n : Nat) (c : Crew) : (s.setCrew n c).faultSeq = s.faultSeq := rfl
@[simp] theorem setCrew_er (s : State) (n : Nat) (c : Crew) : (s.setCrew n c).er = s.er := rfl
@[simp] theorem setCrew_errs (s : State) (n : Nat) (c : Crew) : (s.setCrew n c).errs = s.errs := rfl
@[simp] theorem setCrew_cards (s : State) (n : Nat) (c : Crew) : (s.setCrew n c).cards = s.cards := rfl
@[simp] theorem setCrew_cardSeq (s : State) (n : Nat) (c : Crew) : (s.setCrew n c).cardSeq = s.cardSeq := rfl
@[simp] theorem setCrew_redCtxs (s : State) (n : Nat) (c : Crew) : (s.setCrew n c).redCtxs = s.redCtxs := rfl
@[simp] theorem setCrew_claims (s : State) (n : Nat) (c : Crew) : (s.setCrew n c).claims = s.claims := rfl
@[simp] theorem setCrew_staged (s : State) (n : Nat) (c : Crew) : (s.setCrew n c).staged = s.staged := rfl
@[simp] theorem setCrew_arbNext (s : State) (n : Nat) (c : Crew) : (s.setCrew n c).arbNext = s.arbNext := rfl
@[simp] theorem setCrew_ringFills (s : State) (n : Nat) (c : Crew) : (s.setCrew n c).ringFills = s.ringFills := rfl
@[simp] theorem setCrew_journals (s : State) (n : Nat) (c : Crew) : (s.setCrew n c).journals = s.journals := rfl
@[simp] theorem setCrew_arbLast (s : State) (n : Nat) (c : Crew) : (s.setCrew n c).arbLast = s.arbLast := rfl
@[simp] theorem setCrew_stagingUsed (s : State) (n : Nat) (c : Crew) : (s.setCrew n c).stagingUsed = s.stagingUsed := rfl
@[simp] theorem setCrew_opens (s : State) (n : Nat) (c : Crew) : (s.setCrew n c).opens = s.opens := rfl
@[simp] theorem setCrew_bindings (s : State) (n : Nat) (c : Crew) : (s.setCrew n c).bindings = s.bindings := rfl
@[simp] theorem setCrew_inbox (s : State) (n : Nat) (c : Crew) : (s.setCrew n c).inbox = s.inbox := rfl
@[simp] theorem setCrew_journalHeld (s : State) (n : Nat) (c : Crew) : (s.setCrew n c).journalHeld = s.journalHeld := rfl
@[simp] theorem setCrew_applied (s : State) (n : Nat) (c : Crew) : (s.setCrew n c).applied = s.applied := rfl
@[simp] theorem setCrew_remote (s : State) (n : Nat) (c : Crew) : (s.setCrew n c).remote = s.remote := rfl
@[simp] theorem setCrew_remoteSeq (s : State) (n : Nat) (c : Crew) : (s.setCrew n c).remoteSeq = s.remoteSeq := rfl
@[simp] theorem setCrew_outbox (s : State) (n : Nat) (c : Crew) : (s.setCrew n c).outbox = s.outbox := rfl
@[simp] theorem setCrew_ports (s : State) (n : Nat) (c : Crew) : (s.setCrew n c).ports = s.ports := rfl
@[simp] theorem setCrew_routes (s : State) (n : Nat) (c : Crew) : (s.setCrew n c).routes = s.routes := rfl
@[simp] theorem setCrew_power (s : State) (n : Nat) (c : Crew) : (s.setCrew n c).power = s.power := rfl
@[simp] theorem setCrew_boot (s : State) (n : Nat) (c : Crew) : (s.setCrew n c).boot = s.boot := rfl
@[simp] theorem setCrew_msis (s : State) (n : Nat) (c : Crew) : (s.setCrew n c).msis = s.msis := rfl
@[simp] theorem setCrew_agenda (s : State) (n : Nat) (c : Crew) : (s.setCrew n c).agenda = s.agenda := rfl
@[simp] theorem setCrew_fresh (s : State) (n : Nat) (c : Crew) : (s.setCrew n c).fresh = s.fresh := rfl
@[simp] theorem setCrew_nextEpoch (s : State) (n : Nat) (c : Crew) : (s.setCrew n c).nextEpoch = s.nextEpoch := rfl
@[simp] theorem setCrew_nextExam (s : State) (n : Nat) (c : Crew) : (s.setCrew n c).nextExam = s.nextExam := rfl
@[simp] theorem setCrew_nextPower (s : State) (n : Nat) (c : Crew) : (s.setCrew n c).nextPower = s.nextPower := rfl

@[simp] theorem setCu_cur (s : State) (n : Nat) (c : Cu) : (s.setCu n c).cur = s.cur := rfl
@[simp] theorem setCu_cycle (s : State) (n : Nat) (c : Cu) : (s.setCu n c).cycle = s.cycle := rfl
@[simp] theorem setCu_mem (s : State) (n : Nat) (c : Cu) : (s.setCu n c).mem = s.mem := rfl
@[simp] theorem setCu_crews (s : State) (n : Nat) (c : Cu) : (s.setCu n c).crews = s.crews := rfl
@[simp] theorem setCu_clusterTlb (s : State) (n : Nat) (c : Cu) : (s.setCu n c).clusterTlb = s.clusterTlb := rfl
@[simp] theorem setCu_walkCache (s : State) (n : Nat) (c : Cu) : (s.setCu n c).walkCache = s.walkCache := rfl
@[simp] theorem setCu_walking (s : State) (n : Nat) (c : Cu) : (s.setCu n c).walking = s.walking := rfl
@[simp] theorem setCu_frames (s : State) (n : Nat) (c : Cu) : (s.setCu n c).frames = s.frames := rfl
@[simp] theorem setCu_segs (s : State) (n : Nat) (c : Cu) : (s.setCu n c).segs = s.segs := rfl
@[simp] theorem setCu_inits (s : State) (n : Nat) (c : Cu) : (s.setCu n c).inits = s.inits := rfl
@[simp] theorem setCu_queues (s : State) (n : Nat) (c : Cu) : (s.setCu n c).queues = s.queues := rfl
@[simp] theorem setCu_recorders (s : State) (n : Nat) (c : Cu) : (s.setCu n c).recorders = s.recorders := rfl
@[simp] theorem setCu_lastQueue (s : State) (n : Nat) (c : Cu) : (s.setCu n c).lastQueue = s.lastQueue := rfl
@[simp] theorem setCu_launches (s : State) (n : Nat) (c : Cu) : (s.setCu n c).launches = s.launches := rfl
@[simp] theorem setCu_launchSeq (s : State) (n : Nat) (c : Cu) : (s.setCu n c).launchSeq = s.launchSeq := rfl
@[simp] theorem setCu_pool (s : State) (n : Nat) (c : Cu) : (s.setCu n c).pool = s.pool := rfl
@[simp] theorem setCu_tenants (s : State) (n : Nat) (c : Cu) : (s.setCu n c).tenants = s.tenants := rfl
@[simp] theorem setCu_regs (s : State) (n : Nat) (c : Cu) : (s.setCu n c).regs = s.regs := rfl
@[simp] theorem setCu_areas (s : State) (n : Nat) (c : Cu) : (s.setCu n c).areas = s.areas := rfl
@[simp] theorem setCu_fq (s : State) (n : Nat) (c : Cu) : (s.setCu n c).fq = s.fq := rfl
@[simp] theorem setCu_faults (s : State) (n : Nat) (c : Cu) : (s.setCu n c).faults = s.faults := rfl
@[simp] theorem setCu_faultSeq (s : State) (n : Nat) (c : Cu) : (s.setCu n c).faultSeq = s.faultSeq := rfl
@[simp] theorem setCu_er (s : State) (n : Nat) (c : Cu) : (s.setCu n c).er = s.er := rfl
@[simp] theorem setCu_errs (s : State) (n : Nat) (c : Cu) : (s.setCu n c).errs = s.errs := rfl
@[simp] theorem setCu_cards (s : State) (n : Nat) (c : Cu) : (s.setCu n c).cards = s.cards := rfl
@[simp] theorem setCu_cardSeq (s : State) (n : Nat) (c : Cu) : (s.setCu n c).cardSeq = s.cardSeq := rfl
@[simp] theorem setCu_redCtxs (s : State) (n : Nat) (c : Cu) : (s.setCu n c).redCtxs = s.redCtxs := rfl
@[simp] theorem setCu_claims (s : State) (n : Nat) (c : Cu) : (s.setCu n c).claims = s.claims := rfl
@[simp] theorem setCu_staged (s : State) (n : Nat) (c : Cu) : (s.setCu n c).staged = s.staged := rfl
@[simp] theorem setCu_arbNext (s : State) (n : Nat) (c : Cu) : (s.setCu n c).arbNext = s.arbNext := rfl
@[simp] theorem setCu_ringFills (s : State) (n : Nat) (c : Cu) : (s.setCu n c).ringFills = s.ringFills := rfl
@[simp] theorem setCu_journals (s : State) (n : Nat) (c : Cu) : (s.setCu n c).journals = s.journals := rfl
@[simp] theorem setCu_arbLast (s : State) (n : Nat) (c : Cu) : (s.setCu n c).arbLast = s.arbLast := rfl
@[simp] theorem setCu_stagingUsed (s : State) (n : Nat) (c : Cu) : (s.setCu n c).stagingUsed = s.stagingUsed := rfl
@[simp] theorem setCu_opens (s : State) (n : Nat) (c : Cu) : (s.setCu n c).opens = s.opens := rfl
@[simp] theorem setCu_bindings (s : State) (n : Nat) (c : Cu) : (s.setCu n c).bindings = s.bindings := rfl
@[simp] theorem setCu_inbox (s : State) (n : Nat) (c : Cu) : (s.setCu n c).inbox = s.inbox := rfl
@[simp] theorem setCu_journalHeld (s : State) (n : Nat) (c : Cu) : (s.setCu n c).journalHeld = s.journalHeld := rfl
@[simp] theorem setCu_applied (s : State) (n : Nat) (c : Cu) : (s.setCu n c).applied = s.applied := rfl
@[simp] theorem setCu_remote (s : State) (n : Nat) (c : Cu) : (s.setCu n c).remote = s.remote := rfl
@[simp] theorem setCu_remoteSeq (s : State) (n : Nat) (c : Cu) : (s.setCu n c).remoteSeq = s.remoteSeq := rfl
@[simp] theorem setCu_outbox (s : State) (n : Nat) (c : Cu) : (s.setCu n c).outbox = s.outbox := rfl
@[simp] theorem setCu_ports (s : State) (n : Nat) (c : Cu) : (s.setCu n c).ports = s.ports := rfl
@[simp] theorem setCu_routes (s : State) (n : Nat) (c : Cu) : (s.setCu n c).routes = s.routes := rfl
@[simp] theorem setCu_power (s : State) (n : Nat) (c : Cu) : (s.setCu n c).power = s.power := rfl
@[simp] theorem setCu_boot (s : State) (n : Nat) (c : Cu) : (s.setCu n c).boot = s.boot := rfl
@[simp] theorem setCu_msis (s : State) (n : Nat) (c : Cu) : (s.setCu n c).msis = s.msis := rfl
@[simp] theorem setCu_agenda (s : State) (n : Nat) (c : Cu) : (s.setCu n c).agenda = s.agenda := rfl
@[simp] theorem setCu_fresh (s : State) (n : Nat) (c : Cu) : (s.setCu n c).fresh = s.fresh := rfl
@[simp] theorem setCu_nextEpoch (s : State) (n : Nat) (c : Cu) : (s.setCu n c).nextEpoch = s.nextEpoch := rfl
@[simp] theorem setCu_nextExam (s : State) (n : Nat) (c : Cu) : (s.setCu n c).nextExam = s.nextExam := rfl
@[simp] theorem setCu_nextPower (s : State) (n : Nat) (c : Cu) : (s.setCu n c).nextPower = s.nextPower := rfl

@[simp] theorem setTenant_cur (s : State) (n : Nat) (t : Tenant) : (s.setTenant n t).cur = s.cur := rfl
@[simp] theorem setTenant_cycle (s : State) (n : Nat) (t : Tenant) : (s.setTenant n t).cycle = s.cycle := rfl
@[simp] theorem setTenant_mem (s : State) (n : Nat) (t : Tenant) : (s.setTenant n t).mem = s.mem := rfl
@[simp] theorem setTenant_crews (s : State) (n : Nat) (t : Tenant) : (s.setTenant n t).crews = s.crews := rfl
@[simp] theorem setTenant_cus (s : State) (n : Nat) (t : Tenant) : (s.setTenant n t).cus = s.cus := rfl
@[simp] theorem setTenant_clusterTlb (s : State) (n : Nat) (t : Tenant) : (s.setTenant n t).clusterTlb = s.clusterTlb := rfl
@[simp] theorem setTenant_walkCache (s : State) (n : Nat) (t : Tenant) : (s.setTenant n t).walkCache = s.walkCache := rfl
@[simp] theorem setTenant_walking (s : State) (n : Nat) (t : Tenant) : (s.setTenant n t).walking = s.walking := rfl
@[simp] theorem setTenant_frames (s : State) (n : Nat) (t : Tenant) : (s.setTenant n t).frames = s.frames := rfl
@[simp] theorem setTenant_segs (s : State) (n : Nat) (t : Tenant) : (s.setTenant n t).segs = s.segs := rfl
@[simp] theorem setTenant_inits (s : State) (n : Nat) (t : Tenant) : (s.setTenant n t).inits = s.inits := rfl
@[simp] theorem setTenant_queues (s : State) (n : Nat) (t : Tenant) : (s.setTenant n t).queues = s.queues := rfl
@[simp] theorem setTenant_recorders (s : State) (n : Nat) (t : Tenant) : (s.setTenant n t).recorders = s.recorders := rfl
@[simp] theorem setTenant_lastQueue (s : State) (n : Nat) (t : Tenant) : (s.setTenant n t).lastQueue = s.lastQueue := rfl
@[simp] theorem setTenant_launches (s : State) (n : Nat) (t : Tenant) : (s.setTenant n t).launches = s.launches := rfl
@[simp] theorem setTenant_launchSeq (s : State) (n : Nat) (t : Tenant) : (s.setTenant n t).launchSeq = s.launchSeq := rfl
@[simp] theorem setTenant_pool (s : State) (n : Nat) (t : Tenant) : (s.setTenant n t).pool = s.pool := rfl
@[simp] theorem setTenant_regs (s : State) (n : Nat) (t : Tenant) : (s.setTenant n t).regs = s.regs := rfl
@[simp] theorem setTenant_areas (s : State) (n : Nat) (t : Tenant) : (s.setTenant n t).areas = s.areas := rfl
@[simp] theorem setTenant_fq (s : State) (n : Nat) (t : Tenant) : (s.setTenant n t).fq = s.fq := rfl
@[simp] theorem setTenant_faults (s : State) (n : Nat) (t : Tenant) : (s.setTenant n t).faults = s.faults := rfl
@[simp] theorem setTenant_faultSeq (s : State) (n : Nat) (t : Tenant) : (s.setTenant n t).faultSeq = s.faultSeq := rfl
@[simp] theorem setTenant_er (s : State) (n : Nat) (t : Tenant) : (s.setTenant n t).er = s.er := rfl
@[simp] theorem setTenant_errs (s : State) (n : Nat) (t : Tenant) : (s.setTenant n t).errs = s.errs := rfl
@[simp] theorem setTenant_cards (s : State) (n : Nat) (t : Tenant) : (s.setTenant n t).cards = s.cards := rfl
@[simp] theorem setTenant_cardSeq (s : State) (n : Nat) (t : Tenant) : (s.setTenant n t).cardSeq = s.cardSeq := rfl
@[simp] theorem setTenant_redCtxs (s : State) (n : Nat) (t : Tenant) : (s.setTenant n t).redCtxs = s.redCtxs := rfl
@[simp] theorem setTenant_claims (s : State) (n : Nat) (t : Tenant) : (s.setTenant n t).claims = s.claims := rfl
@[simp] theorem setTenant_staged (s : State) (n : Nat) (t : Tenant) : (s.setTenant n t).staged = s.staged := rfl
@[simp] theorem setTenant_arbNext (s : State) (n : Nat) (t : Tenant) : (s.setTenant n t).arbNext = s.arbNext := rfl
@[simp] theorem setTenant_ringFills (s : State) (n : Nat) (t : Tenant) : (s.setTenant n t).ringFills = s.ringFills := rfl
@[simp] theorem setTenant_journals (s : State) (n : Nat) (t : Tenant) : (s.setTenant n t).journals = s.journals := rfl
@[simp] theorem setTenant_arbLast (s : State) (n : Nat) (t : Tenant) : (s.setTenant n t).arbLast = s.arbLast := rfl
@[simp] theorem setTenant_stagingUsed (s : State) (n : Nat) (t : Tenant) : (s.setTenant n t).stagingUsed = s.stagingUsed := rfl
@[simp] theorem setTenant_opens (s : State) (n : Nat) (t : Tenant) : (s.setTenant n t).opens = s.opens := rfl
@[simp] theorem setTenant_bindings (s : State) (n : Nat) (t : Tenant) : (s.setTenant n t).bindings = s.bindings := rfl
@[simp] theorem setTenant_inbox (s : State) (n : Nat) (t : Tenant) : (s.setTenant n t).inbox = s.inbox := rfl
@[simp] theorem setTenant_journalHeld (s : State) (n : Nat) (t : Tenant) : (s.setTenant n t).journalHeld = s.journalHeld := rfl
@[simp] theorem setTenant_applied (s : State) (n : Nat) (t : Tenant) : (s.setTenant n t).applied = s.applied := rfl
@[simp] theorem setTenant_remote (s : State) (n : Nat) (t : Tenant) : (s.setTenant n t).remote = s.remote := rfl
@[simp] theorem setTenant_remoteSeq (s : State) (n : Nat) (t : Tenant) : (s.setTenant n t).remoteSeq = s.remoteSeq := rfl
@[simp] theorem setTenant_outbox (s : State) (n : Nat) (t : Tenant) : (s.setTenant n t).outbox = s.outbox := rfl
@[simp] theorem setTenant_ports (s : State) (n : Nat) (t : Tenant) : (s.setTenant n t).ports = s.ports := rfl
@[simp] theorem setTenant_routes (s : State) (n : Nat) (t : Tenant) : (s.setTenant n t).routes = s.routes := rfl
@[simp] theorem setTenant_power (s : State) (n : Nat) (t : Tenant) : (s.setTenant n t).power = s.power := rfl
@[simp] theorem setTenant_boot (s : State) (n : Nat) (t : Tenant) : (s.setTenant n t).boot = s.boot := rfl
@[simp] theorem setTenant_msis (s : State) (n : Nat) (t : Tenant) : (s.setTenant n t).msis = s.msis := rfl
@[simp] theorem setTenant_agenda (s : State) (n : Nat) (t : Tenant) : (s.setTenant n t).agenda = s.agenda := rfl
@[simp] theorem setTenant_fresh (s : State) (n : Nat) (t : Tenant) : (s.setTenant n t).fresh = s.fresh := rfl
@[simp] theorem setTenant_nextEpoch (s : State) (n : Nat) (t : Tenant) : (s.setTenant n t).nextEpoch = s.nextEpoch := rfl
@[simp] theorem setTenant_nextExam (s : State) (n : Nat) (t : Tenant) : (s.setTenant n t).nextExam = s.nextExam := rfl
@[simp] theorem setTenant_nextPower (s : State) (n : Nat) (t : Tenant) : (s.setTenant n t).nextPower = s.nextPower := rfl

@[simp] theorem setQueue_cur (s : State) (n : Nat) (q : Queue) : (s.setQueue n q).cur = s.cur := rfl
@[simp] theorem setQueue_cycle (s : State) (n : Nat) (q : Queue) : (s.setQueue n q).cycle = s.cycle := rfl
@[simp] theorem setQueue_mem (s : State) (n : Nat) (q : Queue) : (s.setQueue n q).mem = s.mem := rfl
@[simp] theorem setQueue_crews (s : State) (n : Nat) (q : Queue) : (s.setQueue n q).crews = s.crews := rfl
@[simp] theorem setQueue_cus (s : State) (n : Nat) (q : Queue) : (s.setQueue n q).cus = s.cus := rfl
@[simp] theorem setQueue_clusterTlb (s : State) (n : Nat) (q : Queue) : (s.setQueue n q).clusterTlb = s.clusterTlb := rfl
@[simp] theorem setQueue_walkCache (s : State) (n : Nat) (q : Queue) : (s.setQueue n q).walkCache = s.walkCache := rfl
@[simp] theorem setQueue_walking (s : State) (n : Nat) (q : Queue) : (s.setQueue n q).walking = s.walking := rfl
@[simp] theorem setQueue_frames (s : State) (n : Nat) (q : Queue) : (s.setQueue n q).frames = s.frames := rfl
@[simp] theorem setQueue_segs (s : State) (n : Nat) (q : Queue) : (s.setQueue n q).segs = s.segs := rfl
@[simp] theorem setQueue_inits (s : State) (n : Nat) (q : Queue) : (s.setQueue n q).inits = s.inits := rfl
@[simp] theorem setQueue_recorders (s : State) (n : Nat) (q : Queue) : (s.setQueue n q).recorders = s.recorders := rfl
@[simp] theorem setQueue_lastQueue (s : State) (n : Nat) (q : Queue) : (s.setQueue n q).lastQueue = s.lastQueue := rfl
@[simp] theorem setQueue_launches (s : State) (n : Nat) (q : Queue) : (s.setQueue n q).launches = s.launches := rfl
@[simp] theorem setQueue_launchSeq (s : State) (n : Nat) (q : Queue) : (s.setQueue n q).launchSeq = s.launchSeq := rfl
@[simp] theorem setQueue_pool (s : State) (n : Nat) (q : Queue) : (s.setQueue n q).pool = s.pool := rfl
@[simp] theorem setQueue_tenants (s : State) (n : Nat) (q : Queue) : (s.setQueue n q).tenants = s.tenants := rfl
@[simp] theorem setQueue_regs (s : State) (n : Nat) (q : Queue) : (s.setQueue n q).regs = s.regs := rfl
@[simp] theorem setQueue_areas (s : State) (n : Nat) (q : Queue) : (s.setQueue n q).areas = s.areas := rfl
@[simp] theorem setQueue_fq (s : State) (n : Nat) (q : Queue) : (s.setQueue n q).fq = s.fq := rfl
@[simp] theorem setQueue_faults (s : State) (n : Nat) (q : Queue) : (s.setQueue n q).faults = s.faults := rfl
@[simp] theorem setQueue_faultSeq (s : State) (n : Nat) (q : Queue) : (s.setQueue n q).faultSeq = s.faultSeq := rfl
@[simp] theorem setQueue_er (s : State) (n : Nat) (q : Queue) : (s.setQueue n q).er = s.er := rfl
@[simp] theorem setQueue_errs (s : State) (n : Nat) (q : Queue) : (s.setQueue n q).errs = s.errs := rfl
@[simp] theorem setQueue_cards (s : State) (n : Nat) (q : Queue) : (s.setQueue n q).cards = s.cards := rfl
@[simp] theorem setQueue_cardSeq (s : State) (n : Nat) (q : Queue) : (s.setQueue n q).cardSeq = s.cardSeq := rfl
@[simp] theorem setQueue_redCtxs (s : State) (n : Nat) (q : Queue) : (s.setQueue n q).redCtxs = s.redCtxs := rfl
@[simp] theorem setQueue_claims (s : State) (n : Nat) (q : Queue) : (s.setQueue n q).claims = s.claims := rfl
@[simp] theorem setQueue_staged (s : State) (n : Nat) (q : Queue) : (s.setQueue n q).staged = s.staged := rfl
@[simp] theorem setQueue_arbNext (s : State) (n : Nat) (q : Queue) : (s.setQueue n q).arbNext = s.arbNext := rfl
@[simp] theorem setQueue_ringFills (s : State) (n : Nat) (q : Queue) : (s.setQueue n q).ringFills = s.ringFills := rfl
@[simp] theorem setQueue_journals (s : State) (n : Nat) (q : Queue) : (s.setQueue n q).journals = s.journals := rfl
@[simp] theorem setQueue_arbLast (s : State) (n : Nat) (q : Queue) : (s.setQueue n q).arbLast = s.arbLast := rfl
@[simp] theorem setQueue_stagingUsed (s : State) (n : Nat) (q : Queue) : (s.setQueue n q).stagingUsed = s.stagingUsed := rfl
@[simp] theorem setQueue_opens (s : State) (n : Nat) (q : Queue) : (s.setQueue n q).opens = s.opens := rfl
@[simp] theorem setQueue_bindings (s : State) (n : Nat) (q : Queue) : (s.setQueue n q).bindings = s.bindings := rfl
@[simp] theorem setQueue_inbox (s : State) (n : Nat) (q : Queue) : (s.setQueue n q).inbox = s.inbox := rfl
@[simp] theorem setQueue_journalHeld (s : State) (n : Nat) (q : Queue) : (s.setQueue n q).journalHeld = s.journalHeld := rfl
@[simp] theorem setQueue_applied (s : State) (n : Nat) (q : Queue) : (s.setQueue n q).applied = s.applied := rfl
@[simp] theorem setQueue_remote (s : State) (n : Nat) (q : Queue) : (s.setQueue n q).remote = s.remote := rfl
@[simp] theorem setQueue_remoteSeq (s : State) (n : Nat) (q : Queue) : (s.setQueue n q).remoteSeq = s.remoteSeq := rfl
@[simp] theorem setQueue_outbox (s : State) (n : Nat) (q : Queue) : (s.setQueue n q).outbox = s.outbox := rfl
@[simp] theorem setQueue_ports (s : State) (n : Nat) (q : Queue) : (s.setQueue n q).ports = s.ports := rfl
@[simp] theorem setQueue_routes (s : State) (n : Nat) (q : Queue) : (s.setQueue n q).routes = s.routes := rfl
@[simp] theorem setQueue_power (s : State) (n : Nat) (q : Queue) : (s.setQueue n q).power = s.power := rfl
@[simp] theorem setQueue_boot (s : State) (n : Nat) (q : Queue) : (s.setQueue n q).boot = s.boot := rfl
@[simp] theorem setQueue_msis (s : State) (n : Nat) (q : Queue) : (s.setQueue n q).msis = s.msis := rfl
@[simp] theorem setQueue_agenda (s : State) (n : Nat) (q : Queue) : (s.setQueue n q).agenda = s.agenda := rfl
@[simp] theorem setQueue_fresh (s : State) (n : Nat) (q : Queue) : (s.setQueue n q).fresh = s.fresh := rfl
@[simp] theorem setQueue_nextEpoch (s : State) (n : Nat) (q : Queue) : (s.setQueue n q).nextEpoch = s.nextEpoch := rfl
@[simp] theorem setQueue_nextExam (s : State) (n : Nat) (q : Queue) : (s.setQueue n q).nextExam = s.nextExam := rfl
@[simp] theorem setQueue_nextPower (s : State) (n : Nat) (q : Queue) : (s.setQueue n q).nextPower = s.nextPower := rfl

@[simp] theorem setPort_cur (s : State) (n : Nat) (p : Port) : (s.setPort n p).cur = s.cur := rfl
@[simp] theorem setPort_cycle (s : State) (n : Nat) (p : Port) : (s.setPort n p).cycle = s.cycle := rfl
@[simp] theorem setPort_mem (s : State) (n : Nat) (p : Port) : (s.setPort n p).mem = s.mem := rfl
@[simp] theorem setPort_crews (s : State) (n : Nat) (p : Port) : (s.setPort n p).crews = s.crews := rfl
@[simp] theorem setPort_cus (s : State) (n : Nat) (p : Port) : (s.setPort n p).cus = s.cus := rfl
@[simp] theorem setPort_clusterTlb (s : State) (n : Nat) (p : Port) : (s.setPort n p).clusterTlb = s.clusterTlb := rfl
@[simp] theorem setPort_walkCache (s : State) (n : Nat) (p : Port) : (s.setPort n p).walkCache = s.walkCache := rfl
@[simp] theorem setPort_walking (s : State) (n : Nat) (p : Port) : (s.setPort n p).walking = s.walking := rfl
@[simp] theorem setPort_frames (s : State) (n : Nat) (p : Port) : (s.setPort n p).frames = s.frames := rfl
@[simp] theorem setPort_segs (s : State) (n : Nat) (p : Port) : (s.setPort n p).segs = s.segs := rfl
@[simp] theorem setPort_inits (s : State) (n : Nat) (p : Port) : (s.setPort n p).inits = s.inits := rfl
@[simp] theorem setPort_queues (s : State) (n : Nat) (p : Port) : (s.setPort n p).queues = s.queues := rfl
@[simp] theorem setPort_recorders (s : State) (n : Nat) (p : Port) : (s.setPort n p).recorders = s.recorders := rfl
@[simp] theorem setPort_lastQueue (s : State) (n : Nat) (p : Port) : (s.setPort n p).lastQueue = s.lastQueue := rfl
@[simp] theorem setPort_launches (s : State) (n : Nat) (p : Port) : (s.setPort n p).launches = s.launches := rfl
@[simp] theorem setPort_launchSeq (s : State) (n : Nat) (p : Port) : (s.setPort n p).launchSeq = s.launchSeq := rfl
@[simp] theorem setPort_pool (s : State) (n : Nat) (p : Port) : (s.setPort n p).pool = s.pool := rfl
@[simp] theorem setPort_tenants (s : State) (n : Nat) (p : Port) : (s.setPort n p).tenants = s.tenants := rfl
@[simp] theorem setPort_regs (s : State) (n : Nat) (p : Port) : (s.setPort n p).regs = s.regs := rfl
@[simp] theorem setPort_areas (s : State) (n : Nat) (p : Port) : (s.setPort n p).areas = s.areas := rfl
@[simp] theorem setPort_fq (s : State) (n : Nat) (p : Port) : (s.setPort n p).fq = s.fq := rfl
@[simp] theorem setPort_faults (s : State) (n : Nat) (p : Port) : (s.setPort n p).faults = s.faults := rfl
@[simp] theorem setPort_faultSeq (s : State) (n : Nat) (p : Port) : (s.setPort n p).faultSeq = s.faultSeq := rfl
@[simp] theorem setPort_er (s : State) (n : Nat) (p : Port) : (s.setPort n p).er = s.er := rfl
@[simp] theorem setPort_errs (s : State) (n : Nat) (p : Port) : (s.setPort n p).errs = s.errs := rfl
@[simp] theorem setPort_cards (s : State) (n : Nat) (p : Port) : (s.setPort n p).cards = s.cards := rfl
@[simp] theorem setPort_cardSeq (s : State) (n : Nat) (p : Port) : (s.setPort n p).cardSeq = s.cardSeq := rfl
@[simp] theorem setPort_redCtxs (s : State) (n : Nat) (p : Port) : (s.setPort n p).redCtxs = s.redCtxs := rfl
@[simp] theorem setPort_claims (s : State) (n : Nat) (p : Port) : (s.setPort n p).claims = s.claims := rfl
@[simp] theorem setPort_staged (s : State) (n : Nat) (p : Port) : (s.setPort n p).staged = s.staged := rfl
@[simp] theorem setPort_arbNext (s : State) (n : Nat) (p : Port) : (s.setPort n p).arbNext = s.arbNext := rfl
@[simp] theorem setPort_ringFills (s : State) (n : Nat) (p : Port) : (s.setPort n p).ringFills = s.ringFills := rfl
@[simp] theorem setPort_journals (s : State) (n : Nat) (p : Port) : (s.setPort n p).journals = s.journals := rfl
@[simp] theorem setPort_arbLast (s : State) (n : Nat) (p : Port) : (s.setPort n p).arbLast = s.arbLast := rfl
@[simp] theorem setPort_stagingUsed (s : State) (n : Nat) (p : Port) : (s.setPort n p).stagingUsed = s.stagingUsed := rfl
@[simp] theorem setPort_opens (s : State) (n : Nat) (p : Port) : (s.setPort n p).opens = s.opens := rfl
@[simp] theorem setPort_bindings (s : State) (n : Nat) (p : Port) : (s.setPort n p).bindings = s.bindings := rfl
@[simp] theorem setPort_inbox (s : State) (n : Nat) (p : Port) : (s.setPort n p).inbox = s.inbox := rfl
@[simp] theorem setPort_journalHeld (s : State) (n : Nat) (p : Port) : (s.setPort n p).journalHeld = s.journalHeld := rfl
@[simp] theorem setPort_applied (s : State) (n : Nat) (p : Port) : (s.setPort n p).applied = s.applied := rfl
@[simp] theorem setPort_remote (s : State) (n : Nat) (p : Port) : (s.setPort n p).remote = s.remote := rfl
@[simp] theorem setPort_remoteSeq (s : State) (n : Nat) (p : Port) : (s.setPort n p).remoteSeq = s.remoteSeq := rfl
@[simp] theorem setPort_outbox (s : State) (n : Nat) (p : Port) : (s.setPort n p).outbox = s.outbox := rfl
@[simp] theorem setPort_routes (s : State) (n : Nat) (p : Port) : (s.setPort n p).routes = s.routes := rfl
@[simp] theorem setPort_power (s : State) (n : Nat) (p : Port) : (s.setPort n p).power = s.power := rfl
@[simp] theorem setPort_boot (s : State) (n : Nat) (p : Port) : (s.setPort n p).boot = s.boot := rfl
@[simp] theorem setPort_msis (s : State) (n : Nat) (p : Port) : (s.setPort n p).msis = s.msis := rfl
@[simp] theorem setPort_agenda (s : State) (n : Nat) (p : Port) : (s.setPort n p).agenda = s.agenda := rfl
@[simp] theorem setPort_fresh (s : State) (n : Nat) (p : Port) : (s.setPort n p).fresh = s.fresh := rfl
@[simp] theorem setPort_nextEpoch (s : State) (n : Nat) (p : Port) : (s.setPort n p).nextEpoch = s.nextEpoch := rfl
@[simp] theorem setPort_nextExam (s : State) (n : Nat) (p : Port) : (s.setPort n p).nextExam = s.nextExam := rfl
@[simp] theorem setPort_nextPower (s : State) (n : Nat) (p : Port) : (s.setPort n p).nextPower = s.nextPower := rfl

@[simp] theorem setMyCrew_cur (s : State) (c : Crew) : (s.setMyCrew c).cur = s.cur := rfl
@[simp] theorem setMyCrew_cycle (s : State) (c : Crew) : (s.setMyCrew c).cycle = s.cycle := rfl
@[simp] theorem setMyCrew_mem (s : State) (c : Crew) : (s.setMyCrew c).mem = s.mem := rfl
@[simp] theorem setMyCrew_cus (s : State) (c : Crew) : (s.setMyCrew c).cus = s.cus := rfl
@[simp] theorem setMyCrew_clusterTlb (s : State) (c : Crew) : (s.setMyCrew c).clusterTlb = s.clusterTlb := rfl
@[simp] theorem setMyCrew_walkCache (s : State) (c : Crew) : (s.setMyCrew c).walkCache = s.walkCache := rfl
@[simp] theorem setMyCrew_walking (s : State) (c : Crew) : (s.setMyCrew c).walking = s.walking := rfl
@[simp] theorem setMyCrew_frames (s : State) (c : Crew) : (s.setMyCrew c).frames = s.frames := rfl
@[simp] theorem setMyCrew_segs (s : State) (c : Crew) : (s.setMyCrew c).segs = s.segs := rfl
@[simp] theorem setMyCrew_inits (s : State) (c : Crew) : (s.setMyCrew c).inits = s.inits := rfl
@[simp] theorem setMyCrew_queues (s : State) (c : Crew) : (s.setMyCrew c).queues = s.queues := rfl
@[simp] theorem setMyCrew_recorders (s : State) (c : Crew) : (s.setMyCrew c).recorders = s.recorders := rfl
@[simp] theorem setMyCrew_lastQueue (s : State) (c : Crew) : (s.setMyCrew c).lastQueue = s.lastQueue := rfl
@[simp] theorem setMyCrew_launches (s : State) (c : Crew) : (s.setMyCrew c).launches = s.launches := rfl
@[simp] theorem setMyCrew_launchSeq (s : State) (c : Crew) : (s.setMyCrew c).launchSeq = s.launchSeq := rfl
@[simp] theorem setMyCrew_pool (s : State) (c : Crew) : (s.setMyCrew c).pool = s.pool := rfl
@[simp] theorem setMyCrew_tenants (s : State) (c : Crew) : (s.setMyCrew c).tenants = s.tenants := rfl
@[simp] theorem setMyCrew_regs (s : State) (c : Crew) : (s.setMyCrew c).regs = s.regs := rfl
@[simp] theorem setMyCrew_areas (s : State) (c : Crew) : (s.setMyCrew c).areas = s.areas := rfl
@[simp] theorem setMyCrew_fq (s : State) (c : Crew) : (s.setMyCrew c).fq = s.fq := rfl
@[simp] theorem setMyCrew_faults (s : State) (c : Crew) : (s.setMyCrew c).faults = s.faults := rfl
@[simp] theorem setMyCrew_faultSeq (s : State) (c : Crew) : (s.setMyCrew c).faultSeq = s.faultSeq := rfl
@[simp] theorem setMyCrew_er (s : State) (c : Crew) : (s.setMyCrew c).er = s.er := rfl
@[simp] theorem setMyCrew_errs (s : State) (c : Crew) : (s.setMyCrew c).errs = s.errs := rfl
@[simp] theorem setMyCrew_cards (s : State) (c : Crew) : (s.setMyCrew c).cards = s.cards := rfl
@[simp] theorem setMyCrew_cardSeq (s : State) (c : Crew) : (s.setMyCrew c).cardSeq = s.cardSeq := rfl
@[simp] theorem setMyCrew_redCtxs (s : State) (c : Crew) : (s.setMyCrew c).redCtxs = s.redCtxs := rfl
@[simp] theorem setMyCrew_claims (s : State) (c : Crew) : (s.setMyCrew c).claims = s.claims := rfl
@[simp] theorem setMyCrew_staged (s : State) (c : Crew) : (s.setMyCrew c).staged = s.staged := rfl
@[simp] theorem setMyCrew_arbNext (s : State) (c : Crew) : (s.setMyCrew c).arbNext = s.arbNext := rfl
@[simp] theorem setMyCrew_ringFills (s : State) (c : Crew) : (s.setMyCrew c).ringFills = s.ringFills := rfl
@[simp] theorem setMyCrew_journals (s : State) (c : Crew) : (s.setMyCrew c).journals = s.journals := rfl
@[simp] theorem setMyCrew_arbLast (s : State) (c : Crew) : (s.setMyCrew c).arbLast = s.arbLast := rfl
@[simp] theorem setMyCrew_stagingUsed (s : State) (c : Crew) : (s.setMyCrew c).stagingUsed = s.stagingUsed := rfl
@[simp] theorem setMyCrew_opens (s : State) (c : Crew) : (s.setMyCrew c).opens = s.opens := rfl
@[simp] theorem setMyCrew_bindings (s : State) (c : Crew) : (s.setMyCrew c).bindings = s.bindings := rfl
@[simp] theorem setMyCrew_inbox (s : State) (c : Crew) : (s.setMyCrew c).inbox = s.inbox := rfl
@[simp] theorem setMyCrew_journalHeld (s : State) (c : Crew) : (s.setMyCrew c).journalHeld = s.journalHeld := rfl
@[simp] theorem setMyCrew_applied (s : State) (c : Crew) : (s.setMyCrew c).applied = s.applied := rfl
@[simp] theorem setMyCrew_remote (s : State) (c : Crew) : (s.setMyCrew c).remote = s.remote := rfl
@[simp] theorem setMyCrew_remoteSeq (s : State) (c : Crew) : (s.setMyCrew c).remoteSeq = s.remoteSeq := rfl
@[simp] theorem setMyCrew_outbox (s : State) (c : Crew) : (s.setMyCrew c).outbox = s.outbox := rfl
@[simp] theorem setMyCrew_ports (s : State) (c : Crew) : (s.setMyCrew c).ports = s.ports := rfl
@[simp] theorem setMyCrew_routes (s : State) (c : Crew) : (s.setMyCrew c).routes = s.routes := rfl
@[simp] theorem setMyCrew_power (s : State) (c : Crew) : (s.setMyCrew c).power = s.power := rfl
@[simp] theorem setMyCrew_boot (s : State) (c : Crew) : (s.setMyCrew c).boot = s.boot := rfl
@[simp] theorem setMyCrew_msis (s : State) (c : Crew) : (s.setMyCrew c).msis = s.msis := rfl
@[simp] theorem setMyCrew_agenda (s : State) (c : Crew) : (s.setMyCrew c).agenda = s.agenda := rfl
@[simp] theorem setMyCrew_fresh (s : State) (c : Crew) : (s.setMyCrew c).fresh = s.fresh := rfl
@[simp] theorem setMyCrew_nextEpoch (s : State) (c : Crew) : (s.setMyCrew c).nextEpoch = s.nextEpoch := rfl
@[simp] theorem setMyCrew_nextExam (s : State) (c : Crew) : (s.setMyCrew c).nextExam = s.nextExam := rfl
@[simp] theorem setMyCrew_nextPower (s : State) (c : Crew) : (s.setMyCrew c).nextPower = s.nextPower := rfl

@[simp] theorem setMe_cur (s : State) (x : Strand) : (s.setMe x).cur = s.cur := rfl
@[simp] theorem setMe_cycle (s : State) (x : Strand) : (s.setMe x).cycle = s.cycle := rfl
@[simp] theorem setMe_mem (s : State) (x : Strand) : (s.setMe x).mem = s.mem := rfl
@[simp] theorem setMe_cus (s : State) (x : Strand) : (s.setMe x).cus = s.cus := rfl
@[simp] theorem setMe_clusterTlb (s : State) (x : Strand) : (s.setMe x).clusterTlb = s.clusterTlb := rfl
@[simp] theorem setMe_walkCache (s : State) (x : Strand) : (s.setMe x).walkCache = s.walkCache := rfl
@[simp] theorem setMe_walking (s : State) (x : Strand) : (s.setMe x).walking = s.walking := rfl
@[simp] theorem setMe_frames (s : State) (x : Strand) : (s.setMe x).frames = s.frames := rfl
@[simp] theorem setMe_segs (s : State) (x : Strand) : (s.setMe x).segs = s.segs := rfl
@[simp] theorem setMe_inits (s : State) (x : Strand) : (s.setMe x).inits = s.inits := rfl
@[simp] theorem setMe_queues (s : State) (x : Strand) : (s.setMe x).queues = s.queues := rfl
@[simp] theorem setMe_recorders (s : State) (x : Strand) : (s.setMe x).recorders = s.recorders := rfl
@[simp] theorem setMe_lastQueue (s : State) (x : Strand) : (s.setMe x).lastQueue = s.lastQueue := rfl
@[simp] theorem setMe_launches (s : State) (x : Strand) : (s.setMe x).launches = s.launches := rfl
@[simp] theorem setMe_launchSeq (s : State) (x : Strand) : (s.setMe x).launchSeq = s.launchSeq := rfl
@[simp] theorem setMe_pool (s : State) (x : Strand) : (s.setMe x).pool = s.pool := rfl
@[simp] theorem setMe_tenants (s : State) (x : Strand) : (s.setMe x).tenants = s.tenants := rfl
@[simp] theorem setMe_regs (s : State) (x : Strand) : (s.setMe x).regs = s.regs := rfl
@[simp] theorem setMe_areas (s : State) (x : Strand) : (s.setMe x).areas = s.areas := rfl
@[simp] theorem setMe_fq (s : State) (x : Strand) : (s.setMe x).fq = s.fq := rfl
@[simp] theorem setMe_faults (s : State) (x : Strand) : (s.setMe x).faults = s.faults := rfl
@[simp] theorem setMe_faultSeq (s : State) (x : Strand) : (s.setMe x).faultSeq = s.faultSeq := rfl
@[simp] theorem setMe_er (s : State) (x : Strand) : (s.setMe x).er = s.er := rfl
@[simp] theorem setMe_errs (s : State) (x : Strand) : (s.setMe x).errs = s.errs := rfl
@[simp] theorem setMe_cards (s : State) (x : Strand) : (s.setMe x).cards = s.cards := rfl
@[simp] theorem setMe_cardSeq (s : State) (x : Strand) : (s.setMe x).cardSeq = s.cardSeq := rfl
@[simp] theorem setMe_redCtxs (s : State) (x : Strand) : (s.setMe x).redCtxs = s.redCtxs := rfl
@[simp] theorem setMe_claims (s : State) (x : Strand) : (s.setMe x).claims = s.claims := rfl
@[simp] theorem setMe_staged (s : State) (x : Strand) : (s.setMe x).staged = s.staged := rfl
@[simp] theorem setMe_arbNext (s : State) (x : Strand) : (s.setMe x).arbNext = s.arbNext := rfl
@[simp] theorem setMe_ringFills (s : State) (x : Strand) : (s.setMe x).ringFills = s.ringFills := rfl
@[simp] theorem setMe_journals (s : State) (x : Strand) : (s.setMe x).journals = s.journals := rfl
@[simp] theorem setMe_arbLast (s : State) (x : Strand) : (s.setMe x).arbLast = s.arbLast := rfl
@[simp] theorem setMe_stagingUsed (s : State) (x : Strand) : (s.setMe x).stagingUsed = s.stagingUsed := rfl
@[simp] theorem setMe_opens (s : State) (x : Strand) : (s.setMe x).opens = s.opens := rfl
@[simp] theorem setMe_bindings (s : State) (x : Strand) : (s.setMe x).bindings = s.bindings := rfl
@[simp] theorem setMe_inbox (s : State) (x : Strand) : (s.setMe x).inbox = s.inbox := rfl
@[simp] theorem setMe_journalHeld (s : State) (x : Strand) : (s.setMe x).journalHeld = s.journalHeld := rfl
@[simp] theorem setMe_applied (s : State) (x : Strand) : (s.setMe x).applied = s.applied := rfl
@[simp] theorem setMe_remote (s : State) (x : Strand) : (s.setMe x).remote = s.remote := rfl
@[simp] theorem setMe_remoteSeq (s : State) (x : Strand) : (s.setMe x).remoteSeq = s.remoteSeq := rfl
@[simp] theorem setMe_outbox (s : State) (x : Strand) : (s.setMe x).outbox = s.outbox := rfl
@[simp] theorem setMe_ports (s : State) (x : Strand) : (s.setMe x).ports = s.ports := rfl
@[simp] theorem setMe_routes (s : State) (x : Strand) : (s.setMe x).routes = s.routes := rfl
@[simp] theorem setMe_power (s : State) (x : Strand) : (s.setMe x).power = s.power := rfl
@[simp] theorem setMe_boot (s : State) (x : Strand) : (s.setMe x).boot = s.boot := rfl
@[simp] theorem setMe_msis (s : State) (x : Strand) : (s.setMe x).msis = s.msis := rfl
@[simp] theorem setMe_agenda (s : State) (x : Strand) : (s.setMe x).agenda = s.agenda := rfl
@[simp] theorem setMe_fresh (s : State) (x : Strand) : (s.setMe x).fresh = s.fresh := rfl
@[simp] theorem setMe_nextEpoch (s : State) (x : Strand) : (s.setMe x).nextEpoch = s.nextEpoch := rfl
@[simp] theorem setMe_nextExam (s : State) (x : Strand) : (s.setMe x).nextExam = s.nextExam := rfl
@[simp] theorem setMe_nextPower (s : State) (x : Strand) : (s.setMe x).nextPower = s.nextPower := rfl

@[simp] theorem setStrand_cur (s : State) (n : Nat) (k : StrandKind) (x : Strand) : (s.setStrand n k x).cur = s.cur := rfl
@[simp] theorem setStrand_cycle (s : State) (n : Nat) (k : StrandKind) (x : Strand) : (s.setStrand n k x).cycle = s.cycle := rfl
@[simp] theorem setStrand_mem (s : State) (n : Nat) (k : StrandKind) (x : Strand) : (s.setStrand n k x).mem = s.mem := rfl
@[simp] theorem setStrand_cus (s : State) (n : Nat) (k : StrandKind) (x : Strand) : (s.setStrand n k x).cus = s.cus := rfl
@[simp] theorem setStrand_clusterTlb (s : State) (n : Nat) (k : StrandKind) (x : Strand) : (s.setStrand n k x).clusterTlb = s.clusterTlb := rfl
@[simp] theorem setStrand_walkCache (s : State) (n : Nat) (k : StrandKind) (x : Strand) : (s.setStrand n k x).walkCache = s.walkCache := rfl
@[simp] theorem setStrand_walking (s : State) (n : Nat) (k : StrandKind) (x : Strand) : (s.setStrand n k x).walking = s.walking := rfl
@[simp] theorem setStrand_frames (s : State) (n : Nat) (k : StrandKind) (x : Strand) : (s.setStrand n k x).frames = s.frames := rfl
@[simp] theorem setStrand_segs (s : State) (n : Nat) (k : StrandKind) (x : Strand) : (s.setStrand n k x).segs = s.segs := rfl
@[simp] theorem setStrand_inits (s : State) (n : Nat) (k : StrandKind) (x : Strand) : (s.setStrand n k x).inits = s.inits := rfl
@[simp] theorem setStrand_queues (s : State) (n : Nat) (k : StrandKind) (x : Strand) : (s.setStrand n k x).queues = s.queues := rfl
@[simp] theorem setStrand_recorders (s : State) (n : Nat) (k : StrandKind) (x : Strand) : (s.setStrand n k x).recorders = s.recorders := rfl
@[simp] theorem setStrand_lastQueue (s : State) (n : Nat) (k : StrandKind) (x : Strand) : (s.setStrand n k x).lastQueue = s.lastQueue := rfl
@[simp] theorem setStrand_launches (s : State) (n : Nat) (k : StrandKind) (x : Strand) : (s.setStrand n k x).launches = s.launches := rfl
@[simp] theorem setStrand_launchSeq (s : State) (n : Nat) (k : StrandKind) (x : Strand) : (s.setStrand n k x).launchSeq = s.launchSeq := rfl
@[simp] theorem setStrand_pool (s : State) (n : Nat) (k : StrandKind) (x : Strand) : (s.setStrand n k x).pool = s.pool := rfl
@[simp] theorem setStrand_tenants (s : State) (n : Nat) (k : StrandKind) (x : Strand) : (s.setStrand n k x).tenants = s.tenants := rfl
@[simp] theorem setStrand_regs (s : State) (n : Nat) (k : StrandKind) (x : Strand) : (s.setStrand n k x).regs = s.regs := rfl
@[simp] theorem setStrand_areas (s : State) (n : Nat) (k : StrandKind) (x : Strand) : (s.setStrand n k x).areas = s.areas := rfl
@[simp] theorem setStrand_fq (s : State) (n : Nat) (k : StrandKind) (x : Strand) : (s.setStrand n k x).fq = s.fq := rfl
@[simp] theorem setStrand_faults (s : State) (n : Nat) (k : StrandKind) (x : Strand) : (s.setStrand n k x).faults = s.faults := rfl
@[simp] theorem setStrand_faultSeq (s : State) (n : Nat) (k : StrandKind) (x : Strand) : (s.setStrand n k x).faultSeq = s.faultSeq := rfl
@[simp] theorem setStrand_er (s : State) (n : Nat) (k : StrandKind) (x : Strand) : (s.setStrand n k x).er = s.er := rfl
@[simp] theorem setStrand_errs (s : State) (n : Nat) (k : StrandKind) (x : Strand) : (s.setStrand n k x).errs = s.errs := rfl
@[simp] theorem setStrand_cards (s : State) (n : Nat) (k : StrandKind) (x : Strand) : (s.setStrand n k x).cards = s.cards := rfl
@[simp] theorem setStrand_cardSeq (s : State) (n : Nat) (k : StrandKind) (x : Strand) : (s.setStrand n k x).cardSeq = s.cardSeq := rfl
@[simp] theorem setStrand_redCtxs (s : State) (n : Nat) (k : StrandKind) (x : Strand) : (s.setStrand n k x).redCtxs = s.redCtxs := rfl
@[simp] theorem setStrand_claims (s : State) (n : Nat) (k : StrandKind) (x : Strand) : (s.setStrand n k x).claims = s.claims := rfl
@[simp] theorem setStrand_staged (s : State) (n : Nat) (k : StrandKind) (x : Strand) : (s.setStrand n k x).staged = s.staged := rfl
@[simp] theorem setStrand_arbNext (s : State) (n : Nat) (k : StrandKind) (x : Strand) : (s.setStrand n k x).arbNext = s.arbNext := rfl
@[simp] theorem setStrand_ringFills (s : State) (n : Nat) (k : StrandKind) (x : Strand) : (s.setStrand n k x).ringFills = s.ringFills := rfl
@[simp] theorem setStrand_journals (s : State) (n : Nat) (k : StrandKind) (x : Strand) : (s.setStrand n k x).journals = s.journals := rfl
@[simp] theorem setStrand_arbLast (s : State) (n : Nat) (k : StrandKind) (x : Strand) : (s.setStrand n k x).arbLast = s.arbLast := rfl
@[simp] theorem setStrand_stagingUsed (s : State) (n : Nat) (k : StrandKind) (x : Strand) : (s.setStrand n k x).stagingUsed = s.stagingUsed := rfl
@[simp] theorem setStrand_opens (s : State) (n : Nat) (k : StrandKind) (x : Strand) : (s.setStrand n k x).opens = s.opens := rfl
@[simp] theorem setStrand_bindings (s : State) (n : Nat) (k : StrandKind) (x : Strand) : (s.setStrand n k x).bindings = s.bindings := rfl
@[simp] theorem setStrand_inbox (s : State) (n : Nat) (k : StrandKind) (x : Strand) : (s.setStrand n k x).inbox = s.inbox := rfl
@[simp] theorem setStrand_journalHeld (s : State) (n : Nat) (k : StrandKind) (x : Strand) : (s.setStrand n k x).journalHeld = s.journalHeld := rfl
@[simp] theorem setStrand_applied (s : State) (n : Nat) (k : StrandKind) (x : Strand) : (s.setStrand n k x).applied = s.applied := rfl
@[simp] theorem setStrand_remote (s : State) (n : Nat) (k : StrandKind) (x : Strand) : (s.setStrand n k x).remote = s.remote := rfl
@[simp] theorem setStrand_remoteSeq (s : State) (n : Nat) (k : StrandKind) (x : Strand) : (s.setStrand n k x).remoteSeq = s.remoteSeq := rfl
@[simp] theorem setStrand_outbox (s : State) (n : Nat) (k : StrandKind) (x : Strand) : (s.setStrand n k x).outbox = s.outbox := rfl
@[simp] theorem setStrand_ports (s : State) (n : Nat) (k : StrandKind) (x : Strand) : (s.setStrand n k x).ports = s.ports := rfl
@[simp] theorem setStrand_routes (s : State) (n : Nat) (k : StrandKind) (x : Strand) : (s.setStrand n k x).routes = s.routes := rfl
@[simp] theorem setStrand_power (s : State) (n : Nat) (k : StrandKind) (x : Strand) : (s.setStrand n k x).power = s.power := rfl
@[simp] theorem setStrand_boot (s : State) (n : Nat) (k : StrandKind) (x : Strand) : (s.setStrand n k x).boot = s.boot := rfl
@[simp] theorem setStrand_msis (s : State) (n : Nat) (k : StrandKind) (x : Strand) : (s.setStrand n k x).msis = s.msis := rfl
@[simp] theorem setStrand_agenda (s : State) (n : Nat) (k : StrandKind) (x : Strand) : (s.setStrand n k x).agenda = s.agenda := rfl
@[simp] theorem setStrand_fresh (s : State) (n : Nat) (k : StrandKind) (x : Strand) : (s.setStrand n k x).fresh = s.fresh := rfl
@[simp] theorem setStrand_nextEpoch (s : State) (n : Nat) (k : StrandKind) (x : Strand) : (s.setStrand n k x).nextEpoch = s.nextEpoch := rfl
@[simp] theorem setStrand_nextExam (s : State) (n : Nat) (k : StrandKind) (x : Strand) : (s.setStrand n k x).nextExam = s.nextExam := rfl
@[simp] theorem setStrand_nextPower (s : State) (n : Nat) (k : StrandKind) (x : Strand) : (s.setStrand n k x).nextPower = s.nextPower := rfl

@[simp] theorem setLaunch_cur (s : State) (l : Launch) : (s.setLaunch l).cur = s.cur := rfl
@[simp] theorem setLaunch_cycle (s : State) (l : Launch) : (s.setLaunch l).cycle = s.cycle := rfl
@[simp] theorem setLaunch_mem (s : State) (l : Launch) : (s.setLaunch l).mem = s.mem := rfl
@[simp] theorem setLaunch_crews (s : State) (l : Launch) : (s.setLaunch l).crews = s.crews := rfl
@[simp] theorem setLaunch_cus (s : State) (l : Launch) : (s.setLaunch l).cus = s.cus := rfl
@[simp] theorem setLaunch_clusterTlb (s : State) (l : Launch) : (s.setLaunch l).clusterTlb = s.clusterTlb := rfl
@[simp] theorem setLaunch_walkCache (s : State) (l : Launch) : (s.setLaunch l).walkCache = s.walkCache := rfl
@[simp] theorem setLaunch_walking (s : State) (l : Launch) : (s.setLaunch l).walking = s.walking := rfl
@[simp] theorem setLaunch_frames (s : State) (l : Launch) : (s.setLaunch l).frames = s.frames := rfl
@[simp] theorem setLaunch_segs (s : State) (l : Launch) : (s.setLaunch l).segs = s.segs := rfl
@[simp] theorem setLaunch_inits (s : State) (l : Launch) : (s.setLaunch l).inits = s.inits := rfl
@[simp] theorem setLaunch_queues (s : State) (l : Launch) : (s.setLaunch l).queues = s.queues := rfl
@[simp] theorem setLaunch_recorders (s : State) (l : Launch) : (s.setLaunch l).recorders = s.recorders := rfl
@[simp] theorem setLaunch_lastQueue (s : State) (l : Launch) : (s.setLaunch l).lastQueue = s.lastQueue := rfl
@[simp] theorem setLaunch_launchSeq (s : State) (l : Launch) : (s.setLaunch l).launchSeq = s.launchSeq := rfl
@[simp] theorem setLaunch_pool (s : State) (l : Launch) : (s.setLaunch l).pool = s.pool := rfl
@[simp] theorem setLaunch_tenants (s : State) (l : Launch) : (s.setLaunch l).tenants = s.tenants := rfl
@[simp] theorem setLaunch_regs (s : State) (l : Launch) : (s.setLaunch l).regs = s.regs := rfl
@[simp] theorem setLaunch_areas (s : State) (l : Launch) : (s.setLaunch l).areas = s.areas := rfl
@[simp] theorem setLaunch_fq (s : State) (l : Launch) : (s.setLaunch l).fq = s.fq := rfl
@[simp] theorem setLaunch_faults (s : State) (l : Launch) : (s.setLaunch l).faults = s.faults := rfl
@[simp] theorem setLaunch_faultSeq (s : State) (l : Launch) : (s.setLaunch l).faultSeq = s.faultSeq := rfl
@[simp] theorem setLaunch_er (s : State) (l : Launch) : (s.setLaunch l).er = s.er := rfl
@[simp] theorem setLaunch_errs (s : State) (l : Launch) : (s.setLaunch l).errs = s.errs := rfl
@[simp] theorem setLaunch_cards (s : State) (l : Launch) : (s.setLaunch l).cards = s.cards := rfl
@[simp] theorem setLaunch_cardSeq (s : State) (l : Launch) : (s.setLaunch l).cardSeq = s.cardSeq := rfl
@[simp] theorem setLaunch_redCtxs (s : State) (l : Launch) : (s.setLaunch l).redCtxs = s.redCtxs := rfl
@[simp] theorem setLaunch_claims (s : State) (l : Launch) : (s.setLaunch l).claims = s.claims := rfl
@[simp] theorem setLaunch_staged (s : State) (l : Launch) : (s.setLaunch l).staged = s.staged := rfl
@[simp] theorem setLaunch_arbNext (s : State) (l : Launch) : (s.setLaunch l).arbNext = s.arbNext := rfl
@[simp] theorem setLaunch_ringFills (s : State) (l : Launch) : (s.setLaunch l).ringFills = s.ringFills := rfl
@[simp] theorem setLaunch_journals (s : State) (l : Launch) : (s.setLaunch l).journals = s.journals := rfl
@[simp] theorem setLaunch_arbLast (s : State) (l : Launch) : (s.setLaunch l).arbLast = s.arbLast := rfl
@[simp] theorem setLaunch_stagingUsed (s : State) (l : Launch) : (s.setLaunch l).stagingUsed = s.stagingUsed := rfl
@[simp] theorem setLaunch_opens (s : State) (l : Launch) : (s.setLaunch l).opens = s.opens := rfl
@[simp] theorem setLaunch_bindings (s : State) (l : Launch) : (s.setLaunch l).bindings = s.bindings := rfl
@[simp] theorem setLaunch_inbox (s : State) (l : Launch) : (s.setLaunch l).inbox = s.inbox := rfl
@[simp] theorem setLaunch_journalHeld (s : State) (l : Launch) : (s.setLaunch l).journalHeld = s.journalHeld := rfl
@[simp] theorem setLaunch_applied (s : State) (l : Launch) : (s.setLaunch l).applied = s.applied := rfl
@[simp] theorem setLaunch_remote (s : State) (l : Launch) : (s.setLaunch l).remote = s.remote := rfl
@[simp] theorem setLaunch_remoteSeq (s : State) (l : Launch) : (s.setLaunch l).remoteSeq = s.remoteSeq := rfl
@[simp] theorem setLaunch_outbox (s : State) (l : Launch) : (s.setLaunch l).outbox = s.outbox := rfl
@[simp] theorem setLaunch_ports (s : State) (l : Launch) : (s.setLaunch l).ports = s.ports := rfl
@[simp] theorem setLaunch_routes (s : State) (l : Launch) : (s.setLaunch l).routes = s.routes := rfl
@[simp] theorem setLaunch_power (s : State) (l : Launch) : (s.setLaunch l).power = s.power := rfl
@[simp] theorem setLaunch_boot (s : State) (l : Launch) : (s.setLaunch l).boot = s.boot := rfl
@[simp] theorem setLaunch_msis (s : State) (l : Launch) : (s.setLaunch l).msis = s.msis := rfl
@[simp] theorem setLaunch_agenda (s : State) (l : Launch) : (s.setLaunch l).agenda = s.agenda := rfl
@[simp] theorem setLaunch_fresh (s : State) (l : Launch) : (s.setLaunch l).fresh = s.fresh := rfl
@[simp] theorem setLaunch_nextEpoch (s : State) (l : Launch) : (s.setLaunch l).nextEpoch = s.nextEpoch := rfl
@[simp] theorem setLaunch_nextExam (s : State) (l : Launch) : (s.setLaunch l).nextExam = s.nextExam := rfl
@[simp] theorem setLaunch_nextPower (s : State) (l : Launch) : (s.setLaunch l).nextPower = s.nextPower := rfl

@[simp] theorem setOp_cur (s : State) (n : Nat) (o : AsyncOp) : (s.setOp n o).cur = s.cur := rfl
@[simp] theorem setOp_cycle (s : State) (n : Nat) (o : AsyncOp) : (s.setOp n o).cycle = s.cycle := rfl
@[simp] theorem setOp_mem (s : State) (n : Nat) (o : AsyncOp) : (s.setOp n o).mem = s.mem := rfl
@[simp] theorem setOp_cus (s : State) (n : Nat) (o : AsyncOp) : (s.setOp n o).cus = s.cus := rfl
@[simp] theorem setOp_clusterTlb (s : State) (n : Nat) (o : AsyncOp) : (s.setOp n o).clusterTlb = s.clusterTlb := rfl
@[simp] theorem setOp_walkCache (s : State) (n : Nat) (o : AsyncOp) : (s.setOp n o).walkCache = s.walkCache := rfl
@[simp] theorem setOp_walking (s : State) (n : Nat) (o : AsyncOp) : (s.setOp n o).walking = s.walking := rfl
@[simp] theorem setOp_frames (s : State) (n : Nat) (o : AsyncOp) : (s.setOp n o).frames = s.frames := rfl
@[simp] theorem setOp_segs (s : State) (n : Nat) (o : AsyncOp) : (s.setOp n o).segs = s.segs := rfl
@[simp] theorem setOp_inits (s : State) (n : Nat) (o : AsyncOp) : (s.setOp n o).inits = s.inits := rfl
@[simp] theorem setOp_queues (s : State) (n : Nat) (o : AsyncOp) : (s.setOp n o).queues = s.queues := rfl
@[simp] theorem setOp_recorders (s : State) (n : Nat) (o : AsyncOp) : (s.setOp n o).recorders = s.recorders := rfl
@[simp] theorem setOp_lastQueue (s : State) (n : Nat) (o : AsyncOp) : (s.setOp n o).lastQueue = s.lastQueue := rfl
@[simp] theorem setOp_launches (s : State) (n : Nat) (o : AsyncOp) : (s.setOp n o).launches = s.launches := rfl
@[simp] theorem setOp_launchSeq (s : State) (n : Nat) (o : AsyncOp) : (s.setOp n o).launchSeq = s.launchSeq := rfl
@[simp] theorem setOp_pool (s : State) (n : Nat) (o : AsyncOp) : (s.setOp n o).pool = s.pool := rfl
@[simp] theorem setOp_tenants (s : State) (n : Nat) (o : AsyncOp) : (s.setOp n o).tenants = s.tenants := rfl
@[simp] theorem setOp_regs (s : State) (n : Nat) (o : AsyncOp) : (s.setOp n o).regs = s.regs := rfl
@[simp] theorem setOp_areas (s : State) (n : Nat) (o : AsyncOp) : (s.setOp n o).areas = s.areas := rfl
@[simp] theorem setOp_fq (s : State) (n : Nat) (o : AsyncOp) : (s.setOp n o).fq = s.fq := rfl
@[simp] theorem setOp_faults (s : State) (n : Nat) (o : AsyncOp) : (s.setOp n o).faults = s.faults := rfl
@[simp] theorem setOp_faultSeq (s : State) (n : Nat) (o : AsyncOp) : (s.setOp n o).faultSeq = s.faultSeq := rfl
@[simp] theorem setOp_er (s : State) (n : Nat) (o : AsyncOp) : (s.setOp n o).er = s.er := rfl
@[simp] theorem setOp_errs (s : State) (n : Nat) (o : AsyncOp) : (s.setOp n o).errs = s.errs := rfl
@[simp] theorem setOp_cards (s : State) (n : Nat) (o : AsyncOp) : (s.setOp n o).cards = s.cards := rfl
@[simp] theorem setOp_cardSeq (s : State) (n : Nat) (o : AsyncOp) : (s.setOp n o).cardSeq = s.cardSeq := rfl
@[simp] theorem setOp_redCtxs (s : State) (n : Nat) (o : AsyncOp) : (s.setOp n o).redCtxs = s.redCtxs := rfl
@[simp] theorem setOp_claims (s : State) (n : Nat) (o : AsyncOp) : (s.setOp n o).claims = s.claims := rfl
@[simp] theorem setOp_staged (s : State) (n : Nat) (o : AsyncOp) : (s.setOp n o).staged = s.staged := rfl
@[simp] theorem setOp_arbNext (s : State) (n : Nat) (o : AsyncOp) : (s.setOp n o).arbNext = s.arbNext := rfl
@[simp] theorem setOp_ringFills (s : State) (n : Nat) (o : AsyncOp) : (s.setOp n o).ringFills = s.ringFills := rfl
@[simp] theorem setOp_journals (s : State) (n : Nat) (o : AsyncOp) : (s.setOp n o).journals = s.journals := rfl
@[simp] theorem setOp_arbLast (s : State) (n : Nat) (o : AsyncOp) : (s.setOp n o).arbLast = s.arbLast := rfl
@[simp] theorem setOp_stagingUsed (s : State) (n : Nat) (o : AsyncOp) : (s.setOp n o).stagingUsed = s.stagingUsed := rfl
@[simp] theorem setOp_opens (s : State) (n : Nat) (o : AsyncOp) : (s.setOp n o).opens = s.opens := rfl
@[simp] theorem setOp_bindings (s : State) (n : Nat) (o : AsyncOp) : (s.setOp n o).bindings = s.bindings := rfl
@[simp] theorem setOp_inbox (s : State) (n : Nat) (o : AsyncOp) : (s.setOp n o).inbox = s.inbox := rfl
@[simp] theorem setOp_journalHeld (s : State) (n : Nat) (o : AsyncOp) : (s.setOp n o).journalHeld = s.journalHeld := rfl
@[simp] theorem setOp_applied (s : State) (n : Nat) (o : AsyncOp) : (s.setOp n o).applied = s.applied := rfl
@[simp] theorem setOp_remote (s : State) (n : Nat) (o : AsyncOp) : (s.setOp n o).remote = s.remote := rfl
@[simp] theorem setOp_remoteSeq (s : State) (n : Nat) (o : AsyncOp) : (s.setOp n o).remoteSeq = s.remoteSeq := rfl
@[simp] theorem setOp_outbox (s : State) (n : Nat) (o : AsyncOp) : (s.setOp n o).outbox = s.outbox := rfl
@[simp] theorem setOp_ports (s : State) (n : Nat) (o : AsyncOp) : (s.setOp n o).ports = s.ports := rfl
@[simp] theorem setOp_routes (s : State) (n : Nat) (o : AsyncOp) : (s.setOp n o).routes = s.routes := rfl
@[simp] theorem setOp_power (s : State) (n : Nat) (o : AsyncOp) : (s.setOp n o).power = s.power := rfl
@[simp] theorem setOp_boot (s : State) (n : Nat) (o : AsyncOp) : (s.setOp n o).boot = s.boot := rfl
@[simp] theorem setOp_msis (s : State) (n : Nat) (o : AsyncOp) : (s.setOp n o).msis = s.msis := rfl
@[simp] theorem setOp_agenda (s : State) (n : Nat) (o : AsyncOp) : (s.setOp n o).agenda = s.agenda := rfl
@[simp] theorem setOp_fresh (s : State) (n : Nat) (o : AsyncOp) : (s.setOp n o).fresh = s.fresh := rfl
@[simp] theorem setOp_nextEpoch (s : State) (n : Nat) (o : AsyncOp) : (s.setOp n o).nextEpoch = s.nextEpoch := rfl
@[simp] theorem setOp_nextExam (s : State) (n : Nat) (o : AsyncOp) : (s.setOp n o).nextExam = s.nextExam := rfl
@[simp] theorem setOp_nextPower (s : State) (n : Nat) (o : AsyncOp) : (s.setOp n o).nextPower = s.nextPower := rfl

@[simp] theorem setCard_cur (s : State) (k : Card) : (s.setCard k).cur = s.cur := rfl
@[simp] theorem setCard_cycle (s : State) (k : Card) : (s.setCard k).cycle = s.cycle := rfl
@[simp] theorem setCard_mem (s : State) (k : Card) : (s.setCard k).mem = s.mem := rfl
@[simp] theorem setCard_crews (s : State) (k : Card) : (s.setCard k).crews = s.crews := rfl
@[simp] theorem setCard_cus (s : State) (k : Card) : (s.setCard k).cus = s.cus := rfl
@[simp] theorem setCard_clusterTlb (s : State) (k : Card) : (s.setCard k).clusterTlb = s.clusterTlb := rfl
@[simp] theorem setCard_walkCache (s : State) (k : Card) : (s.setCard k).walkCache = s.walkCache := rfl
@[simp] theorem setCard_walking (s : State) (k : Card) : (s.setCard k).walking = s.walking := rfl
@[simp] theorem setCard_frames (s : State) (k : Card) : (s.setCard k).frames = s.frames := rfl
@[simp] theorem setCard_segs (s : State) (k : Card) : (s.setCard k).segs = s.segs := rfl
@[simp] theorem setCard_inits (s : State) (k : Card) : (s.setCard k).inits = s.inits := rfl
@[simp] theorem setCard_queues (s : State) (k : Card) : (s.setCard k).queues = s.queues := rfl
@[simp] theorem setCard_recorders (s : State) (k : Card) : (s.setCard k).recorders = s.recorders := rfl
@[simp] theorem setCard_lastQueue (s : State) (k : Card) : (s.setCard k).lastQueue = s.lastQueue := rfl
@[simp] theorem setCard_launches (s : State) (k : Card) : (s.setCard k).launches = s.launches := rfl
@[simp] theorem setCard_launchSeq (s : State) (k : Card) : (s.setCard k).launchSeq = s.launchSeq := rfl
@[simp] theorem setCard_pool (s : State) (k : Card) : (s.setCard k).pool = s.pool := rfl
@[simp] theorem setCard_tenants (s : State) (k : Card) : (s.setCard k).tenants = s.tenants := rfl
@[simp] theorem setCard_regs (s : State) (k : Card) : (s.setCard k).regs = s.regs := rfl
@[simp] theorem setCard_areas (s : State) (k : Card) : (s.setCard k).areas = s.areas := rfl
@[simp] theorem setCard_fq (s : State) (k : Card) : (s.setCard k).fq = s.fq := rfl
@[simp] theorem setCard_faults (s : State) (k : Card) : (s.setCard k).faults = s.faults := rfl
@[simp] theorem setCard_faultSeq (s : State) (k : Card) : (s.setCard k).faultSeq = s.faultSeq := rfl
@[simp] theorem setCard_er (s : State) (k : Card) : (s.setCard k).er = s.er := rfl
@[simp] theorem setCard_errs (s : State) (k : Card) : (s.setCard k).errs = s.errs := rfl
@[simp] theorem setCard_cardSeq (s : State) (k : Card) : (s.setCard k).cardSeq = s.cardSeq := rfl
@[simp] theorem setCard_redCtxs (s : State) (k : Card) : (s.setCard k).redCtxs = s.redCtxs := rfl
@[simp] theorem setCard_claims (s : State) (k : Card) : (s.setCard k).claims = s.claims := rfl
@[simp] theorem setCard_staged (s : State) (k : Card) : (s.setCard k).staged = s.staged := rfl
@[simp] theorem setCard_arbNext (s : State) (k : Card) : (s.setCard k).arbNext = s.arbNext := rfl
@[simp] theorem setCard_ringFills (s : State) (k : Card) : (s.setCard k).ringFills = s.ringFills := rfl
@[simp] theorem setCard_journals (s : State) (k : Card) : (s.setCard k).journals = s.journals := rfl
@[simp] theorem setCard_arbLast (s : State) (k : Card) : (s.setCard k).arbLast = s.arbLast := rfl
@[simp] theorem setCard_stagingUsed (s : State) (k : Card) : (s.setCard k).stagingUsed = s.stagingUsed := rfl
@[simp] theorem setCard_opens (s : State) (k : Card) : (s.setCard k).opens = s.opens := rfl
@[simp] theorem setCard_bindings (s : State) (k : Card) : (s.setCard k).bindings = s.bindings := rfl
@[simp] theorem setCard_inbox (s : State) (k : Card) : (s.setCard k).inbox = s.inbox := rfl
@[simp] theorem setCard_journalHeld (s : State) (k : Card) : (s.setCard k).journalHeld = s.journalHeld := rfl
@[simp] theorem setCard_applied (s : State) (k : Card) : (s.setCard k).applied = s.applied := rfl
@[simp] theorem setCard_remote (s : State) (k : Card) : (s.setCard k).remote = s.remote := rfl
@[simp] theorem setCard_remoteSeq (s : State) (k : Card) : (s.setCard k).remoteSeq = s.remoteSeq := rfl
@[simp] theorem setCard_outbox (s : State) (k : Card) : (s.setCard k).outbox = s.outbox := rfl
@[simp] theorem setCard_ports (s : State) (k : Card) : (s.setCard k).ports = s.ports := rfl
@[simp] theorem setCard_routes (s : State) (k : Card) : (s.setCard k).routes = s.routes := rfl
@[simp] theorem setCard_power (s : State) (k : Card) : (s.setCard k).power = s.power := rfl
@[simp] theorem setCard_boot (s : State) (k : Card) : (s.setCard k).boot = s.boot := rfl
@[simp] theorem setCard_msis (s : State) (k : Card) : (s.setCard k).msis = s.msis := rfl
@[simp] theorem setCard_agenda (s : State) (k : Card) : (s.setCard k).agenda = s.agenda := rfl
@[simp] theorem setCard_fresh (s : State) (k : Card) : (s.setCard k).fresh = s.fresh := rfl
@[simp] theorem setCard_nextEpoch (s : State) (k : Card) : (s.setCard k).nextEpoch = s.nextEpoch := rfl
@[simp] theorem setCard_nextExam (s : State) (k : Card) : (s.setCard k).nextExam = s.nextExam := rfl
@[simp] theorem setCard_nextPower (s : State) (k : Card) : (s.setCard k).nextPower = s.nextPower := rfl

@[simp] theorem crew_setCrew (s : State) (n : Nat) (c : Crew) : (s.setCrew n c).crew n = c := sget_sput_self _ _ _ _
theorem crew_setCrew_ne (s : State) (n m : Nat) (c : Crew) (h : m ≠ n) : (s.setCrew n c).crew m = s.crew m := sget_sput_ne _ _ _ _ _ h
@[simp] theorem cu_setCu (s : State) (n : Nat) (c : Cu) : (s.setCu n c).cu n = c := sget_sput_self _ _ _ _
theorem cu_setCu_ne (s : State) (n m : Nat) (c : Cu) (h : m ≠ n) : (s.setCu n c).cu m = s.cu m := sget_sput_ne _ _ _ _ _ h
@[simp] theorem tenant_setTenant (s : State) (n : Nat) (c : Tenant) : (s.setTenant n c).tenant n = c := sget_sput_self _ _ _ _
theorem tenant_setTenant_ne (s : State) (n m : Nat) (c : Tenant) (h : m ≠ n) : (s.setTenant n c).tenant m = s.tenant m := sget_sput_ne _ _ _ _ _ h
@[simp] theorem queue_setQueue (s : State) (n : Nat) (c : Queue) : (s.setQueue n c).queue n = c := sget_sput_self _ _ _ _
theorem queue_setQueue_ne (s : State) (n m : Nat) (c : Queue) (h : m ≠ n) : (s.setQueue n c).queue m = s.queue m := sget_sput_ne _ _ _ _ _ h
@[simp] theorem port_setPort (s : State) (n : Nat) (c : Port) : (s.setPort n c).port n = c := sget_sput_self _ _ _ _
theorem port_setPort_ne (s : State) (n m : Nat) (c : Port) (h : m ≠ n) : (s.setPort n c).port m = s.port m := sget_sput_ne _ _ _ _ _ h
@[simp] theorem cu_of_setCrew (s : State) (n : Nat) (c : Crew) (m : Nat) : (s.setCrew n c).cu m = s.cu m := rfl
@[simp] theorem tenant_of_setCrew (s : State) (n : Nat) (c : Crew) (m : Nat) : (s.setCrew n c).tenant m = s.tenant m := rfl
@[simp] theorem queue_of_setCrew (s : State) (n : Nat) (c : Crew) (m : Nat) : (s.setCrew n c).queue m = s.queue m := rfl
@[simp] theorem port_of_setCrew (s : State) (n : Nat) (c : Crew) (m : Nat) : (s.setCrew n c).port m = s.port m := rfl
@[simp] theorem crew_of_setCu (s : State) (n : Nat) (c : Cu) (m : Nat) : (s.setCu n c).crew m = s.crew m := rfl
@[simp] theorem tenant_of_setCu (s : State) (n : Nat) (c : Cu) (m : Nat) : (s.setCu n c).tenant m = s.tenant m := rfl
@[simp] theorem queue_of_setCu (s : State) (n : Nat) (c : Cu) (m : Nat) : (s.setCu n c).queue m = s.queue m := rfl
@[simp] theorem port_of_setCu (s : State) (n : Nat) (c : Cu) (m : Nat) : (s.setCu n c).port m = s.port m := rfl
@[simp] theorem crew_of_setTenant (s : State) (n : Nat) (t : Tenant) (m : Nat) : (s.setTenant n t).crew m = s.crew m := rfl
@[simp] theorem cu_of_setTenant (s : State) (n : Nat) (t : Tenant) (m : Nat) : (s.setTenant n t).cu m = s.cu m := rfl
@[simp] theorem queue_of_setTenant (s : State) (n : Nat) (t : Tenant) (m : Nat) : (s.setTenant n t).queue m = s.queue m := rfl
@[simp] theorem port_of_setTenant (s : State) (n : Nat) (t : Tenant) (m : Nat) : (s.setTenant n t).port m = s.port m := rfl
@[simp] theorem crew_of_setQueue (s : State) (n : Nat) (q : Queue) (m : Nat) : (s.setQueue n q).crew m = s.crew m := rfl
@[simp] theorem cu_of_setQueue (s : State) (n : Nat) (q : Queue) (m : Nat) : (s.setQueue n q).cu m = s.cu m := rfl
@[simp] theorem tenant_of_setQueue (s : State) (n : Nat) (q : Queue) (m : Nat) : (s.setQueue n q).tenant m = s.tenant m := rfl
@[simp] theorem port_of_setQueue (s : State) (n : Nat) (q : Queue) (m : Nat) : (s.setQueue n q).port m = s.port m := rfl
@[simp] theorem crew_of_setPort (s : State) (n : Nat) (p : Port) (m : Nat) : (s.setPort n p).crew m = s.crew m := rfl
@[simp] theorem cu_of_setPort (s : State) (n : Nat) (p : Port) (m : Nat) : (s.setPort n p).cu m = s.cu m := rfl
@[simp] theorem tenant_of_setPort (s : State) (n : Nat) (p : Port) (m : Nat) : (s.setPort n p).tenant m = s.tenant m := rfl
@[simp] theorem queue_of_setPort (s : State) (n : Nat) (p : Port) (m : Nat) : (s.setPort n p).queue m = s.queue m := rfl
@[simp] theorem cu_of_setMyCrew (s : State) (c : Crew) (m : Nat) : (s.setMyCrew c).cu m = s.cu m := rfl
@[simp] theorem tenant_of_setMyCrew (s : State) (c : Crew) (m : Nat) : (s.setMyCrew c).tenant m = s.tenant m := rfl
@[simp] theorem queue_of_setMyCrew (s : State) (c : Crew) (m : Nat) : (s.setMyCrew c).queue m = s.queue m := rfl
@[simp] theorem port_of_setMyCrew (s : State) (c : Crew) (m : Nat) : (s.setMyCrew c).port m = s.port m := rfl
@[simp] theorem cu_of_setMe (s : State) (x : Strand) (m : Nat) : (s.setMe x).cu m = s.cu m := rfl
@[simp] theorem tenant_of_setMe (s : State) (x : Strand) (m : Nat) : (s.setMe x).tenant m = s.tenant m := rfl
@[simp] theorem queue_of_setMe (s : State) (x : Strand) (m : Nat) : (s.setMe x).queue m = s.queue m := rfl
@[simp] theorem port_of_setMe (s : State) (x : Strand) (m : Nat) : (s.setMe x).port m = s.port m := rfl
@[simp] theorem cu_of_setStrand (s : State) (n : Nat) (k : StrandKind) (x : Strand) (m : Nat) : (s.setStrand n k x).cu m = s.cu m := rfl
@[simp] theorem tenant_of_setStrand (s : State) (n : Nat) (k : StrandKind) (x : Strand) (m : Nat) : (s.setStrand n k x).tenant m = s.tenant m := rfl
@[simp] theorem queue_of_setStrand (s : State) (n : Nat) (k : StrandKind) (x : Strand) (m : Nat) : (s.setStrand n k x).queue m = s.queue m := rfl
@[simp] theorem port_of_setStrand (s : State) (n : Nat) (k : StrandKind) (x : Strand) (m : Nat) : (s.setStrand n k x).port m = s.port m := rfl
@[simp] theorem crew_of_setLaunch (s : State) (l : Launch) (m : Nat) : (s.setLaunch l).crew m = s.crew m := rfl
@[simp] theorem cu_of_setLaunch (s : State) (l : Launch) (m : Nat) : (s.setLaunch l).cu m = s.cu m := rfl
@[simp] theorem tenant_of_setLaunch (s : State) (l : Launch) (m : Nat) : (s.setLaunch l).tenant m = s.tenant m := rfl
@[simp] theorem queue_of_setLaunch (s : State) (l : Launch) (m : Nat) : (s.setLaunch l).queue m = s.queue m := rfl
@[simp] theorem port_of_setLaunch (s : State) (l : Launch) (m : Nat) : (s.setLaunch l).port m = s.port m := rfl
@[simp] theorem cu_of_setOp (s : State) (n : Nat) (o : AsyncOp) (m : Nat) : (s.setOp n o).cu m = s.cu m := rfl
@[simp] theorem tenant_of_setOp (s : State) (n : Nat) (o : AsyncOp) (m : Nat) : (s.setOp n o).tenant m = s.tenant m := rfl
@[simp] theorem queue_of_setOp (s : State) (n : Nat) (o : AsyncOp) (m : Nat) : (s.setOp n o).queue m = s.queue m := rfl
@[simp] theorem port_of_setOp (s : State) (n : Nat) (o : AsyncOp) (m : Nat) : (s.setOp n o).port m = s.port m := rfl
@[simp] theorem crew_of_setCard (s : State) (k : Card) (m : Nat) : (s.setCard k).crew m = s.crew m := rfl
@[simp] theorem cu_of_setCard (s : State) (k : Card) (m : Nat) : (s.setCard k).cu m = s.cu m := rfl
@[simp] theorem tenant_of_setCard (s : State) (k : Card) (m : Nat) : (s.setCard k).tenant m = s.tenant m := rfl
@[simp] theorem queue_of_setCard (s : State) (k : Card) (m : Nat) : (s.setCard k).queue m = s.queue m := rfl
@[simp] theorem port_of_setCard (s : State) (k : Card) (m : Nat) : (s.setCard k).port m = s.port m := rfl

@[simp] theorem myCrew_setMyCrew (s : State) (c : Crew) : (s.setMyCrew c).myCrew = c := sget_sput_self _ _ _ _
@[simp] theorem str_setStr (c : Crew) (k : StrandKind) (x : Strand) : (c.setStr k x).str k = x := by cases k <;> rfl
theorem str_setStr_ne (c : Crew) (k j : StrandKind) (x : Strand) (h : j ≠ k) : (c.setStr k x).str j = c.str j := by
  cases k <;> cases j <;> first | rfl | exact absurd rfl h
@[simp] theorem me_setMe (s : State) (x : Strand) : (s.setMe x).me = x := by
  simp [State.me, State.setMe]
@[simp] theorem setMyCrew_crew (s : State) (c : Crew) : (s.setMyCrew c).crew s.cur.1 = c := sget_sput_self _ _ _ _
theorem setMyCrew_crew_ne (s : State) (c : Crew) (m : Nat) (h : m ≠ s.cur.1) : (s.setMyCrew c).crew m = s.crew m :=
  sget_sput_ne _ _ _ _ _ h
theorem setMe_crew_ne (s : State) (x : Strand) (m : Nat) (h : m ≠ s.cur.1) : (s.setMe x).crew m = s.crew m :=
  sget_sput_ne _ _ _ _ _ h
theorem setMe_myCrew (s : State) (x : Strand) : (s.setMe x).myCrew = s.myCrew.setStr s.cur.2 x := sget_sput_self _ _ _ _
theorem setMyCrew_me (s : State) (c : Crew) : (s.setMyCrew c).me = c.str s.cur.2 := by simp [State.me]

/-! ## Crews -/

@[simp] theorem setStr_ctx (c : Crew) (k : StrandKind) (x : Strand) : (c.setStr k x).ctx = c.ctx := by cases k <;> rfl
@[simp] theorem setStr_owner (c : Crew) (k : StrandKind) (x : Strand) : (c.setStr k x).owner = c.owner := by cases k <;> rfl
@[simp] theorem setStr_zeroing (c : Crew) (k : StrandKind) (x : Strand) : (c.setStr k x).zeroing = c.zeroing := by cases k <;> rfl
@[simp] theorem setStr_tiles (c : Crew) (k : StrandKind) (x : Strand) : (c.setStr k x).tiles = c.tiles := by cases k <;> rfl
@[simp] theorem setStr_fe (c : Crew) (k : StrandKind) (x : Strand) : (c.setStr k x).fe = c.fe := by cases k <;> rfl
@[simp] theorem setStr_qs (c : Crew) (k : StrandKind) (x : Strand) : (c.setStr k x).qs = c.qs := by cases k <;> rfl
@[simp] theorem setStr_qfe (c : Crew) (k : StrandKind) (x : Strand) : (c.setStr k x).qfe = c.qfe := by cases k <;> rfl
@[simp] theorem setStr_tokens (c : Crew) (k : StrandKind) (x : Strand) : (c.setStr k x).tokens = c.tokens := by cases k <;> rfl
@[simp] theorem setStr_pendTok (c : Crew) (k : StrandKind) (x : Strand) : (c.setStr k x).pendTok = c.pendTok := by cases k <;> rfl
@[simp] theorem setStr_ring (c : Crew) (k : StrandKind) (x : Strand) : (c.setStr k x).ring = c.ring := by cases k <;> rfl
@[simp] theorem setStr_astat (c : Crew) (k : StrandKind) (x : Strand) : (c.setStr k x).astat = c.astat := by cases k <;> rfl
@[simp] theorem setStr_astatNow (c : Crew) (k : StrandKind) (x : Strand) : (c.setStr k x).astatNow = c.astatNow := by cases k <;> rfl
@[simp] theorem setStr_energy (c : Crew) (k : StrandKind) (x : Strand) : (c.setStr k x).energy = c.energy := by cases k <;> rfl
@[simp] theorem setStr_kperm (c : Crew) (k : StrandKind) (x : Strand) : (c.setStr k x).kperm = c.kperm := by cases k <;> rfl
@[simp] theorem setStr_acctbase (c : Crew) (k : StrandKind) (x : Strand) : (c.setStr k x).acctbase = c.acctbase := by cases k <;> rfl
@[simp] theorem setStr_bank (c : Crew) (k : StrandKind) (x : Strand) : (c.setStr k x).bank = c.bank := by cases k <;> rfl
@[simp] theorem setStr_recCount (c : Crew) (k : StrandKind) (x : Strand) : (c.setStr k x).recCount = c.recCount := by cases k <;> rfl
@[simp] theorem setStr_snapCount (c : Crew) (k : StrandKind) (x : Strand) : (c.setStr k x).snapCount = c.snapCount := by cases k <;> rfl
@[simp] theorem setStr_acctStatus (c : Crew) (k : StrandKind) (x : Strand) : (c.setStr k x).acctStatus = c.acctStatus := by cases k <;> rfl
@[simp] theorem setStr_evicted (c : Crew) (k : StrandKind) (x : Strand) : (c.setStr k x).evicted = c.evicted := by cases k <;> rfl
@[simp] theorem setStr_snaps (c : Crew) (k : StrandKind) (x : Strand) : (c.setStr k x).snaps = c.snaps := by cases k <;> rfl
@[simp] theorem setStr_seq (c : Crew) (k : StrandKind) (x : Strand) : (c.setStr k x).seq = c.seq := by cases k <;> rfl
@[simp] theorem setStr_excused (c : Crew) (k : StrandKind) (x : Strand) : (c.setStr k x).excused = c.excused := by cases k <;> rfl
@[simp] theorem setStr_grouped (c : Crew) (k : StrandKind) (x : Strand) : (c.setStr k x).grouped = c.grouped := by cases k <;> rfl
@[simp] theorem setStr_inflight (c : Crew) (k : StrandKind) (x : Strand) : (c.setStr k x).inflight = c.inflight := by cases k <;> rfl
@[simp] theorem setStr_ops (c : Crew) (k : StrandKind) (x : Strand) : (c.setStr k x).ops = c.ops := by cases k <;> rfl
@[simp] theorem setStr_promises (c : Crew) (k : StrandKind) (x : Strand) : (c.setStr k x).promises = c.promises := by cases k <;> rfl
@[simp] theorem setStr_leased (c : Crew) (k : StrandKind) (x : Strand) : (c.setStr k x).leased = c.leased := by cases k <;> rfl
@[simp] theorem setStr_mark (c : Crew) (k : StrandKind) (x : Strand) : (c.setStr k x).mark = c.mark := by cases k <;> rfl
@[simp] theorem setStr_markKept (c : Crew) (k : StrandKind) (x : Strand) : (c.setStr k x).markKept = c.markKept := by cases k <;> rfl
@[simp] theorem setStr_killed (c : Crew) (k : StrandKind) (x : Strand) : (c.setStr k x).killed = c.killed := by cases k <;> rfl
@[simp] theorem setStr_starting (c : Crew) (k : StrandKind) (x : Strand) : (c.setStr k x).starting = c.starting := by cases k <;> rfl
@[simp] theorem setStr_preloadBad (c : Crew) (k : StrandKind) (x : Strand) : (c.setStr k x).preloadBad = c.preloadBad := by cases k <;> rfl
@[simp] theorem setRow_ctx (c : Crew) (t r : Nat) (v : Row) : (c.setRow t r v).ctx = c.ctx := rfl
@[simp] theorem setRow_owner (c : Crew) (t r : Nat) (v : Row) : (c.setRow t r v).owner = c.owner := rfl
@[simp] theorem setRow_zeroing (c : Crew) (t r : Nat) (v : Row) : (c.setRow t r v).zeroing = c.zeroing := rfl
@[simp] theorem setRow_ss (c : Crew) (t r : Nat) (v : Row) : (c.setRow t r v).ss = c.ss := rfl
@[simp] theorem setRow_sv (c : Crew) (t r : Nat) (v : Row) : (c.setRow t r v).sv = c.sv := rfl
@[simp] theorem setRow_sm (c : Crew) (t r : Nat) (v : Row) : (c.setRow t r v).sm = c.sm := rfl
@[simp] theorem setRow_sc (c : Crew) (t r : Nat) (v : Row) : (c.setRow t r v).sc = c.sc := rfl
@[simp] theorem setRow_fe (c : Crew) (t r : Nat) (v : Row) : (c.setRow t r v).fe = c.fe := rfl
@[simp] theorem setRow_qs (c : Crew) (t r : Nat) (v : Row) : (c.setRow t r v).qs = c.qs := rfl
@[simp] theorem setRow_qfe (c : Crew) (t r : Nat) (v : Row) : (c.setRow t r v).qfe = c.qfe := rfl
@[simp] theorem setRow_tokens (c : Crew) (t r : Nat) (v : Row) : (c.setRow t r v).tokens = c.tokens := rfl
@[simp] theorem setRow_pendTok (c : Crew) (t r : Nat) (v : Row) : (c.setRow t r v).pendTok = c.pendTok := rfl
@[simp] theorem setRow_ring (c : Crew) (t r : Nat) (v : Row) : (c.setRow t r v).ring = c.ring := rfl
@[simp] theorem setRow_astat (c : Crew) (t r : Nat) (v : Row) : (c.setRow t r v).astat = c.astat := rfl
@[simp] theorem setRow_astatNow (c : Crew) (t r : Nat) (v : Row) : (c.setRow t r v).astatNow = c.astatNow := rfl
@[simp] theorem setRow_energy (c : Crew) (t r : Nat) (v : Row) : (c.setRow t r v).energy = c.energy := rfl
@[simp] theorem setRow_kperm (c : Crew) (t r : Nat) (v : Row) : (c.setRow t r v).kperm = c.kperm := rfl
@[simp] theorem setRow_acctbase (c : Crew) (t r : Nat) (v : Row) : (c.setRow t r v).acctbase = c.acctbase := rfl
@[simp] theorem setRow_bank (c : Crew) (t r : Nat) (v : Row) : (c.setRow t r v).bank = c.bank := rfl
@[simp] theorem setRow_recCount (c : Crew) (t r : Nat) (v : Row) : (c.setRow t r v).recCount = c.recCount := rfl
@[simp] theorem setRow_snapCount (c : Crew) (t r : Nat) (v : Row) : (c.setRow t r v).snapCount = c.snapCount := rfl
@[simp] theorem setRow_acctStatus (c : Crew) (t r : Nat) (v : Row) : (c.setRow t r v).acctStatus = c.acctStatus := rfl
@[simp] theorem setRow_evicted (c : Crew) (t r : Nat) (v : Row) : (c.setRow t r v).evicted = c.evicted := rfl
@[simp] theorem setRow_snaps (c : Crew) (t r : Nat) (v : Row) : (c.setRow t r v).snaps = c.snaps := rfl
@[simp] theorem setRow_seq (c : Crew) (t r : Nat) (v : Row) : (c.setRow t r v).seq = c.seq := rfl
@[simp] theorem setRow_excused (c : Crew) (t r : Nat) (v : Row) : (c.setRow t r v).excused = c.excused := rfl
@[simp] theorem setRow_grouped (c : Crew) (t r : Nat) (v : Row) : (c.setRow t r v).grouped = c.grouped := rfl
@[simp] theorem setRow_inflight (c : Crew) (t r : Nat) (v : Row) : (c.setRow t r v).inflight = c.inflight := rfl
@[simp] theorem setRow_ops (c : Crew) (t r : Nat) (v : Row) : (c.setRow t r v).ops = c.ops := rfl
@[simp] theorem setRow_promises (c : Crew) (t r : Nat) (v : Row) : (c.setRow t r v).promises = c.promises := rfl
@[simp] theorem setRow_leased (c : Crew) (t r : Nat) (v : Row) : (c.setRow t r v).leased = c.leased := rfl
@[simp] theorem setRow_mark (c : Crew) (t r : Nat) (v : Row) : (c.setRow t r v).mark = c.mark := rfl
@[simp] theorem setRow_markKept (c : Crew) (t r : Nat) (v : Row) : (c.setRow t r v).markKept = c.markKept := rfl
@[simp] theorem setRow_killed (c : Crew) (t r : Nat) (v : Row) : (c.setRow t r v).killed = c.killed := rfl
@[simp] theorem setRow_starting (c : Crew) (t r : Nat) (v : Row) : (c.setRow t r v).starting = c.starting := rfl
@[simp] theorem setRow_preloadBad (c : Crew) (t r : Nat) (v : Row) : (c.setRow t r v).preloadBad = c.preloadBad := rfl
@[simp] theorem setFe_ctx (c : Crew) (i : Nat) (f : Fe) : (c.setFe i f).ctx = c.ctx := by unfold Crew.setFe; split; rfl; split <;> rfl
@[simp] theorem setFe_owner (c : Crew) (i : Nat) (f : Fe) : (c.setFe i f).owner = c.owner := by unfold Crew.setFe; split; rfl; split <;> rfl
@[simp] theorem setFe_zeroing (c : Crew) (i : Nat) (f : Fe) : (c.setFe i f).zeroing = c.zeroing := by unfold Crew.setFe; split; rfl; split <;> rfl
@[simp] theorem setFe_ss (c : Crew) (i : Nat) (f : Fe) : (c.setFe i f).ss = c.ss := by unfold Crew.setFe; split; rfl; split <;> rfl
@[simp] theorem setFe_sv (c : Crew) (i : Nat) (f : Fe) : (c.setFe i f).sv = c.sv := by unfold Crew.setFe; split; rfl; split <;> rfl
@[simp] theorem setFe_sm (c : Crew) (i : Nat) (f : Fe) : (c.setFe i f).sm = c.sm := by unfold Crew.setFe; split; rfl; split <;> rfl
@[simp] theorem setFe_sc (c : Crew) (i : Nat) (f : Fe) : (c.setFe i f).sc = c.sc := by unfold Crew.setFe; split; rfl; split <;> rfl
@[simp] theorem setFe_tiles (c : Crew) (i : Nat) (f : Fe) : (c.setFe i f).tiles = c.tiles := by unfold Crew.setFe; split; rfl; split <;> rfl
@[simp] theorem setFe_qs (c : Crew) (i : Nat) (f : Fe) : (c.setFe i f).qs = c.qs := by unfold Crew.setFe; split; rfl; split <;> rfl
@[simp] theorem setFe_tokens (c : Crew) (i : Nat) (f : Fe) : (c.setFe i f).tokens = c.tokens := by unfold Crew.setFe; split; rfl; split <;> rfl
@[simp] theorem setFe_pendTok (c : Crew) (i : Nat) (f : Fe) : (c.setFe i f).pendTok = c.pendTok := by unfold Crew.setFe; split; rfl; split <;> rfl
@[simp] theorem setFe_ring (c : Crew) (i : Nat) (f : Fe) : (c.setFe i f).ring = c.ring := by unfold Crew.setFe; split; rfl; split <;> rfl
@[simp] theorem setFe_astat (c : Crew) (i : Nat) (f : Fe) : (c.setFe i f).astat = c.astat := by unfold Crew.setFe; split; rfl; split <;> rfl
@[simp] theorem setFe_astatNow (c : Crew) (i : Nat) (f : Fe) : (c.setFe i f).astatNow = c.astatNow := by unfold Crew.setFe; split; rfl; split <;> rfl
@[simp] theorem setFe_energy (c : Crew) (i : Nat) (f : Fe) : (c.setFe i f).energy = c.energy := by unfold Crew.setFe; split; rfl; split <;> rfl
@[simp] theorem setFe_kperm (c : Crew) (i : Nat) (f : Fe) : (c.setFe i f).kperm = c.kperm := by unfold Crew.setFe; split; rfl; split <;> rfl
@[simp] theorem setFe_acctbase (c : Crew) (i : Nat) (f : Fe) : (c.setFe i f).acctbase = c.acctbase := by unfold Crew.setFe; split; rfl; split <;> rfl
@[simp] theorem setFe_bank (c : Crew) (i : Nat) (f : Fe) : (c.setFe i f).bank = c.bank := by unfold Crew.setFe; split; rfl; split <;> rfl
@[simp] theorem setFe_recCount (c : Crew) (i : Nat) (f : Fe) : (c.setFe i f).recCount = c.recCount := by unfold Crew.setFe; split; rfl; split <;> rfl
@[simp] theorem setFe_snapCount (c : Crew) (i : Nat) (f : Fe) : (c.setFe i f).snapCount = c.snapCount := by unfold Crew.setFe; split; rfl; split <;> rfl
@[simp] theorem setFe_acctStatus (c : Crew) (i : Nat) (f : Fe) : (c.setFe i f).acctStatus = c.acctStatus := by unfold Crew.setFe; split; rfl; split <;> rfl
@[simp] theorem setFe_evicted (c : Crew) (i : Nat) (f : Fe) : (c.setFe i f).evicted = c.evicted := by unfold Crew.setFe; split; rfl; split <;> rfl
@[simp] theorem setFe_snaps (c : Crew) (i : Nat) (f : Fe) : (c.setFe i f).snaps = c.snaps := by unfold Crew.setFe; split; rfl; split <;> rfl
@[simp] theorem setFe_seq (c : Crew) (i : Nat) (f : Fe) : (c.setFe i f).seq = c.seq := by unfold Crew.setFe; split; rfl; split <;> rfl
@[simp] theorem setFe_excused (c : Crew) (i : Nat) (f : Fe) : (c.setFe i f).excused = c.excused := by unfold Crew.setFe; split; rfl; split <;> rfl
@[simp] theorem setFe_grouped (c : Crew) (i : Nat) (f : Fe) : (c.setFe i f).grouped = c.grouped := by unfold Crew.setFe; split; rfl; split <;> rfl
@[simp] theorem setFe_inflight (c : Crew) (i : Nat) (f : Fe) : (c.setFe i f).inflight = c.inflight := by unfold Crew.setFe; split; rfl; split <;> rfl
@[simp] theorem setFe_ops (c : Crew) (i : Nat) (f : Fe) : (c.setFe i f).ops = c.ops := by unfold Crew.setFe; split; rfl; split <;> rfl
@[simp] theorem setFe_promises (c : Crew) (i : Nat) (f : Fe) : (c.setFe i f).promises = c.promises := by unfold Crew.setFe; split; rfl; split <;> rfl
@[simp] theorem setFe_leased (c : Crew) (i : Nat) (f : Fe) : (c.setFe i f).leased = c.leased := by unfold Crew.setFe; split; rfl; split <;> rfl
@[simp] theorem setFe_mark (c : Crew) (i : Nat) (f : Fe) : (c.setFe i f).mark = c.mark := by unfold Crew.setFe; split; rfl; split <;> rfl
@[simp] theorem setFe_markKept (c : Crew) (i : Nat) (f : Fe) : (c.setFe i f).markKept = c.markKept := by unfold Crew.setFe; split; rfl; split <;> rfl
@[simp] theorem setFe_killed (c : Crew) (i : Nat) (f : Fe) : (c.setFe i f).killed = c.killed := by unfold Crew.setFe; split; rfl; split <;> rfl
@[simp] theorem setFe_starting (c : Crew) (i : Nat) (f : Fe) : (c.setFe i f).starting = c.starting := by unfold Crew.setFe; split; rfl; split <;> rfl
@[simp] theorem setFe_preloadBad (c : Crew) (i : Nat) (f : Fe) : (c.setFe i f).preloadBad = c.preloadBad := by unfold Crew.setFe; split; rfl; split <;> rfl
@[simp] theorem setTok_ctx (c : Crew) (i n : Nat) : (c.setTok i n).ctx = c.ctx := by unfold Crew.setTok; split <;> rfl
@[simp] theorem setTok_owner (c : Crew) (i n : Nat) : (c.setTok i n).owner = c.owner := by unfold Crew.setTok; split <;> rfl
@[simp] theorem setTok_zeroing (c : Crew) (i n : Nat) : (c.setTok i n).zeroing = c.zeroing := by unfold Crew.setTok; split <;> rfl
@[simp] theorem setTok_ss (c : Crew) (i n : Nat) : (c.setTok i n).ss = c.ss := by unfold Crew.setTok; split <;> rfl
@[simp] theorem setTok_sv (c : Crew) (i n : Nat) : (c.setTok i n).sv = c.sv := by unfold Crew.setTok; split <;> rfl
@[simp] theorem setTok_sm (c : Crew) (i n : Nat) : (c.setTok i n).sm = c.sm := by unfold Crew.setTok; split <;> rfl
@[simp] theorem setTok_sc (c : Crew) (i n : Nat) : (c.setTok i n).sc = c.sc := by unfold Crew.setTok; split <;> rfl
@[simp] theorem setTok_tiles (c : Crew) (i n : Nat) : (c.setTok i n).tiles = c.tiles := by unfold Crew.setTok; split <;> rfl
@[simp] theorem setTok_fe (c : Crew) (i n : Nat) : (c.setTok i n).fe = c.fe := by unfold Crew.setTok; split <;> rfl
@[simp] theorem setTok_qs (c : Crew) (i n : Nat) : (c.setTok i n).qs = c.qs := by unfold Crew.setTok; split <;> rfl
@[simp] theorem setTok_qfe (c : Crew) (i n : Nat) : (c.setTok i n).qfe = c.qfe := by unfold Crew.setTok; split <;> rfl
@[simp] theorem setTok_pendTok (c : Crew) (i n : Nat) : (c.setTok i n).pendTok = c.pendTok := by unfold Crew.setTok; split <;> rfl
@[simp] theorem setTok_ring (c : Crew) (i n : Nat) : (c.setTok i n).ring = c.ring := by unfold Crew.setTok; split <;> rfl
@[simp] theorem setTok_astat (c : Crew) (i n : Nat) : (c.setTok i n).astat = c.astat := by unfold Crew.setTok; split <;> rfl
@[simp] theorem setTok_astatNow (c : Crew) (i n : Nat) : (c.setTok i n).astatNow = c.astatNow := by unfold Crew.setTok; split <;> rfl
@[simp] theorem setTok_energy (c : Crew) (i n : Nat) : (c.setTok i n).energy = c.energy := by unfold Crew.setTok; split <;> rfl
@[simp] theorem setTok_kperm (c : Crew) (i n : Nat) : (c.setTok i n).kperm = c.kperm := by unfold Crew.setTok; split <;> rfl
@[simp] theorem setTok_acctbase (c : Crew) (i n : Nat) : (c.setTok i n).acctbase = c.acctbase := by unfold Crew.setTok; split <;> rfl
@[simp] theorem setTok_bank (c : Crew) (i n : Nat) : (c.setTok i n).bank = c.bank := by unfold Crew.setTok; split <;> rfl
@[simp] theorem setTok_recCount (c : Crew) (i n : Nat) : (c.setTok i n).recCount = c.recCount := by unfold Crew.setTok; split <;> rfl
@[simp] theorem setTok_snapCount (c : Crew) (i n : Nat) : (c.setTok i n).snapCount = c.snapCount := by unfold Crew.setTok; split <;> rfl
@[simp] theorem setTok_acctStatus (c : Crew) (i n : Nat) : (c.setTok i n).acctStatus = c.acctStatus := by unfold Crew.setTok; split <;> rfl
@[simp] theorem setTok_evicted (c : Crew) (i n : Nat) : (c.setTok i n).evicted = c.evicted := by unfold Crew.setTok; split <;> rfl
@[simp] theorem setTok_snaps (c : Crew) (i n : Nat) : (c.setTok i n).snaps = c.snaps := by unfold Crew.setTok; split <;> rfl
@[simp] theorem setTok_seq (c : Crew) (i n : Nat) : (c.setTok i n).seq = c.seq := by unfold Crew.setTok; split <;> rfl
@[simp] theorem setTok_excused (c : Crew) (i n : Nat) : (c.setTok i n).excused = c.excused := by unfold Crew.setTok; split <;> rfl
@[simp] theorem setTok_grouped (c : Crew) (i n : Nat) : (c.setTok i n).grouped = c.grouped := by unfold Crew.setTok; split <;> rfl
@[simp] theorem setTok_inflight (c : Crew) (i n : Nat) : (c.setTok i n).inflight = c.inflight := by unfold Crew.setTok; split <;> rfl
@[simp] theorem setTok_ops (c : Crew) (i n : Nat) : (c.setTok i n).ops = c.ops := by unfold Crew.setTok; split <;> rfl
@[simp] theorem setTok_promises (c : Crew) (i n : Nat) : (c.setTok i n).promises = c.promises := by unfold Crew.setTok; split <;> rfl
@[simp] theorem setTok_leased (c : Crew) (i n : Nat) : (c.setTok i n).leased = c.leased := by unfold Crew.setTok; split <;> rfl
@[simp] theorem setTok_mark (c : Crew) (i n : Nat) : (c.setTok i n).mark = c.mark := by unfold Crew.setTok; split <;> rfl
@[simp] theorem setTok_markKept (c : Crew) (i n : Nat) : (c.setTok i n).markKept = c.markKept := by unfold Crew.setTok; split <;> rfl
@[simp] theorem setTok_killed (c : Crew) (i n : Nat) : (c.setTok i n).killed = c.killed := by unfold Crew.setTok; split <;> rfl
@[simp] theorem setTok_starting (c : Crew) (i n : Nat) : (c.setTok i n).starting = c.starting := by unfold Crew.setTok; split <;> rfl
@[simp] theorem setTok_preloadBad (c : Crew) (i n : Nat) : (c.setTok i n).preloadBad = c.preloadBad := by unfold Crew.setTok; split <;> rfl
@[simp] theorem setPend_ctx (c : Crew) (i n : Nat) : (c.setPend i n).ctx = c.ctx := by unfold Crew.setPend; split <;> rfl
@[simp] theorem setPend_owner (c : Crew) (i n : Nat) : (c.setPend i n).owner = c.owner := by unfold Crew.setPend; split <;> rfl
@[simp] theorem setPend_zeroing (c : Crew) (i n : Nat) : (c.setPend i n).zeroing = c.zeroing := by unfold Crew.setPend; split <;> rfl
@[simp] theorem setPend_ss (c : Crew) (i n : Nat) : (c.setPend i n).ss = c.ss := by unfold Crew.setPend; split <;> rfl
@[simp] theorem setPend_sv (c : Crew) (i n : Nat) : (c.setPend i n).sv = c.sv := by unfold Crew.setPend; split <;> rfl
@[simp] theorem setPend_sm (c : Crew) (i n : Nat) : (c.setPend i n).sm = c.sm := by unfold Crew.setPend; split <;> rfl
@[simp] theorem setPend_sc (c : Crew) (i n : Nat) : (c.setPend i n).sc = c.sc := by unfold Crew.setPend; split <;> rfl
@[simp] theorem setPend_tiles (c : Crew) (i n : Nat) : (c.setPend i n).tiles = c.tiles := by unfold Crew.setPend; split <;> rfl
@[simp] theorem setPend_fe (c : Crew) (i n : Nat) : (c.setPend i n).fe = c.fe := by unfold Crew.setPend; split <;> rfl
@[simp] theorem setPend_qs (c : Crew) (i n : Nat) : (c.setPend i n).qs = c.qs := by unfold Crew.setPend; split <;> rfl
@[simp] theorem setPend_qfe (c : Crew) (i n : Nat) : (c.setPend i n).qfe = c.qfe := by unfold Crew.setPend; split <;> rfl
@[simp] theorem setPend_tokens (c : Crew) (i n : Nat) : (c.setPend i n).tokens = c.tokens := by unfold Crew.setPend; split <;> rfl
@[simp] theorem setPend_ring (c : Crew) (i n : Nat) : (c.setPend i n).ring = c.ring := by unfold Crew.setPend; split <;> rfl
@[simp] theorem setPend_astat (c : Crew) (i n : Nat) : (c.setPend i n).astat = c.astat := by unfold Crew.setPend; split <;> rfl
@[simp] theorem setPend_astatNow (c : Crew) (i n : Nat) : (c.setPend i n).astatNow = c.astatNow := by unfold Crew.setPend; split <;> rfl
@[simp] theorem setPend_energy (c : Crew) (i n : Nat) : (c.setPend i n).energy = c.energy := by unfold Crew.setPend; split <;> rfl
@[simp] theorem setPend_kperm (c : Crew) (i n : Nat) : (c.setPend i n).kperm = c.kperm := by unfold Crew.setPend; split <;> rfl
@[simp] theorem setPend_acctbase (c : Crew) (i n : Nat) : (c.setPend i n).acctbase = c.acctbase := by unfold Crew.setPend; split <;> rfl
@[simp] theorem setPend_bank (c : Crew) (i n : Nat) : (c.setPend i n).bank = c.bank := by unfold Crew.setPend; split <;> rfl
@[simp] theorem setPend_recCount (c : Crew) (i n : Nat) : (c.setPend i n).recCount = c.recCount := by unfold Crew.setPend; split <;> rfl
@[simp] theorem setPend_snapCount (c : Crew) (i n : Nat) : (c.setPend i n).snapCount = c.snapCount := by unfold Crew.setPend; split <;> rfl
@[simp] theorem setPend_acctStatus (c : Crew) (i n : Nat) : (c.setPend i n).acctStatus = c.acctStatus := by unfold Crew.setPend; split <;> rfl
@[simp] theorem setPend_evicted (c : Crew) (i n : Nat) : (c.setPend i n).evicted = c.evicted := by unfold Crew.setPend; split <;> rfl
@[simp] theorem setPend_snaps (c : Crew) (i n : Nat) : (c.setPend i n).snaps = c.snaps := by unfold Crew.setPend; split <;> rfl
@[simp] theorem setPend_seq (c : Crew) (i n : Nat) : (c.setPend i n).seq = c.seq := by unfold Crew.setPend; split <;> rfl
@[simp] theorem setPend_excused (c : Crew) (i n : Nat) : (c.setPend i n).excused = c.excused := by unfold Crew.setPend; split <;> rfl
@[simp] theorem setPend_grouped (c : Crew) (i n : Nat) : (c.setPend i n).grouped = c.grouped := by unfold Crew.setPend; split <;> rfl
@[simp] theorem setPend_inflight (c : Crew) (i n : Nat) : (c.setPend i n).inflight = c.inflight := by unfold Crew.setPend; split <;> rfl
@[simp] theorem setPend_ops (c : Crew) (i n : Nat) : (c.setPend i n).ops = c.ops := by unfold Crew.setPend; split <;> rfl
@[simp] theorem setPend_promises (c : Crew) (i n : Nat) : (c.setPend i n).promises = c.promises := by unfold Crew.setPend; split <;> rfl
@[simp] theorem setPend_leased (c : Crew) (i n : Nat) : (c.setPend i n).leased = c.leased := by unfold Crew.setPend; split <;> rfl
@[simp] theorem setPend_mark (c : Crew) (i n : Nat) : (c.setPend i n).mark = c.mark := by unfold Crew.setPend; split <;> rfl
@[simp] theorem setPend_markKept (c : Crew) (i n : Nat) : (c.setPend i n).markKept = c.markKept := by unfold Crew.setPend; split <;> rfl
@[simp] theorem setPend_killed (c : Crew) (i n : Nat) : (c.setPend i n).killed = c.killed := by unfold Crew.setPend; split <;> rfl
@[simp] theorem setPend_starting (c : Crew) (i n : Nat) : (c.setPend i n).starting = c.starting := by unfold Crew.setPend; split <;> rfl
@[simp] theorem setPend_preloadBad (c : Crew) (i n : Nat) : (c.setPend i n).preloadBad = c.preloadBad := by unfold Crew.setPend; split <;> rfl
@[simp] theorem takeOne_ctx (c : Crew) (i : Nat) : (c.takeOne i).ctx = c.ctx := by unfold Crew.takeOne; split <;> simp
@[simp] theorem postOne_ctx (c : Crew) (i : Nat) : (c.postOne i).ctx = c.ctx := by unfold Crew.postOne; split <;> simp
@[simp] theorem takeOne_owner (c : Crew) (i : Nat) : (c.takeOne i).owner = c.owner := by unfold Crew.takeOne; split <;> simp
@[simp] theorem postOne_owner (c : Crew) (i : Nat) : (c.postOne i).owner = c.owner := by unfold Crew.postOne; split <;> simp
@[simp] theorem takeOne_zeroing (c : Crew) (i : Nat) : (c.takeOne i).zeroing = c.zeroing := by unfold Crew.takeOne; split <;> simp
@[simp] theorem postOne_zeroing (c : Crew) (i : Nat) : (c.postOne i).zeroing = c.zeroing := by unfold Crew.postOne; split <;> simp
@[simp] theorem takeOne_ss (c : Crew) (i : Nat) : (c.takeOne i).ss = c.ss := by unfold Crew.takeOne; split <;> simp
@[simp] theorem postOne_ss (c : Crew) (i : Nat) : (c.postOne i).ss = c.ss := by unfold Crew.postOne; split <;> simp
@[simp] theorem takeOne_sv (c : Crew) (i : Nat) : (c.takeOne i).sv = c.sv := by unfold Crew.takeOne; split <;> simp
@[simp] theorem postOne_sv (c : Crew) (i : Nat) : (c.postOne i).sv = c.sv := by unfold Crew.postOne; split <;> simp
@[simp] theorem takeOne_sm (c : Crew) (i : Nat) : (c.takeOne i).sm = c.sm := by unfold Crew.takeOne; split <;> simp
@[simp] theorem postOne_sm (c : Crew) (i : Nat) : (c.postOne i).sm = c.sm := by unfold Crew.postOne; split <;> simp
@[simp] theorem takeOne_sc (c : Crew) (i : Nat) : (c.takeOne i).sc = c.sc := by unfold Crew.takeOne; split <;> simp
@[simp] theorem postOne_sc (c : Crew) (i : Nat) : (c.postOne i).sc = c.sc := by unfold Crew.postOne; split <;> simp
@[simp] theorem takeOne_tiles (c : Crew) (i : Nat) : (c.takeOne i).tiles = c.tiles := by unfold Crew.takeOne; split <;> simp
@[simp] theorem postOne_tiles (c : Crew) (i : Nat) : (c.postOne i).tiles = c.tiles := by unfold Crew.postOne; split <;> simp
@[simp] theorem takeOne_fe (c : Crew) (i : Nat) : (c.takeOne i).fe = c.fe := by unfold Crew.takeOne; split <;> simp
@[simp] theorem postOne_fe (c : Crew) (i : Nat) : (c.postOne i).fe = c.fe := by unfold Crew.postOne; split <;> simp
@[simp] theorem takeOne_qs (c : Crew) (i : Nat) : (c.takeOne i).qs = c.qs := by unfold Crew.takeOne; split <;> simp
@[simp] theorem postOne_qs (c : Crew) (i : Nat) : (c.postOne i).qs = c.qs := by unfold Crew.postOne; split <;> simp
@[simp] theorem takeOne_qfe (c : Crew) (i : Nat) : (c.takeOne i).qfe = c.qfe := by unfold Crew.takeOne; split <;> simp
@[simp] theorem postOne_qfe (c : Crew) (i : Nat) : (c.postOne i).qfe = c.qfe := by unfold Crew.postOne; split <;> simp
@[simp] theorem takeOne_ring (c : Crew) (i : Nat) : (c.takeOne i).ring = c.ring := by unfold Crew.takeOne; split <;> simp
@[simp] theorem postOne_ring (c : Crew) (i : Nat) : (c.postOne i).ring = c.ring := by unfold Crew.postOne; split <;> simp
@[simp] theorem takeOne_astat (c : Crew) (i : Nat) : (c.takeOne i).astat = c.astat := by unfold Crew.takeOne; split <;> simp
@[simp] theorem postOne_astat (c : Crew) (i : Nat) : (c.postOne i).astat = c.astat := by unfold Crew.postOne; split <;> simp
@[simp] theorem takeOne_astatNow (c : Crew) (i : Nat) : (c.takeOne i).astatNow = c.astatNow := by unfold Crew.takeOne; split <;> simp
@[simp] theorem postOne_astatNow (c : Crew) (i : Nat) : (c.postOne i).astatNow = c.astatNow := by unfold Crew.postOne; split <;> simp
@[simp] theorem takeOne_energy (c : Crew) (i : Nat) : (c.takeOne i).energy = c.energy := by unfold Crew.takeOne; split <;> simp
@[simp] theorem postOne_energy (c : Crew) (i : Nat) : (c.postOne i).energy = c.energy := by unfold Crew.postOne; split <;> simp
@[simp] theorem takeOne_kperm (c : Crew) (i : Nat) : (c.takeOne i).kperm = c.kperm := by unfold Crew.takeOne; split <;> simp
@[simp] theorem postOne_kperm (c : Crew) (i : Nat) : (c.postOne i).kperm = c.kperm := by unfold Crew.postOne; split <;> simp
@[simp] theorem takeOne_acctbase (c : Crew) (i : Nat) : (c.takeOne i).acctbase = c.acctbase := by unfold Crew.takeOne; split <;> simp
@[simp] theorem postOne_acctbase (c : Crew) (i : Nat) : (c.postOne i).acctbase = c.acctbase := by unfold Crew.postOne; split <;> simp
@[simp] theorem takeOne_bank (c : Crew) (i : Nat) : (c.takeOne i).bank = c.bank := by unfold Crew.takeOne; split <;> simp
@[simp] theorem postOne_bank (c : Crew) (i : Nat) : (c.postOne i).bank = c.bank := by unfold Crew.postOne; split <;> simp
@[simp] theorem takeOne_recCount (c : Crew) (i : Nat) : (c.takeOne i).recCount = c.recCount := by unfold Crew.takeOne; split <;> simp
@[simp] theorem postOne_recCount (c : Crew) (i : Nat) : (c.postOne i).recCount = c.recCount := by unfold Crew.postOne; split <;> simp
@[simp] theorem takeOne_snapCount (c : Crew) (i : Nat) : (c.takeOne i).snapCount = c.snapCount := by unfold Crew.takeOne; split <;> simp
@[simp] theorem postOne_snapCount (c : Crew) (i : Nat) : (c.postOne i).snapCount = c.snapCount := by unfold Crew.postOne; split <;> simp
@[simp] theorem takeOne_acctStatus (c : Crew) (i : Nat) : (c.takeOne i).acctStatus = c.acctStatus := by unfold Crew.takeOne; split <;> simp
@[simp] theorem postOne_acctStatus (c : Crew) (i : Nat) : (c.postOne i).acctStatus = c.acctStatus := by unfold Crew.postOne; split <;> simp
@[simp] theorem takeOne_evicted (c : Crew) (i : Nat) : (c.takeOne i).evicted = c.evicted := by unfold Crew.takeOne; split <;> simp
@[simp] theorem postOne_evicted (c : Crew) (i : Nat) : (c.postOne i).evicted = c.evicted := by unfold Crew.postOne; split <;> simp
@[simp] theorem takeOne_snaps (c : Crew) (i : Nat) : (c.takeOne i).snaps = c.snaps := by unfold Crew.takeOne; split <;> simp
@[simp] theorem postOne_snaps (c : Crew) (i : Nat) : (c.postOne i).snaps = c.snaps := by unfold Crew.postOne; split <;> simp
@[simp] theorem takeOne_seq (c : Crew) (i : Nat) : (c.takeOne i).seq = c.seq := by unfold Crew.takeOne; split <;> simp
@[simp] theorem postOne_seq (c : Crew) (i : Nat) : (c.postOne i).seq = c.seq := by unfold Crew.postOne; split <;> simp
@[simp] theorem takeOne_excused (c : Crew) (i : Nat) : (c.takeOne i).excused = c.excused := by unfold Crew.takeOne; split <;> simp
@[simp] theorem takeOne_grouped (c : Crew) (i : Nat) : (c.takeOne i).grouped = c.grouped := by unfold Crew.takeOne; split <;> simp
@[simp] theorem postOne_excused (c : Crew) (i : Nat) : (c.postOne i).excused = c.excused := by unfold Crew.postOne; split <;> simp
@[simp] theorem postOne_grouped (c : Crew) (i : Nat) : (c.postOne i).grouped = c.grouped := by unfold Crew.postOne; split <;> simp
@[simp] theorem takeOne_inflight (c : Crew) (i : Nat) : (c.takeOne i).inflight = c.inflight := by unfold Crew.takeOne; split <;> simp
@[simp] theorem postOne_inflight (c : Crew) (i : Nat) : (c.postOne i).inflight = c.inflight := by unfold Crew.postOne; split <;> simp
@[simp] theorem takeOne_ops (c : Crew) (i : Nat) : (c.takeOne i).ops = c.ops := by unfold Crew.takeOne; split <;> simp
@[simp] theorem postOne_ops (c : Crew) (i : Nat) : (c.postOne i).ops = c.ops := by unfold Crew.postOne; split <;> simp
@[simp] theorem takeOne_promises (c : Crew) (i : Nat) : (c.takeOne i).promises = c.promises := by unfold Crew.takeOne; split <;> simp
@[simp] theorem postOne_promises (c : Crew) (i : Nat) : (c.postOne i).promises = c.promises := by unfold Crew.postOne; split <;> simp
@[simp] theorem takeOne_leased (c : Crew) (i : Nat) : (c.takeOne i).leased = c.leased := by unfold Crew.takeOne; split <;> simp
@[simp] theorem postOne_leased (c : Crew) (i : Nat) : (c.postOne i).leased = c.leased := by unfold Crew.postOne; split <;> simp
@[simp] theorem takeOne_mark (c : Crew) (i : Nat) : (c.takeOne i).mark = c.mark := by unfold Crew.takeOne; split <;> simp
@[simp] theorem postOne_mark (c : Crew) (i : Nat) : (c.postOne i).mark = c.mark := by unfold Crew.postOne; split <;> simp
@[simp] theorem takeOne_markKept (c : Crew) (i : Nat) : (c.takeOne i).markKept = c.markKept := by unfold Crew.takeOne; split <;> simp
@[simp] theorem postOne_markKept (c : Crew) (i : Nat) : (c.postOne i).markKept = c.markKept := by unfold Crew.postOne; split <;> simp
@[simp] theorem takeOne_killed (c : Crew) (i : Nat) : (c.takeOne i).killed = c.killed := by unfold Crew.takeOne; split <;> simp
@[simp] theorem postOne_killed (c : Crew) (i : Nat) : (c.postOne i).killed = c.killed := by unfold Crew.postOne; split <;> simp
@[simp] theorem takeOne_starting (c : Crew) (i : Nat) : (c.takeOne i).starting = c.starting := by unfold Crew.takeOne; split <;> simp
@[simp] theorem postOne_starting (c : Crew) (i : Nat) : (c.postOne i).starting = c.starting := by unfold Crew.postOne; split <;> simp
@[simp] theorem takeOne_preloadBad (c : Crew) (i : Nat) : (c.takeOne i).preloadBad = c.preloadBad := by unfold Crew.takeOne; split <;> simp
@[simp] theorem postOne_preloadBad (c : Crew) (i : Nat) : (c.postOne i).preloadBad = c.preloadBad := by unfold Crew.postOne; split <;> simp

/-- What a fold leaves as it was, when each of its steps does. -/
theorem foldl_keeps {α β γ : Type} (f : α → β → α) (g : α → γ) (h : ∀ a b, g (f a b) = g a) (l : List β) (a : α) :
    g (l.foldl f a) = g a := by
  induction l generalizing a with
  | nil => rfl
  | cons b r ih => rw [List.foldl_cons, ih, h]

@[simp] theorem take_ctx (c : Crew) (k : StrandKind) (m : BitVec 3) : (c.take k m).ctx = c.ctx := foldl_keeps _ Crew.ctx (fun _ _ => takeOne_ctx _ _) _ _
@[simp] theorem post_ctx (c : Crew) (k : StrandKind) (m : BitVec 3) : (c.post k m).ctx = c.ctx := foldl_keeps _ Crew.ctx (fun _ _ => postOne_ctx _ _) _ _
@[simp] theorem take_owner (c : Crew) (k : StrandKind) (m : BitVec 3) : (c.take k m).owner = c.owner := foldl_keeps _ Crew.owner (fun _ _ => takeOne_owner _ _) _ _
@[simp] theorem post_owner (c : Crew) (k : StrandKind) (m : BitVec 3) : (c.post k m).owner = c.owner := foldl_keeps _ Crew.owner (fun _ _ => postOne_owner _ _) _ _
@[simp] theorem take_zeroing (c : Crew) (k : StrandKind) (m : BitVec 3) : (c.take k m).zeroing = c.zeroing := foldl_keeps _ Crew.zeroing (fun _ _ => takeOne_zeroing _ _) _ _
@[simp] theorem post_zeroing (c : Crew) (k : StrandKind) (m : BitVec 3) : (c.post k m).zeroing = c.zeroing := foldl_keeps _ Crew.zeroing (fun _ _ => postOne_zeroing _ _) _ _
@[simp] theorem take_ss (c : Crew) (k : StrandKind) (m : BitVec 3) : (c.take k m).ss = c.ss := foldl_keeps _ Crew.ss (fun _ _ => takeOne_ss _ _) _ _
@[simp] theorem post_ss (c : Crew) (k : StrandKind) (m : BitVec 3) : (c.post k m).ss = c.ss := foldl_keeps _ Crew.ss (fun _ _ => postOne_ss _ _) _ _
@[simp] theorem take_sv (c : Crew) (k : StrandKind) (m : BitVec 3) : (c.take k m).sv = c.sv := foldl_keeps _ Crew.sv (fun _ _ => takeOne_sv _ _) _ _
@[simp] theorem post_sv (c : Crew) (k : StrandKind) (m : BitVec 3) : (c.post k m).sv = c.sv := foldl_keeps _ Crew.sv (fun _ _ => postOne_sv _ _) _ _
@[simp] theorem take_sm (c : Crew) (k : StrandKind) (m : BitVec 3) : (c.take k m).sm = c.sm := foldl_keeps _ Crew.sm (fun _ _ => takeOne_sm _ _) _ _
@[simp] theorem post_sm (c : Crew) (k : StrandKind) (m : BitVec 3) : (c.post k m).sm = c.sm := foldl_keeps _ Crew.sm (fun _ _ => postOne_sm _ _) _ _
@[simp] theorem take_sc (c : Crew) (k : StrandKind) (m : BitVec 3) : (c.take k m).sc = c.sc := foldl_keeps _ Crew.sc (fun _ _ => takeOne_sc _ _) _ _
@[simp] theorem post_sc (c : Crew) (k : StrandKind) (m : BitVec 3) : (c.post k m).sc = c.sc := foldl_keeps _ Crew.sc (fun _ _ => postOne_sc _ _) _ _
@[simp] theorem take_tiles (c : Crew) (k : StrandKind) (m : BitVec 3) : (c.take k m).tiles = c.tiles := foldl_keeps _ Crew.tiles (fun _ _ => takeOne_tiles _ _) _ _
@[simp] theorem post_tiles (c : Crew) (k : StrandKind) (m : BitVec 3) : (c.post k m).tiles = c.tiles := foldl_keeps _ Crew.tiles (fun _ _ => postOne_tiles _ _) _ _
@[simp] theorem take_fe (c : Crew) (k : StrandKind) (m : BitVec 3) : (c.take k m).fe = c.fe := foldl_keeps _ Crew.fe (fun _ _ => takeOne_fe _ _) _ _
@[simp] theorem post_fe (c : Crew) (k : StrandKind) (m : BitVec 3) : (c.post k m).fe = c.fe := foldl_keeps _ Crew.fe (fun _ _ => postOne_fe _ _) _ _
@[simp] theorem take_qs (c : Crew) (k : StrandKind) (m : BitVec 3) : (c.take k m).qs = c.qs := foldl_keeps _ Crew.qs (fun _ _ => takeOne_qs _ _) _ _
@[simp] theorem post_qs (c : Crew) (k : StrandKind) (m : BitVec 3) : (c.post k m).qs = c.qs := foldl_keeps _ Crew.qs (fun _ _ => postOne_qs _ _) _ _
@[simp] theorem take_qfe (c : Crew) (k : StrandKind) (m : BitVec 3) : (c.take k m).qfe = c.qfe := foldl_keeps _ Crew.qfe (fun _ _ => takeOne_qfe _ _) _ _
@[simp] theorem post_qfe (c : Crew) (k : StrandKind) (m : BitVec 3) : (c.post k m).qfe = c.qfe := foldl_keeps _ Crew.qfe (fun _ _ => postOne_qfe _ _) _ _
@[simp] theorem take_ring (c : Crew) (k : StrandKind) (m : BitVec 3) : (c.take k m).ring = c.ring := foldl_keeps _ Crew.ring (fun _ _ => takeOne_ring _ _) _ _
@[simp] theorem post_ring (c : Crew) (k : StrandKind) (m : BitVec 3) : (c.post k m).ring = c.ring := foldl_keeps _ Crew.ring (fun _ _ => postOne_ring _ _) _ _
@[simp] theorem take_astat (c : Crew) (k : StrandKind) (m : BitVec 3) : (c.take k m).astat = c.astat := foldl_keeps _ Crew.astat (fun _ _ => takeOne_astat _ _) _ _
@[simp] theorem post_astat (c : Crew) (k : StrandKind) (m : BitVec 3) : (c.post k m).astat = c.astat := foldl_keeps _ Crew.astat (fun _ _ => postOne_astat _ _) _ _
@[simp] theorem take_astatNow (c : Crew) (k : StrandKind) (m : BitVec 3) : (c.take k m).astatNow = c.astatNow := foldl_keeps _ Crew.astatNow (fun _ _ => takeOne_astatNow _ _) _ _
@[simp] theorem post_astatNow (c : Crew) (k : StrandKind) (m : BitVec 3) : (c.post k m).astatNow = c.astatNow := foldl_keeps _ Crew.astatNow (fun _ _ => postOne_astatNow _ _) _ _
@[simp] theorem take_energy (c : Crew) (k : StrandKind) (m : BitVec 3) : (c.take k m).energy = c.energy := foldl_keeps _ Crew.energy (fun _ _ => takeOne_energy _ _) _ _
@[simp] theorem post_energy (c : Crew) (k : StrandKind) (m : BitVec 3) : (c.post k m).energy = c.energy := foldl_keeps _ Crew.energy (fun _ _ => postOne_energy _ _) _ _
@[simp] theorem take_kperm (c : Crew) (k : StrandKind) (m : BitVec 3) : (c.take k m).kperm = c.kperm := foldl_keeps _ Crew.kperm (fun _ _ => takeOne_kperm _ _) _ _
@[simp] theorem post_kperm (c : Crew) (k : StrandKind) (m : BitVec 3) : (c.post k m).kperm = c.kperm := foldl_keeps _ Crew.kperm (fun _ _ => postOne_kperm _ _) _ _
@[simp] theorem take_acctbase (c : Crew) (k : StrandKind) (m : BitVec 3) : (c.take k m).acctbase = c.acctbase := foldl_keeps _ Crew.acctbase (fun _ _ => takeOne_acctbase _ _) _ _
@[simp] theorem post_acctbase (c : Crew) (k : StrandKind) (m : BitVec 3) : (c.post k m).acctbase = c.acctbase := foldl_keeps _ Crew.acctbase (fun _ _ => postOne_acctbase _ _) _ _
@[simp] theorem take_bank (c : Crew) (k : StrandKind) (m : BitVec 3) : (c.take k m).bank = c.bank := foldl_keeps _ Crew.bank (fun _ _ => takeOne_bank _ _) _ _
@[simp] theorem post_bank (c : Crew) (k : StrandKind) (m : BitVec 3) : (c.post k m).bank = c.bank := foldl_keeps _ Crew.bank (fun _ _ => postOne_bank _ _) _ _
@[simp] theorem take_recCount (c : Crew) (k : StrandKind) (m : BitVec 3) : (c.take k m).recCount = c.recCount := foldl_keeps _ Crew.recCount (fun _ _ => takeOne_recCount _ _) _ _
@[simp] theorem post_recCount (c : Crew) (k : StrandKind) (m : BitVec 3) : (c.post k m).recCount = c.recCount := foldl_keeps _ Crew.recCount (fun _ _ => postOne_recCount _ _) _ _
@[simp] theorem take_snapCount (c : Crew) (k : StrandKind) (m : BitVec 3) : (c.take k m).snapCount = c.snapCount := foldl_keeps _ Crew.snapCount (fun _ _ => takeOne_snapCount _ _) _ _
@[simp] theorem post_snapCount (c : Crew) (k : StrandKind) (m : BitVec 3) : (c.post k m).snapCount = c.snapCount := foldl_keeps _ Crew.snapCount (fun _ _ => postOne_snapCount _ _) _ _
@[simp] theorem take_acctStatus (c : Crew) (k : StrandKind) (m : BitVec 3) : (c.take k m).acctStatus = c.acctStatus := foldl_keeps _ Crew.acctStatus (fun _ _ => takeOne_acctStatus _ _) _ _
@[simp] theorem post_acctStatus (c : Crew) (k : StrandKind) (m : BitVec 3) : (c.post k m).acctStatus = c.acctStatus := foldl_keeps _ Crew.acctStatus (fun _ _ => postOne_acctStatus _ _) _ _
@[simp] theorem take_evicted (c : Crew) (k : StrandKind) (m : BitVec 3) : (c.take k m).evicted = c.evicted := foldl_keeps _ Crew.evicted (fun _ _ => takeOne_evicted _ _) _ _
@[simp] theorem post_evicted (c : Crew) (k : StrandKind) (m : BitVec 3) : (c.post k m).evicted = c.evicted := foldl_keeps _ Crew.evicted (fun _ _ => postOne_evicted _ _) _ _
@[simp] theorem take_snaps (c : Crew) (k : StrandKind) (m : BitVec 3) : (c.take k m).snaps = c.snaps := foldl_keeps _ Crew.snaps (fun _ _ => takeOne_snaps _ _) _ _
@[simp] theorem post_snaps (c : Crew) (k : StrandKind) (m : BitVec 3) : (c.post k m).snaps = c.snaps := foldl_keeps _ Crew.snaps (fun _ _ => postOne_snaps _ _) _ _
@[simp] theorem take_seq (c : Crew) (k : StrandKind) (m : BitVec 3) : (c.take k m).seq = c.seq := foldl_keeps _ Crew.seq (fun _ _ => takeOne_seq _ _) _ _
@[simp] theorem post_seq (c : Crew) (k : StrandKind) (m : BitVec 3) : (c.post k m).seq = c.seq := foldl_keeps _ Crew.seq (fun _ _ => postOne_seq _ _) _ _
@[simp] theorem take_excused (c : Crew) (k : StrandKind) (m : BitVec 3) : (c.take k m).excused = c.excused := foldl_keeps _ Crew.excused (fun _ _ => takeOne_excused _ _) _ _
@[simp] theorem take_grouped (c : Crew) (k : StrandKind) (m : BitVec 3) : (c.take k m).grouped = c.grouped := foldl_keeps _ Crew.grouped (fun _ _ => takeOne_grouped _ _) _ _
@[simp] theorem post_excused (c : Crew) (k : StrandKind) (m : BitVec 3) : (c.post k m).excused = c.excused := foldl_keeps _ Crew.excused (fun _ _ => postOne_excused _ _) _ _
@[simp] theorem post_grouped (c : Crew) (k : StrandKind) (m : BitVec 3) : (c.post k m).grouped = c.grouped := foldl_keeps _ Crew.grouped (fun _ _ => postOne_grouped _ _) _ _
@[simp] theorem take_inflight (c : Crew) (k : StrandKind) (m : BitVec 3) : (c.take k m).inflight = c.inflight := foldl_keeps _ Crew.inflight (fun _ _ => takeOne_inflight _ _) _ _
@[simp] theorem post_inflight (c : Crew) (k : StrandKind) (m : BitVec 3) : (c.post k m).inflight = c.inflight := foldl_keeps _ Crew.inflight (fun _ _ => postOne_inflight _ _) _ _
@[simp] theorem take_ops (c : Crew) (k : StrandKind) (m : BitVec 3) : (c.take k m).ops = c.ops := foldl_keeps _ Crew.ops (fun _ _ => takeOne_ops _ _) _ _
@[simp] theorem post_ops (c : Crew) (k : StrandKind) (m : BitVec 3) : (c.post k m).ops = c.ops := foldl_keeps _ Crew.ops (fun _ _ => postOne_ops _ _) _ _
@[simp] theorem take_promises (c : Crew) (k : StrandKind) (m : BitVec 3) : (c.take k m).promises = c.promises := foldl_keeps _ Crew.promises (fun _ _ => takeOne_promises _ _) _ _
@[simp] theorem post_promises (c : Crew) (k : StrandKind) (m : BitVec 3) : (c.post k m).promises = c.promises := foldl_keeps _ Crew.promises (fun _ _ => postOne_promises _ _) _ _
@[simp] theorem take_leased (c : Crew) (k : StrandKind) (m : BitVec 3) : (c.take k m).leased = c.leased := foldl_keeps _ Crew.leased (fun _ _ => takeOne_leased _ _) _ _
@[simp] theorem post_leased (c : Crew) (k : StrandKind) (m : BitVec 3) : (c.post k m).leased = c.leased := foldl_keeps _ Crew.leased (fun _ _ => postOne_leased _ _) _ _
@[simp] theorem take_mark (c : Crew) (k : StrandKind) (m : BitVec 3) : (c.take k m).mark = c.mark := foldl_keeps _ Crew.mark (fun _ _ => takeOne_mark _ _) _ _
@[simp] theorem post_mark (c : Crew) (k : StrandKind) (m : BitVec 3) : (c.post k m).mark = c.mark := foldl_keeps _ Crew.mark (fun _ _ => postOne_mark _ _) _ _
@[simp] theorem take_markKept (c : Crew) (k : StrandKind) (m : BitVec 3) : (c.take k m).markKept = c.markKept := foldl_keeps _ Crew.markKept (fun _ _ => takeOne_markKept _ _) _ _
@[simp] theorem post_markKept (c : Crew) (k : StrandKind) (m : BitVec 3) : (c.post k m).markKept = c.markKept := foldl_keeps _ Crew.markKept (fun _ _ => postOne_markKept _ _) _ _
@[simp] theorem take_killed (c : Crew) (k : StrandKind) (m : BitVec 3) : (c.take k m).killed = c.killed := foldl_keeps _ Crew.killed (fun _ _ => takeOne_killed _ _) _ _
@[simp] theorem post_killed (c : Crew) (k : StrandKind) (m : BitVec 3) : (c.post k m).killed = c.killed := foldl_keeps _ Crew.killed (fun _ _ => postOne_killed _ _) _ _
@[simp] theorem take_starting (c : Crew) (k : StrandKind) (m : BitVec 3) : (c.take k m).starting = c.starting := foldl_keeps _ Crew.starting (fun _ _ => takeOne_starting _ _) _ _
@[simp] theorem post_starting (c : Crew) (k : StrandKind) (m : BitVec 3) : (c.post k m).starting = c.starting := foldl_keeps _ Crew.starting (fun _ _ => postOne_starting _ _) _ _
@[simp] theorem take_preloadBad (c : Crew) (k : StrandKind) (m : BitVec 3) : (c.take k m).preloadBad = c.preloadBad := foldl_keeps _ Crew.preloadBad (fun _ _ => takeOne_preloadBad _ _) _ _
@[simp] theorem post_preloadBad (c : Crew) (k : StrandKind) (m : BitVec 3) : (c.post k m).preloadBad = c.preloadBad := foldl_keeps _ Crew.preloadBad (fun _ _ => postOne_preloadBad _ _) _ _
@[simp] theorem setRow_str (c : Crew) (t r : Nat) (v : Row) (k : StrandKind) : (c.setRow t r v).str k = c.str k := by cases k <;> simp [Crew.str]
@[simp] theorem setFe_str (c : Crew) (i : Nat) (f : Fe) (k : StrandKind) : (c.setFe i f).str k = c.str k := by cases k <;> simp [Crew.str]
@[simp] theorem setTok_str (c : Crew) (i n : Nat) (k : StrandKind) : (c.setTok i n).str k = c.str k := by cases k <;> simp [Crew.str]
@[simp] theorem setPend_str (c : Crew) (i n : Nat) (k : StrandKind) : (c.setPend i n).str k = c.str k := by cases k <;> simp [Crew.str]
@[simp] theorem takeOne_str (c : Crew) (i : Nat) (k : StrandKind) : (c.takeOne i).str k = c.str k := by cases k <;> simp [Crew.str]
@[simp] theorem postOne_str (c : Crew) (i : Nat) (k : StrandKind) : (c.postOne i).str k = c.str k := by cases k <;> simp [Crew.str]
@[simp] theorem take_str (c : Crew) (j : StrandKind) (m : BitVec 3) (k : StrandKind) : (c.take j m).str k = c.str k := by cases k <;> simp [Crew.str]
@[simp] theorem post_str (c : Crew) (j : StrandKind) (m : BitVec 3) (k : StrandKind) : (c.post j m).str k = c.str k := by cases k <;> simp [Crew.str]

/-! ## Strands -/

@[simp] theorem setReg_pc (x : Strand) (r : BitVec 5) (v : Word) : (x.setReg r v).pc = x.pc := by unfold Strand.setReg; split <;> rfl
@[simp] theorem setReg_preds (x : Strand) (r : BitVec 5) (v : Word) : (x.setReg r v).preds = x.preds := by unfold Strand.setReg; split <;> rfl
@[simp] theorem setReg_level (x : Strand) (r : BitVec 5) (v : Word) : (x.setReg r v).level = x.level := by unfold Strand.setReg; split <;> rfl
@[simp] theorem setReg_div0 (x : Strand) (r : BitVec 5) (v : Word) : (x.setReg r v).div0 = x.div0 := by unfold Strand.setReg; split <;> rfl
@[simp] theorem setReg_tvec (x : Strand) (r : BitVec 5) (v : Word) : (x.setReg r v).tvec = x.tvec := by unfold Strand.setReg; split <;> rfl
@[simp] theorem setReg_tsave (x : Strand) (r : BitVec 5) (v : Word) : (x.setReg r v).tsave = x.tsave := by unfold Strand.setReg; split <;> rfl
@[simp] theorem setReg_wdog (x : Strand) (r : BitVec 5) (v : Word) : (x.setReg r v).wdog = x.wdog := by unfold Strand.setReg; split <;> rfl
@[simp] theorem setReg_wleft (x : Strand) (r : BitVec 5) (v : Word) : (x.setReg r v).wleft = x.wleft := by unfold Strand.setReg; split <;> rfl
@[simp] theorem setReg_t1 (x : Strand) (r : BitVec 5) (v : Word) : (x.setReg r v).t1 = x.t1 := by unfold Strand.setReg; split <;> rfl
@[simp] theorem setReg_t2 (x : Strand) (r : BitVec 5) (v : Word) : (x.setReg r v).t2 = x.t2 := by unfold Strand.setReg; split <;> rfl
@[simp] theorem setReg_rngkey (x : Strand) (r : BitVec 5) (v : Word) : (x.setReg r v).rngkey = x.rngkey := by unfold Strand.setReg; split <;> rfl
@[simp] theorem setReg_rngctr (x : Strand) (r : BitVec 5) (v : Word) : (x.setReg r v).rngctr = x.rngctr := by unfold Strand.setReg; split <;> rfl
@[simp] theorem setReg_lstop (x : Strand) (r : BitVec 5) (v : Word) : (x.setReg r v).lstop = x.lstop := by unfold Strand.setReg; split <;> rfl
@[simp] theorem setReg_loops (x : Strand) (r : BitVec 5) (v : Word) : (x.setReg r v).loops = x.loops := by unfold Strand.setReg; split <;> rfl
@[simp] theorem setReg_tmplA (x : Strand) (r : BitVec 5) (v : Word) : (x.setReg r v).tmplA = x.tmplA := by unfold Strand.setReg; split <;> rfl
@[simp] theorem setReg_tmplO (x : Strand) (r : BitVec 5) (v : Word) : (x.setReg r v).tmplO = x.tmplO := by unfold Strand.setReg; split <;> rfl
@[simp] theorem setReg_tgen (x : Strand) (r : BitVec 5) (v : Word) : (x.setReg r v).tgen = x.tgen := by unfold Strand.setReg; split <;> rfl
@[simp] theorem setReg_ruleA (x : Strand) (r : BitVec 5) (v : Word) : (x.setReg r v).ruleA = x.ruleA := by unfold Strand.setReg; split <;> rfl
@[simp] theorem setReg_ruleO (x : Strand) (r : BitVec 5) (v : Word) : (x.setReg r v).ruleO = x.ruleO := by unfold Strand.setReg; split <;> rfl
@[simp] theorem setReg_rgen (x : Strand) (r : BitVec 5) (v : Word) : (x.setReg r v).rgen = x.rgen := by unfold Strand.setReg; split <;> rfl
@[simp] theorem setReg_suppress (x : Strand) (r : BitVec 5) (v : Word) : (x.setReg r v).suppress = x.suppress := by unfold Strand.setReg; split <;> rfl
@[simp] theorem setReg_latch (x : Strand) (r : BitVec 5) (v : Word) : (x.setReg r v).latch = x.latch := by unfold Strand.setReg; split <;> rfl
@[simp] theorem setReg_started (x : Strand) (r : BitVec 5) (v : Word) : (x.setReg r v).started = x.started := by unfold Strand.setReg; split <;> rfl
@[simp] theorem setReg_exited (x : Strand) (r : BitVec 5) (v : Word) : (x.setReg r v).exited = x.exited := by unfold Strand.setReg; split <;> rfl
@[simp] theorem setReg_entry (x : Strand) (r : BitVec 5) (v : Word) : (x.setReg r v).entry = x.entry := by unfold Strand.setReg; split <;> rfl
@[simp] theorem setReg_counters (x : Strand) (r : BitVec 5) (v : Word) : (x.setReg r v).counters = x.counters := by unfold Strand.setReg; split <;> rfl
@[simp] theorem setReg_cache (x : Strand) (r : BitVec 5) (v : Word) : (x.setReg r v).cache = x.cache := by unfold Strand.setReg; split <;> rfl
@[simp] theorem setReg_slot (x : Strand) (r : BitVec 5) (v : Word) : (x.setReg r v).slot = x.slot := by unfold Strand.setReg; split <;> rfl
@[simp] theorem setReg_cond (x : Strand) (r : BitVec 5) (v : Word) : (x.setReg r v).cond = x.cond := by unfold Strand.setReg; split <;> rfl
@[simp] theorem setReg_condPc (x : Strand) (r : BitVec 5) (v : Word) : (x.setReg r v).condPc = x.condPc := by unfold Strand.setReg; split <;> rfl
@[simp] theorem setReg_waited (x : Strand) (r : BitVec 5) (v : Word) : (x.setReg r v).waited = x.waited := by unfold Strand.setReg; split <;> rfl
@[simp] theorem setReg_owed (x : Strand) (r : BitVec 5) (v : Word) : (x.setReg r v).owed = x.owed := by unfold Strand.setReg; split <;> rfl
@[simp] theorem setReg_pend (x : Strand) (r : BitVec 5) (v : Word) : (x.setReg r v).pend = x.pend := by unfold Strand.setReg; split <;> rfl
@[simp] theorem setReg_gsyncs (x : Strand) (r : BitVec 5) (v : Word) : (x.setReg r v).gsyncs = x.gsyncs := by unfold Strand.setReg; split <;> rfl
@[simp] theorem setReg_late (x : Strand) (r : BitVec 5) (v : Word) : (x.setReg r v).late = x.late := by unfold Strand.setReg; split <;> rfl
@[simp] theorem setReg_rest (x : Strand) (r : BitVec 5) (v : Word) : (x.setReg r v).rest = x.rest := by unfold Strand.setReg; split <;> rfl
@[simp] theorem setPred_pc (x : Strand) (p : BitVec 3) (b : Bool) : (x.setPred p b).pc = x.pc := by unfold Strand.setPred; split <;> rfl
@[simp] theorem setPred_regs (x : Strand) (p : BitVec 3) (b : Bool) : (x.setPred p b).regs = x.regs := by unfold Strand.setPred; split <;> rfl
@[simp] theorem setPred_level (x : Strand) (p : BitVec 3) (b : Bool) : (x.setPred p b).level = x.level := by unfold Strand.setPred; split <;> rfl
@[simp] theorem setPred_div0 (x : Strand) (p : BitVec 3) (b : Bool) : (x.setPred p b).div0 = x.div0 := by unfold Strand.setPred; split <;> rfl
@[simp] theorem setPred_tvec (x : Strand) (p : BitVec 3) (b : Bool) : (x.setPred p b).tvec = x.tvec := by unfold Strand.setPred; split <;> rfl
@[simp] theorem setPred_tsave (x : Strand) (p : BitVec 3) (b : Bool) : (x.setPred p b).tsave = x.tsave := by unfold Strand.setPred; split <;> rfl
@[simp] theorem setPred_wdog (x : Strand) (p : BitVec 3) (b : Bool) : (x.setPred p b).wdog = x.wdog := by unfold Strand.setPred; split <;> rfl
@[simp] theorem setPred_wleft (x : Strand) (p : BitVec 3) (b : Bool) : (x.setPred p b).wleft = x.wleft := by unfold Strand.setPred; split <;> rfl
@[simp] theorem setPred_t1 (x : Strand) (p : BitVec 3) (b : Bool) : (x.setPred p b).t1 = x.t1 := by unfold Strand.setPred; split <;> rfl
@[simp] theorem setPred_t2 (x : Strand) (p : BitVec 3) (b : Bool) : (x.setPred p b).t2 = x.t2 := by unfold Strand.setPred; split <;> rfl
@[simp] theorem setPred_rngkey (x : Strand) (p : BitVec 3) (b : Bool) : (x.setPred p b).rngkey = x.rngkey := by unfold Strand.setPred; split <;> rfl
@[simp] theorem setPred_rngctr (x : Strand) (p : BitVec 3) (b : Bool) : (x.setPred p b).rngctr = x.rngctr := by unfold Strand.setPred; split <;> rfl
@[simp] theorem setPred_lstop (x : Strand) (p : BitVec 3) (b : Bool) : (x.setPred p b).lstop = x.lstop := by unfold Strand.setPred; split <;> rfl
@[simp] theorem setPred_loops (x : Strand) (p : BitVec 3) (b : Bool) : (x.setPred p b).loops = x.loops := by unfold Strand.setPred; split <;> rfl
@[simp] theorem setPred_tmplA (x : Strand) (p : BitVec 3) (b : Bool) : (x.setPred p b).tmplA = x.tmplA := by unfold Strand.setPred; split <;> rfl
@[simp] theorem setPred_tmplO (x : Strand) (p : BitVec 3) (b : Bool) : (x.setPred p b).tmplO = x.tmplO := by unfold Strand.setPred; split <;> rfl
@[simp] theorem setPred_tgen (x : Strand) (p : BitVec 3) (b : Bool) : (x.setPred p b).tgen = x.tgen := by unfold Strand.setPred; split <;> rfl
@[simp] theorem setPred_ruleA (x : Strand) (p : BitVec 3) (b : Bool) : (x.setPred p b).ruleA = x.ruleA := by unfold Strand.setPred; split <;> rfl
@[simp] theorem setPred_ruleO (x : Strand) (p : BitVec 3) (b : Bool) : (x.setPred p b).ruleO = x.ruleO := by unfold Strand.setPred; split <;> rfl
@[simp] theorem setPred_rgen (x : Strand) (p : BitVec 3) (b : Bool) : (x.setPred p b).rgen = x.rgen := by unfold Strand.setPred; split <;> rfl
@[simp] theorem setPred_suppress (x : Strand) (p : BitVec 3) (b : Bool) : (x.setPred p b).suppress = x.suppress := by unfold Strand.setPred; split <;> rfl
@[simp] theorem setPred_latch (x : Strand) (p : BitVec 3) (b : Bool) : (x.setPred p b).latch = x.latch := by unfold Strand.setPred; split <;> rfl
@[simp] theorem setPred_started (x : Strand) (p : BitVec 3) (b : Bool) : (x.setPred p b).started = x.started := by unfold Strand.setPred; split <;> rfl
@[simp] theorem setPred_exited (x : Strand) (p : BitVec 3) (b : Bool) : (x.setPred p b).exited = x.exited := by unfold Strand.setPred; split <;> rfl
@[simp] theorem setPred_entry (x : Strand) (p : BitVec 3) (b : Bool) : (x.setPred p b).entry = x.entry := by unfold Strand.setPred; split <;> rfl
@[simp] theorem setPred_counters (x : Strand) (p : BitVec 3) (b : Bool) : (x.setPred p b).counters = x.counters := by unfold Strand.setPred; split <;> rfl
@[simp] theorem setPred_cache (x : Strand) (p : BitVec 3) (b : Bool) : (x.setPred p b).cache = x.cache := by unfold Strand.setPred; split <;> rfl
@[simp] theorem setPred_slot (x : Strand) (p : BitVec 3) (b : Bool) : (x.setPred p b).slot = x.slot := by unfold Strand.setPred; split <;> rfl
@[simp] theorem setPred_cond (x : Strand) (p : BitVec 3) (b : Bool) : (x.setPred p b).cond = x.cond := by unfold Strand.setPred; split <;> rfl
@[simp] theorem setPred_condPc (x : Strand) (p : BitVec 3) (b : Bool) : (x.setPred p b).condPc = x.condPc := by unfold Strand.setPred; split <;> rfl
@[simp] theorem setPred_waited (x : Strand) (p : BitVec 3) (b : Bool) : (x.setPred p b).waited = x.waited := by unfold Strand.setPred; split <;> rfl
@[simp] theorem setPred_owed (x : Strand) (p : BitVec 3) (b : Bool) : (x.setPred p b).owed = x.owed := by unfold Strand.setPred; split <;> rfl
@[simp] theorem setPred_pend (x : Strand) (p : BitVec 3) (b : Bool) : (x.setPred p b).pend = x.pend := by unfold Strand.setPred; split <;> rfl
@[simp] theorem setPred_gsyncs (x : Strand) (p : BitVec 3) (b : Bool) : (x.setPred p b).gsyncs = x.gsyncs := by unfold Strand.setPred; split <;> rfl
@[simp] theorem setPred_late (x : Strand) (p : BitVec 3) (b : Bool) : (x.setPred p b).late = x.late := by unfold Strand.setPred; split <;> rfl
@[simp] theorem setPred_rest (x : Strand) (p : BitVec 3) (b : Bool) : (x.setPred p b).rest = x.rest := by unfold Strand.setPred; split <;> rfl
@[simp] theorem useSlot_pc (x : Strand) (n : Nat) : (x.useSlot n).pc = x.pc := rfl
@[simp] theorem useSlot_regs (x : Strand) (n : Nat) : (x.useSlot n).regs = x.regs := rfl
@[simp] theorem useSlot_preds (x : Strand) (n : Nat) : (x.useSlot n).preds = x.preds := rfl
@[simp] theorem useSlot_level (x : Strand) (n : Nat) : (x.useSlot n).level = x.level := rfl
@[simp] theorem useSlot_div0 (x : Strand) (n : Nat) : (x.useSlot n).div0 = x.div0 := rfl
@[simp] theorem useSlot_tvec (x : Strand) (n : Nat) : (x.useSlot n).tvec = x.tvec := rfl
@[simp] theorem useSlot_tsave (x : Strand) (n : Nat) : (x.useSlot n).tsave = x.tsave := rfl
@[simp] theorem useSlot_wdog (x : Strand) (n : Nat) : (x.useSlot n).wdog = x.wdog := rfl
@[simp] theorem useSlot_wleft (x : Strand) (n : Nat) : (x.useSlot n).wleft = x.wleft := rfl
@[simp] theorem useSlot_t1 (x : Strand) (n : Nat) : (x.useSlot n).t1 = x.t1 := rfl
@[simp] theorem useSlot_t2 (x : Strand) (n : Nat) : (x.useSlot n).t2 = x.t2 := rfl
@[simp] theorem useSlot_rngkey (x : Strand) (n : Nat) : (x.useSlot n).rngkey = x.rngkey := rfl
@[simp] theorem useSlot_rngctr (x : Strand) (n : Nat) : (x.useSlot n).rngctr = x.rngctr := rfl
@[simp] theorem useSlot_lstop (x : Strand) (n : Nat) : (x.useSlot n).lstop = x.lstop := rfl
@[simp] theorem useSlot_loops (x : Strand) (n : Nat) : (x.useSlot n).loops = x.loops := rfl
@[simp] theorem useSlot_tmplA (x : Strand) (n : Nat) : (x.useSlot n).tmplA = x.tmplA := rfl
@[simp] theorem useSlot_tmplO (x : Strand) (n : Nat) : (x.useSlot n).tmplO = x.tmplO := rfl
@[simp] theorem useSlot_tgen (x : Strand) (n : Nat) : (x.useSlot n).tgen = x.tgen := rfl
@[simp] theorem useSlot_ruleA (x : Strand) (n : Nat) : (x.useSlot n).ruleA = x.ruleA := rfl
@[simp] theorem useSlot_ruleO (x : Strand) (n : Nat) : (x.useSlot n).ruleO = x.ruleO := rfl
@[simp] theorem useSlot_rgen (x : Strand) (n : Nat) : (x.useSlot n).rgen = x.rgen := rfl
@[simp] theorem useSlot_suppress (x : Strand) (n : Nat) : (x.useSlot n).suppress = x.suppress := rfl
@[simp] theorem useSlot_latch (x : Strand) (n : Nat) : (x.useSlot n).latch = x.latch := rfl
@[simp] theorem useSlot_started (x : Strand) (n : Nat) : (x.useSlot n).started = x.started := rfl
@[simp] theorem useSlot_exited (x : Strand) (n : Nat) : (x.useSlot n).exited = x.exited := rfl
@[simp] theorem useSlot_entry (x : Strand) (n : Nat) : (x.useSlot n).entry = x.entry := rfl
@[simp] theorem useSlot_counters (x : Strand) (n : Nat) : (x.useSlot n).counters = x.counters := rfl
@[simp] theorem useSlot_cache (x : Strand) (n : Nat) : (x.useSlot n).cache = x.cache := rfl
@[simp] theorem useSlot_cond (x : Strand) (n : Nat) : (x.useSlot n).cond = x.cond := rfl
@[simp] theorem useSlot_condPc (x : Strand) (n : Nat) : (x.useSlot n).condPc = x.condPc := rfl
@[simp] theorem useSlot_waited (x : Strand) (n : Nat) : (x.useSlot n).waited = x.waited := rfl
@[simp] theorem useSlot_owed (x : Strand) (n : Nat) : (x.useSlot n).owed = x.owed := rfl
@[simp] theorem useSlot_pend (x : Strand) (n : Nat) : (x.useSlot n).pend = x.pend := rfl
@[simp] theorem useSlot_gsyncs (x : Strand) (n : Nat) : (x.useSlot n).gsyncs = x.gsyncs := rfl
@[simp] theorem useSlot_late (x : Strand) (n : Nat) : (x.useSlot n).late = x.late := rfl
@[simp] theorem useSlot_rest (x : Strand) (n : Nat) : (x.useSlot n).rest = x.rest := rfl
@[simp] theorem issued_pc (x : Strand) : x.issued.pc = x.pc := rfl
@[simp] theorem issued_regs (x : Strand) : x.issued.regs = x.regs := rfl
@[simp] theorem issued_preds (x : Strand) : x.issued.preds = x.preds := rfl
@[simp] theorem issued_level (x : Strand) : x.issued.level = x.level := rfl
@[simp] theorem issued_div0 (x : Strand) : x.issued.div0 = x.div0 := rfl
@[simp] theorem issued_tvec (x : Strand) : x.issued.tvec = x.tvec := rfl
@[simp] theorem issued_tsave (x : Strand) : x.issued.tsave = x.tsave := rfl
@[simp] theorem issued_wdog (x : Strand) : x.issued.wdog = x.wdog := rfl
@[simp] theorem issued_wleft (x : Strand) : x.issued.wleft = x.wleft := rfl
@[simp] theorem issued_t1 (x : Strand) : x.issued.t1 = x.t1 := rfl
@[simp] theorem issued_t2 (x : Strand) : x.issued.t2 = x.t2 := rfl
@[simp] theorem issued_rngkey (x : Strand) : x.issued.rngkey = x.rngkey := rfl
@[simp] theorem issued_rngctr (x : Strand) : x.issued.rngctr = x.rngctr := rfl
@[simp] theorem issued_lstop (x : Strand) : x.issued.lstop = x.lstop := rfl
@[simp] theorem issued_tmplA (x : Strand) : x.issued.tmplA = x.tmplA := rfl
@[simp] theorem issued_tmplO (x : Strand) : x.issued.tmplO = x.tmplO := rfl
@[simp] theorem issued_tgen (x : Strand) : x.issued.tgen = x.tgen := rfl
@[simp] theorem issued_ruleA (x : Strand) : x.issued.ruleA = x.ruleA := rfl
@[simp] theorem issued_ruleO (x : Strand) : x.issued.ruleO = x.ruleO := rfl
@[simp] theorem issued_rgen (x : Strand) : x.issued.rgen = x.rgen := rfl
@[simp] theorem issued_started (x : Strand) : x.issued.started = x.started := rfl
@[simp] theorem issued_exited (x : Strand) : x.issued.exited = x.exited := rfl
@[simp] theorem issued_entry (x : Strand) : x.issued.entry = x.entry := rfl
@[simp] theorem issued_counters (x : Strand) : x.issued.counters = x.counters := rfl
@[simp] theorem issued_cache (x : Strand) : x.issued.cache = x.cache := rfl
@[simp] theorem issued_slot (x : Strand) : x.issued.slot = x.slot := rfl
@[simp] theorem issued_cond (x : Strand) : x.issued.cond = x.cond := rfl
@[simp] theorem issued_condPc (x : Strand) : x.issued.condPc = x.condPc := rfl
@[simp] theorem issued_owed (x : Strand) : x.issued.owed = x.owed := rfl
@[simp] theorem issued_pend (x : Strand) : x.issued.pend = x.pend := rfl
@[simp] theorem issued_gsyncs (x : Strand) : x.issued.gsyncs = x.gsyncs.filter fun a => a.level != x.level := rfl
@[simp] theorem issued_late (x : Strand) : x.issued.late = x.late := rfl
@[simp] theorem issued_rest (x : Strand) : x.issued.rest = x.rest := rfl
@[simp] theorem fetching_pc (x : Strand) : x.fetching.pc = x.pc := rfl
@[simp] theorem fetching_regs (x : Strand) : x.fetching.regs = x.regs := rfl
@[simp] theorem fetching_preds (x : Strand) : x.fetching.preds = x.preds := rfl
@[simp] theorem fetching_level (x : Strand) : x.fetching.level = x.level := rfl
@[simp] theorem fetching_div0 (x : Strand) : x.fetching.div0 = x.div0 := rfl
@[simp] theorem fetching_tvec (x : Strand) : x.fetching.tvec = x.tvec := rfl
@[simp] theorem fetching_tsave (x : Strand) : x.fetching.tsave = x.tsave := rfl
@[simp] theorem fetching_wdog (x : Strand) : x.fetching.wdog = x.wdog := rfl
@[simp] theorem fetching_wleft (x : Strand) : x.fetching.wleft = x.wleft := rfl
@[simp] theorem fetching_t1 (x : Strand) : x.fetching.t1 = x.t1 := rfl
@[simp] theorem fetching_t2 (x : Strand) : x.fetching.t2 = x.t2 := rfl
@[simp] theorem fetching_rngkey (x : Strand) : x.fetching.rngkey = x.rngkey := rfl
@[simp] theorem fetching_rngctr (x : Strand) : x.fetching.rngctr = x.rngctr := rfl
@[simp] theorem fetching_lstop (x : Strand) : x.fetching.lstop = x.lstop := rfl
@[simp] theorem fetching_loops (x : Strand) : x.fetching.loops = x.loops := rfl
@[simp] theorem fetching_tmplA (x : Strand) : x.fetching.tmplA = x.tmplA := rfl
@[simp] theorem fetching_tmplO (x : Strand) : x.fetching.tmplO = x.tmplO := rfl
@[simp] theorem fetching_tgen (x : Strand) : x.fetching.tgen = x.tgen := rfl
@[simp] theorem fetching_ruleA (x : Strand) : x.fetching.ruleA = x.ruleA := rfl
@[simp] theorem fetching_ruleO (x : Strand) : x.fetching.ruleO = x.ruleO := rfl
@[simp] theorem fetching_rgen (x : Strand) : x.fetching.rgen = x.rgen := rfl
@[simp] theorem fetching_suppress (x : Strand) : x.fetching.suppress = x.suppress := rfl
@[simp] theorem fetching_latch (x : Strand) : x.fetching.latch = x.latch := rfl
@[simp] theorem fetching_started (x : Strand) : x.fetching.started = x.started := rfl
@[simp] theorem fetching_exited (x : Strand) : x.fetching.exited = x.exited := rfl
@[simp] theorem fetching_entry (x : Strand) : x.fetching.entry = x.entry := rfl
@[simp] theorem fetching_counters (x : Strand) : x.fetching.counters = x.counters := rfl
@[simp] theorem fetching_cache (x : Strand) : x.fetching.cache = x.cache := rfl
@[simp] theorem fetching_slot (x : Strand) : x.fetching.slot = x.slot := rfl
@[simp] theorem fetching_waited (x : Strand) : x.fetching.waited = x.waited := rfl
@[simp] theorem fetching_owed (x : Strand) : x.fetching.owed = x.owed := rfl
@[simp] theorem fetching_pend (x : Strand) : x.fetching.pend = x.pend := rfl
@[simp] theorem fetching_gsyncs (x : Strand) : x.fetching.gsyncs = x.gsyncs := rfl
@[simp] theorem fetching_late (x : Strand) : x.fetching.late = x.late := rfl
@[simp] theorem fetching_rest (x : Strand) : x.fetching.rest = x.rest := rfl
@[simp] theorem setLoop_pc (x : Strand) (i : Fin 4) (l : Loop) : (x.setLoop i l).pc = x.pc := rfl
@[simp] theorem setLoop_regs (x : Strand) (i : Fin 4) (l : Loop) : (x.setLoop i l).regs = x.regs := rfl
@[simp] theorem setLoop_preds (x : Strand) (i : Fin 4) (l : Loop) : (x.setLoop i l).preds = x.preds := rfl
@[simp] theorem setLoop_level (x : Strand) (i : Fin 4) (l : Loop) : (x.setLoop i l).level = x.level := rfl
@[simp] theorem setLoop_div0 (x : Strand) (i : Fin 4) (l : Loop) : (x.setLoop i l).div0 = x.div0 := rfl
@[simp] theorem setLoop_tvec (x : Strand) (i : Fin 4) (l : Loop) : (x.setLoop i l).tvec = x.tvec := rfl
@[simp] theorem setLoop_tsave (x : Strand) (i : Fin 4) (l : Loop) : (x.setLoop i l).tsave = x.tsave := rfl
@[simp] theorem setLoop_wdog (x : Strand) (i : Fin 4) (l : Loop) : (x.setLoop i l).wdog = x.wdog := rfl
@[simp] theorem setLoop_wleft (x : Strand) (i : Fin 4) (l : Loop) : (x.setLoop i l).wleft = x.wleft := rfl
@[simp] theorem setLoop_t1 (x : Strand) (i : Fin 4) (l : Loop) : (x.setLoop i l).t1 = x.t1 := rfl
@[simp] theorem setLoop_t2 (x : Strand) (i : Fin 4) (l : Loop) : (x.setLoop i l).t2 = x.t2 := rfl
@[simp] theorem setLoop_rngkey (x : Strand) (i : Fin 4) (l : Loop) : (x.setLoop i l).rngkey = x.rngkey := rfl
@[simp] theorem setLoop_rngctr (x : Strand) (i : Fin 4) (l : Loop) : (x.setLoop i l).rngctr = x.rngctr := rfl
@[simp] theorem setLoop_lstop (x : Strand) (i : Fin 4) (l : Loop) : (x.setLoop i l).lstop = x.lstop := rfl
@[simp] theorem setLoop_tmplA (x : Strand) (i : Fin 4) (l : Loop) : (x.setLoop i l).tmplA = x.tmplA := rfl
@[simp] theorem setLoop_tmplO (x : Strand) (i : Fin 4) (l : Loop) : (x.setLoop i l).tmplO = x.tmplO := rfl
@[simp] theorem setLoop_tgen (x : Strand) (i : Fin 4) (l : Loop) : (x.setLoop i l).tgen = x.tgen := rfl
@[simp] theorem setLoop_ruleA (x : Strand) (i : Fin 4) (l : Loop) : (x.setLoop i l).ruleA = x.ruleA := rfl
@[simp] theorem setLoop_ruleO (x : Strand) (i : Fin 4) (l : Loop) : (x.setLoop i l).ruleO = x.ruleO := rfl
@[simp] theorem setLoop_rgen (x : Strand) (i : Fin 4) (l : Loop) : (x.setLoop i l).rgen = x.rgen := rfl
@[simp] theorem setLoop_suppress (x : Strand) (i : Fin 4) (l : Loop) : (x.setLoop i l).suppress = x.suppress := rfl
@[simp] theorem setLoop_latch (x : Strand) (i : Fin 4) (l : Loop) : (x.setLoop i l).latch = x.latch := rfl
@[simp] theorem setLoop_started (x : Strand) (i : Fin 4) (l : Loop) : (x.setLoop i l).started = x.started := rfl
@[simp] theorem setLoop_exited (x : Strand) (i : Fin 4) (l : Loop) : (x.setLoop i l).exited = x.exited := rfl
@[simp] theorem setLoop_entry (x : Strand) (i : Fin 4) (l : Loop) : (x.setLoop i l).entry = x.entry := rfl
@[simp] theorem setLoop_counters (x : Strand) (i : Fin 4) (l : Loop) : (x.setLoop i l).counters = x.counters := rfl
@[simp] theorem setLoop_cache (x : Strand) (i : Fin 4) (l : Loop) : (x.setLoop i l).cache = x.cache := rfl
@[simp] theorem setLoop_slot (x : Strand) (i : Fin 4) (l : Loop) : (x.setLoop i l).slot = x.slot := rfl
@[simp] theorem setLoop_cond (x : Strand) (i : Fin 4) (l : Loop) : (x.setLoop i l).cond = x.cond := rfl
@[simp] theorem setLoop_condPc (x : Strand) (i : Fin 4) (l : Loop) : (x.setLoop i l).condPc = x.condPc := rfl
@[simp] theorem setLoop_waited (x : Strand) (i : Fin 4) (l : Loop) : (x.setLoop i l).waited = x.waited := rfl
@[simp] theorem setLoop_owed (x : Strand) (i : Fin 4) (l : Loop) : (x.setLoop i l).owed = x.owed := rfl
@[simp] theorem setLoop_pend (x : Strand) (i : Fin 4) (l : Loop) : (x.setLoop i l).pend = x.pend := rfl
@[simp] theorem setLoop_gsyncs (x : Strand) (i : Fin 4) (l : Loop) : (x.setLoop i l).gsyncs = x.gsyncs := rfl
@[simp] theorem setLoop_late (x : Strand) (i : Fin 4) (l : Loop) : (x.setLoop i l).late = x.late := rfl
@[simp] theorem setLoop_rest (x : Strand) (i : Fin 4) (l : Loop) : (x.setLoop i l).rest = x.rest := rfl
@[simp] theorem mapLoops_pc (x : Strand) (f : Loop → Loop) : (x.mapLoops f).pc = x.pc := rfl
@[simp] theorem mapLoops_regs (x : Strand) (f : Loop → Loop) : (x.mapLoops f).regs = x.regs := rfl
@[simp] theorem mapLoops_preds (x : Strand) (f : Loop → Loop) : (x.mapLoops f).preds = x.preds := rfl
@[simp] theorem mapLoops_level (x : Strand) (f : Loop → Loop) : (x.mapLoops f).level = x.level := rfl
@[simp] theorem mapLoops_div0 (x : Strand) (f : Loop → Loop) : (x.mapLoops f).div0 = x.div0 := rfl
@[simp] theorem mapLoops_tvec (x : Strand) (f : Loop → Loop) : (x.mapLoops f).tvec = x.tvec := rfl
@[simp] theorem mapLoops_tsave (x : Strand) (f : Loop → Loop) : (x.mapLoops f).tsave = x.tsave := rfl
@[simp] theorem mapLoops_wdog (x : Strand) (f : Loop → Loop) : (x.mapLoops f).wdog = x.wdog := rfl
@[simp] theorem mapLoops_wleft (x : Strand) (f : Loop → Loop) : (x.mapLoops f).wleft = x.wleft := rfl
@[simp] theorem mapLoops_t1 (x : Strand) (f : Loop → Loop) : (x.mapLoops f).t1 = x.t1 := rfl
@[simp] theorem mapLoops_t2 (x : Strand) (f : Loop → Loop) : (x.mapLoops f).t2 = x.t2 := rfl
@[simp] theorem mapLoops_rngkey (x : Strand) (f : Loop → Loop) : (x.mapLoops f).rngkey = x.rngkey := rfl
@[simp] theorem mapLoops_rngctr (x : Strand) (f : Loop → Loop) : (x.mapLoops f).rngctr = x.rngctr := rfl
@[simp] theorem mapLoops_lstop (x : Strand) (f : Loop → Loop) : (x.mapLoops f).lstop = x.lstop := rfl
@[simp] theorem mapLoops_tmplA (x : Strand) (f : Loop → Loop) : (x.mapLoops f).tmplA = x.tmplA := rfl
@[simp] theorem mapLoops_tmplO (x : Strand) (f : Loop → Loop) : (x.mapLoops f).tmplO = x.tmplO := rfl
@[simp] theorem mapLoops_tgen (x : Strand) (f : Loop → Loop) : (x.mapLoops f).tgen = x.tgen := rfl
@[simp] theorem mapLoops_ruleA (x : Strand) (f : Loop → Loop) : (x.mapLoops f).ruleA = x.ruleA := rfl
@[simp] theorem mapLoops_ruleO (x : Strand) (f : Loop → Loop) : (x.mapLoops f).ruleO = x.ruleO := rfl
@[simp] theorem mapLoops_rgen (x : Strand) (f : Loop → Loop) : (x.mapLoops f).rgen = x.rgen := rfl
@[simp] theorem mapLoops_suppress (x : Strand) (f : Loop → Loop) : (x.mapLoops f).suppress = x.suppress := rfl
@[simp] theorem mapLoops_latch (x : Strand) (f : Loop → Loop) : (x.mapLoops f).latch = x.latch := rfl
@[simp] theorem mapLoops_started (x : Strand) (f : Loop → Loop) : (x.mapLoops f).started = x.started := rfl
@[simp] theorem mapLoops_exited (x : Strand) (f : Loop → Loop) : (x.mapLoops f).exited = x.exited := rfl
@[simp] theorem mapLoops_entry (x : Strand) (f : Loop → Loop) : (x.mapLoops f).entry = x.entry := rfl
@[simp] theorem mapLoops_counters (x : Strand) (f : Loop → Loop) : (x.mapLoops f).counters = x.counters := rfl
@[simp] theorem mapLoops_cache (x : Strand) (f : Loop → Loop) : (x.mapLoops f).cache = x.cache := rfl
@[simp] theorem mapLoops_slot (x : Strand) (f : Loop → Loop) : (x.mapLoops f).slot = x.slot := rfl
@[simp] theorem mapLoops_cond (x : Strand) (f : Loop → Loop) : (x.mapLoops f).cond = x.cond := rfl
@[simp] theorem mapLoops_condPc (x : Strand) (f : Loop → Loop) : (x.mapLoops f).condPc = x.condPc := rfl
@[simp] theorem mapLoops_waited (x : Strand) (f : Loop → Loop) : (x.mapLoops f).waited = x.waited := rfl
@[simp] theorem mapLoops_owed (x : Strand) (f : Loop → Loop) : (x.mapLoops f).owed = x.owed := rfl
@[simp] theorem mapLoops_pend (x : Strand) (f : Loop → Loop) : (x.mapLoops f).pend = x.pend := rfl
@[simp] theorem mapLoops_gsyncs (x : Strand) (f : Loop → Loop) : (x.mapLoops f).gsyncs = x.gsyncs := rfl
@[simp] theorem mapLoops_late (x : Strand) (f : Loop → Loop) : (x.mapLoops f).late = x.late := rfl
@[simp] theorem mapLoops_rest (x : Strand) (f : Loop → Loop) : (x.mapLoops f).rest = x.rest := rfl
@[simp] theorem setTrapRegs_pc (x : Strand) (n : Nat) (t : TrapRegs) : (x.setTrapRegs n t).pc = x.pc := by unfold Strand.setTrapRegs; split <;> rfl
@[simp] theorem setTrapRegs_regs (x : Strand) (n : Nat) (t : TrapRegs) : (x.setTrapRegs n t).regs = x.regs := by unfold Strand.setTrapRegs; split <;> rfl
@[simp] theorem setTrapRegs_preds (x : Strand) (n : Nat) (t : TrapRegs) : (x.setTrapRegs n t).preds = x.preds := by unfold Strand.setTrapRegs; split <;> rfl
@[simp] theorem setTrapRegs_level (x : Strand) (n : Nat) (t : TrapRegs) : (x.setTrapRegs n t).level = x.level := by unfold Strand.setTrapRegs; split <;> rfl
@[simp] theorem setTrapRegs_div0 (x : Strand) (n : Nat) (t : TrapRegs) : (x.setTrapRegs n t).div0 = x.div0 := by unfold Strand.setTrapRegs; split <;> rfl
@[simp] theorem setTrapRegs_tvec (x : Strand) (n : Nat) (t : TrapRegs) : (x.setTrapRegs n t).tvec = x.tvec := by unfold Strand.setTrapRegs; split <;> rfl
@[simp] theorem setTrapRegs_tsave (x : Strand) (n : Nat) (t : TrapRegs) : (x.setTrapRegs n t).tsave = x.tsave := by unfold Strand.setTrapRegs; split <;> rfl
@[simp] theorem setTrapRegs_wdog (x : Strand) (n : Nat) (t : TrapRegs) : (x.setTrapRegs n t).wdog = x.wdog := by unfold Strand.setTrapRegs; split <;> rfl
@[simp] theorem setTrapRegs_wleft (x : Strand) (n : Nat) (t : TrapRegs) : (x.setTrapRegs n t).wleft = x.wleft := by unfold Strand.setTrapRegs; split <;> rfl
@[simp] theorem setTrapRegs_rngkey (x : Strand) (n : Nat) (t : TrapRegs) : (x.setTrapRegs n t).rngkey = x.rngkey := by unfold Strand.setTrapRegs; split <;> rfl
@[simp] theorem setTrapRegs_rngctr (x : Strand) (n : Nat) (t : TrapRegs) : (x.setTrapRegs n t).rngctr = x.rngctr := by unfold Strand.setTrapRegs; split <;> rfl
@[simp] theorem setTrapRegs_lstop (x : Strand) (n : Nat) (t : TrapRegs) : (x.setTrapRegs n t).lstop = x.lstop := by unfold Strand.setTrapRegs; split <;> rfl
@[simp] theorem setTrapRegs_loops (x : Strand) (n : Nat) (t : TrapRegs) : (x.setTrapRegs n t).loops = x.loops := by unfold Strand.setTrapRegs; split <;> rfl
@[simp] theorem setTrapRegs_tmplA (x : Strand) (n : Nat) (t : TrapRegs) : (x.setTrapRegs n t).tmplA = x.tmplA := by unfold Strand.setTrapRegs; split <;> rfl
@[simp] theorem setTrapRegs_tmplO (x : Strand) (n : Nat) (t : TrapRegs) : (x.setTrapRegs n t).tmplO = x.tmplO := by unfold Strand.setTrapRegs; split <;> rfl
@[simp] theorem setTrapRegs_tgen (x : Strand) (n : Nat) (t : TrapRegs) : (x.setTrapRegs n t).tgen = x.tgen := by unfold Strand.setTrapRegs; split <;> rfl
@[simp] theorem setTrapRegs_ruleA (x : Strand) (n : Nat) (t : TrapRegs) : (x.setTrapRegs n t).ruleA = x.ruleA := by unfold Strand.setTrapRegs; split <;> rfl
@[simp] theorem setTrapRegs_ruleO (x : Strand) (n : Nat) (t : TrapRegs) : (x.setTrapRegs n t).ruleO = x.ruleO := by unfold Strand.setTrapRegs; split <;> rfl
@[simp] theorem setTrapRegs_rgen (x : Strand) (n : Nat) (t : TrapRegs) : (x.setTrapRegs n t).rgen = x.rgen := by unfold Strand.setTrapRegs; split <;> rfl
@[simp] theorem setTrapRegs_suppress (x : Strand) (n : Nat) (t : TrapRegs) : (x.setTrapRegs n t).suppress = x.suppress := by unfold Strand.setTrapRegs; split <;> rfl
@[simp] theorem setTrapRegs_latch (x : Strand) (n : Nat) (t : TrapRegs) : (x.setTrapRegs n t).latch = x.latch := by unfold Strand.setTrapRegs; split <;> rfl
@[simp] theorem setTrapRegs_started (x : Strand) (n : Nat) (t : TrapRegs) : (x.setTrapRegs n t).started = x.started := by unfold Strand.setTrapRegs; split <;> rfl
@[simp] theorem setTrapRegs_exited (x : Strand) (n : Nat) (t : TrapRegs) : (x.setTrapRegs n t).exited = x.exited := by unfold Strand.setTrapRegs; split <;> rfl
@[simp] theorem setTrapRegs_entry (x : Strand) (n : Nat) (t : TrapRegs) : (x.setTrapRegs n t).entry = x.entry := by unfold Strand.setTrapRegs; split <;> rfl
@[simp] theorem setTrapRegs_counters (x : Strand) (n : Nat) (t : TrapRegs) : (x.setTrapRegs n t).counters = x.counters := by unfold Strand.setTrapRegs; split <;> rfl
@[simp] theorem setTrapRegs_cache (x : Strand) (n : Nat) (t : TrapRegs) : (x.setTrapRegs n t).cache = x.cache := by unfold Strand.setTrapRegs; split <;> rfl
@[simp] theorem setTrapRegs_slot (x : Strand) (n : Nat) (t : TrapRegs) : (x.setTrapRegs n t).slot = x.slot := by unfold Strand.setTrapRegs; split <;> rfl
@[simp] theorem setTrapRegs_cond (x : Strand) (n : Nat) (t : TrapRegs) : (x.setTrapRegs n t).cond = x.cond := by unfold Strand.setTrapRegs; split <;> rfl
@[simp] theorem setTrapRegs_condPc (x : Strand) (n : Nat) (t : TrapRegs) : (x.setTrapRegs n t).condPc = x.condPc := by unfold Strand.setTrapRegs; split <;> rfl
@[simp] theorem setTrapRegs_waited (x : Strand) (n : Nat) (t : TrapRegs) : (x.setTrapRegs n t).waited = x.waited := by unfold Strand.setTrapRegs; split <;> rfl
@[simp] theorem setTrapRegs_owed (x : Strand) (n : Nat) (t : TrapRegs) : (x.setTrapRegs n t).owed = x.owed := by unfold Strand.setTrapRegs; split <;> rfl
@[simp] theorem setTrapRegs_pend (x : Strand) (n : Nat) (t : TrapRegs) : (x.setTrapRegs n t).pend = x.pend := by unfold Strand.setTrapRegs; split <;> rfl
@[simp] theorem setTrapRegs_gsyncs (x : Strand) (n : Nat) (t : TrapRegs) : (x.setTrapRegs n t).gsyncs = x.gsyncs := by unfold Strand.setTrapRegs; split <;> rfl
@[simp] theorem setTrapRegs_late (x : Strand) (n : Nat) (t : TrapRegs) : (x.setTrapRegs n t).late = x.late := by unfold Strand.setTrapRegs; split <;> rfl
@[simp] theorem setTrapRegs_rest (x : Strand) (n : Nat) (t : TrapRegs) : (x.setTrapRegs n t).rest = x.rest := by unfold Strand.setTrapRegs; split <;> rfl
@[simp] theorem drew_pc (x : Strand) (n : Nat) : (x.drew n).pc = x.pc := rfl
@[simp] theorem drew_regs (x : Strand) (n : Nat) : (x.drew n).regs = x.regs := rfl
@[simp] theorem drew_preds (x : Strand) (n : Nat) : (x.drew n).preds = x.preds := rfl
@[simp] theorem drew_level (x : Strand) (n : Nat) : (x.drew n).level = x.level := rfl
@[simp] theorem drew_div0 (x : Strand) (n : Nat) : (x.drew n).div0 = x.div0 := rfl
@[simp] theorem drew_tvec (x : Strand) (n : Nat) : (x.drew n).tvec = x.tvec := rfl
@[simp] theorem drew_tsave (x : Strand) (n : Nat) : (x.drew n).tsave = x.tsave := rfl
@[simp] theorem drew_wdog (x : Strand) (n : Nat) : (x.drew n).wdog = x.wdog := rfl
@[simp] theorem drew_wleft (x : Strand) (n : Nat) : (x.drew n).wleft = x.wleft := rfl
@[simp] theorem drew_t1 (x : Strand) (n : Nat) : (x.drew n).t1 = x.t1 := rfl
@[simp] theorem drew_t2 (x : Strand) (n : Nat) : (x.drew n).t2 = x.t2 := rfl
@[simp] theorem drew_rngkey (x : Strand) (n : Nat) : (x.drew n).rngkey = x.rngkey := rfl
@[simp] theorem drew_lstop (x : Strand) (n : Nat) : (x.drew n).lstop = x.lstop := rfl
@[simp] theorem drew_loops (x : Strand) (n : Nat) : (x.drew n).loops = x.loops := rfl
@[simp] theorem drew_tmplA (x : Strand) (n : Nat) : (x.drew n).tmplA = x.tmplA := rfl
@[simp] theorem drew_tmplO (x : Strand) (n : Nat) : (x.drew n).tmplO = x.tmplO := rfl
@[simp] theorem drew_tgen (x : Strand) (n : Nat) : (x.drew n).tgen = x.tgen := rfl
@[simp] theorem drew_ruleA (x : Strand) (n : Nat) : (x.drew n).ruleA = x.ruleA := rfl
@[simp] theorem drew_ruleO (x : Strand) (n : Nat) : (x.drew n).ruleO = x.ruleO := rfl
@[simp] theorem drew_rgen (x : Strand) (n : Nat) : (x.drew n).rgen = x.rgen := rfl
@[simp] theorem drew_suppress (x : Strand) (n : Nat) : (x.drew n).suppress = x.suppress := rfl
@[simp] theorem drew_latch (x : Strand) (n : Nat) : (x.drew n).latch = x.latch := rfl
@[simp] theorem drew_started (x : Strand) (n : Nat) : (x.drew n).started = x.started := rfl
@[simp] theorem drew_exited (x : Strand) (n : Nat) : (x.drew n).exited = x.exited := rfl
@[simp] theorem drew_entry (x : Strand) (n : Nat) : (x.drew n).entry = x.entry := rfl
@[simp] theorem drew_counters (x : Strand) (n : Nat) : (x.drew n).counters = x.counters := rfl
@[simp] theorem drew_cache (x : Strand) (n : Nat) : (x.drew n).cache = x.cache := rfl
@[simp] theorem drew_slot (x : Strand) (n : Nat) : (x.drew n).slot = x.slot := rfl
@[simp] theorem drew_cond (x : Strand) (n : Nat) : (x.drew n).cond = x.cond := rfl
@[simp] theorem drew_condPc (x : Strand) (n : Nat) : (x.drew n).condPc = x.condPc := rfl
@[simp] theorem drew_waited (x : Strand) (n : Nat) : (x.drew n).waited = x.waited := rfl
@[simp] theorem drew_owed (x : Strand) (n : Nat) : (x.drew n).owed = x.owed := rfl
@[simp] theorem drew_pend (x : Strand) (n : Nat) : (x.drew n).pend = x.pend := rfl
@[simp] theorem drew_gsyncs (x : Strand) (n : Nat) : (x.drew n).gsyncs = x.gsyncs := rfl
@[simp] theorem drew_late (x : Strand) (n : Nat) : (x.drew n).late = x.late := rfl
@[simp] theorem drew_rest (x : Strand) (n : Nat) : (x.drew n).rest = x.rest := rfl

/-! ## Registers and predicates (spec 02 R14) -/

/-- s0 reads zero. -/
@[simp] theorem reg_zero (x : Strand) : x.reg 0#5 = 0#64 := rfl

/-- A write to s0 is discarded. -/
@[simp] theorem setReg_zero (x : Strand) (v : Word) : x.setReg 0#5 v = x := rfl

/-- A register other than s0 reads what was written to it. -/
@[simp] theorem reg_setReg (x : Strand) (r : BitVec 5) (v : Word) (h : r ≠ 0#5) : (x.setReg r v).reg r = v := by
  unfold Strand.reg Strand.setReg
  rw [if_neg h, if_neg h]
  exact Vector.getElem_set_self _

/-- Every other register reads as before. -/
theorem reg_setReg_ne (x : Strand) (r q : BitVec 5) (v : Word) (h : q ≠ r) : (x.setReg r v).reg q = x.reg q := by
  have hn : r.toNat ≠ q.toNat := fun e => h (BitVec.eq_of_toNat_eq e.symm)
  unfold Strand.reg Strand.setReg
  split
  · rfl
  · split
    · rfl
    · exact Vector.getElem_set_ne (by omega) (by omega) hn

/-- A write of a predicate leaves the registers. -/
@[simp] theorem reg_setPred (x : Strand) (p : BitVec 3) (b : Bool) (q : BitVec 5) : (x.setPred p b).reg q = x.reg q := by
  simp [Strand.reg]

/-- A write of a register leaves the predicates. -/
@[simp] theorem pred_setReg (x : Strand) (r : BitVec 5) (v : Word) (p : BitVec 3) : (x.setReg r v).pred p = x.pred p := by
  simp [Strand.pred]

/-- p0 reads true. -/
@[simp] theorem pred_zero (x : Strand) : x.pred 0#3 = true := rfl

end Sys2Proof.Machine
end

