-- ==== Sys2Proof/Laws/Memory.lean ====
section
/-! SUPPORT. The laws of memory: a read after a write, what a write leaves alone, and that every operation on memory
keeps its canonical form. -/
namespace Sys2Proof.Machine

/-! ## The canonical form -/

theorem sortedKeys_iff {β : Type} (l : List (Nat × β)) :
    sortedKeys l = true ↔ l.Pairwise fun a b => a.1 < b.1 := by
  induction l with
  | nil => simp [sortedKeys]
  | cons c r ih =>
    obtain ⟨a, x⟩ := c
    cases r with
    | nil => simp [sortedKeys]
    | cons d q =>
      obtain ⟨b, y⟩ := d
      rw [sortedKeys, Bool.and_eq_true, decide_eq_true_iff, ih]
      constructor
      · rintro ⟨hab, hp⟩
        refine List.pairwise_cons.2 ⟨fun e he => ?_, hp⟩
        rcases List.mem_cons.1 he with rfl | he
        · exact hab
        · exact Nat.lt_trans hab ((List.pairwise_cons.1 hp).1 e he)
      · intro h
        have h := List.pairwise_cons.1 h
        exact ⟨h.1 (b, y) (List.mem_cons_self ..), h.2⟩

theorem wf_iff (m : List Host.Cell) :
    Memory.wf m = true ↔ (m.Pairwise fun a b => a.1 < b.1) ∧ ∀ c ∈ m, c.2 ≠ memDefault := by
  simp [Memory.wf, sortedKeys_iff]

/-- The memory with nothing listed is in canonical form. -/
@[simp] theorem wf_nil : Memory.wf [] = true := rfl

/-- Taking cells out keeps the canonical form. -/
theorem wf_filter (m : List Host.Cell) (p : Host.Cell → Bool) (h : Memory.wf m = true) : Memory.wf (m.filter p) = true := by
  rw [wf_iff] at *
  exact ⟨h.1.filter p, fun c hc => h.2 c (List.mem_filter.1 hc).1⟩

theorem cellsOf_mem (k : Nat) (bs : List Byte) :
    ∀ c ∈ cellsOf k bs, (k ≤ c.1 ∧ c.1 < k + bs.length) ∧ c.2 ≠ memDefault := by
  induction bs generalizing k with
  | nil => simp [cellsOf]
  | cons b r ih =>
    intro c hc
    unfold cellsOf at hc
    have tail : c ∈ cellsOf (k + 1) r → (k ≤ c.1 ∧ c.1 < k + (r.length + 1)) ∧ c.2 ≠ memDefault := fun h => by
      have := ih (k + 1) c h
      exact ⟨⟨by omega, by omega⟩, this.2⟩
    split at hc
    · exact tail hc
    · next hb =>
      rcases List.mem_cons.1 hc with rfl | hc
      · exact ⟨⟨Nat.le_refl _, by simp⟩, hb⟩
      · exact tail hc

theorem cellsOf_sorted (k : Nat) (bs : List Byte) : (cellsOf k bs).Pairwise fun a b => a.1 < b.1 := by
  induction bs generalizing k with
  | nil => simp [cellsOf]
  | cons b r ih =>
    unfold cellsOf
    split
    · exact ih (k + 1)
    · exact List.pairwise_cons.2 ⟨fun c hc => by have := (cellsOf_mem (k + 1) r c hc).1.1; simp only; omega, ih (k + 1)⟩

/-- A write keeps the canonical form. -/
theorem wf_memWrite (m : List Host.Cell) (k : Nat) (bs : List Byte) (h : Memory.wf m = true) :
    Memory.wf (memWrite m k bs) = true := by
  rw [wf_iff] at *
  have low : ∀ c ∈ m.filter fun c => decide (c.1 < k), c.1 < k := fun c hc => by simpa using (List.mem_filter.1 hc).2
  have high : ∀ c ∈ m.filter fun c => decide (k + bs.length ≤ c.1), k + bs.length ≤ c.1 := fun c hc => by
    simpa using (List.mem_filter.1 hc).2
  have mid := cellsOf_mem k bs
  constructor
  · unfold memWrite
    rw [List.pairwise_append, List.pairwise_append]
    refine ⟨⟨h.1.filter _, cellsOf_sorted k bs, fun a ha b hb => ?_⟩, h.1.filter _, fun a ha b hb => ?_⟩
    · have := low a ha; have := (mid b hb).1; omega
    · have := high b hb
      rcases List.mem_append.1 ha with ha | ha
      · have := low a ha; omega
      · have := (mid a ha).1; omega
  · intro c hc
    unfold memWrite at hc
    rcases List.mem_append.1 hc with hc | hc
    · rcases List.mem_append.1 hc with hc | hc
      · exact h.2 c (List.mem_filter.1 hc).1
      · exact (mid c hc).2
    · exact h.2 c (List.mem_filter.1 hc).1

/-- What every step of a fold keeps true, the fold keeps true. -/
theorem foldl_inv {α β : Type} (p : β → Prop) (f : β → α → β) (h : ∀ b a, p b → p (f b a)) {b : β} (l : List α) (hb : p b) :
    p (l.foldl f b) := by
  induction l generalizing b with
  | nil => exact hb
  | cons a r ih => exact ih (h b a hb)

/-- Counting changes no memory. -/
@[simp] theorem countFor_mem (s : State) (t k n : Nat) : (countFor s t k n).mem = s.mem := by
  unfold countFor
  split <;> rfl

/-- Counting the bytes of places changes no memory. -/
@[simp] theorem countPlaces_mem (s : State) (t : Nat) (st : Bool) (ps : List Place) :
    (countPlaces s t st ps).mem = s.mem :=
  foldl_inv (fun u : State => u.mem = s.mem) _ (fun u p hu => by split <;> simp [hu]) ps rfl

/-- An interrupt changes no memory. -/
@[simp] theorem raiseMsi_mem (s : State) (fn v : Nat) : (raiseMsi s fn v).mem = s.mem := by
  unfold raiseMsi
  split <;> rfl

/-- Sending a message changes no memory. -/
@[simp] theorem putOut_mem (s : State) (m : Msg) : (putOut s m).1.mem = s.mem := by
  unfold putOut
  split <;> rfl

/-- Sending a message that waits for its answer changes no memory. -/
@[simp] theorem sendMsg_mem (s : State) (w : RemoteWait) : (sendMsg s w).mem = s.mem := by simp [sendMsg]

/-- Writing error records keeps the canonical form. -/
theorem wf_drainErrs (n : Nat) : ∀ (s : State), Memory.wf s.mem = true → Memory.wf (drainErrs n s).mem = true := by
  induction n with
  | zero => exact fun s h => h
  | succ n ih =>
    intro s h
    unfold drainErrs
    split
    · exact h
    · split
      · exact ih _ (by simpa using wf_memWrite _ _ _ h)
      · exact h

/-- An error record keeps the canonical form. -/
theorem wf_pushErr (s : State) (a b c d e : Nat) (h : Memory.wf s.mem = true) :
    Memory.wf (pushErr s a b c d e).mem = true := wf_drainErrs 1 _ h

/-- A message to another member keeps the canonical form. -/
theorem wf_sendRemote (s : State) (a : Sender) (w : Win) (d : Nat) (ns : List Nat) (bs : List Byte) (p : Option Place)
    (h : Memory.wf s.mem = true) : Memory.wf (sendRemote s a w d ns bs p).mem = true := by
  unfold sendRemote
  split
  · exact wf_pushErr _ _ _ _ _ _ h
  · simpa using h

/-- A store through a window keeps the canonical form. -/
theorem wf_storeWindow (s : State) (a : Sender) (k : Nat) (bs : List Byte) (h : Memory.wf s.mem = true) :
    Memory.wf (storeWindow s a k bs).mem = true := by
  unfold storeWindow
  split
  · exact h
  · rename_i w _
    refine foldl_inv (fun s : State => Memory.wf s.mem = true) _ (fun s x h => ?_) _ h
    split
    · split
      · simpa using wf_memWrite _ _ _ h
      · exact wf_pushErr _ _ _ _ _ _ h
    · exact wf_sendRemote _ _ _ _ _ _ _ h

/-- A store at places keeps the canonical form. -/
theorem wf_storePlaces (a : Sender) (ps : List Place) (bs : List Byte) (s : State) (h : Memory.wf s.mem = true) :
    Memory.wf (storePlaces a ps bs s).mem = true := by
  induction ps generalizing s bs with
  | nil => exact h
  | cons p r ih =>
    unfold storePlaces
    refine ih _ _ ?_
    split
    · exact wf_storeWindow _ _ _ _ h
    · exact wf_memWrite _ _ _ h

/-- An atomic keeps the canonical form. -/
theorem wf_amoAt (m : List Host.Cell) (fn n k b c : Nat) (h : Memory.wf m = true) :
    Memory.wf (amoAt m fn n k b c).2 = true := by
  unfold amoAt
  simp only
  split
  · exact wf_memWrite _ _ _ h
  · exact h

/-- A reduction keeps the canonical form. -/
theorem wf_redAt (m : List Host.Cell) (rop ty k : Nat) (bs : List Byte) (h : Memory.wf m = true) :
    Memory.wf (redAt m rop ty k bs) = true := wf_memWrite _ _ _ h

/-! ## Reads and writes -/

theorem sget_append_right {β : Type} (d : β) (l r : List (Nat × β)) (a : Nat) (h : ∀ c ∈ l, c.1 ≠ a) :
    sget d (l ++ r) a = sget d r a := by
  induction l with
  | nil => rfl
  | cons c q ih =>
    obtain ⟨k, b⟩ := c
    have hk : k ≠ a := h (k, b) (List.mem_cons_self ..)
    simpa [sget, hk] using ih fun c hc => h c (List.mem_cons_of_mem _ hc)

theorem sget_append_left {β : Type} (d : β) (l r : List (Nat × β)) (a : Nat) (h : ∀ c ∈ r, c.1 ≠ a) :
    sget d (l ++ r) a = sget d l a := by
  induction l with
  | nil =>
    have := sget_append_right d r [] a h
    simpa [sget] using this
  | cons c q ih =>
    obtain ⟨k, b⟩ := c
    simp only [List.cons_append, sget, ih]

theorem sget_filter {β : Type} (d : β) (l : List (Nat × β)) (p : Nat → Bool) (a : Nat) (h : p a = true) :
    sget d (l.filter fun c => p c.1) a = sget d l a := by
  induction l with
  | nil => rfl
  | cons c q ih =>
    obtain ⟨k, b⟩ := c
    by_cases hk : k = a
    · subst hk; simp [sget, h]
    · cases hp : p k <;> simpa [List.filter_cons, hp, sget, hk] using ih

theorem sget_cellsOf (k : Nat) (bs : List Byte) (a : Nat) (h : k ≤ a ∧ a < k + bs.length) :
    sget memDefault (cellsOf k bs) a = bs.getD (a - k) memDefault := by
  induction bs generalizing k with
  | nil => simp at h; omega
  | cons b r ih =>
    have len : (b :: r).length = r.length + 1 := rfl
    unfold cellsOf
    by_cases hk : k = a
    · subst hk
      split
      · next hb =>
        have := sget_append_right memDefault (cellsOf (k + 1) r) [] k fun c hc => by
          have := (cellsOf_mem (k + 1) r c hc).1; omega
        simpa [sget, hb] using this
      · simp [sget]
    · have step : sget memDefault (cellsOf (k + 1) r) a = (b :: r).getD (a - k) memDefault := by
        rw [ih (k + 1) (by omega), show a - k = (a - (k + 1)) + 1 by omega, List.getD_cons_succ]
      split
      · exact step
      · simpa [sget, hk] using step

/-- A byte that was written reads as it was written. -/
theorem memByte_memWrite_in (m : List Host.Cell) (k : Nat) (bs : List Byte) (a : Nat) (h : k ≤ a ∧ a < k + bs.length) :
    memByte (memWrite m k bs) a = bs.getD (a - k) memDefault := by
  unfold memByte memWrite
  rw [List.append_assoc, sget_append_right, sget_append_left, sget_cellsOf k bs a h]
  · intro c hc
    have : k + bs.length ≤ c.1 := by simpa using (List.mem_filter.1 hc).2
    omega
  · intro c hc
    have : c.1 < k := by simpa using (List.mem_filter.1 hc).2
    omega

/-- A byte outside those written reads as before. -/
theorem memByte_memWrite_out (m : List Host.Cell) (k : Nat) (bs : List Byte) (a : Nat) (h : a < k ∨ k + bs.length ≤ a) :
    memByte (memWrite m k bs) a = memByte m a := by
  have mid : ∀ c ∈ cellsOf k bs, c.1 ≠ a := fun c hc => by have := (cellsOf_mem k bs c hc).1; omega
  unfold memByte memWrite
  rcases h with h | h
  · rw [sget_append_left, sget_append_left _ _ _ _ mid]
    · exact sget_filter memDefault m (fun x => decide (x < k)) a (by simpa using h)
    · intro c hc
      have : k + bs.length ≤ c.1 := by simpa using (List.mem_filter.1 hc).2
      omega
  · rw [List.append_assoc, sget_append_right, sget_append_right _ _ _ _ mid]
    · exact sget_filter memDefault m (fun x => decide (k + bs.length ≤ x)) a (by simpa using h)
    · intro c hc
      have : c.1 < k := by simpa using (List.mem_filter.1 hc).2
      omega

/-- Bytes of this device's memory outside the places keep their values in a store. -/
theorem storePlaces_out (a : Sender) (ps : List Place) (bs : List Byte) (s : State) (k : Nat)
    (hl : ∀ p ∈ ps, isWindowKey p.1 = false) (hk : ∀ p ∈ ps, k < p.1 ∨ p.1 + p.2 ≤ k) :
    memByte (storePlaces a ps bs s).mem k = memByte s.mem k := by
  induction ps generalizing s bs with
  | nil => rfl
  | cons p r ih =>
    unfold storePlaces
    rw [ih _ _ (fun q h => hl q (List.mem_cons_of_mem _ h)) fun q h => hk q (List.mem_cons_of_mem _ h),
      if_neg (by simpa using hl p (List.mem_cons_self ..))]
    have := hk p (List.mem_cons_self ..)
    refine memByte_memWrite_out _ _ _ _ ?_
    have := List.length_take_le p.2 bs
    omega

theorem memBytes_length (m : List Host.Cell) (k n : Nat) : (memBytes m k n).length = n := by
  induction n generalizing k with
  | zero => rfl
  | succ n ih => simp [memBytes, ih]

/-- n bytes that agree one by one agree together. -/
theorem memBytes_congr (m m' : List Host.Cell) (k n : Nat) (h : ∀ a, k ≤ a → a < k + n → memByte m a = memByte m' a) :
    memBytes m k n = memBytes m' k n := by
  induction n generalizing k with
  | zero => rfl
  | succ n ih =>
    unfold memBytes
    rw [h k (Nat.le_refl _) (by omega), ih (k + 1) fun a h1 h2 => h a (by omega) (by omega)]

/-- Reading what was written gives it back. -/
theorem memBytes_memWrite (m : List Host.Cell) (k : Nat) (bs : List Byte) : memBytes (memWrite m k bs) k bs.length = bs := by
  have go : ∀ (n j : Nat), j + n = bs.length → memBytes (memWrite m k bs) (k + j) n = bs.drop j := by
    intro n
    induction n with
    | zero => intro j hj; simp [memBytes, ← hj]
    | succ n ih =>
      intro j hj
      unfold memBytes
      rw [memByte_memWrite_in m k bs (k + j) ⟨by omega, by omega⟩, show k + j + 1 = k + (j + 1) by omega,
        ih (j + 1) (by omega), List.drop_eq_getElem_cons (by omega : j < bs.length)]
      simp [List.getD_eq_getElem?_getD, List.getElem?_eq_getElem (by omega : j < bs.length)]
  simpa using go bs.length 0 (by omega)

/-- The same memory reads the same bytes outside a write. -/
theorem memBytes_memWrite_out (m : List Host.Cell) (k : Nat) (bs : List Byte) (j n : Nat)
    (h : j + n ≤ k ∨ k + bs.length ≤ j) : memBytes (memWrite m k bs) j n = memBytes m j n :=
  memBytes_congr _ _ _ _ fun a _ _ => memByte_memWrite_out m k bs a (by omega)

end Sys2Proof.Machine
end

