-- ==== Sys2Proof/Laws/Ops.lean ====
section
/-! SUPPORT. What the shared operations of Machine/Ops.lean can do: the common order of checks (issue, heldIssue),
ending an instruction (retire), and taking a trap. -/
namespace Sys2Proof.Machine

/-! ## The common order of checks -/

/-- An instruction that executes ends as its body answers. -/
theorem issue_executes {i : Instr} {ks : List StrandKind} {p : BitVec 4} {off : Bool} {b : Body} {s : State} {n : Nat}
    (hk : s.cur.2 ∈ ks) (hw : predWait s p = none) (hi : interlock s i = none) (hp : s.me.predHolds p = true) :
    issue i ks p off b s n = finish i s n (b s) := by simp [issue, hk, hw, hi, hp]

/-- A strand kind that may not execute the instruction traps with ILLEGAL. -/
theorem issue_wrong_kind {i : Instr} {ks : List StrandKind} {p : BitVec 4} {off : Bool} {b : Body} {s : State} {n : Nat}
    (hk : s.cur.2 ∉ ks) : issue i ks p off b s n = .next (trapMe s cIllegal (wordsVal i)) := by simp [issue, hk]

/-- A predicate that has yet to be written makes the strand wait. -/
theorem issue_predWait {i : Instr} {ks : List StrandKind} {p : BitVec 4} {off : Bool} {b : Body} {s : State} {n q : Nat}
    (hk : s.cur.2 ∈ ks) (hw : predWait s p = some q) : issue i ks p off b s n = .next (holdMe q s) := by simp [issue, hk, hw]

/-- An operand that has yet to be written makes the strand wait, where the predicate holds. -/
theorem issue_interlocked {i : Instr} {ks : List StrandKind} {p : BitVec 4} {off : Bool} {b : Body} {s : State} {n q : Nat}
    (hk : s.cur.2 ∈ ks) (hw : predWait s p = none) (hp : s.me.predHolds p = true) (hi : interlock s i = some q) :
    issue i ks p off b s n = .next (holdMe (holdCause q (regWait s (regSources i, [])).isSome (b s)) s) := by simp [issue, hk, hw, hp, hi]

/-- A false predicate skips the instruction. -/
theorem issue_skips {i : Instr} {ks : List StrandKind} {p : BitVec 4} {off : Bool} {b : Body} {s : State} {n : Nat}
    (hk : s.cur.2 ∈ ks) (hw : predWait s p = none) (hp : s.me.predHolds p = false) :
    issue i ks p off b s n = .next (retire i (if off then s.setMyCrew (pushRing s.myCrew {}) else s)) := by
  simp [issue, hk, hw, hp]

/-- An instruction that its strand waits at executes: tokens, effect, posts. -/
theorem heldIssue_executes {i : Instr} {e : Eng} {ks : List StrandKind} {b : State → Res State} {s : State} {r : Bool}
    (ho : s.me.owed = false) (hk : s.cur.2 ∈ ks) (hw : predWait s e.p = none) (hi : interlock s i = none)
    (hp : s.me.predHolds e.p = true) :
    heldIssue i e ks b s r = finish i s 1 (heldBody e { cls := e.cls.toNat, release := r } b s) := by
  simp [heldIssue, ho, issue_executes hk hw hi hp]

/-- A body that completes without a transfer. -/
@[simp] theorem finish_retire (i : Instr) (s0 : State) (n : Nat) (s : State) :
    finish i s0 n (.ok (s, none)) = .next (retire i s n) := rfl
/-- A body that transfers. -/
@[simp] theorem finish_transfer (i : Instr) (s0 : State) (n : Nat) (s : State) (t : Word) :
    finish i s0 n (.ok (s, some t)) = .next (transfer t s) := rfl
/-- A body that traps. -/
@[simp] theorem finish_trap (i : Instr) (s0 : State) (n c : Nat) (v : Word) :
    finish i s0 n (.error (.trap c v)) = .next (trapMe s0 c v) := rfl
/-- A body that traps in a state that its access has reached. -/
@[simp] theorem finish_xtrap (i : Instr) (s0 : State) (n c : Nat) (v : Word) (s : State) :
    finish i s0 n (.error (.xtrap c v s)) = .next (trapMe s c v) := rfl
/-- A body that waits. -/
@[simp] theorem finish_wait (i : Instr) (s0 : State) (n q : Nat) (s : State) :
    finish i s0 n (.error (.wait q s)) = .next (holdMe q s) := rfl

/-! ## Ending an instruction -/

/-- The innermost loop does not depend on what an issued instruction changes. -/
theorem innermostAt_congr (x y : Strand) (pc : Word)
    (h : ∀ id, (y.loop id).active = (x.loop id).active ∧ (y.loop id).level = (x.loop id).level ∧
      (y.loop id).last = (x.loop id).last ∧ (y.loop id).start = (x.loop id).start)
    (hl : y.level = x.level) : innermostAt y pc = innermostAt x pc := by
  simp [innermostAt, h, hl]

/-- A mapped loop level. -/
@[simp] theorem mapLoops_loop (x : Strand) (f : Loop → Loop) (id : Fin 4) : (x.mapLoops f).loop id = f (x.loop id) := by
  simp [Strand.mapLoops, Strand.loop, Vector.get]
  rfl

/-- The innermost loop after the strand has issued. -/
theorem innermostAt_issued (x : Strand) (n : Nat) (pc : Word) :
    innermostAt (x.useSlot n).issued pc = innermostAt x pc := by
  refine innermostAt_congr _ _ _ (fun id => ?_) rfl
  have h := mapLoops_loop (x.useSlot n) (fun l => if l.level == x.level && l.within x.pc then { l with fresh := false } else l) id
  change (x.useSlot n).issued.loop id = _ at h
  rw [h]
  change (if (x.loop id).level == x.level && (x.loop id).within x.pc then { x.loop id with fresh := false } else x.loop id).active = _ ∧
    (if (x.loop id).level == x.level && (x.loop id).within x.pc then { x.loop id with fresh := false } else x.loop id).level = _ ∧
    (if (x.loop id).level == x.level && (x.loop id).within x.pc then { x.loop id with fresh := false } else x.loop id).last = _ ∧
    (if (x.loop id).level == x.level && (x.loop id).within x.pc then { x.loop id with fresh := false } else x.loop id).start = _
  split <;> simp

/-- Where no loop ends, an instruction that completes goes on to the next address. -/
theorem retire_plain (i : Instr) (s : State) (n : Nat) (h : innermostAt s.me s.me.pc = none) :
    retire i s n =
      s.setMe ({ (s.me.useSlot n).issued with pc := s.me.pc + BitVec.ofNat 64 (s.me.lenOf i) }.fetching) := by
  have h' := innermostAt_issued s.me n s.me.pc
  rw [h] at h'
  simp only [retire, loopEnd, h', snapshots, List.foldl_nil]

/-- Stage predicates change no register. -/
@[simp] theorem stagePreds_regs (x : Strand) (a b c : Nat) : (stagePreds x a b c).regs = x.regs := by
  unfold stagePreds
  generalize List.range a = l
  induction l generalizing x with
  | nil => rfl
  | cons k r ih =>
    rw [List.foldl_cons, ih]
    unfold Strand.setPred
    split <;> rfl

/-- Loop processing changes no register. -/
theorem loopEnd_regs (n : Nat) (x : Strand) (pc next : Word) (ex : Exits) : (loopEnd n x pc next ex).1.regs = x.regs := by
  induction n generalizing x ex with
  | zero => rfl
  | succ n ih =>
    unfold loopEnd
    split
    · rfl
    · dsimp only
      split
      · simp [Strand.setLoop]
      · rw [ih]
        rfl

/-- What a condition wait leaves: memory and every crew but the one in focus. -/
@[simp] theorem holdMe_mem (q : Nat) (s : State) : (holdMe q s).mem = s.mem := rfl

/-- A transfer changes no memory. -/
@[simp] theorem transfer_mem (t : Word) (s : State) : (transfer t s).mem = s.mem := rfl

/-- Where no loop ends, completing changes no memory. -/
theorem retire_mem (i : Instr) (s : State) (n : Nat) (h : innermostAt s.me s.me.pc = none) : (retire i s n).mem = s.mem := by
  rw [retire_plain i s n h]
  rfl

/-- Where no loop ends, completing keeps the registers. -/
theorem retire_regs (i : Instr) (s : State) (n : Nat) (h : innermostAt s.me s.me.pc = none) :
    (retire i s n).me.regs = s.me.regs := by
  rw [retire_plain i s n h]
  simp

/-! ## Taking a trap -/

/-- Entering a third level kills the context (23 R364). -/
theorem takeTrap_third (s : State) (crew : Nat) (k : StrandKind) (c f : Nat) (v e : Word) (m : Option Nat)
    (h : ((s.crew crew).str k).level = 2) : takeTrap s crew k c f v e m = killContext s crew c := by
  simp [takeTrap, h]

/-- A trap with TVEC.en 0 kills the context (23 R364). -/
theorem takeTrap_disabled (s : State) (crew : Nat) (k : StrandKind) (c f : Nat) (v e : Word) (m : Option Nat)
    (h : ((s.crew crew).str k).tvec.getLsbD 0 = false) : takeTrap s crew k c f v e m = killContext s crew c := by
  unfold takeTrap
  rw [if_pos (Or.inr h)]

/-- A waiter that leaves the fault records changes no memory. -/
@[simp] theorem dropWaiter_mem (s : State) (w : Waiter) : (dropWaiter s w).mem = s.mem := rfl

/-- An agent that asks no more changes no memory. -/
@[simp] theorem dropAsked_mem (s : State) (w : Waiter) : (dropAsked s w).mem = s.mem := rfl

/-- A strand that waits and asks no more changes no memory. -/
@[simp] theorem dropStrand_mem (s : State) (crew : Nat) (k : StrandKind) :
    (dropStrand s crew k).mem = s.mem := by
  simp [dropStrand]

/-- Withdrawing a request for the lease changes no memory. -/
@[simp] theorem withdraw_mem (s : State) (crew : Nat) : (withdraw s crew).mem = s.mem := by simp [withdraw]

/-- A kill changes no memory. -/
@[simp] theorem killContext_mem (s : State) (crew c : Nat) : (killContext s crew c).mem = s.mem := by
  simp [killContext, allKinds]

/-- Taking a trap changes no memory. -/
@[simp] theorem takeTrap_mem (s : State) (crew : Nat) (k : StrandKind) (c f : Nat) (v e : Word) (m : Option Nat) :
    (takeTrap s crew k c f v e m).mem = s.mem := by
  unfold takeTrap
  dsimp only
  split
  · simp
  · split <;> simp

/-- A synchronous trap changes no memory. -/
@[simp] theorem trapMe_mem (s : State) (c : Nat) (v : Word) : (trapMe s c v).mem = s.mem := by simp [trapMe]

end Sys2Proof.Machine
end

