-- ==== Sys2Proof/Laws/Access.lean ====
section
/-! SUPPORT. What translation and the checks of an access leave as it was. -/
namespace Sys2Proof.Machine

/-- Two states agree in memory, in every crew, in the strand in focus and in what is on its way to other devices. -/
def SameCrews (s t : State) : Prop :=
  t.mem = s.mem ∧ t.crews = s.crews ∧ t.cur = s.cur ∧ t.segs = s.segs ∧ t.frames = s.frames ∧ t.remote = s.remote

theorem SameCrews.refl (s : State) : SameCrews s s := ⟨rfl, rfl, rfl, rfl, rfl, rfl⟩

theorem SameCrews.trans {s t u : State} (h : SameCrews s t) (g : SameCrews t u) : SameCrews s u := by
  obtain ⟨h1, h2, h3, h4, h5, h6⟩ := h
  obtain ⟨g1, g2, g3, g4, g5, g6⟩ := g
  exact ⟨g1.trans h1, g2.trans h2, g3.trans h3, g4.trans h4, g5.trans h5, g6.trans h6⟩

/-- The strand in focus is the same. -/
theorem SameCrews.me {s t : State} (h : SameCrews s t) : t.me = s.me := by
  simp [State.me, State.myCrew, State.crew, h.2.1, h.2.2.1]

/-- The crew in focus is the same. -/
theorem SameCrews.myCrew {s t : State} (h : SameCrews s t) : t.myCrew = s.myCrew := by
  simp [State.myCrew, State.crew, h.2.1, h.2.2.1]

/-- The earlier accesses of the strand in focus are the same. -/
theorem SameCrews.mine {s t : State} (h : SameCrews s t) : mine t = mine s := by
  simp [Sys2Proof.Machine.mine, h.2.2.1, h.2.2.2.2.2]

/-- Counting changes a tenant's counters only. -/
theorem countFor_keeps (s : State) (tn k n : Nat) : SameCrews s (countFor s tn k n) := by
  unfold countFor
  dsimp only
  split <;> exact ⟨rfl, rfl, rfl, rfl, rfl, rfl⟩

/-- Counting the bytes of places. -/
theorem countPlaces_keeps (s : State) (tn : Nat) (st : Bool) (ps : List Place) : SameCrews s (countPlaces s tn st ps) := by
  unfold countPlaces
  induction ps generalizing s with
  | nil => exact .refl s
  | cons p r ih =>
    rw [List.foldl_cons]
    refine SameCrews.trans ?_ (ih _)
    split
    · exact .refl s
    · exact countFor_keeps ..

/-- Caching a translation. -/
theorem cacheIn_keeps (s : State) (cu : Nat) (t : Tlb) : SameCrews s (cacheIn s cu t) := by
  unfold cacheIn
  dsimp only
  split <;> exact ⟨rfl, rfl, rfl, rfl, rfl, rfl⟩

/-- Caching the non-leaf entries of a walk. -/
theorem cacheEnts_keeps (s : State) (u fn : Nat) (tr : Trail) : SameCrews s (cacheEnts s u fn tr) := by
  unfold cacheEnts
  dsimp only
  split
  · exact countFor_keeps ..
  · exact (countFor_keeps s fn 4 (8 * tr.reads)).trans ⟨rfl, rfl, rfl, rfl, rfl, rfl⟩

/-- A walk's answer that gives a translation. -/
theorem walked_keeps {s s1 : State} {cu fn : Nat} {a : XAns} {t : Tlb} (h : walked cu fn (s, a) = (s1, .ok t)) :
    SameCrews s s1 := by
  cases a with
  | ok x =>
    simp only [walked, Prod.mk.injEq] at h
    obtain ⟨rfl, -⟩ := h
    exact cacheIn_keeps ..
  | trap c e => cases e <;> simp [walked] at h
  | stall => simp [walked] at h
  | busy => simp [walked] at h
  | noWalker => simp [walked] at h

/-- A walk that gives a translation. -/
theorem walkIn_keeps {s s1 : State} {cu fn va : Nat} {need : BitVec 3} {t : Tlb} (h : walkIn s cu fn va need = (s1, .ok t)) :
    SameCrews s s1 := by
  unfold walkIn at h
  split at h
  · simp [Walking.stall] at h
  · split at h
    · simp at h
    · dsimp only at h
      split at h
      · simp at h
      · exact ((countFor_keeps ..).trans (cacheEnts_keeps ..)).trans (walked_keeps h)

/-- A translation that may be used. -/
theorem xlate_keeps {s s1 : State} {cu fn va m : Nat} {need : BitVec 3} {t : Tlb} (h : xlate s cu fn va need m = (s1, .ok t)) :
    SameCrews s s1 := by
  unfold xlate at h
  split at h
  · simp only [Prod.mk.injEq] at h
    obtain ⟨rfl, -⟩ := h
    exact .refl _
  · split at h
    · simp only [Prod.mk.injEq] at h
      obtain ⟨rfl, -⟩ := h
      exact cacheIn_keeps ..
    · exact walkIn_keeps h

/-- A translation for an agent that no page of the host lets through. -/
theorem agentXlate_keeps {a : Agent} {s s1 : State} {va : Word} {need : BitVec 3} {q m : Nat} {t : Tlb} (ha : a.hostOk = false)
    (h : agentXlate a s va need q m = .ok (s1, t)) : SameCrews s s1 := by
  unfold agentXlate at h
  dsimp only at h
  split at h
  · cases h
  · generalize hx : xlate s a.cu a.fn (va.toNat % 2 ^ 57) need m = r at h
    obtain ⟨s2, x⟩ := r
    cases x with
    | ok u =>
      simp only [agentAnswer] at h
      split at h
      · cases h
      · cases h
        exact xlate_keeps hx
    | trap c e => simp [agentAnswer] at h
    | stall => simp [agentAnswer, ha] at h
    | busy => simp [agentAnswer] at h
    | noWalker => simp [agentAnswer] at h

/-- The places of GLOBAL. -/
theorem agentPlaces_keeps {a : Agent} {need : BitVec 3} {q m : Nat} (ha : a.hostOk = false) (fuel : Nat) :
    ∀ {va : Word} {n : Nat} {s s1 : State} {ps : List Place}, agentPlaces a need q m fuel va n s = .ok (s1, ps) → SameCrews s s1 := by
  induction fuel with
  | zero =>
    intro va n s s1 ps h
    cases h
    exact .refl _
  | succ f ih =>
    intro va n s s1 ps h
    unfold agentPlaces at h
    split at h
    · cases h
      exact .refl _
    · split at h
      · cases h
      · dsimp only at h
        split at h
        · cases h
        · next heq =>
          split at h
          · cases h
          · split at h
            · cases h
            · next heq2 =>
              cases h
              exact (agentXlate_keeps ha heq).trans (ih heq2)

/-- The places of an access: memory, the crews, the segments, the frames and what is on its way stay. -/
theorem placesOf_keeps {s s1 : State} {a : Word} {n z m : Nat} {need : BitVec 3} {ps : List Place}
    (h : placesOf s a n z need m = .ok (s1, ps)) : SameCrews s s1 := by
  unfold placesOf at h
  split at h
  · exact agentPlaces_keeps rfl _ h
  · dsimp only at h
    split at h
    · cases h
    · split at h <;> cases h
      exact .refl _

end Sys2Proof.Machine
end

