-- ==== Sys2Proof/Laws/Form.lean ====
section
/-! SUPPORT. Every operation of the machine keeps the canonical form of memory: what is said of each kind of answer,
and one lemma for each operation that the instructions share. Form2.lean and Form3.lean go on. -/
namespace Sys2Proof.Machine
set_option Elab.async false

/-- Memory has its canonical form. -/
abbrev Formed (s : State) : Prop := Memory.wf s.mem = true

/-- The state in which an instruction waits, or that its trap keeps, has the form. -/
def StopFormed : Stop → Prop
  | .wait _ t => Formed t
  | .xtrap _ _ t => Formed t
  | _ => True

/-- Every state in an answer has the form. -/
def ResFormed {α : Type} : Res (State × α) → Prop
  | .ok p => Formed p.1
  | .error e => StopFormed e

/-- Every state in an answer has the form. -/
def ResFormed1 : Res State → Prop
  | .ok t => Formed t
  | .error e => StopFormed e

/-- The state in which a check waits has the form. -/
def StopRes {α : Type} : Res α → Prop
  | .ok _ => True
  | .error e => StopFormed e

/-- The state in the stop that a check answers has the form. -/
theorem StopRes.of_eq {α : Type} {r : Res α} {e : Stop} (h : r = .error e) (hr : StopRes r) : StopFormed e := by
  rw [h] at hr
  exact hr

/-- The state that an operation answers has the form. -/
theorem ResFormed1.of_ok {r : Res State} {t : State} (h : r = .ok t) (hr : ResFormed1 r) : Formed t := by
  rw [h] at hr
  exact hr

/-- The state in the stop that an operation answers has the form. -/
theorem ResFormed1.of_error {r : Res State} {e : Stop} (h : r = .error e) (hr : ResFormed1 r) : StopFormed e := by
  rw [h] at hr
  exact hr

/-- Why a step does not go through: the states in it have the form. -/
def MissFormed : Miss → Prop
  | .hold t _ _ _ => Formed t
  | .stall t => Formed t
  | _ => True

/-- Every state in an answer of a check has the form. -/
def ChkFormed {α : Type} : Chk α → Prop
  | .ok p => Formed p.1
  | .error m => MissFormed m

/-- The state that a check answers has the form. -/
theorem ChkFormed.of_ok {α : Type} {r : Chk α} {p : State × AsyncOp × α} (h : r = .ok p) (hr : ChkFormed r) : Formed p.1 := by
  rw [h] at hr
  exact hr

/-- The state in what a check answers instead has the form. -/
theorem ChkFormed.of_error {α : Type} {r : Chk α} {m : Miss} (h : r = .error m) (hr : ChkFormed r) : MissFormed m := by
  rw [h] at hr
  exact hr

/-- Every state in an answer of a load has the form. -/
def MissLoad {α : Type} : Except Miss (State × α) → Prop
  | .ok p => Formed p.1
  | .error m => MissFormed m

/-- Every state in an answer of an operation's step has the form. -/
def MissRes : Except Miss State → Prop
  | .ok t => Formed t
  | .error m => MissFormed m

/-- Every state in an answer has the form. -/
def OptFormed : Option (Except Fault State) → Prop
  | some (.ok t) => Formed t
  | _ => True

/-- A state that is answered has the form. -/
def MayFormed : Option State → Prop
  | some t => Formed t
  | none => True

/-- A state that is answered with a value has the form. -/
def MayFormed1 {α : Type} : Option (State × α) → Prop
  | some p => Formed p.1
  | none => True

/-- The next state has the form. -/
def OutFormed : Outcome → Prop
  | .next t => Formed t
  | _ => True

/-- Either branch has the form. -/
theorem formed_ite {c : Prop} [Decidable c] {a b : State} (ha : Formed a) (hb : Formed b) : Formed (if c then a else b) := by
  split
  · exact ha
  · exact hb

/-- A fold of operations that keep the form keeps it. -/
theorem foldl_formed {α : Type} {f : State → α → State} (hf : ∀ s x, Formed s → Formed (f s x)) (l : List α) {s : State}
    (h : Formed s) : Formed (l.foldl f s) := by
  induction l generalizing s with
  | nil => exact h
  | cons x r ih => exact ih (hf s x h)

/-- The same with a state that is carried in a pair. -/
theorem foldl_formed1 {α β : Type} {f : State × β → α → State × β} (hf : ∀ a x, Formed a.1 → Formed (f a x).1) (l : List α)
    {a : State × β} (h : Formed a.1) : Formed (l.foldl f a).1 := by
  induction l generalizing a with
  | nil => exact h
  | cons x r ih => exact ih (hf a x h)

/-! ## Xlate.lean -/

theorem raiseMsi_formed (s : State) (fn : Nat) (vector : Nat) (hs : Formed s) : Formed (raiseMsi s fn vector) := by
  grind -ring -linarith -order [raiseMsi]

theorem drainErrs_formed (x1 : Nat) (x2 : State) (hx2 : Formed x2) : Formed (drainErrs x1 x2) := by
  induction x1 generalizing x2 with
  | zero => grind -ring -linarith -order [drainErrs, raiseMsi_formed, wf_memWrite]
  | succ n ih => grind -ring -linarith -order [drainErrs, raiseMsi_formed, wf_memWrite]

theorem pushErr_formed (s : State) (kind : Nat) (unit : Nat) (fn : Nat) (crew : Nat) (pa : Nat) (hs : Formed s) :
    Formed (pushErr s kind unit fn crew pa) := by
  grind -ring -linarith -order [pushErr, drainErrs_formed]

theorem countFor_formed (s : State) (tenant : Nat) (k : Nat) (n : Nat) (hs : Formed s) :
    Formed (countFor s tenant k n) := by
  grind -ring -linarith -order [countFor, setTenant_mem]

theorem drainFaults_formed (x1 : Nat) (x2 : State) (hx2 : Formed x2) : Formed (drainFaults x1 x2) := by
  induction x1 generalizing x2 with
  | zero => grind -ring -linarith -order [drainFaults, countFor_formed, raiseMsi_formed, wf_memWrite]
  | succ n ih => grind -ring -linarith -order [drainFaults, countFor_formed, raiseMsi_formed, wf_memWrite]

theorem raiseHorizon_formed (s : State) (fn : Nat) (e : Nat) (hs : Formed s) : Formed (raiseHorizon s fn e) := by
  grind -ring -linarith -order [raiseHorizon, setTenant_mem]

theorem cacheIn_formed (s : State) (cu : Nat) (t : Tlb) (hs : Formed s) : Formed (cacheIn s cu t) := by
  grind -ring -linarith -order [cacheIn, raiseHorizon_formed, setCu_mem]

theorem cacheEnts_formed (s : State) (u : Nat) (fn : Nat) (tr : Trail) (hs : Formed s) :
    Formed (cacheEnts s u fn tr) := by
  grind -ring -linarith -order [cacheEnts, raiseHorizon_formed, countFor_formed]

theorem walked_formed (cu fn : Nat) (x1 : State × XAns) (hx1 : Formed x1.1) : Formed (walked cu fn x1).1 := by
  unfold walked
  split
  · exact cacheIn_formed _ _ _ hx1
  · exact pushErr_formed _ _ _ _ _ _ hx1
  · exact hx1

theorem walkIn_formed (s : State) (cu : Nat) (fn : Nat) (va : Nat) (need : BitVec 3) (hs : Formed s) :
    Formed (walkIn s cu fn va need).1 := by
  grind -ring -linarith -order [walkIn, countFor_formed, walked_formed, cacheEnts_formed]

theorem dropPage_formed (s : State) (cu : Nat) (fn : Nat) (vpage : Nat) (hs : Formed s) :
    Formed (dropPage s cu fn vpage) := by
  grind -ring -linarith -order [dropPage, setCu_mem]

theorem rewalkIn_formed (s : State) (cu : Nat) (t : Tlb) (va : Nat) (need : BitVec 3) (hs : Formed s) :
    Formed (rewalkIn s cu t va need).1 := by
  grind -ring -linarith -order [rewalkIn, countFor_formed, cacheEnts_formed, walked_formed, dropPage_formed,
    cacheIn_formed]

theorem xlate_formed (s : State) (cu : Nat) (fn : Nat) (va : Nat) (need : BitVec 3) (margin : Nat) (hs : Formed s) :
    Formed (xlate s cu fn va need margin).1 := by
  grind -ring -linarith -order [xlate, cacheIn_formed, walkIn_formed]

theorem pushFault_formed (s : State) (f : FaultRec) (hs : Formed s) : Formed (pushFault s f) := by
  grind -ring -linarith -order [pushFault, drainFaults_formed]

theorem joinFault_formed (s : State) (fn : Nat) (va : Word) (need : BitVec 3) (level : Nat) (kind : Nat)
    (pa : Nat) (ent : Nat) (frame start : Nat) (w : Waiter) (hs : Formed s) :
    Formed (joinFault s fn va need level kind pa ent frame start w) := by
  grind -ring -linarith -order [joinFault, pushFault_formed]

theorem releaseWalk_formed (s : State) (hs : Formed s) : Formed (releaseWalk s) := by
  grind -ring -linarith -order [releaseWalk, pushFault_formed]

theorem dropWaiter_formed (s : State) (w : Waiter) (hs : Formed s) : Formed (dropWaiter s w) := by
  grind -ring -linarith -order [dropWaiter]

/-! ## Link.lean -/

theorem putOut_formed (s : State) (m : Msg) (hs : Formed s) : Formed (putOut s m).1 := by
  grind -ring -linarith -order [putOut, setPort_mem]

theorem pushOut_formed (s : State) (m : Msg) (hs : Formed s) : Formed (pushOut s m) := by
  grind -ring -linarith -order [pushOut, putOut_formed, pushErr_formed]

theorem holdMsg_formed (s : State) (w : RemoteWait) (hs : Formed s) : Formed (holdMsg s w) := by
  grind -ring -linarith -order [holdMsg]

theorem sendMsg_formed (s : State) (w : RemoteWait) (hs : Formed s) : Formed (sendMsg s w) := by
  grind -ring -linarith -order [sendMsg, putOut_formed]

theorem flushOut_formed (s : State) (hs : Formed s) : Formed (flushOut s) := by
  unfold flushOut
  refine foldl_formed1 (fun a m ha => ?_) _ hs
  grind -ring -linarith -order [putOut_formed]

theorem mapLate_formed (s : State) (w : RemoteWait) (f : Late → Late) (hs : Formed s) : Formed (mapLate s w f) := by
  grind -ring -linarith -order [mapLate, setStrand_mem]

theorem dropTag_formed (s : State) (tag : Nat) (hs : Formed s) : Formed (dropTag s tag) := by
  grind -ring -linarith -order [dropTag]

theorem loseWait_formed (s : State) (w : RemoteWait) (hs : Formed s) : Formed (loseWait s w) := by
  grind -ring -linarith -order [loseWait, dropTag_formed, mapLate_formed, pushErr_formed]

theorem loseAll_formed (s : State) (hs : Formed s) : Formed (loseAll s) := by
  unfold loseAll
  exact foldl_formed (fun u m hu => by grind -ring -linarith -order [pushErr_formed]) _
    (foldl_formed (fun u w hu => by grind -ring -linarith -order [loseWait_formed]) _ hs)

theorem execFlitReceive_formed (port : Nat) (flit : List Byte) (s : State) (hs : Formed s) :
    OutFormed (execFlitReceive port flit s) := by
  grind -ring -linarith -order [execFlitReceive, flushOut_formed, pushErr_formed, setPort_mem, OutFormed, notEnabled]

theorem execRetryRequest_formed (port : Nat) (seq : Nat) (s : State) (hs : Formed s) :
    OutFormed (execRetryRequest port seq s) := by
  grind -ring -linarith -order [execRetryRequest, setPort_mem, OutFormed, notEnabled]

theorem resendFrom_formed (s : State) (port : Nat) (hs : Formed s) : Formed (resendFrom s port) := by
  unfold resendFrom
  refine foldl_formed1 (fun a w ha => ?_) _ hs
  grind -ring -linarith -order [putOut_formed]

theorem execPortRetrain_formed (port : Nat) (ok : Bool) (s : State) (hs : Formed s) :
    OutFormed (execPortRetrain port ok s) := by
  grind -ring -linarith -order [execPortRetrain, flushOut_formed, loseAll_formed, resendFrom_formed, pushErr_formed,
    setPort_mem, OutFormed, notEnabled]

/-! ## Window.lean -/

theorem agentAnswer_formed (a : Agent) (va : Word) (need : BitVec 3) (q : Nat) (x1 : State × XAns) (hx1 : Formed
  x1.1) :
    ResFormed (agentAnswer a va need q x1) := by
  unfold agentAnswer
  split
  · split
    · trivial
    · exact hx1
  · exact hx1
  · exact hx1
  · exact hx1
  · split
    · split
      · exact hx1
      · trivial
    · exact joinFault_formed _ _ _ _ _ _ _ _ _ _ _ hx1

theorem Stop_keep_formed (s : State) (e : Stop) (hs : Formed s) (he : StopFormed e) : StopFormed (e.keep s) := by
  unfold Stop.keep
  split
  · exact hs
  · exact he

theorem agentHeld_formed {a : Agent} {s : State} {ready : Bool} {q : Nat} {e : Stop} (h : agentHeld a s ready q =
  some e)
    (hs : Formed s) : StopFormed e := by
  unfold agentHeld at h
  split at h
  · cases h
    split
    · trivial
    · exact hs
  · split at h
    · cases h
    · cases h
      exact hs

theorem agentXlate_formed (a : Agent) (s : State) (va : Word) (need : BitVec 3) (q margin : Nat) (hs : Formed s) :
    ResFormed (agentXlate a s va need q margin) := by
  unfold agentXlate
  dsimp only
  split
  · rename_i e h
    exact agentHeld_formed h hs
  · exact agentAnswer_formed _ _ _ _ _ (xlate_formed _ _ _ _ _ _ hs)

theorem agentRenew_formed (a : Agent) (s : State) (t : Tlb) (va : Word) (need : BitVec 3) (hs : Formed s) :
    ResFormed (agentRenew a s t va need) := by
  unfold agentRenew
  split
  · rename_i e h
    exact agentHeld_formed h hs
  · exact agentAnswer_formed _ _ _ _ _ (rewalkIn_formed _ _ _ _ _ hs)

theorem pagePlaces_formed (a : Agent) (s : State) (t : Tlb) (va : Word) (c : Nat) (store : Bool) (hs : Formed s) :
    StopRes (pagePlaces a s t va c store) := by
  grind -ring -linarith -order [pagePlaces, StopFormed, StopRes]

theorem agentPlaces_formed (a : Agent) (need : BitVec 3) (q : Nat) (margin : Nat) (x1 : Nat) (x2 : Word)
    (x3 : Nat) (x4 : State) (hx4 : Formed x4) : ResFormed (agentPlaces a need q margin x1 x2 x3 x4) := by
  induction x1 generalizing x2 x3 x4 with
  | zero => grind -ring -linarith -order [agentPlaces, agentXlate_formed, pagePlaces_formed, StopRes, ResFormed, StopFormed]
  | succ n ih => grind -ring -linarith -order [agentPlaces, agentXlate_formed, pagePlaces_formed, StopRes, ResFormed, StopFormed]

theorem countPlaces_formed (s : State) (tenant : Nat) (store : Bool) (ps : List Place) (hs : Formed s) :
    Formed (countPlaces s tenant store ps) :=
  foldl_formed (fun u p hu => by grind -ring -linarith -order [countFor_formed]) ps hs

theorem sendRemote_formed (s : State) (a : Sender) (w : Win) (dst : Nat) (nums : List Nat) (data : List Byte)
    (place : Option Place) (hs : Formed s) : Formed (sendRemote s a w dst nums data place) := by
  grind -ring -linarith -order [sendRemote, countFor_formed, pushErr_formed, sendMsg_formed]

theorem storeWindow_formed (s : State) (a : Sender) (k : Nat) (bs : List Byte) (hs : Formed s) :
    Formed (storeWindow s a k bs) := wf_storeWindow s a k bs hs

theorem storePlaces_formed (a : Sender) (ps : List Place) (bs : List Byte) (s : State) (hs : Formed s) :
    Formed (storePlaces a ps bs s) := wf_storePlaces a ps bs s hs

theorem dropAsked_formed (s : State) (who : Waiter) (hs : Formed s) : Formed (dropAsked s who) := by
  grind -ring -linarith -order [dropAsked]

theorem sendAsk_formed (a : Sender) (s : State) (r : Ask) (hs : Formed s) : Formed (sendAsk a s r) := by
  grind -ring -linarith -order [sendAsk, sendRemote_formed]

theorem askFault_formed {s : State} {crew : Nat} {r : Ask} {f : Nat × State} (h : askFault s crew r = some f)
    (hs : Formed s) : Formed f.2 := by
  grind -ring -linarith -order [askFault, pushErr_formed]

theorem askFaults_formed {s : State} {crew : Nat} {rs : List Ask} {f : Nat × State}
    (h : rs.findSome? (askFault s crew) = some f) (hs : Formed s) : Formed f.2 := by
  obtain ⟨r, -, hr⟩ := List.exists_of_findSome?_eq_some h
  exact askFault_formed hr hs

theorem askRemote_formed (a : Agent) (s : State) (reqs : List (Ask × Word)) (hs : Formed s) :
    ResFormed (askRemote a s reqs) := by
  unfold askRemote
  dsimp only
  split
  · rename_i h
    obtain ⟨r, -, hr⟩ := List.exists_of_findSome?_eq_some h
    obtain ⟨f, hf, hg⟩ := Option.map_eq_some_iff.1 hr
    cases hg
    exact askFault_formed hf hs
  · split
    · trivial
    · split
      · split
        · exact foldl_formed (f := fun s (r : Ask × Word) => sendAsk { crew := a.crew, agent := some a.who } s r.1)
            (fun u x hu => sendAsk_formed _ u x.1 hu) _ hs
        · exact hs
      · split
        · exact hs
        · exact hs

theorem agentBytes_formed (a : Agent) (s : State) (p : Word) (ps : List Place) (bytewise : Bool) (hs : Formed s) :
    ResFormed (agentBytes a s p ps bytewise) := by
  grind -ring -linarith -order [agentBytes, askRemote_formed, ResFormed]

theorem agentLoad_formed (a : Agent) (s : State) (p : Word) (ps : List Place) (bytewise : Bool) (hs : Formed s) :
    ResFormed (agentLoad a s p ps bytewise) := by
  grind -ring -linarith -order [agentLoad, agentBytes_formed, countPlaces_formed, ResFormed]

theorem agentRead_formed (a : Agent) (va : Nat) (n : Nat) (s : State) (hs : Formed s) :
    ResFormed (agentRead a va n s) := by
  grind -ring -linarith -order [agentRead, agentPlaces_formed, agentLoad_formed, ResFormed]

theorem agentProbe_formed (a : Agent) (va : Nat) (n : Nat) (s : State) (hs : Formed s) :
    ResFormed (agentProbe a va n s) := by
  grind -ring -linarith -order [agentProbe, agentPlaces_formed, StopFormed, ResFormed]

theorem agentWrite_formed (a : Agent) (va : Nat) (bs : List Byte) (s : State) (hs : Formed s) :
    ResFormed1 (agentWrite a va bs s) := by
  grind -ring -linarith -order [agentWrite, agentProbe_formed, storePlaces_formed, countPlaces_formed, ResFormed,
    ResFormed1]

theorem Stop_left_formed (s0 : State) (who : Waiter) (e : Stop) (h0 : Formed s0) (he : StopFormed e) :
    Formed (e.left s0 who) := by
  unfold Stop.left
  split
  · exact dropAsked_formed _ _ (dropWaiter_formed _ _ he)
  · exact dropAsked_formed _ _ (dropWaiter_formed _ _ h0)

/-! ## Account.lean -/

theorem tenantUse_formed (s : State) (old : Crew) (new : Crew) (n : Nat) (hs : Formed s) :
    Formed (tenantUse s old new n) := by
  grind -ring -linarith -order [tenantUse, countFor_formed, setTenant_mem]

theorem State_elapse_formed (s : State) (n : Nat) (hs : Formed s) : Formed (s.elapse n) := by
  unfold State.elapse
  split
  · exact hs
  · exact foldl_formed (fun u x hu => tenantUse_formed u _ _ n hu) _ hs

theorem acctField_formed (s : State) (crew : Nat) (off : Nat) (hs : Formed s) : ResFormed (acctField s crew off) := by
  grind -ring -linarith -order [acctField, agentRead_formed, ResFormed]

theorem acctSet_formed (s : State) (crew : Nat) (bit : Nat) (hs : Formed s) : Formed (acctSet s crew bit) := by
  grind -ring -linarith -order [acctSet, setCrew_mem]

theorem acctFault_formed (s : State) (crew : Nat) (hs : Formed s) : Formed (acctFault s crew) := by
  grind -ring -linarith -order [acctFault, pushErr_formed, acctSet_formed]

theorem acctPut_formed (crew : Nat) (off : Nat) (bs : List Byte) (s : State) (hs : Formed s) :
    ResFormed1 (acctPut crew off bs s) := by
  grind -ring -linarith -order [acctPut, agentWrite_formed, acctFault_formed, Stop_left_formed, ResFormed1, StopFormed]

theorem acctPuts_formed (crew : Nat) (x1 : List (Nat × List Byte)) (s : State) (hs : Formed s) :
    ResFormed1 (acctPuts crew x1 s) := by
  induction x1 generalizing s with
  | nil => exact hs
  | cons y r ih => grind -ring -linarith -order [acctPuts, acctPut_formed, ResFormed1]

theorem writeRec_formed (crew : Nat) (s : State) (r : AccRec) (hs : Formed s) : ResFormed1 (writeRec crew s r) := by
  grind -ring -linarith -order [writeRec, acctField_formed, acctFault_formed, acctPut_formed, acctSet_formed,
    Stop_left_formed, setCrew_mem, ResFormed, ResFormed1, StopFormed]

theorem writeRecs_formed (crew : Nat) (x1 : List AccRec) (s : State) (hs : Formed s) : ResFormed1 (writeRecs crew x1 s) := by
  induction x1 generalizing s with
  | nil => exact hs
  | cons y r ih => grind -ring -linarith -order [writeRecs, writeRec_formed, ResFormed1]

theorem probeAll_formed (strict : Bool) (a : Agent) (x1 : List (Nat × Nat)) (x2 : State) (hx2 : Formed x2) :
    ResFormed1 (probeAll strict a x1 x2) := by
  induction x1 generalizing x2 with
  | nil => grind -ring -linarith -order [probeAll, agentProbe_formed, ResFormed, ResFormed1]
  | cons y r ih => grind -ring -linarith -order [probeAll, agentProbe_formed, ResFormed, ResFormed1]

theorem acctReady_formed (strict : Bool) (s : State) (crew : Nat) (k : Nat) (hs : Formed s) :
    ResFormed1 (acctReady strict s crew k) := by
  grind -ring -linarith -order [acctReady, acctField_formed, probeAll_formed, ResFormed, ResFormed1]

theorem acctTry_formed (s : State) (crew : Nat) (hs : Formed s) : ResFormed1 (acctTry s crew) := by
  unfold acctTry
  dsimp only
  have h0 (c : Crew) : Formed (s.setCrew crew c) := hs
  split
  · rename_i he
    exact ResFormed1.of_error he (writeRecs_formed _ _ _ (h0 _))
  · rename_i he
    have h1 := ResFormed1.of_ok he (writeRecs_formed _ _ _ (h0 _))
    split
    · rename_i he
      exact ResFormed1.of_error he (acctPut_formed _ _ _ _ h1)
    · rename_i he
      have h2 := ResFormed1.of_ok he (acctPut_formed _ _ _ _ h1)
      split
      · rename_i he
        exact ResFormed1.of_error he (acctPuts_formed _ _ _ h2)
      · rename_i he
        have h3 := ResFormed1.of_ok he (acctPuts_formed _ _ _ h2)
        split
        · rename_i he
          exact ResFormed1.of_error he (acctPut_formed _ _ _ _ h3)
        · rename_i he
          exact dropAsked_formed _ _ (ResFormed1.of_ok he (acctPut_formed _ _ _ _ h3))

theorem acctFlush_formed (s : State) (crew : Nat) (hs : Formed s) : Formed (acctFlush s crew) := by
  grind -ring -linarith -order [acctFlush, acctTry_formed, ResFormed1]

theorem flushReady_formed (strict : Bool) (s : State) (crew : Nat) (hs : Formed s) :
    ResFormed1 (flushReady strict s crew) := by
  grind -ring -linarith -order [flushReady, acctReady_formed, ResFormed1, StopFormed]

theorem snapDone_formed (s : State) (crew : Nat) (hs : Formed s) : Formed (snapDone s crew) := by
  grind -ring -linarith -order [snapDone, dropAsked_formed, setCrew_mem]

theorem writeSnap_formed (s : State) (crew : Nat) (hs : Formed s) : Formed (writeSnap s crew) := by
  have fail : ∀ e : Stop, StopFormed e → Formed (match e with
      | .wait _ s1 => s1
      | e => acctFault (snapDone (e.left s (.acct crew)) crew) crew) := by
    intro e he
    split
    · exact he
    · exact acctFault_formed _ _ (snapDone_formed _ _ (Stop_left_formed _ _ _ hs he))
  unfold writeSnap
  split
  · exact hs
  · dsimp only
    have h1 := acctField_formed s crew 28 hs
    split
    · rename_i he
      rw [he] at h1
      exact fail _ h1
    · rename_i he
      rw [he] at h1
      have h2 := acctField_formed _ crew 20 h1
      split
      · rename_i he2
        rw [he2] at h2
        exact fail _ h2
      · rename_i he2
        rw [he2] at h2
        split
        · exact acctSet_formed _ _ _ (snapDone_formed _ _ h2)
        · split
          · rename_i he3
            exact snapDone_formed _ _ (ResFormed1.of_ok he3 (agentWrite_formed _ _ _ _ h2))
          · rename_i he3
            exact fail _ (ResFormed1.of_error he3 (agentWrite_formed _ _ _ _ h2))

theorem takeSnapshot_formed (s : State) (crew : Nat) (strand : Nat) (triple : Word) (pc : Word) (hs : Formed s) :
    Formed (takeSnapshot s crew strand triple pc) := by
  grind -ring -linarith -order [takeSnapshot, writeSnap_formed, setCrew_mem]

/-! ## Ops.lean -/

theorem dropStrand_formed (s : State) (crew : Nat) (k : StrandKind) (hs : Formed s) :
    Formed (dropStrand s crew k) := by
  grind -ring -linarith -order [dropStrand, dropWaiter_formed, dropAsked_formed]

theorem withdraw_formed (s : State) (crew : Nat) (hs : Formed s) : Formed (withdraw s crew) := by
  grind -ring -linarith -order [withdraw, setCu_mem]

theorem killContext_formed (s : State) (crew cause : Nat) (hs : Formed s) : Formed (killContext s crew cause) := by
  rw [Formed, killContext_mem]
  exact hs

theorem takeTrap_formed (s : State) (crew : Nat) (k : StrandKind) (cause : Nat) (flags : Nat) (val : Word)
    (epc : Word) (members : Option Nat) (hs : Formed s) :
    Formed (takeTrap s crew k cause flags val epc members) := by
  grind -ring -linarith -order [takeTrap, killContext_formed, dropStrand_formed, withdraw_formed, setCrew_mem]

theorem trapMe_formed (s : State) (cause : Nat) (val : Word) (hs : Formed s) : Formed (trapMe s cause val) := by
  grind -ring -linarith -order [trapMe, takeTrap_formed, setMe_mem]

theorem snapshots_formed (s : State) (ex : Exits) (hs : Formed s) : Formed (snapshots s ex) :=
  foldl_formed (fun u e hu => takeSnapshot_formed u _ _ _ _ hu) ex hs

theorem retire_formed (i : Instr) (s : State) (slots : Nat) (hs : Formed s) : Formed (retire i s slots) := by
  grind -ring -linarith -order [retire, snapshots_formed, setMe_mem]

theorem transfer_formed (target : Word) (s : State) (hs : Formed s) : Formed (transfer target s) := by
  grind -ring -linarith -order [transfer, setMe_mem]

theorem holdMe_formed (charge : Nat) (s : State) (hs : Formed s) : Formed (holdMe charge s) := by
  grind -ring -linarith -order [holdMe, setMe_mem]

theorem finish_formed (i : Instr) (s0 : State) (slots : Nat) (x1 : Res (State × Option Word)) (hs0 : Formed s0)
    (hx1 : ResFormed x1) : OutFormed (finish i s0 slots x1) := by
  unfold finish
  split
  · exact retire_formed i _ slots hx1
  · exact transfer_formed _ _ hx1
  · exact trapMe_formed _ _ _ hs0
  · exact trapMe_formed _ _ _ hx1
  · exact holdMe_formed _ _ hx1
  · trivial

theorem issue_formed (i : Instr) (kinds : List StrandKind) (p : BitVec 4) (offRing : Bool) (body : Body)
    (s : State) (slots : Nat) (hbody : ∀ u, Formed u → ResFormed (body u)) (hs : Formed s) :
    OutFormed (issue i kinds p offRing body s slots) := by
  grind -ring -linarith -order [issue, trapMe_formed, holdMe_formed, retire_formed, finish_formed, setMyCrew_mem,
    OutFormed]

theorem pureBody_formed (f : Strand → Strand) (s : State) (hs : Formed s) : ResFormed (pureBody f s) := by
  grind -ring -linarith -order [pureBody, setMe_mem, ResFormed]

theorem trapReturn_formed (s : State) (hs : Formed s) : Formed (trapReturn s) := by
  grind -ring -linarith -order [trapReturn, setMyCrew_mem]

/-! ## Access.lean -/

theorem placesOf_formed (s : State) (a : Word) (n : Nat) (z : Nat) (need : BitVec 3) (margin : Nat) (hs : Formed s) :
    ResFormed (placesOf s a n z need margin) := by
  grind -ring -linarith -order [placesOf, agentPlaces_formed, StopFormed, ResFormed]

theorem inClass_formed (c : Nat) (body : Body) (s : State) (hbody : ∀ u, Formed u → ResFormed (body u))
    (hs : Formed s) : ResFormed (inClass c body s) := by
  grind -ring -linarith -order [inClass, StopFormed, ResFormed]

theorem loadPlaces_formed (s : State) (a : Word) (ps : List Place) (bytewise : Bool) (hs : Formed s) :
    ResFormed (loadPlaces s a ps bytewise) := by
  grind -ring -linarith -order [loadPlaces, agentLoad_formed, dropAsked_formed, ResFormed]

theorem loadBytes_formed (s : State) (a : Word) (n : Nat) (z : Nat) (al : Nat) (hs : Formed s) :
    ResFormed (loadBytes s a n z al) := by
  grind -ring -linarith -order [loadBytes, placesOf_formed, loadPlaces_formed, StopFormed, ResFormed]

theorem storeBytes_formed (s : State) (a : Word) (bs : List Byte) (z : Nat) (al : Nat) (c : Nat) (hs : Formed s) :
    ResFormed1 (storeBytes s a bs z al c) := by
  grind -ring -linarith -order [storeBytes, placesOf_formed, storePlaces_formed, countPlaces_formed, StopFormed,
    ResFormed, ResFormed1]

theorem sendParts_formed (w : Sender) (ps : List Place) (rs : List Ask) (s : State) (hs : Formed s) :
    Formed (sendParts w ps rs s).1 := by
  induction ps generalizing rs s with
  | nil => exact hs
  | cons p r ih =>
    unfold sendParts
    split
    · split
      · exact ih _ _ hs
      · exact ih _ _ (sendAsk_formed _ _ _ hs)
    · exact ih _ _ hs

theorem lateAccess_formed (s : State) (a : Word) (ps : List Place) (reqs : List Ask) (sd : BitVec 5) (size : Nat)
    (sext : Bool) (c : Nat) (more : BitVec 16) (hs : Formed s) :
    ResFormed1 (lateAccess s a ps reqs sd size sext c more) := by
  unfold lateAccess
  split
  · rename_i h
    exact askFaults_formed h hs
  · grind -ring -linarith -order [sendParts_formed, setMe_mem, StopFormed, ResFormed1]

theorem loadReg_formed (s : State) (a : Word) (n : Nat) (z : Nat) (sd : BitVec 5) (sext : Bool) (c : Nat)
    (more : BitVec 16) (hs : Formed s) : ResFormed1 (loadReg s a n z sd sext c more) := by
  grind -ring -linarith -order [loadReg, placesOf_formed, countPlaces_formed, lateAccess_formed, setMe_mem,
    StopFormed, ResFormed, ResFormed1]

theorem lostTrap_formed (s : State) (l : Late) (hs : Formed s) : Formed (lostTrap s l) := by
  grind -ring -linarith -order [lostTrap, takeTrap_formed, setMe_mem]

theorem atomic_formed (s : State) (a : Word) (fn n b c : Nat) (sd : BitVec 5) (cls : Nat) (hs : Formed s) :
    ResFormed1 (atomic s a fn n b c sd cls) := by
  unfold atomic
  split
  · trivial
  · split
    · trivial
    · split
      · trivial
      · have h1 := placesOf_formed s a n 0 3#3 0 hs
        split
        · rename_i he
          rw [he] at h1
          exact h1
        · rename_i he
          rw [he] at h1
          split
          · exact h1
          · split
            · split
              · exact h1
              · split
                · exact h1
                · exact lateAccess_formed _ _ _ _ _ _ _ _ _ h1
            · rw [ResFormed1, Formed, setMe_mem]
              exact wf_amoAt _ _ _ _ _ _ h1

/-! ## Operands.lean -/

theorem RowSpec_place_formed (x : Strand) (sp : RowSpec) : StopRes (sp.place x) := by
  unfold RowSpec.place
  split
  · trivial
  · split <;> trivial
  · trivial

theorem readRow_formed (c : Crew) (x : Strand) (sp : RowSpec) : StopRes (readRow c x sp) := by
  have h := RowSpec_place_formed x sp
  unfold readRow
  split
  · trivial
  · split
    · rename_i he
      rw [he] at h
      exact h
    · trivial
    · trivial

theorem engGate_formed (s : State) (e : Eng) (u : TileUse) (more : Bool) (hs : Formed s) :
    StopRes (engGate s e u more) := by
  grind -ring -linarith -order [engGate, StopFormed, StopRes]

theorem startOp_formed (s : State) (e : Eng) (u : TileUse) (o : EngOp) (hs : Formed s) :
    Formed (startOp s e u o) := by
  grind -ring -linarith -order [startOp, setMyCrew_mem]

theorem readRows_formed (c : Crew) (x : Strand) (x1 : List RowSpec) : StopRes (readRows c x x1) := by
  induction x1 with
  | nil => grind -ring -linarith -order [readRows, readRow_formed, StopRes]
  | cons y r ih => grind -ring -linarith -order [readRows, readRow_formed, StopRes]

theorem startVector_formed (s : State) (e : Eng) (u : TileUse) (dst : Option (Nat × Nat)) (row : Row)
    (hs : Formed s) : Formed (startVector s e u dst row) := by
  grind -ring -linarith -order [startVector, startOp_formed, setMyCrew_mem]

theorem vBody_formed (e : Eng) (v : VFields) (reads : List (RowSpec × BitVec 1)) (comp : VCalc)
    (hc : ∀ x rows, StopRes (comp x rows)) (s : State) (hs : Formed s) : ResFormed (vBody e v reads comp s) := by
  unfold vBody
  dsimp only
  have h1 := readRows_formed s.myCrew s.me (reads.map Prod.fst)
  split
  · rename_i he
    have h0 := engGate_formed s e (useOf reads (rowSpec v.dst) v.f) (reads.any fun r => ringWaits s.myCrew r.1) hs
    rw [he] at h0
    exact h0
  · split
    · rename_i he
      rw [he] at h1
      exact h1
    · have h2 := RowSpec_place_formed s.me (rowSpec v.dst)
      split
      · rename_i he
        rw [he] at h2
        exact h2
      · rename_i rows _ _ _ _
        have h3 := hc s.me rows
        split
        · rename_i he
          rw [he] at h3
          exact h3
        · exact startVector_formed _ _ _ _ _ hs

theorem calc1_formed (f : Row → Row) (x : Strand) (rows : List Row) : StopRes (calc1 f x rows) := by
  grind -ring -linarith -order [calc1, StopRes]

theorem calc2_formed (f : Row → Row → Row) (x : Strand) (rows : List Row) : StopRes (calc2 f x rows) := by
  grind -ring -linarith -order [calc2, StopRes]

theorem calc3_formed (f : Row → Row → Row → Row) (x : Strand) (rows : List Row) : StopRes (calc3 f x rows) := by
  grind -ring -linarith -order [calc3, StopRes]

/-! ## Barrier.lean -/

theorem heldBody_formed (e : Eng) (o : Order) (body : State → Res State) (s : State)
    (hbody : ∀ u, Formed u → ResFormed1 (body u)) (hs : Formed s) : ResFormed (heldBody e o body s) := by
  grind -ring -linarith -order [heldBody, setMyCrew_mem, setMe_mem, StopFormed, ResFormed, ResFormed1]

theorem payPosts_formed (i : Instr) (e : Eng) (s : State) (hs : Formed s) : OutFormed (payPosts i e s) := by
  grind -ring -linarith -order [payPosts, retire_formed, holdMe_formed, setMyCrew_mem, setMe_mem, OutFormed]

theorem heldIssue_formed (i : Instr) (e : Eng) (kinds : List StrandKind) (body : State → Res State) (s : State)
    (release : Bool) (hbody : ∀ u, Formed u → ResFormed1 (body u)) (hs : Formed s) :
    OutFormed (heldIssue i e kinds body s release) := by
  grind -ring -linarith -order [heldIssue, payPosts_formed, issue_formed, heldBody_formed]

theorem objectKey_formed (s : State) (p : Word) (al : Nat) (hs : Formed s) : StopRes (objectKey s p al) := by
  grind -ring -linarith -order [objectKey, placesOf_formed, StopFormed, StopRes, ResFormed]

theorem mapContext_formed (s : State) (crew : Nat) (launch : Nat) (task : Nat) (f : Crew → Crew) (hs : Formed s) :
    Formed (mapContext s crew launch task f) := by
  grind -ring -linarith -order [mapContext, setCrew_mem]

theorem notifyOverrun_formed (s : State) (crew : Nat) (launch : Nat) (task : Nat) (p : Word) (hs : Formed s) :
    Formed (notifyOverrun s crew launch task p) := by
  grind -ring -linarith -order [notifyOverrun, mapContext_formed]

theorem arrive_formed (s : State) (k : Nat) (p : Word) (n : Int) (hs : Formed s) : Formed (arrive s k p n).1 := by
  grind -ring -linarith -order [arrive, notifyOverrun_formed, wf_memWrite]

theorem arriveAt_formed (s : State) (cu : Nat) (p : Word) (n : Nat) (hs : Formed s) : Formed (arriveAt s cu p n) := by
  grind -ring -linarith -order [arriveAt, arrive_formed]

theorem barObject_formed (i : Instr) (s : State) (y : SyFields) (lim : Word → Bool) (hs : Formed s) :
    StopRes (barObject i s y lim) := by
  grind -ring -linarith -order [barObject, objectKey_formed, illegalWords, StopFormed, StopRes]

theorem binitBody_formed (i : Instr) (y : SyFields) (s : State) (hs : Formed s) : ResFormed1 (binitBody i y s) := by
  grind -ring -linarith -order [binitBody, barObject_formed, wf_memWrite, StopRes, ResFormed1]

theorem bexpectBody_formed (i : Instr) (y : SyFields) (s : State) (hs : Formed s) :
    ResFormed1 (bexpectBody i y s) := by
  grind -ring -linarith -order [bexpectBody, barObject_formed, arrive_formed, setMe_mem, StopFormed, StopRes,
    ResFormed1]

theorem barriveBody_formed (i : Instr) (y : SyFields) (s : State) (hs : Formed s) :
    ResFormed1 (barriveBody i y s) := by
  grind -ring -linarith -order [barriveBody, barObject_formed, arrive_formed, setMe_mem, StopRes, ResFormed1]

theorem bwaitBody_formed (i : Instr) (y : SyFields) (s : State) (hs : Formed s) : ResFormed1 (bwaitBody i y s) := by
  grind -ring -linarith -order [bwaitBody, barObject_formed, StopFormed, StopRes, ResFormed1]

theorem btestBody_formed (i : Instr) (y : SyFields) (s : State) (hs : Formed s) : ResFormed1 (btestBody i y s) := by
  grind -ring -linarith -order [btestBody, barObject_formed, setMe_mem, StopRes, ResFormed1]

theorem execBinit_formed (e : Eng) (y : SyFields) (s : State) (hs : Formed s) : OutFormed (execBinit e y s) := by
  grind -ring -linarith -order [execBinit, heldIssue_formed, binitBody_formed]

theorem execBexpect_formed (e : Eng) (y : SyFields) (s : State) (hs : Formed s) : OutFormed (execBexpect e y s) := by
  grind -ring -linarith -order [execBexpect, heldIssue_formed, bexpectBody_formed]

theorem execBarrive_formed (e : Eng) (y : SyFields) (s : State) (hs : Formed s) : OutFormed (execBarrive e y s) := by
  grind -ring -linarith -order [execBarrive, heldIssue_formed, barriveBody_formed]

theorem execBwait_formed (e : Eng) (y : SyFields) (s : State) (hs : Formed s) : OutFormed (execBwait e y s) := by
  grind -ring -linarith -order [execBwait, heldIssue_formed, bwaitBody_formed]

theorem execBtest_formed (e : Eng) (y : SyFields) (s : State) (hs : Formed s) : OutFormed (execBtest e y s) := by
  grind -ring -linarith -order [execBtest, heldIssue_formed, btestBody_formed]

theorem ringObject_formed (s : State) (p : Word) (hs : Formed s) : StopRes (ringObject s p) := by
  grind -ring -linarith -order [ringObject, objectKey_formed, StopFormed, StopRes]

theorem rinitBody_formed (i : Instr) (y : SyFields) (s : State) (hs : Formed s) : ResFormed1 (rinitBody i y s) := by
  grind -ring -linarith -order [rinitBody, objectKey_formed, illegalWords, wf_memWrite, StopFormed, StopRes, ResFormed1]

theorem rwaitfBody_formed (y : SyFields) (s : State) (hs : Formed s) : ResFormed1 (rwaitfBody y s) := by
  grind -ring -linarith -order [rwaitfBody, ringObject_formed, StopFormed, StopRes, ResFormed1]

theorem rrelBody_formed (i : Instr) (y : SyFields) (s : State) (hs : Formed s) : ResFormed1 (rrelBody i y s) := by
  grind -ring -linarith -order [rrelBody, ringObject_formed, illegalWords, wf_memWrite, StopFormed, StopRes, ResFormed1]

theorem execRinit_formed (e : Eng) (y : SyFields) (s : State) (hs : Formed s) : OutFormed (execRinit e y s) := by
  grind -ring -linarith -order [execRinit, heldIssue_formed, rinitBody_formed]

theorem execRwaitf_formed (e : Eng) (y : SyFields) (s : State) (hs : Formed s) : OutFormed (execRwaitf e y s) := by
  grind -ring -linarith -order [execRwaitf, heldIssue_formed, rwaitfBody_formed]

theorem execRrel_formed (e : Eng) (y : SyFields) (s : State) (hs : Formed s) : OutFormed (execRrel e y s) := by
  grind -ring -linarith -order [execRrel, heldIssue_formed, rrelBody_formed]

/-! ## Throttle.lean -/

theorem rampTurn_formed (s : State) (cu : Nat) (before : Bool) (hs : Formed s) : Formed (rampTurn s cu before) := by
  grind -ring -linarith -order [rampTurn, setCu_mem]

/-! ## Lease.lean -/

theorem endLease_formed (s : State) (cu : Nat) (hs : Formed s) : Formed (endLease s cu) := by
  grind -ring -linarith -order [endLease, rampTurn_formed, setCu_mem]

theorem grantLease_formed (s : State) (cu : Nat) (j : Nat) (hs : Formed s) : Formed (grantLease s cu j) := by
  grind -ring -linarith -order [grantLease, setCrew_mem, setCu_mem]

theorem arbitrate_formed (s : State) (cu : Nat) (hs : Formed s) : Formed (arbitrate s cu) := by
  grind -ring -linarith -order [arbitrate, grantLease_formed, endLease_formed, setCu_mem]

theorem execLeaseGrant_formed (cu : Nat) (s : State) (hs : Formed s) : OutFormed (execLeaseGrant cu s) := by
  grind -ring -linarith -order [execLeaseGrant, arbitrate_formed, OutFormed, notEnabled]

theorem execLeaseLimit_formed (cu : Nat) (s : State) (hs : Formed s) : OutFormed (execLeaseLimit cu s) := by
  grind -ring -linarith -order [execLeaseLimit, setCu_mem, OutFormed, notEnabled]

theorem execRampStep_formed (cu : Nat) (s : State) (hs : Formed s) : OutFormed (execRampStep cu s) := by
  grind -ring -linarith -order [execRampStep, setCu_mem, OutFormed, notEnabled]

end Sys2Proof.Machine
end

