-- ==== Sys2Proof/Laws/Form2.lean ====
section
/-! SUPPORT. The vector and matrix instructions, the copy engine, the fabric, the journal and the glaze unit keep the
canonical form of memory (Form.lean). -/
namespace Sys2Proof.Machine
set_option Elab.async false

/-! ## Vector.lean -/

theorem dropCalc_formed (i : Instr) (v : VFields) (x : Strand) (rows : List Row) : StopRes (dropCalc i v x rows) := by
  grind -ring -linarith -order [dropCalc, illegalWords, StopFormed, StopRes]

theorem vrngCalc_formed (i : Instr) (v : VFields) (x : Strand) (rows : List Row) : StopRes (vrngCalc i v x rows) := by
  grind -ring -linarith -order [vrngCalc, illegalWords, StopFormed, StopRes]

theorem cvtCalc_formed (i : Instr) (v : VFields) (x : Strand) (rows : List Row) : StopRes (cvtCalc i v x rows) := by
  grind -ring -linarith -order [cvtCalc, illegalWords, StopFormed, StopRes]

theorem piecePlaces_formed (n : Nat) (z : Nat) (x1 : List Word) (x2 : State) (hx2 : Formed x2) :
    ResFormed (piecePlaces n z x1 x2) := by
  induction x1 generalizing x2 with
  | nil => grind -ring -linarith -order [piecePlaces, placesOf_formed, ResFormed]
  | cons y r ih => grind -ring -linarith -order [piecePlaces, placesOf_formed, ResFormed]

theorem vLoadBody_formed (e : Eng) (v : VmFields) (n al pieces : Nat) (arrange : Row → Row) (s : State) (hs : Formed
  s) :
    ResFormed (vLoadBody e v n al pieces arrange s) := by
  unfold vLoadBody
  refine inClass_formed _ _ s (fun u hu => ?_) hs
  dsimp only
  (repeat' split) <;> grind -ring -linarith -order [engGate_formed, RowSpec_place_formed, piecePlaces_formed,
    loadPlaces_formed, startVector_formed, ResFormed, StopRes, StopFormed]

theorem vldB_formed (e : Eng) (v : VmFields) (s : State) (hs : Formed s) : ResFormed (vldB e v s) := by
  exact vLoadBody_formed (hs := hs) ..

theorem vldtB_formed (e : Eng) (v : VmFields) (s : State) (hs : Formed s) : ResFormed (vldtB e v s) := by
  exact vLoadBody_formed (hs := hs) ..

theorem vstB_formed (e : Eng) (v : VmFields) (s : State) (hs : Formed s) : ResFormed (vstB e v s) := by
  unfold vstB
  refine inClass_formed _ _ s (fun u hu => ?_) hs
  dsimp only
  (repeat' split) <;> grind -ring -linarith -order [engGate_formed, readRow_formed, placesOf_formed,
    countPlaces_formed, storePlaces_formed, startVector_formed, ResFormed, StopRes, StopFormed]

theorem gatherPlaces_formed (x1 : List Word) (x2 : State) (hx2 : Formed x2) : ResFormed (gatherPlaces x1 x2) := by
  induction x1 generalizing x2 with
  | nil => grind -ring -linarith -order [gatherPlaces, placesOf_formed, StopFormed, ResFormed]
  | cons y r ih => grind -ring -linarith -order [gatherPlaces, placesOf_formed, StopFormed, ResFormed]

theorem vgathB_formed (e : Eng) (v : VFields) (s : State) (hs : Formed s) : ResFormed (vgathB e v s) := by
  unfold vgathB
  refine inClass_formed _ _ s (fun u hu => ?_) hs
  dsimp only
  (repeat' split) <;> grind -ring -linarith -order [engGate_formed, readRow_formed, RowSpec_place_formed,
    gatherPlaces_formed, loadPlaces_formed, startVector_formed, ResFormed, StopRes]

theorem vaddB_formed (e : Eng) (v : VFields) (s : State) (hs : Formed s) : ResFormed (vaddB e v s) := by
  exact vBody_formed e v _ _ (by intros; trivial) s hs

theorem vsubB_formed (e : Eng) (v : VFields) (s : State) (hs : Formed s) : ResFormed (vsubB e v s) := by
  exact vBody_formed e v _ _ (by intros; trivial) s hs

theorem vmulB_formed (e : Eng) (v : VFields) (s : State) (hs : Formed s) : ResFormed (vmulB e v s) := by
  exact vBody_formed e v _ _ (by intros; trivial) s hs

theorem vfmaB_formed (e : Eng) (v : VFields) (s : State) (hs : Formed s) : ResFormed (vfmaB e v s) := by
  exact vBody_formed e v _ _ (by intros; trivial) s hs

theorem vminB_formed (e : Eng) (v : VFields) (s : State) (hs : Formed s) : ResFormed (vminB e v s) := by
  exact vBody_formed e v _ _ (by intros; trivial) s hs

theorem vmaxB_formed (e : Eng) (v : VFields) (s : State) (hs : Formed s) : ResFormed (vmaxB e v s) := by
  exact vBody_formed e v _ _ (by intros; trivial) s hs

theorem vabsB_formed (e : Eng) (v : VFields) (s : State) (hs : Formed s) : ResFormed (vabsB e v s) := by
  exact vBody_formed e v _ _ (by intros; trivial) s hs

theorem vnegB_formed (e : Eng) (v : VFields) (s : State) (hs : Formed s) : ResFormed (vnegB e v s) := by
  exact vBody_formed e v _ _ (by intros; trivial) s hs

theorem vexp2B_formed (e : Eng) (v : VFields) (s : State) (hs : Formed s) : ResFormed (vexp2B e v s) := by
  exact vBody_formed e v _ _ (by intros; trivial) s hs

theorem vlog2B_formed (e : Eng) (v : VFields) (s : State) (hs : Formed s) : ResFormed (vlog2B e v s) := by
  exact vBody_formed e v _ _ (by intros; trivial) s hs

theorem vrcpB_formed (e : Eng) (v : VFields) (s : State) (hs : Formed s) : ResFormed (vrcpB e v s) := by
  exact vBody_formed e v _ _ (by intros; trivial) s hs

theorem vrsqrtB_formed (e : Eng) (v : VFields) (s : State) (hs : Formed s) : ResFormed (vrsqrtB e v s) := by
  exact vBody_formed e v _ _ (by intros; trivial) s hs

theorem vtanhB_formed (e : Eng) (v : VFields) (s : State) (hs : Formed s) : ResFormed (vtanhB e v s) := by
  exact vBody_formed e v _ _ (by intros; trivial) s hs

theorem vandB_formed (e : Eng) (v : VFields) (s : State) (hs : Formed s) : ResFormed (vandB e v s) := by
  exact vBody_formed e v _ _ (by intros; trivial) s hs

theorem vorB_formed (e : Eng) (v : VFields) (s : State) (hs : Formed s) : ResFormed (vorB e v s) := by
  exact vBody_formed e v _ _ (by intros; trivial) s hs

theorem vxorB_formed (e : Eng) (v : VFields) (s : State) (hs : Formed s) : ResFormed (vxorB e v s) := by
  exact vBody_formed e v _ _ (by intros; trivial) s hs

theorem vshlB_formed (e : Eng) (v : VFields) (s : State) (hs : Formed s) : ResFormed (vshlB e v s) := by
  exact vBody_formed e v _ _ (by intros; trivial) s hs

theorem vshrB_formed (e : Eng) (v : VFields) (s : State) (hs : Formed s) : ResFormed (vshrB e v s) := by
  exact vBody_formed e v _ _ (by intros; trivial) s hs

theorem vsraB_formed (e : Eng) (v : VFields) (s : State) (hs : Formed s) : ResFormed (vsraB e v s) := by
  exact vBody_formed e v _ _ (by intros; trivial) s hs

theorem vcmpEqB_formed (e : Eng) (v : VFields) (s : State) (hs : Formed s) : ResFormed (vcmpEqB e v s) := by
  exact vBody_formed e v _ _ (by intros; trivial) s hs

theorem vcmpNeB_formed (e : Eng) (v : VFields) (s : State) (hs : Formed s) : ResFormed (vcmpNeB e v s) := by
  exact vBody_formed e v _ _ (by intros; trivial) s hs

theorem vcmpLtB_formed (e : Eng) (v : VFields) (s : State) (hs : Formed s) : ResFormed (vcmpLtB e v s) := by
  exact vBody_formed e v _ _ (by intros; trivial) s hs

theorem vcmpLeB_formed (e : Eng) (v : VFields) (s : State) (hs : Formed s) : ResFormed (vcmpLeB e v s) := by
  exact vBody_formed e v _ _ (by intros; trivial) s hs

theorem vselB_formed (e : Eng) (v : VFields) (s : State) (hs : Formed s) : ResFormed (vselB e v s) := by
  exact vBody_formed e v _ _ (by intros; trivial) s hs

theorem vcvtB_formed (e : Eng) (v : VFields) (s : State) (hs : Formed s) : ResFormed (vcvtB e v s) := by
  exact vBody_formed e v _ _ (cvtCalc_formed _ _) s hs

theorem vqblkB_formed (e : Eng) (v : VFields) (s : State) (hs : Formed s) : ResFormed (vqblkB e v s) := by
  exact vBody_formed e v _ _ (by intros; trivial) s hs

theorem vunpkB_formed (e : Eng) (v : VFields) (s : State) (hs : Formed s) : ResFormed (vunpkB e v s) := by
  exact vBody_formed e v _ _ (by intros; trivial) s hs

theorem vdropB_formed (e : Eng) (v : VFields) (s : State) (hs : Formed s) : ResFormed (vdropB e v s) := by
  exact vBody_formed e v _ _ (dropCalc_formed _ _) s hs

theorem vrsumB_formed (e : Eng) (v : VFields) (s : State) (hs : Formed s) : ResFormed (vrsumB e v s) := by
  exact vBody_formed e v _ _ (by intros; trivial) s hs

theorem vrmaxB_formed (e : Eng) (v : VFields) (s : State) (hs : Formed s) : ResFormed (vrmaxB e v s) := by
  exact vBody_formed e v _ _ (by intros; trivial) s hs

theorem vrminB_formed (e : Eng) (v : VFields) (s : State) (hs : Formed s) : ResFormed (vrminB e v s) := by
  exact vBody_formed e v _ _ (by intros; trivial) s hs

theorem vmovB_formed (e : Eng) (v : VFields) (s : State) (hs : Formed s) : ResFormed (vmovB e v s) := by
  exact vBody_formed e v _ _ (by intros; trivial) s hs

theorem vshufB_formed (e : Eng) (v : VFields) (s : State) (hs : Formed s) : ResFormed (vshufB e v s) := by
  exact vBody_formed e v _ _ (by intros; trivial) s hs

theorem viotaB_formed (e : Eng) (v : VFields) (s : State) (hs : Formed s) : ResFormed (viotaB e v s) := by
  exact vBody_formed e v _ _ (by intros; trivial) s hs

theorem vsplatB_formed (e : Eng) (v : VFields) (s : State) (hs : Formed s) : ResFormed (vsplatB e v s) := by
  exact vBody_formed e v _ _ (by intros; trivial) s hs

theorem vrngB_formed (e : Eng) (v : VFields) (s : State) (hs : Formed s) : ResFormed (vrngB e v s) := by
  exact vBody_formed e v _ _ (vrngCalc_formed _ _) s hs

theorem vtrnB_formed (e : Eng) (v : VFields) (s : State) (hs : Formed s) : ResFormed (vtrnB e v s) := by
  exact vBody_formed e v _ _ (by intros; trivial) s hs

theorem execVadd_formed (e : Eng) (v : VFields) (s : State) (hs : Formed s) : OutFormed (execVadd e v s) := by
  grind -ring -linarith -order [execVadd, issue_formed, vaddB_formed]

theorem execVsub_formed (e : Eng) (v : VFields) (s : State) (hs : Formed s) : OutFormed (execVsub e v s) := by
  grind -ring -linarith -order [execVsub, issue_formed, vsubB_formed]

theorem execVmul_formed (e : Eng) (v : VFields) (s : State) (hs : Formed s) : OutFormed (execVmul e v s) := by
  grind -ring -linarith -order [execVmul, issue_formed, vmulB_formed]

theorem execVfma_formed (e : Eng) (v : VFields) (s : State) (hs : Formed s) : OutFormed (execVfma e v s) := by
  grind -ring -linarith -order [execVfma, issue_formed, vfmaB_formed]

theorem execVmin_formed (e : Eng) (v : VFields) (s : State) (hs : Formed s) : OutFormed (execVmin e v s) := by
  grind -ring -linarith -order [execVmin, issue_formed, vminB_formed]

theorem execVmax_formed (e : Eng) (v : VFields) (s : State) (hs : Formed s) : OutFormed (execVmax e v s) := by
  grind -ring -linarith -order [execVmax, issue_formed, vmaxB_formed]

theorem execVabs_formed (e : Eng) (v : VFields) (s : State) (hs : Formed s) : OutFormed (execVabs e v s) := by
  grind -ring -linarith -order [execVabs, issue_formed, vabsB_formed]

theorem execVneg_formed (e : Eng) (v : VFields) (s : State) (hs : Formed s) : OutFormed (execVneg e v s) := by
  grind -ring -linarith -order [execVneg, issue_formed, vnegB_formed]

theorem execVexp2_formed (e : Eng) (v : VFields) (s : State) (hs : Formed s) : OutFormed (execVexp2 e v s) := by
  grind -ring -linarith -order [execVexp2, issue_formed, vexp2B_formed]

theorem execVlog2_formed (e : Eng) (v : VFields) (s : State) (hs : Formed s) : OutFormed (execVlog2 e v s) := by
  grind -ring -linarith -order [execVlog2, issue_formed, vlog2B_formed]

theorem execVrcp_formed (e : Eng) (v : VFields) (s : State) (hs : Formed s) : OutFormed (execVrcp e v s) := by
  grind -ring -linarith -order [execVrcp, issue_formed, vrcpB_formed]

theorem execVrsqrt_formed (e : Eng) (v : VFields) (s : State) (hs : Formed s) : OutFormed (execVrsqrt e v s) := by
  grind -ring -linarith -order [execVrsqrt, issue_formed, vrsqrtB_formed]

theorem execVtanh_formed (e : Eng) (v : VFields) (s : State) (hs : Formed s) : OutFormed (execVtanh e v s) := by
  grind -ring -linarith -order [execVtanh, issue_formed, vtanhB_formed]

theorem execVand_formed (e : Eng) (v : VFields) (s : State) (hs : Formed s) : OutFormed (execVand e v s) := by
  grind -ring -linarith -order [execVand, issue_formed, vandB_formed]

theorem execVor_formed (e : Eng) (v : VFields) (s : State) (hs : Formed s) : OutFormed (execVor e v s) := by
  grind -ring -linarith -order [execVor, issue_formed, vorB_formed]

theorem execVxor_formed (e : Eng) (v : VFields) (s : State) (hs : Formed s) : OutFormed (execVxor e v s) := by
  grind -ring -linarith -order [execVxor, issue_formed, vxorB_formed]

theorem execVshl_formed (e : Eng) (v : VFields) (s : State) (hs : Formed s) : OutFormed (execVshl e v s) := by
  grind -ring -linarith -order [execVshl, issue_formed, vshlB_formed]

theorem execVshr_formed (e : Eng) (v : VFields) (s : State) (hs : Formed s) : OutFormed (execVshr e v s) := by
  grind -ring -linarith -order [execVshr, issue_formed, vshrB_formed]

theorem execVsra_formed (e : Eng) (v : VFields) (s : State) (hs : Formed s) : OutFormed (execVsra e v s) := by
  grind -ring -linarith -order [execVsra, issue_formed, vsraB_formed]

theorem execVcmpEq_formed (e : Eng) (v : VFields) (s : State) (hs : Formed s) : OutFormed (execVcmpEq e v s) := by
  grind -ring -linarith -order [execVcmpEq, issue_formed, vcmpEqB_formed]

theorem execVcmpNe_formed (e : Eng) (v : VFields) (s : State) (hs : Formed s) : OutFormed (execVcmpNe e v s) := by
  grind -ring -linarith -order [execVcmpNe, issue_formed, vcmpNeB_formed]

theorem execVcmpLt_formed (e : Eng) (v : VFields) (s : State) (hs : Formed s) : OutFormed (execVcmpLt e v s) := by
  grind -ring -linarith -order [execVcmpLt, issue_formed, vcmpLtB_formed]

theorem execVcmpLe_formed (e : Eng) (v : VFields) (s : State) (hs : Formed s) : OutFormed (execVcmpLe e v s) := by
  grind -ring -linarith -order [execVcmpLe, issue_formed, vcmpLeB_formed]

theorem execVsel_formed (e : Eng) (v : VFields) (s : State) (hs : Formed s) : OutFormed (execVsel e v s) := by
  grind -ring -linarith -order [execVsel, issue_formed, vselB_formed]

theorem execVcvt_formed (e : Eng) (v : VFields) (s : State) (hs : Formed s) : OutFormed (execVcvt e v s) := by
  grind -ring -linarith -order [execVcvt, issue_formed, vcvtB_formed]

theorem execVqblk_formed (e : Eng) (v : VFields) (s : State) (hs : Formed s) : OutFormed (execVqblk e v s) := by
  grind -ring -linarith -order [execVqblk, issue_formed, vqblkB_formed]

theorem execVunpk_formed (e : Eng) (v : VFields) (s : State) (hs : Formed s) : OutFormed (execVunpk e v s) := by
  grind -ring -linarith -order [execVunpk, issue_formed, vunpkB_formed]

theorem execVdrop_formed (e : Eng) (v : VFields) (s : State) (hs : Formed s) : OutFormed (execVdrop e v s) := by
  grind -ring -linarith -order [execVdrop, issue_formed, vdropB_formed]

theorem execVrsum_formed (e : Eng) (v : VFields) (s : State) (hs : Formed s) : OutFormed (execVrsum e v s) := by
  grind -ring -linarith -order [execVrsum, issue_formed, vrsumB_formed]

theorem execVrmax_formed (e : Eng) (v : VFields) (s : State) (hs : Formed s) : OutFormed (execVrmax e v s) := by
  grind -ring -linarith -order [execVrmax, issue_formed, vrmaxB_formed]

theorem execVrmin_formed (e : Eng) (v : VFields) (s : State) (hs : Formed s) : OutFormed (execVrmin e v s) := by
  grind -ring -linarith -order [execVrmin, issue_formed, vrminB_formed]

theorem execVmov_formed (e : Eng) (v : VFields) (s : State) (hs : Formed s) : OutFormed (execVmov e v s) := by
  grind -ring -linarith -order [execVmov, issue_formed, vmovB_formed]

theorem execVshuf_formed (e : Eng) (v : VFields) (s : State) (hs : Formed s) : OutFormed (execVshuf e v s) := by
  grind -ring -linarith -order [execVshuf, issue_formed, vshufB_formed]

theorem execViota_formed (e : Eng) (v : VFields) (s : State) (hs : Formed s) : OutFormed (execViota e v s) := by
  grind -ring -linarith -order [execViota, issue_formed, viotaB_formed]

theorem execVsplat_formed (e : Eng) (v : VFields) (s : State) (hs : Formed s) : OutFormed (execVsplat e v s) := by
  grind -ring -linarith -order [execVsplat, issue_formed, vsplatB_formed]

theorem execVld_formed (e : Eng) (v : VmFields) (s : State) (hs : Formed s) : OutFormed (execVld e v s) := by
  grind -ring -linarith -order [execVld, issue_formed, vldB_formed]

theorem execVst_formed (e : Eng) (v : VmFields) (s : State) (hs : Formed s) : OutFormed (execVst e v s) := by
  grind -ring -linarith -order [execVst, issue_formed, vstB_formed]

theorem execVldt_formed (e : Eng) (v : VmFields) (s : State) (hs : Formed s) : OutFormed (execVldt e v s) := by
  grind -ring -linarith -order [execVldt, issue_formed, vldtB_formed]

theorem execVgath_formed (e : Eng) (v : VFields) (s : State) (hs : Formed s) : OutFormed (execVgath e v s) := by
  grind -ring -linarith -order [execVgath, issue_formed, vgathB_formed]

theorem execVrng_formed (e : Eng) (v : VFields) (s : State) (hs : Formed s) : OutFormed (execVrng e v s) := by
  grind -ring -linarith -order [execVrng, issue_formed, vrngB_formed]

theorem execVtrn_formed (e : Eng) (v : VFields) (s : State) (hs : Formed s) : OutFormed (execVtrn e v s) := by
  grind -ring -linarith -order [execVtrn, issue_formed, vtrnB_formed]

/-! ## Matrix.lean -/

theorem leaseCheck_formed (s : State) (hs : Formed s) : StopRes (leaseCheck s) := by
  grind -ring -linarith -order [leaseCheck, StopFormed, StopRes]

theorem countArray_formed (s : State) (hs : Formed s) : Formed (countArray s) := by
  grind -ring -linarith -order [countArray, setCu_mem]

theorem aleaseBody_formed (x : XFields) (s : State) (hs : Formed s) : ResFormed1 (aleaseBody x s) := by
  grind -ring -linarith -order [aleaseBody, rampTurn_formed, setCu_mem, setMe_mem, StopFormed, ResFormed1]

theorem areleaseBody_formed (s : State) (hs : Formed s) : ResFormed1 (areleaseBody s) := by
  grind -ring -linarith -order [areleaseBody, endLease_formed, setMyCrew_mem, StopFormed, ResFormed1]

theorem mBody_formed (e : Eng) (u : TileUse) (array : Bool) (busy : State → Option Nat) (op : State → Res
    (State × EngOp)) (s : State) (hop : ∀ u, Formed u → ResFormed (op u)) (hs : Formed s) :
    ResFormed (mBody e u array busy op s) := by
  grind -ring -linarith -order [mBody, leaseCheck_formed, engGate_formed, startOp_formed, countArray_formed,
    StopFormed, StopRes, ResFormed]

theorem ldsBody_formed (e : Eng) (u : TileUse) (part : State → Res PlanePart) (s : State)
    (hpart : ∀ u, Formed u → StopRes (part u)) (hs : Formed s) : ResFormed (ldsBody e u part s) := by
  unfold ldsBody
  refine mBody_formed e u _ _ _ s (fun v hv => ?_) hs
  have h := hpart v hv
  split
  · rename_i he
    rw [he] at h
    exact h
  · exact hv

theorem ldsB_formed (e : Eng) (x : XFields) (s : State) (hs : Formed s) : ResFormed (ldsB e x s) :=
  ldsBody_formed e _ _ s (fun _ _ => trivial) hs

theorem ldsPB_formed (e : Eng) (x : XFields) (s : State) (hs : Formed s) : ResFormed (ldsPB e x s) := by
  refine ldsBody_formed e _ _ s (fun u _ => ?_) hs
  dsimp only
  split <;> trivial

theorem ldsCbB_formed (e : Eng) (x : XFields) (s : State) (hs : Formed s) : ResFormed (ldsCbB e x s) :=
  ldsBody_formed e _ _ s (fun _ _ => trivial) hs

theorem ldsBsB_formed (e : Eng) (x : XFields) (s : State) (hs : Formed s) : ResFormed (ldsBsB e x s) :=
  ldsBody_formed e _ _ s (fun _ _ => trivial) hs

theorem mswapB_formed (e : Eng) (s : State) (hs : Formed s) : ResFormed (mswapB e s) :=
  mBody_formed e _ _ _ _ s (fun _ hu => hu) hs

theorem mmulBody_formed (i : Instr) (e : Eng) (x : XFields) (bs : Bool) (s : State) (hs : Formed s) :
    ResFormed (mmulBody i e x bs s) := by
  refine mBody_formed e _ _ _ _ s (fun u hu => ?_) hs
  dsimp only
  split
  · trivial
  · split
    · exact hu
    · exact countFor_formed _ _ _ _ hu

theorem mmulB_formed (e : Eng) (x : XFields) (s : State) (hs : Formed s) : ResFormed (mmulB e x s) := by
  exact mmulBody_formed (hs := hs) ..

theorem mmulBsB_formed (e : Eng) (x : XFields) (s : State) (hs : Formed s) : ResFormed (mmulBsB e x s) := by
  exact mmulBody_formed (hs := hs) ..

theorem drainPlaces_formed (dest : Word) (z : Nat) (pitch : Nat) (s : Nat) (x1 : List Nat) (x2 : State)
    (hx2 : Formed x2) : ResFormed (drainPlaces dest z pitch s x1 x2) := by
  induction x1 generalizing x2 with
  | nil => grind -ring -linarith -order [drainPlaces, placesOf_formed, ResFormed]
  | cons y r ih => grind -ring -linarith -order [drainPlaces, placesOf_formed, ResFormed]

theorem drainMem_formed (s : State) (r : List Word) (size : Nat) (n : Nat) (hs : Formed s) :
    ResFormed (drainMem s r size n) := by
  grind -ring -linarith -order [drainMem, drainPlaces_formed, StopFormed, ResFormed]

theorem mdrainB_formed (e : Eng) (x : XFields) (s : State) (hs : Formed s) : ResFormed (mdrainB e x s) := by
  refine mBody_formed e _ _ _ _ s (fun u hu => ?_) hs
  dsimp only
  split
  · trivial
  · have h := drainMem_formed u (u.me.regsFrom x.sn 5) (drainBytes x.fmt.toNat) (x.row.toNat + 1) hu
    split
    · rename_i he
      split at he
      · rw [he] at h
        exact h
      · cases he
    · rename_i s1 ps he
      have h1 : Formed s1 := by
        split at he
        · rw [he] at h
          exact h
        · cases he
          exact hu
      unfold ResFormed
      dsimp only
      split
      · rw [Formed, setMe_mem]
        exact h1
      · exact h1

theorem mzeroB_formed (e : Eng) (x : XFields) (s : State) (hs : Formed s) : ResFormed (mzeroB e x s) :=
  mBody_formed e _ _ _ _ s (fun _ hu => hu) hs

theorem mcbtB_formed (e : Eng) (x : XFields) (s : State) (hs : Formed s) : ResFormed (mcbtB e x s) :=
  mBody_formed e _ _ _ _ s (fun _ hu => hu) hs

theorem execAlease_formed (e : Eng) (x : XFields) (s : State) (hs : Formed s) : OutFormed (execAlease e x s) := by
  grind -ring -linarith -order [execAlease, heldIssue_formed, aleaseBody_formed]

theorem execArelease_formed (e : Eng) (x : XFields) (s : State) (hs : Formed s) : OutFormed (execArelease e x s) := by
  grind -ring -linarith -order [execArelease, heldIssue_formed, areleaseBody_formed]

theorem execLds_formed (e : Eng) (x : XFields) (s : State) (hs : Formed s) : OutFormed (execLds e x s) := by
  grind -ring -linarith -order [execLds, issue_formed, ldsB_formed]

theorem execLdsP_formed (e : Eng) (x : XFields) (s : State) (hs : Formed s) : OutFormed (execLdsP e x s) := by
  grind -ring -linarith -order [execLdsP, issue_formed, ldsPB_formed]

theorem execLdsCb_formed (e : Eng) (x : XFields) (s : State) (hs : Formed s) : OutFormed (execLdsCb e x s) := by
  grind -ring -linarith -order [execLdsCb, issue_formed, ldsCbB_formed]

theorem execLdsBs_formed (e : Eng) (x : XFields) (s : State) (hs : Formed s) : OutFormed (execLdsBs e x s) := by
  grind -ring -linarith -order [execLdsBs, issue_formed, ldsBsB_formed]

theorem execMswap_formed (e : Eng) (x : XFields) (s : State) (hs : Formed s) : OutFormed (execMswap e x s) := by
  grind -ring -linarith -order [execMswap, issue_formed, mswapB_formed]

theorem execMmul_formed (e : Eng) (x : XFields) (s : State) (hs : Formed s) : OutFormed (execMmul e x s) := by
  grind -ring -linarith -order [execMmul, issue_formed, mmulB_formed]

theorem execMmulBs_formed (e : Eng) (x : XFields) (s : State) (hs : Formed s) : OutFormed (execMmulBs e x s) := by
  grind -ring -linarith -order [execMmulBs, issue_formed, mmulBsB_formed]

theorem execMdrain_formed (e : Eng) (x : XFields) (s : State) (hs : Formed s) : OutFormed (execMdrain e x s) := by
  grind -ring -linarith -order [execMdrain, issue_formed, mdrainB_formed]

theorem execMzero_formed (e : Eng) (x : XFields) (s : State) (hs : Formed s) : OutFormed (execMzero e x s) := by
  grind -ring -linarith -order [execMzero, issue_formed, mzeroB_formed]

theorem execMcbt_formed (e : Eng) (x : XFields) (s : State) (hs : Formed s) : OutFormed (execMcbt e x s) := by
  grind -ring -linarith -order [execMcbt, issue_formed, mcbtB_formed]

theorem planesDone_formed (s : State) (crew : Nat) (o : EngOp) (hs : Formed s) : Formed (planesDone s crew o) := by
  grind -ring -linarith -order [planesDone, setCu_mem]

theorem partPlaces_formed (s : State) (crew : Nat) (o : EngOp) (p : RowPart) (hs : Formed s) :
    ResFormed (partPlaces s crew o p) := by
  grind -ring -linarith -order [partPlaces, agentPlaces_formed, ResFormed]

theorem storePart_formed (crew : Nat) (a : State × EngOp) (p : RowPart) (ha : Formed a.1) :
    Formed (storePart crew a p).1 := by
  have h := partPlaces_formed a.1 crew a.2 p ha
  unfold storePart
  dsimp only
  split
  · rename_i he
    rw [he] at h
    split
    · exact storePlaces_formed _ _ _ _ (countPlaces_formed _ _ _ _ h)
    · exact h
  · rename_i he
    rw [he] at h
    exact h
  · rename_i he
    rw [he] at h
    exact pushErr_formed _ _ _ _ _ _ (Stop_left_formed _ _ _ ha h)

theorem memSend_formed (s : State) (crew : Nat) (o : EngOp) (hs : Formed s) : Formed (memSend s crew o).1 :=
  foldl_formed1 (fun a p ha => storePart_formed crew a p ha) o.left (a := (s, o)) hs

theorem memArrive_formed (s : State) (crew : Nat) (o : EngOp) (hs : Formed s) : Formed (memArrive s crew o) :=
  foldl_formed (fun u _ hu => arriveAt_formed u _ _ _ hu) _ hs

theorem completeOp_formed (s : State) (crew : Nat) (o : EngOp) (hs : Formed s) : Formed (completeOp s crew o) := by
  grind -ring -linarith -order [completeOp, memArrive_formed, planesDone_formed, setCrew_mem]

theorem advanceOp_formed (s : State) (crew : Nat) (o : EngOp) (hs : Formed s) : Formed (advanceOp s crew o) := by
  have h : Formed (if o.left.isEmpty then (s, o) else memSend s crew o).1 := by
    split
    · exact hs
    · exact memSend_formed s crew o hs
  unfold advanceOp
  dsimp only
  have h1 := formed_ite (c := (if o.left.isEmpty then (s, o) else memSend s crew o).2.left.isEmpty = true)
    (dropWaiter_formed _ (.op crew o.id) h) h
  exact formed_ite (completeOp_formed _ _ _ h1) h1

theorem execEngineInstructionCompletion_formed (crew : Nat) (op : Nat) (s : State) (hs : Formed s) :
    OutFormed (execEngineInstructionCompletion crew op s) := by
  grind -ring -linarith -order [execEngineInstructionCompletion, advanceOp_formed, OutFormed, notEnabled]

/-! ## Copy.lean -/

theorem dCheck_formed (s : State) (i : Instr) (opc : Nat) (c : CpFields) (r : List Word) (hs : Formed s) :
    StopRes (dCheck s i opc c r) := by
  grind -ring -linarith -order [dCheck, illegalWords, StopFormed, StopRes]

theorem ringCheck_formed (s : State) (i : Instr) (c : CpFields) (r : List Word) (hs : Formed s) :
    StopRes (ringCheck s i c r) := by
  grind -ring -linarith -order [ringCheck, illegalWords, StopFormed, StopRes]

theorem enterEngine_formed (s : State) (e : Eng) (u : TileUse) (o : AsyncOp) (hs : Formed s) :
    Formed (enterEngine s e u o) := by
  grind -ring -linarith -order [enterEngine, setMyCrew_mem]

theorem startPromise_formed (s : State) (id : Nat) (sd : BitVec 5) (opc : Nat) (r : List Word) (hs : Formed s) :
    Formed (startPromise s id sd opc r) := by
  grind -ring -linarith -order [startPromise, setMyCrew_mem, setMe_mem]

theorem copyBody_formed (i : Instr) (opc : Nat) (e : Eng) (c : CpFields) (s : State) (hs : Formed s) :
    ResFormed (copyBody i opc e c s) := by
  grind -ring -linarith -order [copyBody, engGate_formed, dCheck_formed, ringCheck_formed, startPromise_formed,
    enterEngine_formed, StopFormed, StopRes, ResFormed]

theorem execCpy_formed (e : Eng) (c : CpFields) (s : State) (hs : Formed s) : OutFormed (execCpy e c s) := by
  grind -ring -linarith -order [execCpy, issue_formed, copyBody_formed]

theorem execCpyLd_formed (e : Eng) (c : CpFields) (s : State) (hs : Formed s) : OutFormed (execCpyLd e c s) := by
  grind -ring -linarith -order [execCpyLd, issue_formed, copyBody_formed]

theorem execCpySt_formed (e : Eng) (c : CpFields) (s : State) (hs : Formed s) : OutFormed (execCpySt e c s) := by
  grind -ring -linarith -order [execCpySt, issue_formed, copyBody_formed]

theorem execCgath_formed (e : Eng) (c : CpFields) (s : State) (hs : Formed s) : OutFormed (execCgath e c s) := by
  grind -ring -linarith -order [execCgath, issue_formed, copyBody_formed]

theorem execCscat_formed (e : Eng) (c : CpFields) (s : State) (hs : Formed s) : OutFormed (execCscat e c s) := by
  grind -ring -linarith -order [execCscat, issue_formed, copyBody_formed]

theorem execCred_formed (e : Eng) (c : CpFields) (s : State) (hs : Formed s) : OutFormed (execCred e c s) := by
  grind -ring -linarith -order [execCred, issue_formed, copyBody_formed]

theorem execCpref_formed (e : Eng) (c : CpFields) (s : State) (hs : Formed s) : OutFormed (execCpref e c s) := by
  grind -ring -linarith -order [execCpref, issue_formed, copyBody_formed]

theorem execCring_formed (e : Eng) (c : CpFields) (s : State) (hs : Formed s) : OutFormed (execCring e c s) := by
  grind -ring -linarith -order [execCring, issue_formed, copyBody_formed]

theorem opAnswer_formed (crew : Nat) (o : AsyncOp) (va : Nat) (need : BitVec 3) (side : Nat) (x1 : State × XAns)
    (hx1 : Formed x1.1) : ChkFormed (opAnswer crew o va need side x1) := by
  unfold opAnswer
  split
  · split
    · trivial
    · exact hx1
  · exact hx1
  · exact joinFault_formed _ _ _ _ _ _ _ _ _ _ _ hx1
  · trivial
  · trivial

theorem opRenew_formed (s : State) (crew : Nat) (o : AsyncOp) (t : Tlb) (va : Nat) (need : BitVec 3) (side : Nat)
    (hs : Formed s) : ChkFormed (opRenew s crew o t va need side) := by
  grind -ring -linarith -order [opRenew, opAnswer_formed, rewalkIn_formed]

theorem opXlate_formed (s : State) (crew : Nat) (o : AsyncOp) (va : Nat) (need : BitVec 3) (side : Nat)
    (hs : Formed s) : ChkFormed (opXlate s crew o va need side) := by
  grind -ring -linarith -order [opXlate, dropWaiter_formed, opAnswer_formed, xlate_formed, opRenew_formed, MissFormed,
    ChkFormed]

theorem opGlobal_formed (crew : Nat) (need : BitVec 3) (side : Nat) (x1 : Nat) (x2 : Nat) (x3 : Nat) (x4 : State)
    (x5 : AsyncOp) (hx4 : Formed x4) : ChkFormed (opGlobal crew need side x1 x2 x3 x4 x5) := by
  induction x1 generalizing x2 x3 x4 x5 with
  | zero => grind -ring -linarith -order [opGlobal, opXlate_formed, MissFormed, ChkFormed]
  | succ n ih => grind -ring -linarith -order [opGlobal, opXlate_formed, MissFormed, ChkFormed]

theorem opPlaces_formed (s : State) (crew : Nat) (o : AsyncOp) (a : Word) (n : Nat) (z : Nat)
    (need : BitVec 3) (side : Nat) (hs : Formed s) : ChkFormed (opPlaces s crew o a n z need side) := by
  grind -ring -linarith -order [opPlaces, opGlobal_formed, MissFormed, ChkFormed]

theorem dropReads_formed (s : State) (crew : Nat) (id : Nat) (hs : Formed s) : Formed (dropReads s crew id) := by
  grind -ring -linarith -order [dropReads]

theorem askPlace_formed (crew : Nat) (id : Nat) (s : State) (p : Place) (hs : Formed s) :
    Formed (askPlace crew id s p) := by
  grind -ring -linarith -order [askPlace, sendAsk_formed]

theorem opLoad_formed (s : State) (crew : Nat) (o : AsyncOp) (ps : List Place) (hs : Formed s) :
    MissLoad (opLoad s crew o ps) := by
  unfold opLoad
  dsimp only
  split
  · exact hs
  · split
    · rename_i h
      obtain ⟨p, -, hp⟩ := List.exists_of_findSome?_eq_some h
      exact askFault_formed hp hs
    · split
      · split
        · exact foldl_formed (fun u p hu => askPlace_formed _ _ _ _ hu) _ hs
        · trivial
      · split
        · trivial
        · exact hs

theorem readIndex_formed (s : State) (crew : Nat) (o : AsyncOp) (q : Nat) (hs : Formed s) :
    ChkFormed (readIndex s crew o q) := by
  grind -ring -linarith -order [readIndex, opPlaces_formed, opLoad_formed, MissLoad, MissFormed, ChkFormed]

theorem runIndex_formed (s : State) (crew : Nat) (o : AsyncOp) (q : Nat) (hs : Formed s) :
    ChkFormed (runIndex s crew o q) := by
  grind -ring -linarith -order [runIndex, countPlaces_formed, readIndex_formed, MissFormed, ChkFormed]

theorem checkRun_formed (s : State) (crew : Nat) (o : AsyncOp) (q : Nat) (n : Nat) (hs : Formed s) :
    ChkFormed (checkRun s crew o q n) := by
  grind -ring -linarith -order [checkRun, runIndex_formed, opPlaces_formed, ChkFormed]

theorem checkRuns_formed (crew : Nat) (x1 : List (Nat × Nat)) (x2 : State) (x3 : AsyncOp) (hx2 : Formed x2) :
    ChkFormed (checkRuns crew x1 x2 x3) := by
  induction x1 generalizing x2 x3 with
  | nil => grind -ring -linarith -order [checkRuns, checkRun_formed, ChkFormed]
  | cons y r ih => grind -ring -linarith -order [checkRuns, checkRun_formed, ChkFormed]

theorem rewalk_formed (crew : Nat) (x1 : List (Nat × Nat)) (x2 : State) (x3 : AsyncOp) (hx2 : Formed x2) :
    ChkFormed (rewalk crew x1 x2 x3) := by
  induction x1 generalizing x2 x3 with
  | nil => grind -ring -linarith -order [rewalk, opRenew_formed, MissFormed, ChkFormed]
  | cons y r ih => grind -ring -linarith -order [rewalk, opRenew_formed, MissFormed, ChkFormed]

theorem pagesOfRuns_formed (crew : Nat) (x1 : List (Nat × Nat)) (x2 : State) (x3 : AsyncOp) (hx2 : Formed x2) :
    ChkFormed (pagesOfRuns crew x1 x2 x3) := by
  induction x1 generalizing x2 x3 with
  | nil => exact hx2
  | cons y r ih =>
    unfold pagesOfRuns
    dsimp only
    (repeat' split) <;> grind -ring -linarith -order [readIndex_formed, MissFormed, ChkFormed]

theorem chunkCheck_formed (s : State) (crew : Nat) (o : AsyncOp) (hs : Formed s) :
    ChkFormed (chunkCheck s crew o) := by
  grind -ring -linarith -order [chunkCheck, pagesOfRuns_formed, rewalk_formed, ChkFormed]

theorem redPlaces_formed (rop : Nat) (ty : Nat) (x1 : List Place) (x2 : List Byte) (x3 : State) (hx3 : Formed x3) :
    Formed (redPlaces rop ty x1 x2 x3) := by
  induction x1 generalizing x2 x3 with
  | nil => grind -ring -linarith -order [redPlaces, wf_redAt]
  | cons y r ih => grind -ring -linarith -order [redPlaces, wf_redAt]

theorem credHere_formed (crew : Nat) (o : AsyncOp) (w : Win) (s : State) (p : Place × List Byte) (hs : Formed s) :
    Formed (credHere crew o w s p) := by
  grind -ring -linarith -order [credHere, pushErr_formed, wf_redAt]

theorem credSend_formed (crew : Nat) (o : AsyncOp) (ps : Parts) (s : State) (hs : Formed s) :
    Formed (credSend crew o ps s) := by
  unfold credSend
  refine foldl_formed (fun u w hu => foldl_formed (fun v x hv => ?_) _ hu) _ hs
  dsimp only
  exact formed_ite (foldl_formed (fun y p hy => credHere_formed _ _ _ y p hy) _ hv) (sendRemote_formed _ _ _ _ _ _ _
    hv)

theorem writeRun_formed (crew : Nat) (o : AsyncOp) (s : State) (x : Run) (bs : List Byte) (hs : Formed s) :
    Formed (writeRun crew o s x bs) := by
  grind -ring -linarith -order [writeRun, redPlaces_formed, countPlaces_formed, storePlaces_formed, setCrew_mem]

theorem writeRuns_formed (crew : Nat) (o : AsyncOp) (rs : List (Run × List Byte)) (s : State) (hs : Formed s) :
    Formed (writeRuns crew o rs s) :=
  foldl_formed (fun u p hu => writeRun_formed crew o u p.1 p.2 hu) rs hs

theorem credOpen_formed (crew : Nat) (all : List Run) (x : Run) (x1 : List Place) (x2 : List Byte) (x3 : State)
    (x4 : AsyncOp) (hx3 : Formed x3) : Formed (credOpen crew all x x1 x2 x3 x4).1 := by
  induction x1 generalizing x2 x3 x4 with
  | nil => grind -ring -linarith -order [credOpen, wf_memWrite]
  | cons y r ih => grind -ring -linarith -order [credOpen, wf_memWrite]

theorem writeOpen_formed (crew : Nat) (all : List Run) (so : State × AsyncOp) (x : Run) (bs : List Byte)
    (hso : Formed so.1) : Formed (writeOpen crew all so x bs).1 := by
  grind -ring -linarith -order [writeOpen, credOpen_formed, countPlaces_formed, writeRun_formed]

theorem performRuns_formed (s : State) (crew : Nat) (o : AsyncOp) (rs : List (Run × List Byte)) (hs : Formed s) :
    Formed (performRuns s crew o rs).1 := by
  unfold performRuns
  dsimp only
  split
  · exact foldl_formed1 (fun t p ht => writeOpen_formed crew _ t p.1 p.2 ht) _ hs
  · exact writeRuns_formed crew o rs s hs

theorem unitDone_formed (s : State) (crew : Nat) (o : AsyncOp) (n : Nat) (hs : Formed s) :
    Formed (unitDone s crew o n) := by
  grind -ring -linarith -order [unitDone, dropWaiter_formed, dropReads_formed, arriveAt_formed, setOp_mem]

theorem prefPage_formed (crew : Nat) (s : State) (o : AsyncOp) (vp : Nat) (hs : Formed s) :
    ChkFormed (prefPage crew s o vp) := by
  grind -ring -linarith -order [prefPage, walkIn_formed, MissFormed, ChkFormed]

theorem prefPages_formed (crew : Nat) (x1 : List Nat) (x2 : State) (x3 : AsyncOp) (hx2 : Formed x2) :
    ChkFormed (prefPages crew x1 x2 x3) := by
  induction x1 generalizing x2 x3 with
  | nil => grind -ring -linarith -order [prefPages, prefPage_formed, ChkFormed]
  | cons y r ih => grind -ring -linarith -order [prefPages, prefPage_formed, ChkFormed]

theorem prefRuns_formed (crew : Nat) (x1 : List (Nat × Nat)) (x2 : State) (x3 : AsyncOp) (hx2 : Formed x2) :
    ChkFormed (prefRuns crew x1 x2 x3) := by
  induction x1 generalizing x2 x3 with
  | nil => exact hx2
  | cons y r ih =>
    rw [prefRuns]
    split
    · exact hx2
    · split
      · rename_i he
        exact ChkFormed.of_error he (prefPages_formed _ _ _ _ hx2)
      · rename_i he
        exact ih _ _ (ChkFormed.of_ok he (prefPages_formed _ _ _ _ hx2))

theorem unitStep_formed (s : State) (crew : Nat) (o : AsyncOp) (hs : Formed s) : MissRes (unitStep s crew o) := by
  unfold unitStep
  dsimp only
  (repeat' split) <;> grind -ring -linarith -order [prefRuns_formed, chunkCheck_formed, checkRuns_formed,
    opLoad_formed, unitDone_formed, performRuns_formed, countPlaces_formed, credSend_formed,
    setOp_mem, MissRes, MissLoad, ChkFormed, MissFormed]

theorem missState_formed (crew prog : Nat) (o : AsyncOp) (x1 : Except Miss State) (hx1 : MissRes x1) :
    OptFormed (missState crew prog o x1) := by
  unfold missState
  split
  · exact hx1
  · trivial
  · exact hx1
  · rw [OptFormed, Formed, setOp_mem]
    exact dropReads_formed _ _ _ hx1
  · trivial

theorem copyUnit_formed (s : State) (crew : Nat) (o : AsyncOp) (hs : Formed s) : OptFormed (copyUnit s crew o) := by
  unfold copyUnit
  split
  · trivial
  · split
    · split
      · trivial
      · exact unitDone_formed _ _ _ _ hs
    · split
      · trivial
      · exact missState_formed _ _ _ _ (unitStep_formed s crew o.anew hs)

theorem execCopyUnit_formed (crew : Nat) (op : Nat) (s : State) (hs : Formed s) :
    OutFormed (execCopyUnit crew op s) := by
  grind -ring -linarith -order [execCopyUnit, copyUnit_formed, OptFormed, OutFormed, notEnabled]

theorem ringAdvance_formed (s : State) (crew : Nat) (o : AsyncOp) (hs : Formed s) :
    Formed (ringAdvance s crew o) := by
  grind -ring -linarith -order [ringAdvance, wf_memWrite]

theorem copyComplete_formed (s : State) (crew : Nat) (o : AsyncOp) (hs : Formed s) :
    Formed (copyComplete s crew o) := by
  grind -ring -linarith -order [copyComplete, ringAdvance_formed, setCrew_mem]

theorem execCopyCompletion_formed (crew : Nat) (op : Nat) (s : State) (hs : Formed s) :
    OutFormed (execCopyCompletion crew op s) := by
  grind -ring -linarith -order [execCopyCompletion, copyComplete_formed, OutFormed, notEnabled]

/-! ## Fabric.lean -/

theorem groupWindow_formed (s : State) (p : Word) (hs : Formed s) : ResFormed (groupWindow s p) := by
  grind -ring -linarith -order [groupWindow, agentXlate_formed, StopFormed, ResFormed]

theorem fabPointers_formed (s : State) (ps : List Word) (bar : Word) (hs : Formed s) :
    StopRes (fabPointers s ps bar) := by
  grind -ring -linarith -order [fabPointers, StopFormed, StopRes]

theorem fabBody_formed (e : Eng) (bar : Word) (check : State → Res (State × AsyncOp))
    (after : Nat → State → State) (s : State) (hcheck : ∀ u, Formed u → ResFormed (check u)) (hafter : ∀ k u, Formed
    u → Formed (after k u)) (hs : Formed s) :
    ResFormed (fabBody e bar check after s) := by
  grind -ring -linarith -order [fabBody, engGate_formed, enterEngine_formed, StopFormed, StopRes, ResFormed]

theorem roomBody_formed (body : State → Res State) (s : State) (hbody : ∀ u, Formed u → ResFormed1 (body u))
    (hs : Formed s) : ResFormed1 (roomBody body s) := by
  grind -ring -linarith -order [roomBody, StopFormed, ResFormed1]

theorem fabEnd_formed (s : State) (crew : Nat) (o : AsyncOp) (sd : Word) (bar : Word) (n : Nat) (hs : Formed s) :
    Formed (fabEnd s crew o sd bar n) := by
  grind -ring -linarith -order [fabEnd, dropWaiter_formed, dropReads_formed, arriveAt_formed, setCrew_mem]

theorem payload_formed (k : Nat) (s : State) (group n : Nat) (hs : Formed s) : Formed (payload k s group n) := by
  grind -ring -linarith -order [payload, countFor_formed]

theorem addChunk_formed (s : State) (c : Chunk) (hs : Formed s) : Formed (addChunk s c) := by
  grind -ring -linarith -order [addChunk]

theorem chunkTo_formed (crew : Nat) (op : Option Nat) (w : Win) (kind : Nat) (c : Chunk) (s : State) (x : Nat)
    (hs : Formed s) : Formed (chunkTo crew op w kind c s x) := by
  grind -ring -linarith -order [chunkTo, countFor_formed, pushErr_formed, sendMsg_formed]

theorem chunkToAll_formed (crew : Nat) (op : Option Nat) (w : Win) (c : Chunk) (s : State) (hs : Formed s) :
    Formed (chunkToAll crew op w c s) :=
  foldl_formed (fun u _ hu => formed_ite (addChunk_formed u c hu) (chunkTo_formed _ _ _ _ _ u _ hu)) _ hs

theorem ackTo_formed (s : State) (kind : Nat) (rank : Nat) (group : Nat) (nums : List Nat) (data : List Byte)
    (hs : Formed s) : Formed (ackTo s kind rank group nums data) := by
  grind -ring -linarith -order [ackTo, pushOut_formed]

theorem openCheck_formed (i : Instr) (c : CpFields) (s : State) (hs : Formed s) : ResFormed (openCheck i c s) := by
  grind -ring -linarith -order [openCheck, groupWindow_formed, illegalWords, StopFormed, ResFormed]

theorem claim_formed (id : Nat) (s : State) (hs : Formed s) : Formed (claim id s) := by
  grind -ring -linarith -order [claim]

theorem execCollOpen_formed (e : Eng) (c : CpFields) (s : State) (hs : Formed s) :
    OutFormed (execCollOpen e c s) := by
  grind -ring -linarith -order [execCollOpen, issue_formed, fabBody_formed, openCheck_formed, claim_formed]

theorem openLeave_formed (s : State) (crew : Nat) (o : AsyncOp) (hs : Formed s) : Formed (openLeave s crew o) := by
  grind -ring -linarith -order [openLeave, setCrew_mem]

theorem openEnd_formed (s : State) (crew : Nat) (o : AsyncOp) (pd : Bool) (sd : Word) (hs : Formed s) :
    Formed (openEnd s crew o pd sd) := by
  grind -ring -linarith -order [openEnd, openLeave_formed, setCrew_mem]

theorem grantContext_formed (s : State) (crew : Nat) (o : AsyncOp) (h : Nat) (staging : Nat) (tenant : Nat)
    (hs : Formed s) : Formed (grantContext s crew o h staging tenant) := by
  grind -ring -linarith -order [grantContext, chunkToAll_formed, addChunk_formed]

theorem decideClaim_formed (s : State) (k : Claim) (o : AsyncOp) (hs : Formed s) : Formed (decideClaim s k o) := by
  unfold decideClaim
  dsimp only
  split
  · exact openEnd_formed _ _ _ _ _ hs
  · split
    · exact openEnd_formed _ _ _ _ _ hs
    · split
      · exact openEnd_formed _ _ _ _ _ hs
      · exact openEnd_formed _ _ _ _ _ (grantContext_formed _ _ _ _ _ _ hs)

theorem execReductionContextClaim_formed (s : State) (hs : Formed s) : OutFormed (execReductionContextClaim s) := by
  unfold execReductionContextClaim
  split
  · trivial
  · dsimp only
    split
    · exact hs
    · split
      · trivial
      · exact decideClaim_formed _ _ _ hs

theorem closeContext_formed (s : State) (h : Nat) (hs : Formed s) : Formed (closeContext s h) := by
  unfold closeContext
  split
  · exact hs
  · dsimp only
    split
    · exact hs
    · exact foldl_formed (fun u _ hu => formed_ite hu (chunkTo_formed _ _ _ _ _ u _ hu)) _ hs

theorem closeBody_formed (i : Instr) (c : CpFields) (s : State) (hs : Formed s) : ResFormed1 (closeBody i c s) := by
  grind -ring -linarith -order [closeBody, closeContext_formed, illegalWords, setMe_mem, StopFormed, ResFormed1]

theorem execCollClose_formed (e : Eng) (c : CpFields) (s : State) (hs : Formed s) :
    OutFormed (execCollClose e c s) := by
  grind -ring -linarith -order [execCollClose, heldIssue_formed, roomBody_formed, closeBody_formed]

theorem closeHandles_formed (s : State) (launch task : Nat) (hs : Formed s) : Formed (closeHandles s launch task) :=
  foldl_formed (fun u _ hu => formed_ite (closeContext_formed u _ hu) hu) _ hs

theorem collCheck_formed (i : Instr) (opc : Nat) (c : CpFields) (s : State) (hs : Formed s) :
    ResFormed (collCheck i opc c s) := by
  grind -ring -linarith -order [collCheck, fabPointers_formed, illegalWords, StopFormed, StopRes, ResFormed]

theorem countIssue_formed (v : Word) (s : State) (hs : Formed s) : Formed (countIssue v s) := by
  grind -ring -linarith -order [countIssue]

theorem collBody_formed (i : Instr) (opc : Nat) (e : Eng) (c : CpFields) (s : State) (hs : Formed s) :
    ResFormed (collBody i opc e c s) := by
  grind -ring -linarith -order [collBody, fabBody_formed, collCheck_formed, countIssue_formed]

theorem execCollAred_formed (e : Eng) (c : CpFields) (s : State) (hs : Formed s) :
    OutFormed (execCollAred e c s) := by
  grind -ring -linarith -order [execCollAred, issue_formed, collBody_formed]

theorem execCollAgath_formed (e : Eng) (c : CpFields) (s : State) (hs : Formed s) :
    OutFormed (execCollAgath e c s) := by
  grind -ring -linarith -order [execCollAgath, issue_formed, collBody_formed]

theorem execCollBcast_formed (e : Eng) (c : CpFields) (s : State) (hs : Formed s) :
    OutFormed (execCollBcast e c s) := by
  grind -ring -linarith -order [execCollBcast, issue_formed, collBody_formed]

theorem regionCheck_formed (s : State) (crew : Nat) (o : AsyncOp) (base : Word) (total : Nat) (side : Nat)
    (hs : Formed s) : ChkFormed (regionCheck s crew o base total side) := by
  grind -ring -linarith -order [regionCheck, rewalk_formed, ChkFormed]

theorem unitPlaces_formed (s : State) (crew : Nat) (o : AsyncOp) (base : Word) (total : Nat) (need : BitVec 3)
    (side : Nat) (hs : Formed s) : ChkFormed (unitPlaces s crew o base total need side) := by
  grind -ring -linarith -order [unitPlaces, regionCheck_formed, opPlaces_formed, ChkFormed]

theorem readUnit_formed (s : State) (crew : Nat) (o : AsyncOp) (base : Word) (total : Nat) (hs : Formed s) :
    MissRes (readUnit s crew o base total) := by
  grind -ring -linarith -order [readUnit, unitPlaces_formed, opLoad_formed, countPlaces_formed, dropReads_formed,
    setOp_mem, MissLoad, MissFormed, ChkFormed, MissRes]

theorem writeUnit_formed (s : State) (crew : Nat) (o : AsyncOp) (base : Word) (total : Nat) (bs : List Byte)
    (hs : Formed s) : MissRes (writeUnit s crew o base total bs) := by
  grind -ring -linarith -order [writeUnit, unitPlaces_formed, storePlaces_formed, countPlaces_formed, setOp_mem,
    MissFormed, ChkFormed, MissRes]

theorem contribute_formed (s : State) (crew : Nat) (o : AsyncOp) (hs : Formed s) : Formed (contribute s crew o) := by
  unfold contribute
  split
  · exact hs
  · rw [Formed, setOp_mem]
    exact foldl_formed (fun u _ hu => chunkToAll_formed _ _ _ _ u hu) _ hs

theorem sendSums_formed (s : State) (crew : Nat) (o : AsyncOp) (st mark : Nat) (dsts vs : List Nat) (hs : Formed s) :
    Formed (sendSums s crew o st mark dsts vs) := by
  unfold sendSums
  split
  · exact hs
  · rw [Formed, setOp_mem]
    exact foldl_formed (fun u x hu => foldl_formed (fun v c hv => chunkTo_formed _ _ _ _ _ v _ hv) _ hu) _ hs

theorem treeStep_formed (s : State) (crew : Nat) (o : AsyncOp) (t : Nat) (hs : Formed s) :
    MayFormed (treeStep s crew o t) := by
  unfold treeStep
  split
  · exact sendSums_formed _ _ _ _ _ _ _ hs
  · split
    · trivial
    · cases treeResult s o t with
      | none => trivial
      | some vs => exact sendSums_formed _ _ _ _ _ _ _ hs

theorem treeSteps_formed {s t : State} {crew : Nat} {o : AsyncOp} {l : List Nat}
    (h : l.findSome? (treeStep s crew o) = some t) (hs : Formed s) : Formed t := by
  obtain ⟨x, -, hx⟩ := List.exists_of_findSome?_eq_some h
  have h1 := treeStep_formed s crew o x hs
  rw [hx] at h1
  exact h1

theorem tellReached_formed (w : Win) (kind : Nat) (c : State → Chunk) (s : State) (hs : Formed s) :
    Formed (tellReached w kind c s) :=
  foldl_formed (fun u _ hu => formed_ite hu (chunkTo_formed _ _ _ _ _ u _ hu)) _ hs

theorem looseBytes_formed (s : State) (crew : Nat) (o : AsyncOp) (base : Word) (total : Nat) (hs : Formed s) :
    Formed (looseBytes s crew o base total) := by
  unfold looseBytes
  dsimp only
  refine foldl_formed1 (fun a u ha => ?_) _ hs
  have h := unitPlaces_formed a.1 crew { a.2 with next := u } base total 2#3 1 ha
  split
  · exact ha
  · rename_i he
    rw [he] at h
    exact foldl_formed (fun v q hv => formed_ite hv (wf_memWrite _ _ _ hv)) _ h

theorem lostEnd_formed (s : State) (crew : Nat) (o : AsyncOp) (base : Word) (total : Nat) (hs : Formed s) :
    Formed (lostEnd s crew o base total) := by
  grind -ring -linarith -order [lostEnd, fabEnd_formed, looseBytes_formed]

theorem loseHandle_formed (s : State) (o : AsyncOp) (hs : Formed s) : Formed (loseHandle s o) := by
  grind -ring -linarith -order [loseHandle, tellReached_formed]

theorem collStep_formed (s : State) (crew : Nat) (o : AsyncOp) (hs : Formed s) : MissRes (collStep s crew o) := by
  unfold collStep
  dsimp only
  split
  · exact lostEnd_formed _ _ _ _ _ (loseHandle_formed _ _ hs)
  · exact fabEnd_formed _ _ _ _ _ _ hs
  · trivial
  · split
    · split
      · exact readUnit_formed _ _ _ _ _ hs
      · exact contribute_formed _ _ _ hs
    · split
      · exact fabEnd_formed _ _ _ _ _ _ hs
      · trivial
      · split
        · split
          · rename_i h
            exact treeSteps_formed h hs
          · trivial
        · split
          · exact writeUnit_formed _ _ _ _ _ _ hs
          · split
            · trivial
            · exact fabEnd_formed _ _ _ _ _ _ hs

theorem sendCheck_formed (i : Instr) (opc : Nat) (c : CpFields) (s : State) (hs : Formed s) :
    ResFormed (sendCheck i opc c s) := by
  grind -ring -linarith -order [sendCheck, groupWindow_formed, fabPointers_formed, illegalWords, StopFormed, StopRes,
    ResFormed]

theorem nextSeq_formed (n : Nat) (s : State) (hs : Formed s) : Formed (nextSeq n s) := hs

theorem sendBody_formed (i : Instr) (opc : Nat) (e : Eng) (c : CpFields) (s : State) (hs : Formed s) :
    ResFormed (sendBody i opc e c s) := by
  grind -ring -linarith -order [sendBody, fabBody_formed, sendCheck_formed, nextSeq_formed]

theorem execSend_formed (e : Eng) (c : CpFields) (s : State) (hs : Formed s) : OutFormed (execSend e c s) := by
  grind -ring -linarith -order [execSend, issue_formed, sendBody_formed]

theorem execRecv_formed (e : Eng) (c : CpFields) (s : State) (hs : Formed s) : OutFormed (execRecv e c s) := by
  grind -ring -linarith -order [execRecv, issue_formed, sendBody_formed]

theorem sendChunk_formed (s : State) (crew : Nat) (o : AsyncOp) (w : Win) (number : Nat) (kind : Nat)
    (data : List Byte) (hs : Formed s) : Formed (sendChunk s crew o w number kind data) := by
  grind -ring -linarith -order [sendChunk, addChunk_formed, sendMsg_formed, countFor_formed]

theorem tellLost_formed (s : State) (o : AsyncOp) (hs : Formed s) : Formed (tellLost s o) := by
  grind -ring -linarith -order [tellLost, tellReached_formed]

theorem loseGroup_formed (s : State) (group : Nat) (hs : Formed s) : Formed (loseGroup s group) := hs

theorem sendStep_formed (s : State) (crew : Nat) (o : AsyncOp) (hs : Formed s) : MissRes (sendStep s crew o) := by
  unfold sendStep
  dsimp only
  split
  · exact fabEnd_formed _ _ _ _ _ _ (tellLost_formed _ _ hs)
  · split
    · split
      · trivial
      · exact (setOp_mem _ _ _).symm.subst (motive := fun m => Memory.wf m = true) (sendChunk_formed _ _ _ _ _ _ _ hs)
    · split
      · split
        · trivial
        · exact (setOp_mem _ _ _).symm.subst (motive := fun m => Memory.wf m = true) (dropReads_formed _ _ _ hs)
      · split
        · split
          · exact readUnit_formed _ _ _ _ _ hs
          · refine (setOp_mem _ _ _).symm.subst (motive := fun m => Memory.wf m = true) ?_
            exact foldl_formed (fun u _ hu => formed_ite hu (sendChunk_formed _ _ _ _ _ _ _ hu)) _ hs
        · split
          · trivial
          · exact fabEnd_formed _ _ _ _ _ _ hs

theorem opConflict_formed (s : State) (crew : Nat) (id : Nat) (hs : Formed s) : Formed (opConflict s crew id) := by
  grind -ring -linarith -order [opConflict, setOp_mem, setCrew_mem]

theorem answerLate_formed (s : State) (w : RemoteWait) (bs : Option (List Byte)) (hs : Formed s) :
    Formed (answerLate s w bs) := by
  grind -ring -linarith -order [answerLate, dropTag_formed, mapLate_formed, setStrand_mem]

theorem acknowledge_formed (s : State) (tag : Nat) (data : List Byte) (hs : Formed s) :
    Formed (acknowledge s tag data) := by
  unfold acknowledge
  split
  · exact hs
  · rename_i w _
    dsimp only
    have hu := formed_ite (c := w.msg.kind = 1 ∧ (data.headD 0#8).toNat ≠ 0)
      (pushErr_formed s 3 4 (s.crew w.crew).tenant w.crew 0 hs) hs
    have hw := dropTag_formed _ tag hu
    refine formed_ite (answerLate_formed _ _ _ hu) (formed_ite hu (formed_ite (formed_ite hw (formed_ite ?_ hu)) hw))
    cases w.op with
    | none => exact hw
    | some id => exact opConflict_formed _ _ _ hw

theorem ackChunk_formed (s : State) (w : Win) (c : Chunk) (hs : Formed s) : Formed (ackChunk s w c) := by
  grind -ring -linarith -order [ackChunk, acknowledge_formed, ackTo_formed]

theorem recvStep_formed (s : State) (crew : Nat) (o : AsyncOp) (hs : Formed s) : MissRes (recvStep s crew o) := by
  unfold recvStep
  dsimp only
  split
  · exact lostEnd_formed _ _ _ _ _ (tellLost_formed _ _ hs)
  · split
    · split
      · trivial
      · split
        · trivial
        · refine (setOp_mem _ _ _).symm.subst (motive := fun m => Memory.wf m = true) ?_
          exact ackChunk_formed _ _ _ hs
    · split
      · trivial
      · split
        · exact writeUnit_formed _ _ _ _ _ _ hs
        · split
          · trivial
          · refine fabEnd_formed _ _ _ _ _ _ ?_
            exact foldl_formed (fun u _ hu => ackChunk_formed _ _ _ hu) _ hs

theorem execCollectiveChunk_formed (chunk : Chunk) (s : State) (hs : Formed s) :
    OutFormed (execCollectiveChunk chunk s) := by
  grind -ring -linarith -order [execCollectiveChunk, payload_formed, pushErr_formed, addChunk_formed, ackTo_formed,
    OutFormed, notEnabled]

theorem execSendData_formed (chunk : Chunk) (s : State) (hs : Formed s) : OutFormed (execSendData chunk s) := by
  grind -ring -linarith -order [execSendData, payload_formed, pushErr_formed, ackChunk_formed, addChunk_formed,
    loseGroup_formed, OutFormed, notEnabled]

theorem discardAccess_formed (s : State) (a : RemoteReq) (hs : Formed s) : Formed (discardAccess s a) := by
  grind -ring -linarith -order [discardAccess, ackTo_formed, pushErr_formed]

theorem applyPieces_wf (ty : Nat) (ps : List (Nat × Nat)) (bs : List Byte) (m : List Host.Cell) (h : Memory.wf m
  = true) :
    Memory.wf (applyPieces ty ps bs m) = true := by
  induction ps generalizing bs m with
  | nil => exact h
  | cons p r ih => exact ih _ _ (wf_redAt _ _ _ _ _ h)

theorem performAccess_formed (s : State) (a : RemoteReq) (hs : Formed s) :
    Formed (performAccess s a).1 := by
  unfold performAccess
  dsimp only
  split
  · exact hs
  · exact wf_memWrite _ _ _ hs
  · exact wf_amoAt _ _ _ _ _ _ hs
  · exact applyPieces_wf _ _ _ _ hs

theorem countAccess_formed (s : State) (a : RemoteReq) (w : Win) (n : Nat) (hs : Formed s) :
    Formed (countAccess s a w n) := by
  grind -ring -linarith -order [countAccess, countPlaces_formed, payload_formed]

theorem finishAccess_formed (s : State) (a : RemoteReq) (w : Win) (hs : Formed s) : Formed (finishAccess s a w) := by
  grind -ring -linarith -order [finishAccess, performAccess_formed, countAccess_formed, ackTo_formed]

theorem stageAccess_formed (s : State) (a : RemoteReq) (hs : Formed s) : Formed (stageAccess s a) := hs

theorem applyStaged_formed (s : State) (a : RemoteReq) (hs : Formed s) : Formed (applyStaged s a) := by
  grind -ring -linarith -order [applyStaged, discardAccess_formed, finishAccess_formed]

theorem applyAllStaged_formed (s : State) (hs : Formed s) : Formed (applyAllStaged s) :=
  foldl_formed (fun u a hu => applyStaged_formed u a hu) _ hs

theorem execRemoteAccess_formed (acc : RemoteReq) (s : State) (hs : Formed s) :
    OutFormed (execRemoteAccess acc s) := by
  have h := payload_formed 10 s acc.group acc.data.length hs
  unfold execRemoteAccess
  dsimp only
  split
  · trivial
  · split
    · exact ackTo_formed _ _ _ _ _ _ h
    · split
      · exact discardAccess_formed _ _ h
      · split
        · split
          · exact h
          · split
            · trivial
            · exact stageAccess_formed _ _ h
        · split
          · trivial
          · exact finishAccess_formed _ _ _ h

theorem countAnswer_formed (s : State) (tag n : Nat) (hs : Formed s) : Formed (countAnswer s tag n) := by
  grind -ring -linarith -order [countAnswer, payload_formed]

theorem execAcknowledgement_formed (tag : Nat) (data : List Byte) (s : State) (hs : Formed s) :
    OutFormed (execAcknowledgement tag data s) := by
  grind -ring -linarith -order [execAcknowledgement, countAnswer_formed, acknowledge_formed, OutFormed, notEnabled]

/-! ## Journal.lean -/

theorem jBound_formed (va : Nat) (n : Nat) (s : State) (hs : Formed s) : StopRes (jBound va n s) := by
  grind -ring -linarith -order [jBound, StopFormed, StopRes]

theorem keepState_formed {α : Type} (s : State) (x1 : Res (State × α)) (hs : Formed s) (hx1 : ResFormed x1) :
    ResFormed (keepState s x1) := by
  unfold keepState
  split
  · exact Stop_keep_formed _ _ hs hx1
  · exact hx1

theorem opAccess_formed {α : Type} (s : State) (crew id : Nat) (f : AsyncOp → Chk α) (hs : Formed s)
    (hf : ∀ o, ChkFormed (f o)) : ResFormed (opAccess s crew id f) := by
  unfold opAccess
  split
  · exact hs
  · rename_i o _
    have h := hf o.anew
    split
    · exact hs
    · split
      · rename_i he
        rw [he] at h
        rw [ResFormed, Formed, setOp_mem]
        exact h
      · rename_i he
        rw [he] at h
        exact h
      · rename_i he
        rw [he] at h
        exact h
      · exact hs
      · trivial

theorem jRead_formed (g : JAgent) (va n : Nat) (s : State) (hs : Formed s) : ResFormed (jRead g va n s) := by
  unfold jRead
  split
  · rename_i h
    exact StopRes.of_eq h (jBound_formed va n s hs)
  · exact keepState_formed _ _ hs (agentRead_formed _ _ _ _ hs)
  · refine opAccess_formed _ _ _ _ hs (fun o => ?_)
    (repeat' split) <;> grind -ring -linarith -order [opPlaces_formed, opLoad_formed, countPlaces_formed, ChkFormed,
      MissLoad, MissFormed]

theorem jProbe_formed (g : JAgent) (va n : Nat) (s : State) (hs : Formed s) : ResFormed (jProbe g va n s) := by
  unfold jProbe
  split
  · rename_i h
    exact StopRes.of_eq h (jBound_formed va n s hs)
  · exact keepState_formed _ _ hs (agentProbe_formed _ _ _ _ hs)
  · refine opAccess_formed _ _ _ _ hs (fun o => ?_)
    (repeat' split) <;> grind -ring -linarith -order [opPlaces_formed, ChkFormed, MissFormed]

theorem jWrite2_formed (g : JAgent) (a : Nat × List Byte) (b : Nat × List Byte) (s : State) (hs : Formed s) :
    ResFormed1 (jWrite2 g a b s) := by
  grind -ring -linarith -order [jWrite2, jProbe_formed, countPlaces_formed, storePlaces_formed, ResFormed, ResFormed1]

theorem jHeader_formed (g : JAgent) (s : State) (hs : Formed s) : ResFormed (jHeader g s) := by
  grind -ring -linarith -order [jHeader, jRead_formed, ResFormed]

theorem slotOf_formed (g : JAgent) (h : Hdr) (p : Nat) (s : State) (hs : Formed s) : ResFormed (slotOf g h p s) := by
  grind -ring -linarith -order [slotOf, jRead_formed, ResFormed]

theorem setNote_formed (s : State) (g : JAgent) (n : JournalNote) (hs : Formed s) : Formed (setNote s g n) := hs

theorem chainBefore_formed (g : JAgent) (h : Hdr) (p : Nat) (s : State) (hs : Formed s) :
    ResFormed (chainBefore g h p s) := by
  grind -ring -linarith -order [chainBefore, slotOf_formed, ResFormed]

theorem raiseConflict_formed (s : State) (c : ChainCheck) (hs : Formed s) : Formed (raiseConflict s c) := by
  grind -ring -linarith -order [raiseConflict, mapContext_formed]

theorem noteChain_formed (s : State) (g : JAgent) (p v : Nat) (hs : Formed s) : Formed (noteChain s g p v) :=
  foldl_formed (fun u c hu => formed_ite hu (raiseConflict_formed u c hu)) _ (setNote_formed _ _ _ hs)

theorem chainOn_formed (g : JAgent) (x1 : Nat) (x2 : Hdr) (x3 : State) (hx3 : Formed x3) :
    ResFormed (chainOn g x1 x2 x3) := by
  induction x1 generalizing x2 x3 with
  | zero => grind -ring -linarith -order [chainOn, slotOf_formed, chainBefore_formed, jWrite2_formed,
    noteChain_formed, ResFormed, ResFormed1]
  | succ n ih =>
    rw [chainOn]
    try dsimp only
    (repeat' split) <;> grind -ring -linarith -order [slotOf_formed, chainBefore_formed, jWrite2_formed,
      noteChain_formed, ResFormed, ResFormed1]

theorem chainAll_formed (g : JAgent) (s : State) (hs : Formed s) : ResFormed (chainAll g s) := by
  grind -ring -linarith -order [chainAll, jHeader_formed, chainOn_formed, ResFormed]

theorem Stop_reached_formed (s0 : State) (e : Stop) (hs0 : Formed s0) (he : StopFormed e) :
    Formed (Stop.reached s0 e) := by
  unfold Stop.reached
  split
  · exact he
  · exact he
  · exact hs0

theorem JAgent_rest_formed (g : JAgent) (s : State) (hs : Formed s) : Formed (JAgent.rest g s) := by
  grind -ring -linarith -order [JAgent.rest, dropAsked_formed, dropWaiter_formed]

theorem chainArrival_formed (g : JAgent) (s : State) (hs : Formed s) : Formed (chainArrival g s).1 := by
  grind -ring -linarith -order [chainArrival, chainAll_formed, JAgent_rest_formed, Stop_reached_formed, ResFormed,
    StopFormed]

theorem noteStore_formed (s : State) (g : JAgent) (h : Hdr) (p : Nat) (hs : Formed s) : Formed (noteStore s g h p) := by
  grind -ring -linarith -order [noteStore, setNote_formed]

theorem applyAt_formed (g : JAgent) (h : Hdr) (e : List Byte) (s : State) (hs : Formed s) :
    ResFormed (applyAt g h e s) := by
  grind -ring -linarith -order [applyAt, slotOf_formed, jWrite2_formed, noteStore_formed, ResFormed, ResFormed1]

theorem bindHeader_formed (s : State) (group : Nat) (window : Nat) (header : Word) (fn : Nat) (cu : Nat)
    (hs : Formed s) : Formed (bindHeader s group window header fn cu) := by
  grind -ring -linarith -order [bindHeader]

theorem dropBindings_formed (s : State) (hs : Formed s) : Formed (dropBindings s) := by
  grind -ring -linarith -order [dropBindings]

theorem checkChain_formed (s : State) (g : JAgent) (h : Hdr) (crew : Nat) (p : Nat) (e : List Byte) (hs : Formed s) :
    Formed (checkChain s g h crew p e) := by
  grind -ring -linarith -order [checkChain, slotOf_formed, raiseConflict_formed, setNote_formed, ResFormed]

theorem fetchedEnd_formed (s : State) (g : JAgent) (h : Hdr) (crew : Nat) (id : Nat) (p : Nat) (conflict : Bool)
    (e : List Byte) (hs : Formed s) : Formed (fetchedEnd s g h crew id p conflict e) := by
  grind -ring -linarith -order [fetchedEnd, raiseConflict_formed, checkChain_formed, setOp_mem]

theorem ackEntry_formed (s : State) (a : HeldEntry) (p : Nat) (st : Nat) (hs : Formed s) :
    Formed (ackEntry s a p st) := by
  grind -ring -linarith -order [ackEntry, ackTo_formed]

theorem noteEntry_formed (s : State) (fn : Nat) (a : HeldEntry) (hs : Formed s) : Formed (noteEntry s fn a).1 := by
  grind -ring -linarith -order [noteEntry, pushErr_formed]

theorem holdFetch_formed (s : State) (crew id cause : Nat) (va : Word) (hs : Formed s) :
    Formed (holdFetch s crew id cause va) := by
  unfold holdFetch
  split
  · exact hs
  · rename_i o _
    have h := missState_formed crew 0 o (.error (.hold s cause 1 va)) hs
    cases hm : missState crew 0 o (.error (.hold s cause 1 va)) with
    | none => exact hs
    | some r =>
      rw [hm] at h
      cases r with
      | ok t => exact h
      | error f => exact hs

theorem applyEntry_formed (s : State) (g : JAgent) (h : Hdr) (a : HeldEntry) (hs : Formed s) :
    Formed (applyEntry s g h a).1 := by
  unfold applyEntry
  dsimp only
  generalize (if a.fetched = true then fetchOps s a.group a.src (h.posOf a.entry).toNat else []) = askers
  have happ := applyAt_formed (askers.head?.elim g fun x => { opAgent s x.1 x.2.id 0#64 with header := g.header }) h
    a.entry s hs
  split
  · rename_i he
    rw [he] at happ
    exact happ
  · exact hs
  · rename_i he
    rw [he] at happ
    have hr := Stop_reached_formed s _ hs happ
    split
    · exact holdFetch_formed _ _ _ _ _ hr
    · exact noteEntry_formed _ _ _ (JAgent_rest_formed _ _ hr)
  · rename_i he
    rw [he] at happ
    have hr := JAgent_rest_formed g _ happ
    split
    · exact hr
    · exact ackEntry_formed _ _ _ _ (pushErr_formed _ _ _ _ _ _ hr)
    · split
      · refine chainArrival_formed _ _ ?_
        refine ackEntry_formed _ _ _ _ ?_
        exact foldl_formed (fun v x hv => fetchedEnd_formed _ _ _ _ _ _ _ _ hv) _ hr
      · dsimp only at hr ⊢
        refine ackEntry_formed _ _ _ _ ?_
        exact foldl_formed (fun v x hv => fetchedEnd_formed _ _ _ _ _ _ _ _ hv) _ hr

theorem applyArrival_formed (s : State) (a : HeldEntry) (hs : Formed s) : Formed (applyArrival s a).1 := by
  grind -ring -linarith -order [applyArrival, jHeader_formed, noteEntry_formed, applyEntry_formed, JAgent_rest_formed,
    Stop_reached_formed, StopFormed, ResFormed]

theorem heldEntries_formed (g : JAgent) (h : Hdr) (x1 : Nat) (x2 : Nat) (x3 : State) (hx3 : Formed x3) :
    ResFormed (heldEntries g h x1 x2 x3) := by
  induction x1 generalizing x2 x3 with
  | zero => grind -ring -linarith -order [heldEntries, slotOf_formed, ResFormed]
  | succ n ih =>
    rw [heldEntries]
    try dsimp only
    (repeat' split) <;> grind -ring -linarith -order [slotOf_formed, ResFormed]

theorem answerFrom_formed (g : JAgent) (first : Nat) (n : Nat) (s : State) (hs : Formed s) :
    ResFormed (answerFrom g first n s) := by
  grind -ring -linarith -order [answerFrom, jHeader_formed, slotOf_formed, heldEntries_formed, ResFormed]

theorem sendEntry_formed (w : Win) (rank group : Nat) (s : State) (e : Nat × List Byte) (hs : Formed s) :
    Formed (sendEntry w rank group s e) := by
  grind -ring -linarith -order [sendEntry, pushErr_formed, countFor_formed, sendMsg_formed]

theorem sendEntries_formed (s : State) (w : Win) (rank group : Nat) (es : List (Nat × List Byte)) (hs : Formed s) :
    Formed (sendEntries s w rank group es) :=
  foldl_formed (fun u e hu => sendEntry_formed _ _ _ u e hu) es hs

theorem answerAsk_formed (s : State) (group src first n : Nat) (hs : Formed s) :
    Formed (answerAsk s group src first n).1 := by
  have send (u : State) (w : Win) (hu : Formed u) (bs : List Byte) (es : List (Nat × List Byte)) (d : Nat) :
      Formed (ackTo (sendEntries u w d group es) 4 d group [first] bs) :=
    ackTo_formed _ _ _ _ _ _ (sendEntries_formed _ _ _ _ _ hu)
  unfold answerAsk
  split
  · exact pushErr_formed _ _ _ _ _ _ hs
  · dsimp only
    split
    · exact send _ _ hs _ _ _
    · rename_i g _
      have h := answerFrom_formed g first n s hs
      split
      · rename_i he
        rw [he] at h
        exact send _ _ (JAgent_rest_formed _ _ h) _ _ _
      · rename_i he
        rw [he] at h
        exact h
      · rename_i he
        rw [he] at h
        exact send _ _ (JAgent_rest_formed _ _ (Stop_reached_formed _ _ hs h)) _ _ _

theorem tryHeld_formed (s : State) (a : HeldEntry) (hs : Formed s) : Formed (tryHeld s a).1 := by
  grind -ring -linarith -order [tryHeld, applyArrival_formed, answerAsk_formed, chainArrival_formed]

theorem retryHeld_formed (n : Nat) (s : State) (hs : Formed s) : Formed (retryHeld n s) := by
  induction n generalizing s with
  | zero => exact hs
  | succ n ih =>
    rw [retryHeld]
    dsimp only
    have h : Formed (s.journalHeld.foldl
        (fun (x : State × List HeldEntry) a =>
          match tryHeld x.1 a with
          | (s1, none) => (s1, x.2)
          | (s1, some b) => (s1, x.2 ++ [b])) ({ s with journalHeld := [] }, [])).1 := by
      refine foldl_formed1 (fun x a hx => ?_) _ hs
      have h := tryHeld_formed x.1 a hx
      split <;> grind
    split
    · exact h
    · exact ih _ h

theorem retryAll_formed (s : State) (hs : Formed s) : Formed (retryAll s) := by
  grind -ring -linarith -order [retryAll, retryHeld_formed]

theorem execJournalArrival_formed (group : Nat) (src : Nat) (entry : List Byte) (fetched : Bool) (s : State)
    (hs : Formed s) : OutFormed (execJournalArrival group src entry fetched s) := by
  grind -ring -linarith -order [execJournalArrival, payload_formed, applyArrival_formed, retryAll_formed, OutFormed,
    notEnabled]

theorem execJfetchRequest_formed (group src first count : Nat) (s : State) (hs : Formed s) :
    OutFormed (execJfetchRequest group src first count s) := by
  have h := answerAsk_formed s group src first count hs
  unfold execJfetchRequest
  split
  · trivial
  · exact formed_ite h h

theorem headerPointer_formed (p : Word) : StopRes (headerPointer p) := by
  grind -ring -linarith -order [headerPointer, StopFormed, StopRes]

theorem readHeader_formed (s : State) (p : Word) (hs : Formed s) : ResFormed (readHeader s p) := by
  grind -ring -linarith -order [readHeader, headerPointer_formed, loadBytes_formed, StopFormed, StopRes, ResFormed]

theorem jappCheck_formed (i : Instr) (c : CpFields) (s : State) (hs : Formed s) : ResFormed (jappCheck i c s) := by
  unfold jappCheck
  try dsimp only
  (repeat' split) <;> grind -ring -linarith -order [headerPointer_formed, groupWindow_formed, readHeader_formed,
    illegalWords, StopFormed, StopRes, ResFormed]

theorem bindNow_formed (header : Word) (window : Word) (s : State) (hs : Formed s) :
    Formed (bindNow header window s) := by
  grind -ring -linarith -order [bindNow, groupWindow_formed, retryAll_formed, bindHeader_formed]

theorem jappBody_formed (i : Instr) (e : Eng) (c : CpFields) (s : State) (hs : Formed s) :
    ResFormed (jappBody i e c s) := by
  grind -ring -linarith -order [jappBody, fabBody_formed, jappCheck_formed, bindNow_formed]

theorem execJapp_formed (e : Eng) (c : CpFields) (s : State) (hs : Formed s) : OutFormed (execJapp e c s) := by
  grind -ring -linarith -order [execJapp, issue_formed, jappBody_formed]

theorem jappTo_formed (crew : Nat) (o : AsyncOp) (w : Win) (s : State) (x : Nat) (hs : Formed s) :
    Formed (jappTo crew o w s x) := by
  grind -ring -linarith -order [jappTo, pushErr_formed, countFor_formed, sendMsg_formed, holdMsg_formed]

theorem State_mapOp_formed (s : State) (crew : Nat) (id : Nat) (f : AsyncOp → AsyncOp) (hs : Formed s) :
    Formed (State.mapOp s crew id f) := by
  grind -ring -linarith -order [State.mapOp, setCrew_mem]

theorem nextPhase_formed (s : State) (crew : Nat) (id : Nat) (ph : Nat) (hs : Formed s) :
    Formed (nextPhase s crew id ph) := by
  grind -ring -linarith -order [nextPhase, dropReads_formed, State_mapOp_formed]

theorem badHeader_formed (s : State) (crew : Nat) (o : AsyncOp) (hs : Formed s) : MissRes (badHeader s crew o) := by
  grind -ring -linarith -order [badHeader, pushErr_formed, State_mapOp_formed, MissFormed, MissRes]

theorem jMiss_formed (s : State) (e : Stop) (hs : Formed s) (he : StopFormed e) : MissFormed (jMiss s e) := by
  cases e <;> assumption

theorem jappApply_formed (s : State) (crew : Nat) (o : AsyncOp) (hs : Formed s) : MissRes (jappApply s crew o) := by
  unfold jappApply
  dsimp only
  (repeat' split) <;> grind -ring -linarith -order [jHeader_formed, applyAt_formed, jMiss_formed, badHeader_formed,
    nextPhase_formed, pushErr_formed, opConflict_formed, MissRes, MissFormed, ResFormed]

theorem opChain_formed (s : State) (crew : Nat) (o : AsyncOp) (ph : Nat) (hs : Formed s) :
    MissRes (opChain s crew o ph) := by
  unfold opChain
  (repeat' split) <;> grind -ring -linarith -order [chainAll_formed, jMiss_formed, badHeader_formed, nextPhase_formed,
    retryAll_formed, MissRes, ResFormed]

theorem jappStep_formed (s : State) (crew : Nat) (o : AsyncOp) (hs : Formed s) : MissRes (jappStep s crew o) := by
  unfold jappStep
  dsimp only
  split
  · refine (setOp_mem _ _ _).symm.subst (motive := fun m => Memory.wf m = true) ?_
    split
    · exact foldl_formed (fun u x hu => jappTo_formed _ _ _ u x hu) _ hs
    · exact hs
  · split
    · exact jappApply_formed _ _ _ hs
    · split
      · exact opChain_formed _ _ _ _ hs
      · split
        · trivial
        · exact fabEnd_formed _ _ _ _ _ _ hs

theorem execJappResend_formed (crew op : Nat) (s : State) (hs : Formed s) : OutFormed (execJappResend crew op s) := by
  unfold execJappResend
  split
  · trivial
  · dsimp only
    split
    · trivial
    · rw [OutFormed, Formed, setOp_mem]
      refine foldl_formed (fun u r hu => ?_) _ hs
      have h := putOut_formed u r.msg hu
      exact formed_ite hu (formed_ite hu (formed_ite (pushErr_formed _ _ _ _ _ _ hu) h))

theorem jwaitBody_formed (c : CpFields) (s : State) (hs : Formed s) : ResFormed1 (jwaitBody c s) := by
  grind -ring -linarith -order [jwaitBody, retryAll_formed, readHeader_formed, chainOn_formed, dropAsked_formed,
    setMe_mem, StopFormed, ResFormed, ResFormed1]

theorem execJwait_formed (e : Eng) (c : CpFields) (s : State) (hs : Formed s) : OutFormed (execJwait e c s) := by
  grind -ring -linarith -order [execJwait, heldIssue_formed, roomBody_formed, jwaitBody_formed]

theorem jfetchCheck_formed (i : Instr) (c : CpFields) (s : State) (hs : Formed s) :
    ResFormed (jfetchCheck i c s) := by
  unfold jfetchCheck
  try dsimp only
  (repeat' split) <;> grind -ring -linarith -order [headerPointer_formed, readHeader_formed, groupWindow_formed,
    illegalWords, StopFormed, StopRes, ResFormed]

theorem jfetchBody_formed (i : Instr) (e : Eng) (c : CpFields) (s : State) (hs : Formed s) :
    ResFormed (jfetchBody i e c s) := by
  grind -ring -linarith -order [jfetchBody, fabBody_formed, jfetchCheck_formed, bindNow_formed]

theorem execJfetch_formed (e : Eng) (c : CpFields) (s : State) (hs : Formed s) : OutFormed (execJfetch e c s) := by
  grind -ring -linarith -order [execJfetch, issue_formed, jfetchBody_formed]

theorem jfetchStep_formed (s : State) (crew : Nat) (o : AsyncOp) (hs : Formed s) : MissRes (jfetchStep s crew o) := by
  unfold jfetchStep
  dsimp only
  (repeat' split) <;> grind -ring -linarith -order [fabEnd_formed, answerFrom_formed, jMiss_formed, sendMsg_formed,
    setOp_mem, opChain_formed, State_mapOp_formed, MissRes, MissFormed, ResFormed]

theorem fabricStep_formed (s : State) (crew : Nat) (o : AsyncOp) (hs : Formed s) : MissRes (fabricStep s crew o) := by
  grind -ring -linarith -order [fabricStep, openLeave_formed, collStep_formed, sendStep_formed, recvStep_formed, jappStep_formed,
    jfetchStep_formed, MissFormed, MissRes]

theorem postGate_formed (s : State) (crew : Nat) (o : AsyncOp) (x1 : Except Miss State) (hs : Formed s) (hx1 :
  MissRes x1) :
    MissRes (postGate s crew o x1) := by
  unfold postGate
  split
  · split
    · trivial
    · exact hx1
  · exact hx1

theorem fabricUnit_formed (s : State) (crew : Nat) (o : AsyncOp) (hs : Formed s) :
    OptFormed (fabricUnit s crew o) := by
  grind -ring -linarith -order [fabricUnit, missState_formed, postGate_formed, fabricStep_formed, OptFormed]

theorem execFabricOpCompletion_formed (crew : Nat) (op : Nat) (s : State) (hs : Formed s) :
    OutFormed (execFabricOpCompletion crew op s) := by
  grind -ring -linarith -order [execFabricOpCompletion, fabricUnit_formed, OptFormed, OutFormed, notEnabled]

/-! ## Glaze.lean -/

theorem glzPostBody_formed (e : Eng) (c : CpFields) (s : State) (hs : Formed s) : ResFormed1 (glzPostBody e c s) := by
  unfold glzPostBody
  try dsimp only
  (repeat' split) <;> grind -ring -linarith -order [loadBytes_formed, fabPointers_formed, storeBytes_formed,
    setMe_mem, StopFormed, StopRes, ResFormed, ResFormed1]

theorem execGlzPost_formed (e : Eng) (c : CpFields) (s : State) (hs : Formed s) : OutFormed (execGlzPost e c s) := by
  grind -ring -linarith -order [execGlzPost, heldIssue_formed, roomBody_formed, glzPostBody_formed]

theorem glzWaitBody_formed (c : CpFields) (s : State) (hs : Formed s) : ResFormed1 (glzWaitBody c s) := by
  grind -ring -linarith -order [glzWaitBody, loadBytes_formed, setMe_mem, StopFormed, ResFormed, ResFormed1]

theorem execGlzWait_formed (e : Eng) (c : CpFields) (s : State) (hs : Formed s) : OutFormed (execGlzWait e c s) := by
  grind -ring -linarith -order [execGlzWait, heldIssue_formed, roomBody_formed, glzWaitBody_formed]

theorem cardEntries_formed (g : JAgent) (h : Hdr) (b : List Byte) (x1 : Nat) (x2 : Nat) (x3 : State)
    (hx3 : Formed x3) : ResFormed (cardEntries g h b x1 x2 x3) := by
  induction x1 generalizing x2 x3 with
  | zero => grind -ring -linarith -order [cardEntries, slotOf_formed, ResFormed]
  | succ n ih =>
    rw [cardEntries]
    try dsimp only
    (repeat' split) <;> grind -ring -linarith -order [slotOf_formed, ResFormed]

theorem cardPage_formed (a : Agent) (used : List Tlb) (vp : Nat) (va : Word) (need : BitVec 3) (s : State)
    (hs : Formed s) : ResFormed (cardPage a used vp va need s) := by
  grind -ring -linarith -order [cardPage, agentRenew_formed, agentXlate_formed]

theorem cardXlate_formed (a : Agent) (used : List Tlb) (need : BitVec 3) (base : Nat) (x1 : List Nat) (x2 : State)
    (hx2 : Formed x2) : ResFormed (cardXlate a used need base x1 x2) := by
  induction x1 generalizing x2 with
  | nil => exact hx2
  | cons y r ih =>
    rw [cardXlate]
    (repeat' split) <;> grind -ring -linarith -order [cardPage_formed, Stop_keep_formed, ResFormed, StopFormed]

theorem cardPages_formed (a : Agent) (used : List Tlb) (elems : Nat) (x1 : List (Nat × Nat × BitVec 3))
    (x2 : State) (hx2 : Formed x2) : ResFormed (cardPages a used elems x1 x2) := by
  induction x1 generalizing x2 with
  | nil => grind -ring -linarith -order [cardPages, cardXlate_formed, ResFormed]
  | cons y r ih =>
    rw [cardPages]
    try dsimp only
    (repeat' split) <;> grind -ring -linarith -order [cardXlate_formed, ResFormed]

theorem cardEnd_formed (s : State) (k : Card) (code : Nat) (bad : Nat) (fault : Word := 0#64) (hs : Formed s) :
    Formed (cardEnd s k code bad fault) := by
  grind -ring -linarith -order [cardEnd, dropAsked_formed, dropWaiter_formed, setCard_mem]

theorem cardStop_formed (s : State) (k : Card) (x1 : Stop) (hs : Formed s) (hx1 : StopFormed x1) :
    OptFormed (cardStop s k x1) := by
  unfold cardStop
  split
  · exact cardEnd_formed _ _ _ _ _ hs
  · exact cardEnd_formed _ _ _ _ _ hx1
  · split
    · trivial
    · exact hx1
  · trivial

theorem cardBegin_formed (s : State) (k : Card) (g : JAgent) (h : Hdr) (hs : Formed s) :
    OptFormed (cardBegin s k g h) := by
  grind -ring -linarith -order [cardBegin, cardEntries_formed, cardStop_formed, cardEnd_formed, cardPages_formed,
    JAgent_rest_formed, setCard_mem, ResFormed, OptFormed]

theorem cardHdr_formed (k : Card) (g : JAgent) (s : State) (hs : Formed s) : ResFormed (cardHdr k g s) := by
  grind -ring -linarith -order [cardHdr, jHeader_formed, chainOn_formed, ResFormed]

theorem cardStart_formed (s : State) (k : Card) (hs : Formed s) : OptFormed (cardStart s k) := by
  unfold cardStart
  try dsimp only
  (repeat' split) <;> grind -ring -linarith -order [cardHdr_formed, cardStop_formed, cardEnd_formed,
    cardBegin_formed, JAgent_rest_formed, setCard_mem, ResFormed, OptFormed]

theorem cardPlaces_formed (a : Agent) (ts : List Tlb) (store : Bool) (x1 : Nat) (x2 : Nat) (x3 : Nat) (x4 : State)
    (hx4 : Formed x4) : StopRes (cardPlaces a ts store x1 x2 x3 x4) := by
  induction x1 generalizing x2 x3 x4 with
  | zero => grind -ring -linarith -order [cardPlaces, pagePlaces_formed, StopFormed, StopRes]
  | succ n ih => grind -ring -linarith -order [cardPlaces, pagePlaces_formed, StopFormed, StopRes]

theorem cardRead_formed (a : Agent) (ts : List Tlb) (va : Nat) (n : Nat) (s : State) (hs : Formed s) :
    ResFormed (cardRead a ts va n s) := by
  grind -ring -linarith -order [cardRead, cardPlaces_formed, agentLoad_formed, StopRes, ResFormed]

theorem cardWrites_formed (a : Agent) (ts : List Tlb) (x1 : List (Nat × List Byte)) (x2 : State) (hx2 : Formed x2) :
    ResFormed1 (cardWrites a ts x1 x2) := by
  induction x1 generalizing x2 with
  | nil => exact hx2
  | cons y r ih =>
    rw [cardWrites]
    (repeat' split) <;> grind -ring -linarith -order [cardPlaces_formed, storePlaces_formed, countPlaces_formed,
      ResFormed1, StopRes, StopFormed]

theorem cardAccess_formed (s : State) (k : Card) (first : Nat) (n : Nat) (hs : Formed s) :
    ResFormed1 (cardAccess s k first n) := by
  grind -ring -linarith -order [cardAccess, cardRead_formed, cardWrites_formed, ResFormed, ResFormed1]

theorem cardStep_formed (s : State) (k : Card) (hs : Formed s) : OptFormed (cardStep s k) := by
  grind -ring -linarith -order [cardStep, countFor_formed, cardPages_formed, cardEnd_formed, cardStop_formed,
    cardAccess_formed, dropAsked_formed, setCard_mem, StopFormed, ResFormed, ResFormed1, OptFormed]

theorem cardRun_formed (s : State) (k : Card) (hs : Formed s) : OptFormed (cardRun s k) := by
  grind -ring -linarith -order [cardRun, cardStep_formed, cardStart_formed, OptFormed]

theorem execGlazeCardRun_formed (crew : Nat) (card : Nat) (s : State) (hs : Formed s) :
    OutFormed (execGlazeCardRun crew card s) := by
  unfold execGlazeCardRun
  try dsimp only
  (repeat' split) <;> grind -ring -linarith -order [cardRun_formed, OptFormed, OutFormed, notEnabled]

theorem cardPut_formed (k : Card) (off : Nat) (bs : List Byte) (s : State) (hs : Formed s) :
    ResFormed1 (cardPut k off bs s) := by
  unfold cardPut
  try dsimp only
  (repeat' split) <;> grind -ring -linarith -order [agentWrite_formed, pushErr_formed, Stop_left_formed, ResFormed1]

theorem cardResult_formed (k : Card) (code : Nat) (s : State) (hs : Formed s) : ResFormed1 (cardResult k code s) := by
  grind -ring -linarith -order [cardResult, cardPut_formed, ResFormed1]

theorem cardPost_formed (s : State) (k : Card) (code : Nat) (hs : Formed s) : OptFormed (cardPost s k code) := by
  grind -ring -linarith -order [cardPost, cardResult_formed, setCard_mem, StopFormed, ResFormed1, OptFormed]

theorem cardLeave_formed (s : State) (k : Card) (hs : Formed s) : Formed (cardLeave s k) := by
  grind -ring -linarith -order [cardLeave, arriveAt_formed]

theorem execGlazeCardCompletion_formed (crew : Nat) (card : Nat) (s : State) (hs : Formed s) :
    OutFormed (execGlazeCardCompletion crew card s) := by
  grind -ring -linarith -order [execGlazeCardCompletion, cardPost_formed, cardLeave_formed, OptFormed, OutFormed,
    notEnabled]

end Sys2Proof.Machine
end

