-- ==== Sys2Proof/Laws/Form3.lean ====
section
/-! SUPPORT. The other instructions and the events keep the canonical form of memory (Form.lean), and so does exec. -/
namespace Sys2Proof.Machine
set_option Elab.async false

/-! ## Scalar.lean -/

theorem aluBody_formed (f : Word → Word → Word) (sd sa sb : BitVec 5) (s : State) (hs : Formed s) :
    ResFormed (aluBody f sd sa sb s) := pureBody_formed _ s hs

theorem divBody_formed (f : Word → Word → Word) (sd : BitVec 5) (sa : BitVec 5) (sb : BitVec 5) (s : State)
    (hs : Formed s) : ResFormed (divBody f sd sa sb s) := by
  grind -ring -linarith -order [divBody, setMe_mem, StopFormed, ResFormed]

theorem unaryBody_formed (f : Word → Nat) (sd sa : BitVec 5) (s : State) (hs : Formed s) :
    ResFormed (unaryBody f sd sa s) := pureBody_formed _ s hs

theorem execAdd_formed (p : BitVec 4) (sd : BitVec 5) (sa : BitVec 5) (sb : BitVec 5) (s : State) (hs : Formed s) :
    OutFormed (execAdd p sd sa sb s) := by
  grind -ring -linarith -order [execAdd, issue_formed, aluBody_formed]

theorem execSub_formed (p : BitVec 4) (sd : BitVec 5) (sa : BitVec 5) (sb : BitVec 5) (s : State) (hs : Formed s) :
    OutFormed (execSub p sd sa sb s) := by
  grind -ring -linarith -order [execSub, issue_formed, aluBody_formed]

theorem execAnd_formed (p : BitVec 4) (sd : BitVec 5) (sa : BitVec 5) (sb : BitVec 5) (s : State) (hs : Formed s) :
    OutFormed (execAnd p sd sa sb s) := by
  grind -ring -linarith -order [execAnd, issue_formed, aluBody_formed]

theorem execOr_formed (p : BitVec 4) (sd : BitVec 5) (sa : BitVec 5) (sb : BitVec 5) (s : State) (hs : Formed s) :
    OutFormed (execOr p sd sa sb s) := by
  grind -ring -linarith -order [execOr, issue_formed, aluBody_formed]

theorem execXor_formed (p : BitVec 4) (sd : BitVec 5) (sa : BitVec 5) (sb : BitVec 5) (s : State) (hs : Formed s) :
    OutFormed (execXor p sd sa sb s) := by
  grind -ring -linarith -order [execXor, issue_formed, aluBody_formed]

theorem execSll_formed (p : BitVec 4) (sd : BitVec 5) (sa : BitVec 5) (sb : BitVec 5) (s : State) (hs : Formed s) :
    OutFormed (execSll p sd sa sb s) := by
  grind -ring -linarith -order [execSll, issue_formed, aluBody_formed]

theorem execSrl_formed (p : BitVec 4) (sd : BitVec 5) (sa : BitVec 5) (sb : BitVec 5) (s : State) (hs : Formed s) :
    OutFormed (execSrl p sd sa sb s) := by
  grind -ring -linarith -order [execSrl, issue_formed, aluBody_formed]

theorem execSra_formed (p : BitVec 4) (sd : BitVec 5) (sa : BitVec 5) (sb : BitVec 5) (s : State) (hs : Formed s) :
    OutFormed (execSra p sd sa sb s) := by
  grind -ring -linarith -order [execSra, issue_formed, aluBody_formed]

theorem execMul_formed (p : BitVec 4) (sd : BitVec 5) (sa : BitVec 5) (sb : BitVec 5) (s : State) (hs : Formed s) :
    OutFormed (execMul p sd sa sb s) := by
  grind -ring -linarith -order [execMul, issue_formed, aluBody_formed]

theorem execMulh_formed (p : BitVec 4) (sd : BitVec 5) (sa : BitVec 5) (sb : BitVec 5) (s : State) (hs : Formed s) :
    OutFormed (execMulh p sd sa sb s) := by
  grind -ring -linarith -order [execMulh, issue_formed, aluBody_formed]

theorem execMulhu_formed (p : BitVec 4) (sd : BitVec 5) (sa : BitVec 5) (sb : BitVec 5) (s : State) (hs : Formed s) :
    OutFormed (execMulhu p sd sa sb s) := by
  grind -ring -linarith -order [execMulhu, issue_formed, aluBody_formed]

theorem execDiv_formed (p : BitVec 4) (sd : BitVec 5) (sa : BitVec 5) (sb : BitVec 5) (s : State) (hs : Formed s) :
    OutFormed (execDiv p sd sa sb s) := by
  grind -ring -linarith -order [execDiv, issue_formed, divBody_formed]

theorem execDivu_formed (p : BitVec 4) (sd : BitVec 5) (sa : BitVec 5) (sb : BitVec 5) (s : State) (hs : Formed s) :
    OutFormed (execDivu p sd sa sb s) := by
  grind -ring -linarith -order [execDivu, issue_formed, divBody_formed]

theorem execRem_formed (p : BitVec 4) (sd : BitVec 5) (sa : BitVec 5) (sb : BitVec 5) (s : State) (hs : Formed s) :
    OutFormed (execRem p sd sa sb s) := by
  grind -ring -linarith -order [execRem, issue_formed, divBody_formed]

theorem execRemu_formed (p : BitVec 4) (sd : BitVec 5) (sa : BitVec 5) (sb : BitVec 5) (s : State) (hs : Formed s) :
    OutFormed (execRemu p sd sa sb s) := by
  grind -ring -linarith -order [execRemu, issue_formed, divBody_formed]

theorem execMin_formed (p : BitVec 4) (sd : BitVec 5) (sa : BitVec 5) (sb : BitVec 5) (s : State) (hs : Formed s) :
    OutFormed (execMin p sd sa sb s) := by
  grind -ring -linarith -order [execMin, issue_formed, aluBody_formed]

theorem execMax_formed (p : BitVec 4) (sd : BitVec 5) (sa : BitVec 5) (sb : BitVec 5) (s : State) (hs : Formed s) :
    OutFormed (execMax p sd sa sb s) := by
  grind -ring -linarith -order [execMax, issue_formed, aluBody_formed]

theorem execMinu_formed (p : BitVec 4) (sd : BitVec 5) (sa : BitVec 5) (sb : BitVec 5) (s : State) (hs : Formed s) :
    OutFormed (execMinu p sd sa sb s) := by
  grind -ring -linarith -order [execMinu, issue_formed, aluBody_formed]

theorem execMaxu_formed (p : BitVec 4) (sd : BitVec 5) (sa : BitVec 5) (sb : BitVec 5) (s : State) (hs : Formed s) :
    OutFormed (execMaxu p sd sa sb s) := by
  grind -ring -linarith -order [execMaxu, issue_formed, aluBody_formed]

theorem execClz_formed (p : BitVec 4) (sd : BitVec 5) (sa : BitVec 5) (s : State) (hs : Formed s) :
    OutFormed (execClz p sd sa s) := by
  grind -ring -linarith -order [execClz, issue_formed, unaryBody_formed]

theorem execCtz_formed (p : BitVec 4) (sd : BitVec 5) (sa : BitVec 5) (s : State) (hs : Formed s) :
    OutFormed (execCtz p sd sa s) := by
  grind -ring -linarith -order [execCtz, issue_formed, unaryBody_formed]

theorem execPopc_formed (p : BitVec 4) (sd : BitVec 5) (sa : BitVec 5) (s : State) (hs : Formed s) :
    OutFormed (execPopc p sd sa s) := by
  grind -ring -linarith -order [execPopc, issue_formed, unaryBody_formed]

theorem immBody_formed (f : Word → Word) (sd sa : BitVec 5) (s : State) (hs : Formed s) :
    ResFormed (immBody f sd sa s) := pureBody_formed _ s hs

theorem execAddi_formed (sd : BitVec 5) (sa : BitVec 5) (imm : BitVec 16) (s : State) (hs : Formed s) :
    OutFormed (execAddi sd sa imm s) := by
  grind -ring -linarith -order [execAddi, issue_formed, immBody_formed]

theorem execAndi_formed (sd : BitVec 5) (sa : BitVec 5) (imm : BitVec 16) (s : State) (hs : Formed s) :
    OutFormed (execAndi sd sa imm s) := by
  grind -ring -linarith -order [execAndi, issue_formed, immBody_formed]

theorem execOri_formed (sd : BitVec 5) (sa : BitVec 5) (imm : BitVec 16) (s : State) (hs : Formed s) :
    OutFormed (execOri sd sa imm s) := by
  grind -ring -linarith -order [execOri, issue_formed, immBody_formed]

theorem execXori_formed (sd : BitVec 5) (sa : BitVec 5) (imm : BitVec 16) (s : State) (hs : Formed s) :
    OutFormed (execXori sd sa imm s) := by
  grind -ring -linarith -order [execXori, issue_formed, immBody_formed]

theorem execSlli_formed (sd : BitVec 5) (sa : BitVec 5) (n : BitVec 6) (s : State) (hs : Formed s) :
    OutFormed (execSlli sd sa n s) := by
  grind -ring -linarith -order [execSlli, issue_formed, immBody_formed]

theorem execSrli_formed (sd : BitVec 5) (sa : BitVec 5) (n : BitVec 6) (s : State) (hs : Formed s) :
    OutFormed (execSrli sd sa n s) := by
  grind -ring -linarith -order [execSrli, issue_formed, immBody_formed]

theorem execSrai_formed (sd : BitVec 5) (sa : BitVec 5) (n : BitVec 6) (s : State) (hs : Formed s) :
    OutFormed (execSrai sd sa n s) := by
  grind -ring -linarith -order [execSrai, issue_formed, immBody_formed]

theorem execLui_formed (sd : BitVec 5) (imm : BitVec 21) (s : State) (hs : Formed s) :
    OutFormed (execLui sd imm s) := by
  grind -ring -linarith -order [execLui, issue_formed, pureBody_formed]

theorem execLi32_formed (p : BitVec 4) (sd : BitVec 5) (imm : BitVec 32) (s : State) (hs : Formed s) :
    OutFormed (execLi32 p sd imm s) := by
  grind -ring -linarith -order [execLi32, issue_formed, pureBody_formed]

theorem execLih_formed (p : BitVec 4) (sd : BitVec 5) (imm : BitVec 32) (s : State) (hs : Formed s) :
    OutFormed (execLih p sd imm s) := by
  grind -ring -linarith -order [execLih, issue_formed, pureBody_formed]

theorem execCmp_formed (p : BitVec 4) (pd : BitVec 3) (cond : BitVec 4) (sa : BitVec 5) (sb : BitVec 5)
    (s : State) (hs : Formed s) : OutFormed (execCmp p pd cond sa sb s) := by
  grind -ring -linarith -order [execCmp, issue_formed, pureBody_formed]

theorem execCmpi_formed (pd : BitVec 3) (cond : BitVec 4) (sa : BitVec 5) (imm : BitVec 14) (s : State)
    (hs : Formed s) : OutFormed (execCmpi pd cond sa imm s) := by
  grind -ring -linarith -order [execCmpi, issue_formed, pureBody_formed]

theorem predBody_formed (fn : Nat) (pd pa pb : BitVec 3) (s : State) (hs : Formed s) :
    ResFormed (predBody fn pd pa pb s) := pureBody_formed _ s hs

theorem execPand_formed (p : BitVec 4) (pd : BitVec 3) (pa : BitVec 3) (pb : BitVec 3) (s : State) (hs : Formed s) :
    OutFormed (execPand p pd pa pb s) := by
  grind -ring -linarith -order [execPand, issue_formed, predBody_formed]

theorem execPor_formed (p : BitVec 4) (pd : BitVec 3) (pa : BitVec 3) (pb : BitVec 3) (s : State) (hs : Formed s) :
    OutFormed (execPor p pd pa pb s) := by
  grind -ring -linarith -order [execPor, issue_formed, predBody_formed]

theorem execPxor_formed (p : BitVec 4) (pd : BitVec 3) (pa : BitVec 3) (pb : BitVec 3) (s : State) (hs : Formed s) :
    OutFormed (execPxor p pd pa pb s) := by
  grind -ring -linarith -order [execPxor, issue_formed, predBody_formed]

theorem execPandn_formed (p : BitVec 4) (pd : BitVec 3) (pa : BitVec 3) (pb : BitVec 3) (s : State) (hs : Formed s) :
    OutFormed (execPandn p pd pa pb s) := by
  grind -ring -linarith -order [execPandn, issue_formed, predBody_formed]

theorem execPorn_formed (p : BitVec 4) (pd : BitVec 3) (pa : BitVec 3) (pb : BitVec 3) (s : State) (hs : Formed s) :
    OutFormed (execPorn p pd pa pb s) := by
  grind -ring -linarith -order [execPorn, issue_formed, predBody_formed]

theorem leaBody_formed (sd : BitVec 5) (sa : BitVec 5) (sb : BitVec 5) (s : State) (hs : Formed s) :
    ResFormed (leaBody sd sa sb s) := by
  grind -ring -linarith -order [leaBody, setMe_mem, StopFormed, ResFormed]

theorem execLea_formed (p : BitVec 4) (sd : BitVec 5) (sa : BitVec 5) (sb : BitVec 5) (s : State) (hs : Formed s) :
    OutFormed (execLea p sd sa sb s) := by
  grind -ring -linarith -order [execLea, issue_formed, leaBody_formed]

theorem execTag_formed (p : BitVec 4) (sd : BitVec 5) (sa : BitVec 5) (sid : BitVec 4) (s : State) (hs : Formed s) :
    OutFormed (execTag p sd sa sid s) := by
  grind -ring -linarith -order [execTag, issue_formed, pureBody_formed]

theorem execSpace_formed (p : BitVec 4) (sd : BitVec 5) (sa : BitVec 5) (s : State) (hs : Formed s) :
    OutFormed (execSpace p sd sa s) := by
  grind -ring -linarith -order [execSpace, issue_formed, pureBody_formed]

theorem execRng_formed (p : BitVec 4) (sd : BitVec 5) (s : State) (hs : Formed s) : OutFormed (execRng p sd s) := by
  grind -ring -linarith -order [execRng, issue_formed, pureBody_formed]

theorem rngcBody_formed (i : Instr) (sd : BitVec 5) (sn : BitVec 5) (s : State) (hs : Formed s) :
    ResFormed (rngcBody i sd sn s) := by
  grind -ring -linarith -order [rngcBody, illegalWords, setMe_mem, StopFormed, ResFormed]

theorem execRngc_formed (p : BitVec 4) (sd : BitVec 5) (sn : BitVec 5) (s : State) (hs : Formed s) :
    OutFormed (execRngc p sd sn s) := by
  grind -ring -linarith -order [execRngc, issue_formed, rngcBody_formed]

theorem jumpBody_formed (leaves : Bool) (target : Strand → Word) (upd : Strand → Strand) (s : State) (hs : Formed s) :
    ResFormed (jumpBody leaves target upd s) := by
  grind -ring -linarith -order [jumpBody, snapshots_formed, setMe_mem, StopFormed, ResFormed]

theorem execBr_formed (p : BitVec 4) (disp : BitVec 22) (s : State) (hs : Formed s) :
    OutFormed (execBr p disp s) := by
  grind -ring -linarith -order [execBr, issue_formed, jumpBody_formed]

theorem execJmp_formed (disp : BitVec 26) (s : State) (hs : Formed s) : OutFormed (execJmp disp s) := by
  grind -ring -linarith -order [execJmp, issue_formed, jumpBody_formed]

theorem execCall_formed (disp : BitVec 26) (s : State) (hs : Formed s) : OutFormed (execCall disp s) := by
  grind -ring -linarith -order [execCall, issue_formed, jumpBody_formed]

theorem execJr_formed (p : BitVec 4) (sa : BitVec 5) (s : State) (hs : Formed s) : OutFormed (execJr p sa s) := by
  grind -ring -linarith -order [execJr, issue_formed, jumpBody_formed]

theorem execCallr_formed (p : BitVec 4) (sa : BitVec 5) (s : State) (hs : Formed s) :
    OutFormed (execCallr p sa s) := by
  grind -ring -linarith -order [execCallr, issue_formed, jumpBody_formed]

theorem fetchWord_formed (s : State) (pc : Word) (hs : Formed s) : ResFormed (fetchWord s pc) := by
  grind -ring -linarith -order [fetchWord, agentPlaces_formed, agentBytes_formed, StopFormed, ResFormed]

theorem loopBody_formed (i : Instr) (id : BitVec 2) (stages : BitVec 3) (sa : BitVec 5) (off : BitVec 16)
    (s : State) (hs : Formed s) : ResFormed (loopBody i id stages sa off s) := by
  grind -ring -linarith -order [loopBody, fetchWord_formed, illegalWords, setMe_mem, StopFormed, ResFormed]

theorem execLoop_formed (id : BitVec 2) (stages : BitVec 3) (sa : BitVec 5) (off : BitVec 16) (s : State)
    (hs : Formed s) : OutFormed (execLoop id stages sa off s) := by
  grind -ring -linarith -order [execLoop, issue_formed, loopBody_formed]

/-! ## Mem.lean -/

theorem loadBody_formed (sd : BitVec 5) (addr : Strand → Word) (n : Nat) (sext : Bool) (z c : Nat) (more : BitVec 16)
  (s : State) (hs : Formed s) :
    ResFormed (loadBody sd addr n sext z c more s) := by
  unfold loadBody
  refine inClass_formed _ _ s (fun u hu => ?_) hs
  split
  · rename_i he
    exact ResFormed1.of_error he (loadReg_formed u _ _ _ _ _ _ _ hu)
  · rename_i he
    exact ResFormed1.of_ok he (loadReg_formed u _ _ _ _ _ _ _ hu)

theorem storeBody_formed (sb : BitVec 5) (addr : Strand → Word) (n z c : Nat) (s : State) (hs : Formed s) :
    ResFormed (storeBody sb addr n z c s) := by
  unfold storeBody
  refine inClass_formed _ _ s (fun u hu => ?_) hs
  split
  · rename_i he
    exact ResFormed1.of_error he (storeBytes_formed u _ _ _ _ _ hu)
  · rename_i he
    exact ResFormed1.of_ok he (storeBytes_formed u _ _ _ _ _ hu)

theorem releaseBody_formed (mask : BitVec 16) (body : Body) (s : State) (hbody : ∀ u, Formed u → ResFormed
    (body u)) (hs : Formed s) : ResFormed (releaseBody mask body s) := by
  grind -ring -linarith -order [releaseBody, StopFormed, ResFormed]

theorem execLdb_formed (sd : BitVec 5) (sa : BitVec 5) (off : BitVec 16) (s : State) (hs : Formed s) :
    OutFormed (execLdb sd sa off s) := by
  grind -ring -linarith -order [execLdb, issue_formed, loadBody_formed]

theorem execLdbu_formed (sd : BitVec 5) (sa : BitVec 5) (off : BitVec 16) (s : State) (hs : Formed s) :
    OutFormed (execLdbu sd sa off s) := by
  grind -ring -linarith -order [execLdbu, issue_formed, loadBody_formed]

theorem execLdh_formed (sd : BitVec 5) (sa : BitVec 5) (off : BitVec 16) (s : State) (hs : Formed s) :
    OutFormed (execLdh sd sa off s) := by
  grind -ring -linarith -order [execLdh, issue_formed, loadBody_formed]

theorem execLdhu_formed (sd : BitVec 5) (sa : BitVec 5) (off : BitVec 16) (s : State) (hs : Formed s) :
    OutFormed (execLdhu sd sa off s) := by
  grind -ring -linarith -order [execLdhu, issue_formed, loadBody_formed]

theorem execLdw_formed (sd : BitVec 5) (sa : BitVec 5) (off : BitVec 16) (s : State) (hs : Formed s) :
    OutFormed (execLdw sd sa off s) := by
  grind -ring -linarith -order [execLdw, issue_formed, loadBody_formed]

theorem execLdwu_formed (sd : BitVec 5) (sa : BitVec 5) (off : BitVec 16) (s : State) (hs : Formed s) :
    OutFormed (execLdwu sd sa off s) := by
  grind -ring -linarith -order [execLdwu, issue_formed, loadBody_formed]

theorem execLdd_formed (sd : BitVec 5) (sa : BitVec 5) (off : BitVec 16) (s : State) (hs : Formed s) :
    OutFormed (execLdd sd sa off s) := by
  grind -ring -linarith -order [execLdd, issue_formed, loadBody_formed]

theorem execStb_formed (sb : BitVec 5) (sa : BitVec 5) (off : BitVec 16) (s : State) (hs : Formed s) :
    OutFormed (execStb sb sa off s) := by
  grind -ring -linarith -order [execStb, issue_formed, storeBody_formed]

theorem execSth_formed (sb : BitVec 5) (sa : BitVec 5) (off : BitVec 16) (s : State) (hs : Formed s) :
    OutFormed (execSth sb sa off s) := by
  grind -ring -linarith -order [execSth, issue_formed, storeBody_formed]

theorem execStw_formed (sb : BitVec 5) (sa : BitVec 5) (off : BitVec 16) (s : State) (hs : Formed s) :
    OutFormed (execStw sb sa off s) := by
  grind -ring -linarith -order [execStw, issue_formed, storeBody_formed]

theorem execStd_formed (sb : BitVec 5) (sa : BitVec 5) (off : BitVec 16) (s : State) (hs : Formed s) :
    OutFormed (execStd sb sa off s) := by
  grind -ring -linarith -order [execStd, issue_formed, storeBody_formed]

theorem execLdx_formed (p : BitVec 4) (sd : BitVec 5) (sa : BitVec 5) (si : BitVec 5) (size : BitVec 2)
    (sext : BitVec 1) (z : BitVec 3) (cls : BitVec 4) (off : BitVec 21) (s : State) (hs : Formed s) :
    OutFormed (execLdx p sd sa si size sext z cls off s) := by
  grind -ring -linarith -order [execLdx, issue_formed, loadBody_formed]

theorem execStx_formed (p : BitVec 4) (sb : BitVec 5) (sa : BitVec 5) (si : BitVec 5) (size : BitVec 2)
    (z : BitVec 3) (cls : BitVec 4) (off : BitVec 21) (s : State) (hs : Formed s) :
    OutFormed (execStx p sb sa si size z cls off s) := by
  grind -ring -linarith -order [execStx, issue_formed, storeBody_formed]

theorem execLdxAcq_formed (p : BitVec 4) (sd : BitVec 5) (sa : BitVec 5) (si : BitVec 5) (scope : BitVec 3)
    (z : BitVec 3) (cls : BitVec 4) (mask : BitVec 16) (s : State) (hs : Formed s) :
    OutFormed (execLdxAcq p sd sa si scope z cls mask s) := by
  grind -ring -linarith -order [execLdxAcq, issue_formed, loadBody_formed]

theorem execStxRel_formed (p : BitVec 4) (sb : BitVec 5) (sa : BitVec 5) (si : BitVec 5) (scope : BitVec 3)
    (z : BitVec 3) (cls : BitVec 4) (mask : BitVec 16) (s : State) (hs : Formed s) :
    OutFormed (execStxRel p sb sa si scope z cls mask s) := by
  grind -ring -linarith -order [execStxRel, issue_formed, releaseBody_formed, storeBody_formed]

theorem amoBody_formed (fn n : Nat) (sd sa sb sc : BitVec 5) (c : Nat) (s : State) (hs : Formed s) :
    ResFormed (amoBody fn n sd sa sb sc c s) := by
  unfold amoBody
  refine inClass_formed _ _ s (fun u hu => ?_) hs
  dsimp only
  split
  · rename_i he
    exact ResFormed1.of_error he (atomic_formed u _ _ _ _ _ _ _ hu)
  · rename_i he
    exact ResFormed1.of_ok he (atomic_formed u _ _ _ _ _ _ _ hu)

theorem execAmoAdd_formed (p : BitVec 4) (sd : BitVec 5) (sa : BitVec 5) (sb : BitVec 5) (size : BitVec 1)
    (cls : BitVec 4) (s : State) (hs : Formed s) : OutFormed (execAmoAdd p sd sa sb size cls s) := by
  grind -ring -linarith -order [execAmoAdd, issue_formed, amoBody_formed]

theorem execAmoMin_formed (p : BitVec 4) (sd : BitVec 5) (sa : BitVec 5) (sb : BitVec 5) (size : BitVec 1)
    (cls : BitVec 4) (s : State) (hs : Formed s) : OutFormed (execAmoMin p sd sa sb size cls s) := by
  grind -ring -linarith -order [execAmoMin, issue_formed, amoBody_formed]

theorem execAmoMax_formed (p : BitVec 4) (sd : BitVec 5) (sa : BitVec 5) (sb : BitVec 5) (size : BitVec 1)
    (cls : BitVec 4) (s : State) (hs : Formed s) : OutFormed (execAmoMax p sd sa sb size cls s) := by
  grind -ring -linarith -order [execAmoMax, issue_formed, amoBody_formed]

theorem execAmoMinu_formed (p : BitVec 4) (sd : BitVec 5) (sa : BitVec 5) (sb : BitVec 5) (size : BitVec 1)
    (cls : BitVec 4) (s : State) (hs : Formed s) : OutFormed (execAmoMinu p sd sa sb size cls s) := by
  grind -ring -linarith -order [execAmoMinu, issue_formed, amoBody_formed]

theorem execAmoMaxu_formed (p : BitVec 4) (sd : BitVec 5) (sa : BitVec 5) (sb : BitVec 5) (size : BitVec 1)
    (cls : BitVec 4) (s : State) (hs : Formed s) : OutFormed (execAmoMaxu p sd sa sb size cls s) := by
  grind -ring -linarith -order [execAmoMaxu, issue_formed, amoBody_formed]

theorem execAmoAnd_formed (p : BitVec 4) (sd : BitVec 5) (sa : BitVec 5) (sb : BitVec 5) (size : BitVec 1)
    (cls : BitVec 4) (s : State) (hs : Formed s) : OutFormed (execAmoAnd p sd sa sb size cls s) := by
  grind -ring -linarith -order [execAmoAnd, issue_formed, amoBody_formed]

theorem execAmoOr_formed (p : BitVec 4) (sd : BitVec 5) (sa : BitVec 5) (sb : BitVec 5) (size : BitVec 1)
    (cls : BitVec 4) (s : State) (hs : Formed s) : OutFormed (execAmoOr p sd sa sb size cls s) := by
  grind -ring -linarith -order [execAmoOr, issue_formed, amoBody_formed]

theorem execAmoXor_formed (p : BitVec 4) (sd : BitVec 5) (sa : BitVec 5) (sb : BitVec 5) (size : BitVec 1)
    (cls : BitVec 4) (s : State) (hs : Formed s) : OutFormed (execAmoXor p sd sa sb size cls s) := by
  grind -ring -linarith -order [execAmoXor, issue_formed, amoBody_formed]

theorem execAmoSwp_formed (p : BitVec 4) (sd : BitVec 5) (sa : BitVec 5) (sb : BitVec 5) (size : BitVec 1)
    (cls : BitVec 4) (s : State) (hs : Formed s) : OutFormed (execAmoSwp p sd sa sb size cls s) := by
  grind -ring -linarith -order [execAmoSwp, issue_formed, amoBody_formed]

theorem execCas_formed (p : BitVec 4) (sd : BitVec 5) (sa : BitVec 5) (sb : BitVec 5) (sc : BitVec 5)
    (size : BitVec 1) (cls : BitVec 4) (s : State) (hs : Formed s) :
    OutFormed (execCas p sd sa sb sc size cls s) := by
  grind -ring -linarith -order [execCas, issue_formed, amoBody_formed]

theorem execAmoFadd_formed (p : BitVec 4) (sd : BitVec 5) (sa : BitVec 5) (sb : BitVec 5) (cls : BitVec 4)
    (s : State) (hs : Formed s) : OutFormed (execAmoFadd p sd sa sb cls s) := by
  grind -ring -linarith -order [execAmoFadd, issue_formed, amoBody_formed]

/-! ## System.lean -/

theorem exitBody_formed (s : State) (hs : Formed s) : ResFormed (exitBody s) := by
  grind -ring -linarith -order [exitBody, endLease_formed, StopFormed, ResFormed]

theorem controlIssue_formed (i : Instr) (p : BitVec 4) (act : State → Outcome) (s : State)
    (hact : ∀ u, Formed u → OutFormed (act u)) (hs : Formed s) : OutFormed (controlIssue i p act s) := by
  grind -ring -linarith -order [controlIssue, holdMe_formed, retire_formed, OutFormed]

theorem execExit_formed (p : BitVec 4) (s : State) (hs : Formed s) : OutFormed (execExit p s) := by
  grind -ring -linarith -order [execExit, controlIssue_formed, exitBody_formed, finish_formed, setMe_mem, ResFormed,
    OutFormed]

theorem execYield_formed (p : BitVec 4) (s : State) (hs : Formed s) : OutFormed (execYield p s) := by
  grind -ring -linarith -order [execYield, issue_formed, pureBody_formed]

theorem reachSafe_formed (s : State) (hs : Formed s) : Formed (reachSafe s) := by
  grind -ring -linarith -order [reachSafe, withdraw_formed, setMyCrew_mem]

theorem yieldSafeBody_formed (s : State) (hs : Formed s) : ResFormed (yieldSafeBody s) := by
  grind -ring -linarith -order [yieldSafeBody, reachSafe_formed, setMe_mem, ResFormed]

theorem execYieldSafe_formed (p : BitVec 4) (s : State) (hs : Formed s) : OutFormed (execYieldSafe p s) := by
  grind -ring -linarith -order [execYieldSafe, issue_formed, yieldSafeBody_formed]

theorem execTret_formed (p : BitVec 4) (s : State) (hs : Formed s) : OutFormed (execTret p s) := by
  grind -ring -linarith -order [execTret, controlIssue_formed, trapMe_formed, holdMe_formed, trapReturn_formed,
    OutFormed]

theorem softTrap_formed (s : State) (cause : Nat) (imm : BitVec 16) (epc : Word) (hs : Formed s) :
    OutFormed (softTrap s cause imm epc) := by
  grind -ring -linarith -order [softTrap, takeTrap_formed, setMe_mem, OutFormed]

theorem execTrap_formed (p : BitVec 4) (imm : BitVec 16) (s : State) (hs : Formed s) :
    OutFormed (execTrap p imm s) := by
  grind -ring -linarith -order [execTrap, controlIssue_formed, softTrap_formed]

theorem execBkpt_formed (p : BitVec 4) (imm : BitVec 16) (s : State) (hs : Formed s) :
    OutFormed (execBkpt p imm s) := by
  grind -ring -linarith -order [execBkpt, controlIssue_formed, softTrap_formed]

theorem acctStop_formed (s : State) (e : Stop) (hs : Formed s) (he : StopFormed e) : StopFormed (acctStop s e) := by
  unfold acctStop
  split
  · exact Stop_left_formed _ _ _ hs he
  · exact Stop_left_formed _ _ _ hs he
  · exact he

theorem acctflushBody_formed (s : State) (hs : Formed s) : ResFormed (acctflushBody s) := by
  unfold acctflushBody
  have h := flushReady_formed true s s.cur.1 hs
  split
  · rename_i he
    exact acctStop_formed _ _ hs (ResFormed1.of_error he h)
  · rename_i s1 he
    have h2 := acctFlush_formed s1 s1.cur.1 (ResFormed1.of_ok he h)
    dsimp only
    generalize acctFlush s1 s1.cur.1 = q at h2 ⊢
    split
    · rw [ResFormed, StopFormed, Formed, setMe_mem]
      exact h2
    · exact h2

theorem execAcctflush_formed (p : BitVec 4) (s : State) (hs : Formed s) : OutFormed (execAcctflush p s) := by
  grind -ring -linarith -order [execAcctflush, holdMe_formed, retire_formed, issue_formed, acctflushBody_formed,
    setMe_mem, OutFormed]

theorem execFence_formed (p : BitVec 4) (scope : BitVec 3) (mask : BitVec 16) (s : State) (hs : Formed s) :
    OutFormed (execFence p scope mask s) := by
  grind -ring -linarith -order [execFence, issue_formed, releaseBody_formed, pureBody_formed]

theorem writeSys_formed (s : State) (n : Nat) (v : Word) (hs : Formed s) : Formed (writeSys s n v) := by
  unfold writeSys
  dsimp only
  split <;> first | exact hs | (rw [Formed, setMe_mem]; exact hs) | (rw [Formed, setMyCrew_mem]; exact hs)

theorem execMfsr_formed (p : BitVec 4) (sd : BitVec 5) (num : BitVec 11) (s : State) (hs : Formed s) :
    OutFormed (execMfsr p sd num s) := by
  grind -ring -linarith -order [execMfsr, issue_formed, setMe_mem, ResFormed]

theorem execMtsr_formed (p : BitVec 4) (sa : BitVec 5) (num : BitVec 11) (s : State) (hs : Formed s) :
    OutFormed (execMtsr p sa num s) := by
  grind -ring -linarith -order [execMtsr, issue_formed, writeSys_formed, StopFormed, ResFormed]

theorem waittBody_formed (v : Word) (s : State) (hs : Formed s) : ResFormed (waittBody v s) := by
  grind -ring -linarith -order [waittBody, setMyCrew_mem, StopFormed, ResFormed]

theorem execWaitt_formed (p : BitVec 4) (sa : BitVec 5) (s : State) (hs : Formed s) :
    OutFormed (execWaitt p sa s) := by
  grind -ring -linarith -order [execWaitt, issue_formed, waittBody_formed]

theorem releaseAll_formed (body : Body) (s : State) (hbody : ∀ u, Formed u → ResFormed (body u)) (hs : Formed s) :
    ResFormed (releaseAll body s) := by
  grind -ring -linarith -order [releaseAll, StopFormed, ResFormed]

theorem execTkpush_formed (p : BitVec 4) (mask : BitVec 3) (s : State) (hs : Formed s) :
    OutFormed (execTkpush p mask s) := by
  grind -ring -linarith -order [execTkpush, issue_formed, releaseAll_formed, illegalWords, setMyCrew_mem, StopFormed,
    ResFormed]

theorem execTkpop_formed (p : BitVec 4) (mask : BitVec 3) (s : State) (hs : Formed s) :
    OutFormed (execTkpop p mask s) := by
  grind -ring -linarith -order [execTkpop, issue_formed, illegalWords, setMyCrew_mem, StopFormed, ResFormed]

theorem qwrBody_formed (sa : BitVec 5) (q : BitVec 3) (f : BitVec 1) (s : State) (hs : Formed s) :
    ResFormed (qwrBody sa q f s) := by
  grind -ring -linarith -order [qwrBody, setMyCrew_mem, StopFormed, ResFormed]

theorem execQwr_formed (p : BitVec 4) (sa : BitVec 5) (q : BitVec 3) (f : BitVec 1) (s : State) (hs : Formed s) :
    OutFormed (execQwr p sa q f s) := by
  refine issue_formed _ _ _ _ _ s 1 ?_ hs
  intro u hu
  split
  · exact releaseAll_formed _ u (fun v hv => qwrBody_formed sa q f v hv) hu
  · exact qwrBody_formed sa q f u hu

theorem execQrd_formed (p : BitVec 4) (sd : BitVec 5) (q : BitVec 3) (e : BitVec 1) (s : State) (hs : Formed s) :
    OutFormed (execQrd p sd q e s) := by
  grind -ring -linarith -order [execQrd, issue_formed, setMyCrew_mem, setMe_mem, StopFormed, ResFormed]

theorem gsyncWait_formed (s : State) (g : Nat) (hs : Formed s) : Formed (gsyncWait s g) := by
  grind -ring -linarith -order [gsyncWait, reachSafe_formed, setMe_mem]

theorem gsyncBody_formed (i : Instr) (g : Nat) (s : State) (hs : Formed s) : ResFormed (gsyncBody i g s) := by
  unfold gsyncBody
  try dsimp only
  (repeat' split) <;> grind -ring -linarith -order [gsyncWait_formed, setLaunch_mem, illegalWords, setMe_mem,
    StopFormed, ResFormed]

theorem execGsync_formed (p : BitVec 4) (g : BitVec 8) (s : State) (hs : Formed s) : OutFormed (execGsync p g s) := by
  grind -ring -linarith -order [execGsync, issue_formed, gsyncBody_formed]

/-! ## Fetch.lean -/

theorem fetchWords_formed (s : State) (pc : Word) (hs : Formed s) : ResFormed (fetchWords s pc) := by
  grind -ring -linarith -order [fetchWords, fetchWord_formed, ResFormed]

theorem execUnassignedEncoding_formed (w0 : W32) (w1 : W32) (s : State) (hs : Formed s) :
    OutFormed (execUnassignedEncoding w0 w1 s) := by
  grind -ring -linarith -order [execUnassignedEncoding, trapMe_formed, OutFormed]

theorem execInstructionFetchFault_formed (cause : Nat) (tval : Word) (s : State) (hs : Formed s) :
    OutFormed (execInstructionFetchFault cause tval s) := by
  grind -ring -linarith -order [execInstructionFetchFault, takeTrap_formed, setMe_mem, OutFormed]

theorem execPatch_formed (index : BitVec 6) (select : BitVec 4) (value : BitVec 16) (s : State) (hs : Formed s) :
    OutFormed (execPatch index select value s) := by
  grind -ring -linarith -order [execPatch, trapMe_formed, setMe_mem, OutFormed]

theorem tloadBody_formed (sa : BitVec 5) (s : State) (hs : Formed s) : ResFormed (tloadBody sa s) := by
  grind -ring -linarith -order [tloadBody, loadBytes_formed, setMe_mem, ResFormed]

theorem execTload_formed (p : BitVec 4) (sa : BitVec 5) (s : State) (hs : Formed s) :
    OutFormed (execTload p sa s) := by
  exact issue_formed _ _ _ _ _ s _ (fun u hu => inClass_formed _ _ u (fun v hv => tloadBody_formed sa v hv) hu) hs

theorem krulesBody_formed (sa : BitVec 5) (s : State) (hs : Formed s) : ResFormed (krulesBody sa s) := by
  grind -ring -linarith -order [krulesBody, loadBytes_formed, setMe_mem, StopFormed, ResFormed]

theorem execKrules_formed (p : BitVec 4) (sa : BitVec 5) (s : State) (hs : Formed s) :
    OutFormed (execKrules p sa s) := by
  exact issue_formed _ _ _ _ _ s _ (fun u hu => inClass_formed _ _ u (fun v hv => krulesBody_formed sa v hv) hu) hs

theorem waitingAt_formed (s : State) (crew : Nat) (k : StrandKind) (q : Nat) (hs : Formed s) :
    MayFormed1 (waitingAt s crew k q) := by
  grind -ring -linarith -order [waitingAt, fetchWords_formed, ResFormed, MayFormed1]

theorem execWaittWake_formed (crew : Nat) (k : StrandKind) (at_ : Word) (s : State) (hs : Formed s) :
    OutFormed (execWaittWake crew k at_ s) := by
  unfold execWaittWake
  try dsimp only
  (repeat' split) <;> grind -ring -linarith -order [waitingAt_formed, execWaitt_formed, OutFormed, MayFormed1,
    notEnabled]

theorem execJwaitDeadline_formed (crew : Nat) (sd : BitVec 5) (pd : BitVec 3) (chained : Nat) (s : State)
    (hs : Formed s) : OutFormed (execJwaitDeadline crew sd pd chained s) := by
  unfold execJwaitDeadline
  try dsimp only
  (repeat' split) <;> grind -ring -linarith -order [waitingAt_formed, readHeader_formed, execJwait_formed, OutFormed,
    MayFormed1, notEnabled]

/-! ## Knead.lean -/

theorem dropLook_formed (s : State) (hs : Formed s) : Formed (dropLook s) := by
  grind -ring -linarith -order [dropLook, dropWaiter_formed]

/-- A body that keeps the form. -/
def BodyFormed (b : Body) : Prop := ∀ s, Formed s → ResFormed (b s)

theorem groupBody_formed (i : Instr) (b : Body) (h : groupBody i = some b) : BodyFormed b := by
  intro s hs
  cases i with
  | vadd e v =>
    cases h
    exact vaddB_formed _ _ _ hs
  | vsub e v =>
    cases h
    exact vsubB_formed _ _ _ hs
  | vmul e v =>
    cases h
    exact vmulB_formed _ _ _ hs
  | vfma e v =>
    cases h
    exact vfmaB_formed _ _ _ hs
  | vmin e v =>
    cases h
    exact vminB_formed _ _ _ hs
  | vmax e v =>
    cases h
    exact vmaxB_formed _ _ _ hs
  | vabs e v =>
    cases h
    exact vabsB_formed _ _ _ hs
  | vneg e v =>
    cases h
    exact vnegB_formed _ _ _ hs
  | vexp2 e v =>
    cases h
    exact vexp2B_formed _ _ _ hs
  | vlog2 e v =>
    cases h
    exact vlog2B_formed _ _ _ hs
  | vrcp e v =>
    cases h
    exact vrcpB_formed _ _ _ hs
  | vrsqrt e v =>
    cases h
    exact vrsqrtB_formed _ _ _ hs
  | vtanh e v =>
    cases h
    exact vtanhB_formed _ _ _ hs
  | vand e v =>
    cases h
    exact vandB_formed _ _ _ hs
  | vor e v =>
    cases h
    exact vorB_formed _ _ _ hs
  | vxor e v =>
    cases h
    exact vxorB_formed _ _ _ hs
  | vshl e v =>
    cases h
    exact vshlB_formed _ _ _ hs
  | vshr e v =>
    cases h
    exact vshrB_formed _ _ _ hs
  | vsra e v =>
    cases h
    exact vsraB_formed _ _ _ hs
  | vcmpEq e v =>
    cases h
    exact vcmpEqB_formed _ _ _ hs
  | vcmpNe e v =>
    cases h
    exact vcmpNeB_formed _ _ _ hs
  | vcmpLt e v =>
    cases h
    exact vcmpLtB_formed _ _ _ hs
  | vcmpLe e v =>
    cases h
    exact vcmpLeB_formed _ _ _ hs
  | vsel e v =>
    cases h
    exact vselB_formed _ _ _ hs
  | vcvt e v =>
    cases h
    exact vcvtB_formed _ _ _ hs
  | vqblk e v =>
    cases h
    exact vqblkB_formed _ _ _ hs
  | vunpk e v =>
    cases h
    exact vunpkB_formed _ _ _ hs
  | vrsum e v =>
    cases h
    exact vrsumB_formed _ _ _ hs
  | vrmax e v =>
    cases h
    exact vrmaxB_formed _ _ _ hs
  | vrmin e v =>
    cases h
    exact vrminB_formed _ _ _ hs
  | vmov e v =>
    cases h
    exact vmovB_formed _ _ _ hs
  | vshuf e v =>
    cases h
    exact vshufB_formed _ _ _ hs
  | viota e v =>
    cases h
    exact viotaB_formed _ _ _ hs
  | vsplat e v =>
    cases h
    exact vsplatB_formed _ _ _ hs
  | vld e v =>
    cases h
    exact vldB_formed _ _ _ hs
  | vst e v =>
    cases h
    exact vstB_formed _ _ _ hs
  | vldt e v =>
    cases h
    exact vldtB_formed _ _ _ hs
  | vgath e v =>
    cases h
    exact vgathB_formed _ _ _ hs
  | vtrn e v =>
    cases h
    exact vtrnB_formed _ _ _ hs
  | lds e x =>
    cases h
    exact ldsB_formed _ _ _ hs
  | ldsP e x =>
    cases h
    exact ldsPB_formed _ _ _ hs
  | ldsCb e x =>
    cases h
    exact ldsCbB_formed _ _ _ hs
  | ldsBs e x =>
    cases h
    exact ldsBsB_formed _ _ _ hs
  | mswap e _ =>
    cases h
    exact mswapB_formed _ _ hs
  | mmul e x =>
    cases h
    exact mmulB_formed _ _ _ hs
  | mmulBs e x =>
    cases h
    exact mmulBsB_formed _ _ _ hs
  | mdrain e x =>
    cases h
    exact mdrainB_formed _ _ _ hs
  | mzero e x =>
    cases h
    exact mzeroB_formed _ _ _ hs
  | mcbt e x =>
    cases h
    exact mcbtB_formed _ _ _ hs
  | _ => cases h

theorem setLeaseUsed_formed (s : State) (n : Nat) (hs : Formed s) : Formed (setLeaseUsed s n) := by
  grind -ring -linarith -order [setLeaseUsed, setCu_mem]

theorem groupLease_formed (s : State) (count : Nat) (hs : Formed s) : StopRes (groupLease s count) := by
  grind -ring -linarith -order [groupLease, leaseCheck_formed, StopFormed, StopRes]

theorem settle_formed (s : State) (hs : Formed s) : Formed (settle s) :=
  foldl_formed (fun u o hu => formed_ite (advanceOp_formed u _ o hu) hu) _ hs

theorem excuse_formed (s : State) (grouped : Bool) (is : List Nat) (hs : Formed s) : Formed (excuse s grouped is) := by
  grind -ring -linarith -order [excuse, setMyCrew_mem]

theorem keepErrors_formed (s0 s1 s2 : State) (hs0 : Formed s0) : Formed (keepErrors s0 s1 s2) :=
  foldl_formed (fun u _ hu => pushErr_formed u _ _ _ _ _ hu) _ (countFor_formed _ _ _ _ hs0)

theorem forward_formed (s : State) (hs : Formed s) : Formed (forward s) := by
  grind -ring -linarith -order [forward, setMyCrew_mem]

theorem runSecond_go_formed (s0 s1 : State) (mx : Bool) (w : W32 × W32) (b : Body) (used : Nat) (h0 : Formed s0)
    (h1 : Formed s1) (hb : BodyFormed b) : ResFormed (runSecond.go s0 s1 mx w b used) := by
  unfold runSecond.go
  dsimp only
  have h := hb (excuse (setLeaseUsed (forward (settle s1)) used) true allOperands)
    (excuse_formed _ _ _ (setLeaseUsed_formed _ _ (forward_formed _ (settle_formed _ h1))))
  split
  · exact keepErrors_formed _ _ _ h0
  · rename_i he
    rw [he] at h
    split
    · exact h1
    · exact h
  · rename_i he
    rw [he] at h
    exact h
  · rename_i he
    rw [he] at h
    split
    · exact h1
    · exact excuse_formed _ _ _ h

theorem runSecond_formed (s0 s1 : State) (mx : Bool) (w : W32 × W32) (b : Body) (used : Nat) (h0 : Formed s0)
    (h1 : Formed s1) (hb : BodyFormed b) : ResFormed (runSecond s0 s1 mx w b used) := by
  have h := hb (excuse s1 true (lastWrite s1)) (excuse_formed _ _ _ h1)
  unfold runSecond
  split
  · rename_i he
    rw [he] at h
    split
    · exact h
    · exact runSecond_go_formed _ _ _ _ _ _ h0 h1 hb
  · exact runSecond_go_formed _ _ _ _ _ _ h0 h1 hb

theorem runRepls_formed (s : State) (mx : Bool) (ws : List (W32 × W32)) (x1 : List Body) (hs : Formed s)
    (hx1 : ∀ b ∈ x1, BodyFormed b) : ResFormed (runRepls s mx ws x1) := by
  cases x1 with
  | nil => exact hs
  | cons b r =>
    have h := hx1 b List.mem_cons_self s hs
    unfold runRepls
    dsimp only
    split
    · rename_i he
      rw [he] at h
      exact h
    · rename_i he
      rw [he] at h
      have h2 := setLeaseUsed_formed _ (leaseUsed s) h
      cases r with
      | nil => exact h2
      | cons c q =>
        exact runSecond_formed _ _ _ _ _ _ hs h2 (hx1 c (List.mem_cons_of_mem _ List.mem_cons_self))

theorem retireGroup_formed (pc : Word) (len slots : Nat) (s : State) (hs : Formed s) :
    Formed (retireGroup pc len slots s) := by
  grind -ring -linarith -order [retireGroup, snapshots_formed, setMe_mem]

theorem trapGroup_formed (s : State) (n : Nat) (slots : Nat) (cause : Nat) (val : Word) (hs : Formed s) :
    Formed (trapGroup s n slots cause val) := by
  grind -ring -linarith -order [trapGroup, takeTrap_formed, setMe_mem]

theorem decodeRepls_formed (ws : List (W32 × W32)) (bs : List Body) (h : decodeRepls ws = .ok bs) :
    ∀ b ∈ bs, BodyFormed b := by
  induction ws generalizing bs with
  | nil =>
    cases h
    intro b hb
    cases hb
  | cons w r ih =>
    rw [decodeRepls] at h
    split at h
    · cases h
    · split at h
      · cases h
      · rename_i i _ _ b hb
        split at h
        · cases h
        · rename_i cs hc
          cases h
          intro d hd
          cases hd with
          | head => exact groupBody_formed i _ hb
          | tail _ hd => exact ih _ hc d hd

theorem groupEffect_formed (s : State) (e : List Byte) (ms : List WinItem) (ws : List (W32 × W32)) (bodies : List
  Body)
    (hb : ∀ b ∈ bodies, BodyFormed b) (hs : Formed s) : ResFormed (groupEffect s e ms ws bodies) := by
  unfold groupEffect
  dsimp only
  have hr := runRepls_formed s (s.cur.2 == .m) ws bodies hs hb
  split
  · rename_i he
    exact StopRes.of_eq he (groupLease_formed s _ hs)
  · rename_i he
    exact StopRes.of_eq he (groupLease_formed s _ hs)
  · split
    · rename_i he
      rw [he] at hr
      exact hr
    · rename_i he
      rw [he] at hr
      exact hr
    · rename_i he
      rw [he] at hr
      split
      · exact setLeaseUsed_formed _ _ hr
      · split
        · exact hr
        · exact hr

theorem keepWait_formed (s s1 : State) (hs : Formed s) : Formed (keepWait s s1) := by
  unfold keepWait
  dsimp only
  refine foldl_formed (fun u m hu => sendMsg_formed u m hu) _ ?_
  split
  · exact joinFault_formed _ _ _ _ _ _ _ _ _ _ _ hs
  · exact hs

theorem issueGroup_formed (s : State) (k : Nat) (ms : List WinItem) (hs : Formed s) :
    OutFormed (issueGroup s k ms) := by
  unfold issueGroup
  dsimp only
  split
  · exact trapGroup_formed _ _ _ _ _ hs
  · rename_i hd
    split
    · refine retireGroup_formed _ _ _ _ (formed_ite hs ?_)
      rw [Formed, setMyCrew_mem]
      exact hs
    · have h := groupEffect_formed s (ruleEntry s.me.ruleA k) ms
        ((List.range (ruleRepls (ruleEntry s.me.ruleA k))).map fun j =>
          replWords (s.cur.2 == .m) (ruleEntry s.me.ruleA k) ms j) _ (decodeRepls_formed _ _ hd) hs
      split
      · rename_i he
        rw [he] at h
        exact retireGroup_formed _ _ _ _ h
      · rename_i he
        rw [he] at h
        exact holdMe_formed _ _ h
      · exact trapGroup_formed _ _ _ _ _ hs
      · rename_i he
        rw [he] at h
        exact trapGroup_formed _ _ _ _ _ h
      · exact holdMe_formed _ _ (keepWait_formed _ _ hs)
      · trivial

theorem noRest_formed (s : State) (hs : Formed s) : Formed (noRest s) := hs

theorem finishGroup_formed (s : State) (r : GroupRest) (hs : Formed s) : OutFormed (finishGroup s r) := by
  unfold finishGroup
  split
  · exact trapGroup_formed _ _ _ _ _ hs
  · rename_i bodies hd
    have hb : BodyFormed (bodies.headD fun s => .ok (s, none)) := by
      cases bodies with
      | nil => exact fun u hu => hu
      | cons b r => exact decodeRepls_formed _ _ hd b List.mem_cons_self
    have h := hb (excuse s false allOperands) (excuse_formed _ _ _ hs)
    split
    · rename_i he
      rw [he] at h
      exact retireGroup_formed _ _ _ _ h
    · exact trapGroup_formed _ _ _ _ _ hs
    · rename_i he
      rw [he] at h
      exact trapGroup_formed _ _ _ _ _ h
    · rename_i he
      rw [he] at h
      exact holdMe_formed _ _ h
    · trivial

theorem execKneadGroupIssue_formed (entry : Nat) (s : State) (hs : Formed s) :
    OutFormed (execKneadGroupIssue entry s) := by
  grind -ring -linarith -order [execKneadGroupIssue, issueGroup_formed, finishGroup_formed, OutFormed, notEnabled]

/-! ## Traps.lean -/

theorem execAsyncTrapEntry_formed (crew : Nat) (k : StrandKind) (s : State) (hs : Formed s) :
    OutFormed (execAsyncTrapEntry crew k s) := by
  grind -ring -linarith -order [execAsyncTrapEntry, takeTrap_formed, setCrew_mem, OutFormed, notEnabled]

theorem execWatchdogExpiry_formed (crew : Nat) (k : StrandKind) (s : State) (hs : Formed s) :
    OutFormed (execWatchdogExpiry crew k s) := by
  grind -ring -linarith -order [execWatchdogExpiry, killContext_formed, OutFormed, notEnabled]

theorem execCorrectedSoftError_formed (unit : Nat) (sub : Nat) (pa : Word) (overflow : Bool) (s : State)
    (hs : Formed s) : OutFormed (execCorrectedSoftError unit sub pa overflow s) := by
  grind -ring -linarith -order [execCorrectedSoftError, pushErr_formed, OutFormed, notEnabled]

theorem forgetInits_formed (s : State) (seg : Nat) (hs : Formed s) : Formed (forgetInits s seg) := by
  grind -ring -linarith -order [forgetInits]

theorem execZeroingComplete_formed (what : ZeroTarget) (s : State) (hs : Formed s) :
    OutFormed (execZeroingComplete what s) := by
  unfold execZeroingComplete
  split
  · split
    · exact hs
    · trivial
  · split
    · split
      · exact hs
      · trivial
    · trivial
  · dsimp only
    split
    · exact hs
    · trivial

theorem writeEvicted_formed (s : State) (crew : Nat) (r : AccRec) (hs : Formed s) :
    Formed (writeEvicted s crew r) := by
  grind -ring -linarith -order [writeEvicted, acctReady_formed, dropAsked_formed, writeRec_formed, Stop_left_formed,
    setCrew_mem, StopFormed, ResFormed1]

theorem execAccountRecordEviction_formed (crew : Nat) (s : State) (hs : Formed s) :
    OutFormed (execAccountRecordEviction crew s) := by
  grind -ring -linarith -order [execAccountRecordEviction, writeEvicted_formed, OutFormed, notEnabled]

theorem execAccountCountOverflow_formed (crew : Nat) (s : State) (hs : Formed s) :
    OutFormed (execAccountCountOverflow crew s) := by
  grind -ring -linarith -order [execAccountCountOverflow, writeEvicted_formed, OutFormed, notEnabled]

/-! ## Clock.lean -/

theorem execTranslationWalk_formed (cu : Nat) (fn : Nat) (va : Word) (need : BitVec 3) (s : State) (hs : Formed s) :
    OutFormed (execTranslationWalk cu fn va need s) := by
  grind -ring -linarith -order [execTranslationWalk, walkIn_formed, joinFault_formed, OutFormed, notEnabled]

theorem execTranslationExpiry_formed (s : State) (hs : Formed s) : OutFormed (execTranslationExpiry s) := by
  grind -ring -linarith -order [execTranslationExpiry, OutFormed, notEnabled]

theorem skewTraps_formed (s : State) (cu : Nat) (drift : Int) (hs : Formed s) : Formed (skewTraps s cu drift) := by
  refine foldl_formed (fun u j hu => ?_) _ hs
  exact formed_ite (by rw [Formed, setCrew_mem]; exact hu) hu

theorem dropEntries_formed (s : State) (u : Nat) (hs : Formed s) : Formed (dropEntries s u) := by
  grind -ring -linarith -order [dropEntries, setCu_mem]

theorem execClockSkewDetection_formed (cu : Nat) (drift : Int) (s : State) (hs : Formed s) :
    OutFormed (execClockSkewDetection cu drift s) := by
  grind -ring -linarith -order [execClockSkewDetection, pushErr_formed, dropEntries_formed, skewTraps_formed,
    setCu_mem, OutFormed, notEnabled]

theorem execClockCopyResync_formed (cu : Nat) (s : State) (hs : Formed s) : OutFormed (execClockCopyResync cu s) := by
  grind -ring -linarith -order [execClockCopyResync, setCu_mem, OutFormed, notEnabled]

theorem drainAllFaults_formed (s : State) (hs : Formed s) : Formed (drainAllFaults s) := by
  grind -ring -linarith -order [drainAllFaults, drainFaults_formed]

theorem markUnres_formed (s : State) (id : Nat) (hs : Formed s) : Formed (markUnres s id) := by
  grind -ring -linarith -order [markUnres]

theorem purgeFor_formed (fn : Nat) (s : State) (w : Waiter × Word) (hs : Formed s) : Formed (purgeFor fn s w) := by
  grind -ring -linarith -order [purgeFor, dropPage_formed]

theorem answerWalk_formed (s : State) (f : FaultRec) (hs : Formed s) : Formed (answerWalk s f) :=
  releaseWalk_formed _ (foldl_formed (fun u w hu => purgeFor_formed f.fn u w hu) f.waiters hs)

theorem execFqrespWrite_formed (v : Word) (s : State) (hs : Formed s) : OutFormed (execFqrespWrite v s) := by
  grind -ring -linarith -order [execFqrespWrite, releaseWalk_formed, markUnres_formed, answerWalk_formed, OutFormed,
    notEnabled, barWrite]

theorem execFqheadWrite_formed (v : Word) (s : State) (hs : Formed s) : OutFormed (execFqheadWrite v s) := by
  grind -ring -linarith -order [execFqheadWrite, drainAllFaults_formed, OutFormed, notEnabled, barWrite]

theorem execXrRootWrite_formed (fn : Nat) (stage2 : Bool) (v : Word) (s : State) (hs : Formed s) :
    OutFormed (execXrRootWrite fn stage2 v s) := by
  grind -ring -linarith -order [execXrRootWrite, setTenant_mem, OutFormed, notEnabled, barWrite]

theorem execFcmdWrite_formed (v : Word) (s : State) (hs : Formed s) : OutFormed (execFcmdWrite v s) := by
  grind -ring -linarith -order [execFcmdWrite, OutFormed, notEnabled, barWrite]

theorem execFrameFormatComplete_formed (s : State) (hs : Formed s) : OutFormed (execFrameFormatComplete s) := by
  grind -ring -linarith -order [execFrameFormatComplete, wf_filter, OutFormed, notEnabled]

/-! ## Pool.lean -/

theorem noteFull_formed (s : State) (hs : Formed s) : Formed (noteFull s) := by
  grind -ring -linarith -order [noteFull]

theorem poolAdd_formed (s : State) (e : PoolEnt) (hs : Formed s) : Formed (poolAdd s e) := by
  grind -ring -linarith -order [poolAdd, noteFull_formed]

theorem poolMap_formed (s : State) (launch : Nat) (task : Nat) (f : PoolEnt → PoolEnt) (hs : Formed s) :
    Formed (poolMap s launch task f) := by
  grind -ring -linarith -order [poolMap]

theorem poolFill_formed (x1 : Nat) (x2 : State) (hx2 : Formed x2) : Formed (poolFill x1 x2) := by
  induction x1 generalizing x2 with
  | zero => grind -ring -linarith -order [poolFill, noteFull_formed, poolMap_formed]
  | succ n ih => grind -ring -linarith -order [poolFill, noteFull_formed, poolMap_formed]

theorem poolDrop_formed (s : State) (p : PoolEnt → Bool) (hs : Formed s) : Formed (poolDrop s p) := by
  grind -ring -linarith -order [poolDrop, poolFill_formed]

theorem stopLaunch_formed (s : State) (launch : Nat) (status : Nat) (hs : Formed s) :
    Formed (stopLaunch s launch status) := by
  grind -ring -linarith -order [stopLaunch, poolDrop_formed, setLaunch_mem]

theorem makeReady_formed (s : State) (launch : Nat) (t : Nat) (late : Bool) (hs : Formed s) :
    Formed (makeReady s launch t late) := by
  grind -ring -linarith -order [makeReady, poolAdd_formed, setLaunch_mem]

theorem execSpillcfgWrite_formed (v : Word) (s : State) (hs : Formed s) : OutFormed (execSpillcfgWrite v s) := by
  grind -ring -linarith -order [execSpillcfgWrite, poolFill_formed, noteFull_formed, OutFormed, notEnabled, barWrite]

/-! ## Queues.lean -/

theorem execQueueConfigWrite_formed (q : Nat) (hi : Bool) (v : Word) (s : State) (hs : Formed s) :
    OutFormed (execQueueConfigWrite q hi v s) := by
  grind -ring -linarith -order [execQueueConfigWrite, setQueue_mem, OutFormed, notEnabled, barWrite]

theorem execTailWrite_formed (q : Nat) (v : BitVec 32) (s : State) (hs : Formed s) :
    OutFormed (execTailWrite q v s) := by
  grind -ring -linarith -order [execTailWrite, setQueue_mem, OutFormed, notEnabled, barWrite]

theorem discard_formed (s : State) (e : PoolEnt) (hs : Formed s) : Formed (discard s e) := by
  grind -ring -linarith -order [discard, closeHandles_formed, countFor_formed, setLaunch_mem]

theorem abortLaunch_formed (s : State) (l : Launch) (hs : Formed s) : Formed (abortLaunch s l) := by
  unfold abortLaunch
  dsimp only
  refine foldl_formed (fun u p hu => formed_ite (killContext_formed _ _ _ hu) hu) _ ?_
  refine poolDrop_formed _ _ ?_
  exact foldl_formed (fun u e hu => discard_formed u e hu) _ hs

theorem abortQueue_formed (s : State) (q : Nat) (hs : Formed s) : Formed (abortQueue s q) :=
  foldl_formed (fun u _ hu => abortLaunch_formed u _ hu) _ hs

theorem execAbortWrite_formed (q : Nat) (v : BitVec 32) (s : State) (hs : Formed s) :
    OutFormed (execAbortWrite q v s) := by
  grind -ring -linarith -order [execAbortWrite, abortQueue_formed, OutFormed, notEnabled, barWrite]

theorem execFunctionLevelReset_formed (vf : Nat) (s : State) (hs : Formed s) :
    OutFormed (execFunctionLevelReset vf s) := by
  unfold execFunctionLevelReset barWrite
  split
  · dsimp only
    split
    · trivial
    · refine foldl_formed (fun u p hu => ?_) _ hs
      exact abortQueue_formed _ _ hu
  · split
    · exact hs
    · trivial

theorem failed_formed (s : State) (l : Launch) (status : Nat) (hs : Formed s) : Formed (failed s l status).1 := by
  grind -ring -linarith -order [failed]

theorem missed_formed (s : State) (l : Launch) (x1 : Stop) (hs : Formed s) (hx1 : StopFormed x1) :
    Formed (missed s l x1).1 := by
  unfold missed
  split
  · exact hx1
  · exact failed_formed _ l 5 (Stop_left_formed _ _ _ hs hx1)

theorem loadRules_formed (s : State) (l : Launch) (nodes : List (List Byte)) (rules groups : Nat) (hs : Formed s) :
    Formed (loadRules s l nodes rules groups).1 := by
  have table (u : State) (k : Launch) (hu : Formed u) : Formed (match agentWrite (loadAgent k) groups (groupTable
    nodes) u with
      | .error e => missed u k e
      | .ok s1 => (s1, .read k)).1 := by
    split
    · rename_i he
      exact missed_formed _ _ _ hu (ResFormed1.of_error he (agentWrite_formed _ _ _ _ hu))
    · rename_i he
      exact ResFormed1.of_ok he (agentWrite_formed _ _ _ _ hu)
  unfold loadRules
  dsimp only
  split
  · exact table _ _ hs
  · have h := agentRead_formed (loadAgent l) rules 4096 s hs
    split
    · rename_i he
      rw [he] at h
      exact missed_formed _ _ _ hs h
    · rename_i he
      rw [he] at h
      split
      · exact failed_formed _ _ _ h
      · exact table _ _ h

theorem loadGraph_formed (s : State) (l : Launch) (c h : List Byte) (hs : Formed s) :
    Formed (loadGraph s l c h).1 := by
  unfold loadGraph
  dsimp only
  (repeat' split) <;> grind -ring -linarith -order [failed_formed, agentRead_formed, missed_formed, loadRules_formed,
    ResFormed]

theorem loadLaunch_formed (s : State) (l : Launch) (r : List Byte) (hs : Formed s) : Formed (loadLaunch s l r).1 := by
  unfold loadLaunch
  dsimp only
  (repeat' split) <;> grind -ring -linarith -order [failed_formed, agentRead_formed, missed_formed, loadGraph_formed,
    ResFormed]

theorem enterReady_formed (s : State) (l : Launch) (hs : Formed s) : Formed (enterReady s l) :=
  foldl_formed (fun u _ hu => formed_ite (makeReady_formed _ _ _ _ hu) hu) _ hs

theorem execLaunchRecordRead_formed (q : Nat) (s : State) (hs : Formed s) : OutFormed (execLaunchRecordRead q s) := by
  unfold execLaunchRecordRead
  split
  · trivial
  · dsimp only
    generalize hl : ({ id := s.launchSeq, queue := q, owner := (s.queue q).owner, record := [], start := s.cycle } :
      Launch) = l
    have h := agentRead_formed (loadAgent l) (headAddr (s.queue q)) 64 s hs
    split
    · rename_i he
      rw [he] at h
      exact h
    · have h2 : Formed (match agentRead (loadAgent l) (headAddr (s.queue q)) 64 s with
          | .ok (s1, bs) => loadLaunch s1 l bs
          | .error e => missed s l e).1 := by
        split
        · rename_i he
          rw [he] at h
          exact loadLaunch_formed _ _ _ h
        · rename_i he
          rw [he] at h
          exact missed_formed _ _ _ hs h
      split
      · rename_i he
        exact (congrArg (fun p => Formed p.1) he).mp h2
      · rename_i he
        replace h2 := (congrArg (fun p => Formed p.1) he).mp h2
        refine enterReady_formed _ _ ?_
        rw [Formed, setQueue_mem]
        exact dropAsked_formed _ (.queue q) h2

theorem putRecord_formed (s : State) (who : Waiter) (owner : Nat) (va : Nat) (bs : List Byte) (hs : Formed s) :
    Formed (putRecord s who owner va bs).1 := by
  grind -ring -linarith -order [putRecord, agentWrite_formed, pushErr_formed, Stop_left_formed, StopFormed, ResFormed1]

theorem recordLaunch_formed (s : State) (l : Launch) (hs : Formed s) : Formed (recordLaunch s l) := by
  grind -ring -linarith -order [recordLaunch, wf_memWrite]

theorem putNotRun_formed (l : Launch) (x1 : List Nat) (x2 : State) (hx2 : Formed x2) :
    Formed (putNotRun l x1 x2).1 := by
  induction x1 generalizing x2 with
  | nil => grind -ring -linarith -order [putNotRun, putRecord_formed]
  | cons y r ih => grind -ring -linarith -order [putNotRun, putRecord_formed]

theorem launchDone_formed (s : State) (l : Launch) (hs : Formed s) : Formed (launchDone s l) := by
  grind -ring -linarith -order [launchDone, countFor_formed, raiseMsi_formed, recordLaunch_formed, poolDrop_formed]

theorem execLaunchCompletion_formed (launch : Nat) (s : State) (hs : Formed s) :
    OutFormed (execLaunchCompletion launch s) := by
  grind -ring -linarith -order [execLaunchCompletion, putNotRun_formed, putRecord_formed, launchDone_formed,
    OutFormed, notEnabled]

/-! ## Power.lean -/

theorem raiseNew_formed (s : State) (vector : Nat) (l : List (Bool × Bool)) (hs : Formed s) :
    Formed (raiseNew s vector l) :=
  foldl_formed (fun u _ hu => formed_ite (raiseMsi_formed _ _ _ hu) hu) _ hs

theorem execPowerControlInterval_formed (power : Nat) (temp0 : Nat) (temp1 : Nat) (s : State) (hs : Formed s) :
    OutFormed (execPowerControlInterval power temp0 temp1 s) := by
  grind -ring -linarith -order [execPowerControlInterval, raiseNew_formed, OutFormed, notEnabled]

theorem execPwrcfgWrite_formed (v : Word) (s : State) (hs : Formed s) : OutFormed (execPwrcfgWrite v s) := by
  grind -ring -linarith -order [execPwrcfgWrite, OutFormed, notEnabled, barWrite]

theorem takeRampw_formed (s : State) (hs : Formed s) : Formed (takeRampw s) := by
  unfold takeRampw
  split
  · exact hs
  · dsimp only
    refine foldl_formed (fun u x hu => ?_) _ ?_
    · rw [Formed, setCu_mem]
      exact hu
    · exact hs

theorem execRowcapWrite_formed (v : BitVec 16) (s : State) (hs : Formed s) : OutFormed (execRowcapWrite v s) := by
  grind -ring -linarith -order [execRowcapWrite, OutFormed]

theorem execCounterBankWrite_formed (tenant : Nat) (k : Nat) (v : Word) (s : State) (hs : Formed s) :
    OutFormed (execCounterBankWrite tenant k v s) := by
  grind -ring -linarith -order [execCounterBankWrite, setTenant_mem, OutFormed, notEnabled, barWrite]

theorem execTelesnap_formed (v : Word) (s : State) (hs : Formed s) : OutFormed (execTelesnap v s) := by
  grind -ring -linarith -order [execTelesnap, OutFormed, notEnabled, barWrite]

theorem execTelesnapComplete_formed (s : State) (hs : Formed s) : OutFormed (execTelesnapComplete s) := by
  grind -ring -linarith -order [execTelesnapComplete, wf_memWrite, OutFormed, notEnabled]

theorem execRecorderConfigWrite_formed (q : Nat) (hi : Bool) (v : Word) (s : State) (hs : Formed s) :
    OutFormed (execRecorderConfigWrite q hi v s) := by
  grind -ring -linarith -order [execRecorderConfigWrite, OutFormed, notEnabled, barWrite]

/-! ## Boot.lean -/

theorem setPorts_formed (s : State) (f : Port → Port) (hs : Formed s) : Formed (setPorts s f) :=
  foldl_formed (fun u _ hu => by rw [Formed, setPort_mem]; exact hu) _ hs

theorem stepDone_formed (k : Nat) (s : State) (hs : Formed s) : Formed (stepDone k s) := by
  grind -ring -linarith -order [stepDone, setPorts_formed]

theorem stepSkipped_formed (k : Nat) (s : State) (hs : Formed s) : Formed (stepSkipped k s) := by
  grind -ring -linarith -order [stepSkipped, setPorts_formed]

theorem bootStep_formed (passes : List (Nat × Bool)) (k : Nat) (alt : Bool) (s : State) (hs : Formed s) :
    Formed (bootStep passes k alt s).1 := by
  grind -ring -linarith -order [bootStep, stepDone_formed]

theorem runMain_formed (passes : List (Nat × Bool)) (x1 : List Nat) (x2 : State) (hx2 : Formed x2) :
    Formed (runMain passes x1 x2) := by
  induction x1 generalizing x2 with
  | nil => grind -ring -linarith -order [runMain, bootStep_formed]
  | cons y r ih => grind -ring -linarith -order [runMain, bootStep_formed]

theorem manage_formed (passes : List (Nat × Bool)) (k : Nat) (s : State) (hs : Formed s) :
    Formed (manage passes k s) := by
  grind -ring -linarith -order [manage, runMain_formed]

theorem runSteps_formed (passes : List (Nat × Bool)) (x1 : Nat) (x2 : Nat) (x3 : State) (hx3 : Formed x3) :
    Formed (runSteps passes x1 x2 x3) := by
  induction x1 generalizing x2 x3 with
  | zero => grind -ring -linarith -order [runSteps, manage_formed, stepSkipped_formed, bootStep_formed]
  | succ n ih => grind -ring -linarith -order [runSteps, manage_formed, stepSkipped_formed, bootStep_formed]

theorem execBootStart_formed (passes : List (Nat × Bool)) (s : State) (hs : Formed s) :
    OutFormed (execBootStart passes s) := by
  grind -ring -linarith -order [execBootStart, runSteps_formed, OutFormed, notEnabled]

theorem execBootclr_formed (v : Word) (s : State) (hs : Formed s) : OutFormed (execBootclr v s) := by
  grind -ring -linarith -order [execBootclr, OutFormed]

theorem restart_formed (s : State) (hs : Formed s) : Formed (restart s) := by
  grind -ring -linarith -order [restart, failed_formed]

theorem execBootctl_formed (v : Word) (s : State) (hs : Formed s) : OutFormed (execBootctl v s) := by
  grind -ring -linarith -order [execBootctl, restart_formed, OutFormed]

theorem execFwsvn_formed (v : Word) (s : State) (hs : Formed s) : OutFormed (execFwsvn v s) := by
  grind -ring -linarith -order [execFwsvn, OutFormed, notEnabled, barWrite]

theorem execAttctlGo_formed (i3c : Bool) (s : State) (hs : Formed s) : OutFormed (execAttctlGo i3c s) := by
  grind -ring -linarith -order [execAttctlGo, OutFormed]

theorem execAttestationReportComplete_formed (s : State) (hs : Formed s) :
    OutFormed (execAttestationReportComplete s) := by
  grind -ring -linarith -order [execAttestationReportComplete, wf_memWrite, OutFormed, notEnabled]

/-! ## Save.lean -/

theorem dropWaits_formed (s : State) (crew : Nat) (hs : Formed s) : Formed (dropWaits s crew) :=
  withdraw_formed _ _ (foldl_formed (fun u k hu => dropStrand_formed u crew k hu) allKinds hs)

theorem putParts_formed (ps : List (Nat × List Byte)) (m : List Host.Cell) (base : Nat) (h : Memory.wf m = true) :
    Memory.wf (putParts m base ps) = true := by
  unfold putParts
  induction ps generalizing m with
  | nil => exact h
  | cons p r ih => exact ih _ (wf_memWrite _ _ _ h)

theorem execContextSave_formed (crew : Nat) (s : State) (hs : Formed s) : OutFormed (execContextSave crew s) := by
  unfold execContextSave
  dsimp only
  split
  · split
    · trivial
    · have h := flushReady_formed false s crew hs
      split
      · rename_i he
        rw [he] at h
        exact h
      · rename_i he
        rw [he] at h
        exact Stop_left_formed _ _ _ hs h
      · rename_i s1 he
        rw [he] at h
        have h2 := acctFlush_formed _ crew (dropWaits_formed s1 crew h)
        generalize acctFlush (dropWaits s1 crew) crew = q at h2 ⊢
        rw [OutFormed]
        refine poolAdd_formed _ _ ?_
        simp only [Formed, setCrew_mem]
        exact putParts_formed _ _ _ h2
  · trivial

theorem ownHandles_formed (s : State) (crew : Nat) (mask : Nat) (x : Ctx) (hs : Formed s) :
    Formed (ownHandles s crew mask x) := by
  grind -ring -linarith -order [ownHandles]

theorem resumeCtx_formed (s : State) (e : PoolEnt) (hs : Formed s) : Formed (resumeCtx s e) := by
  grind -ring -linarith -order [resumeCtx, ownHandles_formed, setCrew_mem]

theorem killSaved_formed (s : State) (launch : Nat) (task : Nat) (cause : Nat) (hs : Formed s) :
    Formed (killSaved s launch task cause) := by
  grind -ring -linarith -order [killSaved, poolMap_formed]

theorem killTask_formed (s : State) (crew : Nat) (launch : Nat) (task : Nat) (hs : Formed s) :
    Formed (killTask s crew launch task) := by
  grind -ring -linarith -order [killTask, killContext_formed, killSaved_formed]

theorem pushBad_formed (s : State) (unit : Nat) (sub : Nat) (fn : Nat) (crew : Nat) (tag : Word) (pa : Word)
    (hs : Formed s) : Formed (pushBad s unit sub fn crew tag pa) := by
  grind -ring -linarith -order [pushBad, drainErrs_formed]

theorem pushBadOf_formed (s : State) (unit : Nat) (sub : Nat) (crew : Nat) (pa : Word) (hs : Formed s) :
    Formed (pushBadOf s unit sub crew pa) := by
  grind -ring -linarith -order [pushBadOf, pushBad_formed]

theorem pushBadCard_formed (s : State) (unit sub : Nat) (k : Card) (pa : Word) (hs : Formed s) :
    Formed (pushBadCard s unit sub k pa) := pushBad_formed _ _ _ _ _ _ _ hs

theorem killCard_formed (s : State) (id : Nat) (hs : Formed s) : Formed (killCard s id) := by
  unfold killCard
  split
  · exact hs
  · exact killTask_formed _ _ _ _ (dropAsked_formed _ _ (dropWaiter_formed _ _ hs))

theorem killWalk_formed (s : State) (l ks : List Nat) (hs : Formed s) :
    Formed (ks.foldl killCard (l.foldl (fun s n => killContext s n cMemError) s)) :=
  foldl_formed (fun u x hu => killCard_formed u x hu) _ (foldl_formed (fun u _ hu => killContext_formed _ _ _ hu) _ hs)

theorem execUncorrectableError_formed (who : Consumer) (unit sub : Nat) (pa : Word) (s : State) (hs : Formed s) :
    OutFormed (execUncorrectableError who unit sub pa s) := by
  unfold execUncorrectableError
  split
  · trivial
  · dsimp only
    split
    · exact pushBad_formed _ _ _ _ _ _ _ hs
    · split
      · trivial
      · exact killContext_formed _ _ _ (pushBadOf_formed _ _ _ _ _ hs)
    · split
      · trivial
      · refine killContext_formed _ _ _ ?_
        rw [Formed, setCrew_mem]
        exact pushBadOf_formed _ _ _ _ _ hs
    · split
      · trivial
      · split
        · exact killWalk_formed _ _ _ (pushBadOf_formed _ _ _ _ _ hs)
        · exact killWalk_formed _ _ _ (pushBadCard_formed _ _ _ _ _ hs)
        · trivial
    · split
      · trivial
      · exact killCard_formed _ _ (pushBadCard_formed _ _ _ _ _ hs)

/-! ## Sched.lean -/

theorem startPreload_formed (s : State) (crew : Nat) (d : TileDesc) (hs : Formed s) :
    Formed (startPreload s crew d) := by
  grind -ring -linarith -order [startPreload, dCheck_formed, setCrew_mem]

theorem readTmpls_formed (l : Launch) (task : Nat) (x1 : List StrandKind) (x2 : State) (hx2 : Formed x2) :
    ResFormed (readTmpls l task x1 x2) := by
  induction x1 generalizing x2 with
  | nil => exact hx2
  | cons k r ih =>
    rw [readTmpls]
    have h : ResFormed (if (l.cfg.tmpl.getD (kindNum k) 0#64).toNat = 0 then (.ok (x2, []) : Res (State × List Byte))
        else agentRead (engAgent (.task l.id task) l.owner) (l.cfg.tmpl.getD (kindNum k) 0#64).toNat 512 x2) := by
      split
      · exact hx2
      · exact agentRead_formed _ _ _ _ hx2
    split
    · rename_i he
      rw [he] at h
      exact h
    · rename_i s1 bs he
      rw [he] at h
      have h2 := ih s1 h
      split
      · rename_i he
        rw [he] at h2
        exact h2
      · rename_i he
        rw [he] at h2
        exact h2

theorem startTask_formed (s : State) (e : PoolEnt) (crew : Nat) (hs : Formed s) : Formed (startTask s e crew).1 := by
  unfold startTask
  split
  · exact poolDrop_formed _ _ hs
  · rename_i l _
    split
    · exact poolDrop_formed _ _ hs
    · have h := readTmpls_formed l e.task allKinds s hs
      dsimp only
      split
      · rename_i he
        rw [he] at h
        exact h
      · rename_i he
        rw [he] at h
        refine stopLaunch_formed _ _ _ ?_
        rw [Formed, setLaunch_mem]
        exact Stop_left_formed _ _ _ hs h
      · rename_i he
        rw [he] at h
        refine foldl_formed (fun u d hu => startPreload_formed u _ d hu) _ ?_
        rw [Formed, setCrew_mem, setLaunch_mem]
        exact poolDrop_formed _ _ (dropAsked_formed _ _ h)

theorem dispatchOne_formed (skip : List (Nat × Nat)) (s : State) (hs : Formed s) : Formed (dispatchOne skip s).1 := by
  grind -ring -linarith -order [dispatchOne, poolDrop_formed, resumeCtx_formed, startTask_formed]

theorem dispatchRounds_formed (x1 : Nat) (x2 : List (Nat × Nat)) (x3 : State) (hx3 : Formed x3) :
    Formed (dispatchRounds x1 x2 x3) := by
  induction x1 generalizing x2 x3 with
  | zero => grind -ring -linarith -order [dispatchRounds, dispatchOne_formed]
  | succ n ih => grind -ring -linarith -order [dispatchRounds, dispatchOne_formed]

theorem dispatchAll_formed (s : State) (hs : Formed s) : Formed (dispatchAll s) := by
  grind -ring -linarith -order [dispatchAll, dispatchRounds_formed]

theorem enterLate_formed (s : State) (hs : Formed s) : Formed (enterLate s) :=
  foldl_formed (fun u e hu => poolAdd_formed u e hu) _ hs

theorem execDispatch_formed (s : State) (hs : Formed s) : OutFormed (execDispatch s) := by
  grind -ring -linarith -order [execDispatch, dispatchAll_formed, enterLate_formed, OutFormed, notEnabled]

theorem execTilePreloadComplete_formed (crew : Nat) (s : State) (hs : Formed s) :
    OutFormed (execTilePreloadComplete crew s) := by
  grind -ring -linarith -order [execTilePreloadComplete, stopLaunch_formed, setCrew_mem, OutFormed, notEnabled]

theorem giveUp_formed (s : State) (crew launch task : Nat) (hs : Formed s) : Formed (giveUp s crew launch task) :=
  dropWaits_formed _ crew (closeHandles_formed _ launch task (formed_ite (endLease_formed _ _ hs) hs))

theorem finalFlush_formed (s : State) (crew : Nat) (killed : Bool) (hs : Formed s) :
    Formed (finalFlush s crew killed) := by
  grind -ring -linarith -order [finalFlush, acctFlush_formed, acctSet_formed]

theorem decSuccs_formed (launch : Nat) (x1 : List Nat) (x2 : State) (hx2 : Formed x2) :
    Formed (decSuccs launch x1 x2) := by
  induction x1 generalizing x2 with
  | nil => grind -ring -linarith -order [decSuccs, stopLaunch_formed, makeReady_formed, setLaunch_mem]
  | cons y r ih => grind -ring -linarith -order [decSuccs, stopLaunch_formed, makeReady_formed, setLaunch_mem]

/-- Either state has the form. -/
def EitherFormed : Except State State → Prop
  | .error t => Formed t
  | .ok t => Formed t

theorem recordsReady_formed (s : State) (crew : Nat) (l : Launch) (x : Ctx) (hs : Formed s) :
    EitherFormed (recordsReady s crew l x) := by
  have h := flushReady_formed false s crew hs
  unfold recordsReady
  split
  · rename_i he
    rw [he] at h
    exact h
  · rename_i he
    rw [he] at h
    exact Stop_left_formed _ _ _ hs h
  · rename_i s1 he
    rw [he] at h
    have h2 := agentProbe_formed (engAgent (.task l.id x.task) l.owner) (taskAddr l x.task) 16 s1 h
    split
    · exact h
    · split
      · rename_i he2
        rw [he2] at h2
        exact h2
      · exact h

theorem execTaskCompletion_formed (crew : Nat) (s : State) (hs : Formed s) :
    OutFormed (execTaskCompletion crew s) := by
  unfold execTaskCompletion
  dsimp only
  split
  · trivial
  · rename_i x _
    split
    · trivial
    · split
      · trivial
      · rename_i l _
        split
        · trivial
        · have h := recordsReady_formed s crew l x hs
          split
          · rename_i he
            rw [he] at h
            exact h
          · rename_i he
            rw [he] at h
            grind -ring -linarith -order [EitherFormed, finalFlush_formed, giveUp_formed, putRecord_formed,
              countFor_formed, stopLaunch_formed, decSuccs_formed, setLaunch_mem, setCrew_mem, OutFormed]

theorem execPriorityAging_formed (s : State) (hs : Formed s) : OutFormed (execPriorityAging s) := by
  grind -ring -linarith -order [execPriorityAging, OutFormed, notEnabled]

theorem execEpochBoundary_formed (s : State) (hs : Formed s) : OutFormed (execEpochBoundary s) := by
  grind -ring -linarith -order [execEpochBoundary, OutFormed, notEnabled]

theorem markOne_formed (s : State) (hs : Formed s) : Formed (markOne s) := by
  grind -ring -linarith -order [markOne, setCrew_mem]

theorem execPartitionExamination_formed (s : State) (hs : Formed s) : OutFormed (execPartitionExamination s) := by
  grind -ring -linarith -order [execPartitionExamination, markOne_formed, OutFormed, notEnabled]

theorem execPreemptWrite_formed (v : Word) (s : State) (hs : Formed s) : OutFormed (execPreemptWrite v s) := by
  grind -ring -linarith -order [execPreemptWrite, setCrew_mem, OutFormed, notEnabled, barWrite]

/-! ## Registers.lean -/

theorem execStagecfgWrite_formed (v : Word) (s : State) (hs : Formed s) : OutFormed (execStagecfgWrite v s) := by
  grind -ring -linarith -order [execStagecfgWrite, OutFormed, notEnabled, barWrite]

theorem drainAllErrs_formed (s : State) (hs : Formed s) : Formed (drainAllErrs s) := by
  grind -ring -linarith -order [drainAllErrs, drainErrs_formed]

theorem assignSegment_formed (s : State) (cu : Nat) (seg : Nat) (owner : Nat) (hs : Formed s) :
    Formed (assignSegment s cu seg owner) := by
  grind -ring -linarith -order [assignSegment, setCu_mem, wf_filter]

theorem regWrite_formed (reg : HostReg) (v : Word) (s : State) (hs : Formed s) : Formed (regWrite reg v s) := by
  cases reg
  case route => exact formed_ite (loseAll_formed _ (flushOut_formed _ hs)) hs
  case segment => exact formed_ite (assignSegment_formed _ _ _ _ hs) hs
  case fqcfg => exact drainAllFaults_formed _ hs
  case ercfg => exact drainAllErrs_formed _ hs
  case erhead => exact drainAllErrs_formed _ hs
  case tenant => exact formed_ite hs hs
  case cap => exact formed_ite hs hs
  case port => exact formed_ite hs hs
  case therm => exact formed_ite hs hs
  all_goals exact hs

theorem execRegisterWrite_formed (reg : HostReg) (v : Word) (s : State) (hs : Formed s) :
    OutFormed (execRegisterWrite reg v s) := by
  unfold execRegisterWrite
  try dsimp only
  (repeat' split) <;> grind -ring -linarith -order [regWrite_formed, OutFormed, notEnabled, barWrite]

theorem execCxlMemAccess_formed (write : Bool) (pa : Nat) (data : List Byte) (s : State) (hs : Formed s) :
    OutFormed (execCxlMemAccess write pa data s) := by
  grind -ring -linarith -order [execCxlMemAccess, wf_memWrite, OutFormed, notEnabled]

/-! ## Turn.lean -/

theorem State_bare_formed (s : State) (hs : Formed s) : Formed (State.bare s) := by
  grind -ring -linarith -order [State.bare]

theorem snapDue_formed (s : State) (hs : Formed s) : MayFormed (snapDue s) := by
  unfold snapDue
  generalize s.crews = l
  induction l with
  | nil => trivial
  | cons p r ih =>
    rw [List.findSome?_cons]
    have h := writeSnap_formed s p.1 hs
    grind -ring -linarith -order [MayFormed]

theorem settleDue_formed (s : State) (hs : Formed s) : MayFormed (settleDue s) := by
  grind -ring -linarith -order [settleDue, takeRampw_formed, dropBindings_formed, releaseWalk_formed, snapDue_formed,
    MayFormed]

theorem lstopTrap_formed (s : State) (id : Fin 4) (hs : Formed s) : Formed (lstopTrap s id) := by
  grind -ring -linarith -order [lstopTrap, takeTrap_formed, setMe_mem]

theorem fetchNow_formed (s : State) (hs : Formed s) : ResFormed (fetchNow s) := by
  grind -ring -linarith -order [fetchNow, fetchWords_formed, ResFormed]

theorem passCycles_formed (s : State) (n : Nat) (hs : Formed s) : Formed (passCycles s n) := by
  grind -ring -linarith -order [passCycles, retryAll_formed, applyAllStaged_formed, State_elapse_formed]

theorem newCycle_formed (s : State) (hs : Formed s) : Formed (newCycle s) := by
  grind -ring -linarith -order [newCycle, passCycles_formed]

/-! ## Dispatch.lean -/

/-- Every instruction and event keeps the form. -/
theorem exec_formed (i : Instr) (s : State) (hs : Formed s) : OutFormed (exec i s) := by
  cases i with
  | exit p => exact execExit_formed p s hs
  | yield p => exact execYield_formed p s hs
  | yieldSafe p => exact execYieldSafe_formed p s hs
  | tret p => exact execTret_formed p s hs
  | trap p imm => exact execTrap_formed p imm s hs
  | bkpt p imm => exact execBkpt_formed p imm s hs
  | acctflush p => exact execAcctflush_formed p s hs
  | fence p scope mask => exact execFence_formed p scope mask s hs
  | mfsr p sd num => exact execMfsr_formed p sd num s hs
  | mtsr p sa num => exact execMtsr_formed p sa num s hs
  | waitt p sa => exact execWaitt_formed p sa s hs
  | tkpush p mask => exact execTkpush_formed p mask s hs
  | tkpop p mask => exact execTkpop_formed p mask s hs
  | gsync p g => exact execGsync_formed p g s hs
  | qwr p sa q f => exact execQwr_formed p sa q f s hs
  | qrd p sd q e => exact execQrd_formed p sd q e s hs
  | add p sd sa sb => exact execAdd_formed p sd sa sb s hs
  | sub p sd sa sb => exact execSub_formed p sd sa sb s hs
  | and p sd sa sb => exact execAnd_formed p sd sa sb s hs
  | or p sd sa sb => exact execOr_formed p sd sa sb s hs
  | xor p sd sa sb => exact execXor_formed p sd sa sb s hs
  | sll p sd sa sb => exact execSll_formed p sd sa sb s hs
  | srl p sd sa sb => exact execSrl_formed p sd sa sb s hs
  | sra p sd sa sb => exact execSra_formed p sd sa sb s hs
  | mul p sd sa sb => exact execMul_formed p sd sa sb s hs
  | mulh p sd sa sb => exact execMulh_formed p sd sa sb s hs
  | mulhu p sd sa sb => exact execMulhu_formed p sd sa sb s hs
  | div p sd sa sb => exact execDiv_formed p sd sa sb s hs
  | divu p sd sa sb => exact execDivu_formed p sd sa sb s hs
  | rem p sd sa sb => exact execRem_formed p sd sa sb s hs
  | remu p sd sa sb => exact execRemu_formed p sd sa sb s hs
  | min p sd sa sb => exact execMin_formed p sd sa sb s hs
  | max p sd sa sb => exact execMax_formed p sd sa sb s hs
  | minu p sd sa sb => exact execMinu_formed p sd sa sb s hs
  | maxu p sd sa sb => exact execMaxu_formed p sd sa sb s hs
  | clz p sd sa => exact execClz_formed p sd sa s hs
  | ctz p sd sa => exact execCtz_formed p sd sa s hs
  | popc p sd sa => exact execPopc_formed p sd sa s hs
  | addi sd sa imm => exact execAddi_formed sd sa imm s hs
  | andi sd sa imm => exact execAndi_formed sd sa imm s hs
  | ori sd sa imm => exact execOri_formed sd sa imm s hs
  | xori sd sa imm => exact execXori_formed sd sa imm s hs
  | slli sd sa n => exact execSlli_formed sd sa n s hs
  | srli sd sa n => exact execSrli_formed sd sa n s hs
  | srai sd sa n => exact execSrai_formed sd sa n s hs
  | lui sd imm => exact execLui_formed sd imm s hs
  | cmp p pd cond sa sb => exact execCmp_formed p pd cond sa sb s hs
  | cmpi pd cond sa imm => exact execCmpi_formed pd cond sa imm s hs
  | pand p pd pa pb => exact execPand_formed p pd pa pb s hs
  | por p pd pa pb => exact execPor_formed p pd pa pb s hs
  | pxor p pd pa pb => exact execPxor_formed p pd pa pb s hs
  | pandn p pd pa pb => exact execPandn_formed p pd pa pb s hs
  | porn p pd pa pb => exact execPorn_formed p pd pa pb s hs
  | lea p sd sa sb => exact execLea_formed p sd sa sb s hs
  | tag p sd sa sid => exact execTag_formed p sd sa sid s hs
  | space p sd sa => exact execSpace_formed p sd sa s hs
  | rng p sd => exact execRng_formed p sd s hs
  | rngc p sd sn => exact execRngc_formed p sd sn s hs
  | br p disp => exact execBr_formed p disp s hs
  | jmp disp => exact execJmp_formed disp s hs
  | call disp => exact execCall_formed disp s hs
  | jr p sa => exact execJr_formed p sa s hs
  | callr p sa => exact execCallr_formed p sa s hs
  | loop id stages sa off => exact execLoop_formed id stages sa off s hs
  | ldb sd sa off => exact execLdb_formed sd sa off s hs
  | ldbu sd sa off => exact execLdbu_formed sd sa off s hs
  | ldh sd sa off => exact execLdh_formed sd sa off s hs
  | ldhu sd sa off => exact execLdhu_formed sd sa off s hs
  | ldw sd sa off => exact execLdw_formed sd sa off s hs
  | ldwu sd sa off => exact execLdwu_formed sd sa off s hs
  | ldd sd sa off => exact execLdd_formed sd sa off s hs
  | stb sb sa off => exact execStb_formed sb sa off s hs
  | sth sb sa off => exact execSth_formed sb sa off s hs
  | stw sb sa off => exact execStw_formed sb sa off s hs
  | std sb sa off => exact execStd_formed sb sa off s hs
  | ldx p sd sa si size sext z cls off => exact execLdx_formed p sd sa si size sext z cls off s hs
  | stx p sb sa si size z cls off => exact execStx_formed p sb sa si size z cls off s hs
  | ldxAcq p sd sa si scope z cls mask => exact execLdxAcq_formed p sd sa si scope z cls mask s hs
  | stxRel p sb sa si scope z cls mask => exact execStxRel_formed p sb sa si scope z cls mask s hs
  | amoAdd p sd sa sb size cls => exact execAmoAdd_formed p sd sa sb size cls s hs
  | amoMin p sd sa sb size cls => exact execAmoMin_formed p sd sa sb size cls s hs
  | amoMax p sd sa sb size cls => exact execAmoMax_formed p sd sa sb size cls s hs
  | amoMinu p sd sa sb size cls => exact execAmoMinu_formed p sd sa sb size cls s hs
  | amoMaxu p sd sa sb size cls => exact execAmoMaxu_formed p sd sa sb size cls s hs
  | amoAnd p sd sa sb size cls => exact execAmoAnd_formed p sd sa sb size cls s hs
  | amoOr p sd sa sb size cls => exact execAmoOr_formed p sd sa sb size cls s hs
  | amoXor p sd sa sb size cls => exact execAmoXor_formed p sd sa sb size cls s hs
  | amoSwp p sd sa sb size cls => exact execAmoSwp_formed p sd sa sb size cls s hs
  | cas p sd sa sb sc size cls => exact execCas_formed p sd sa sb sc size cls s hs
  | amoFadd p sd sa sb cls => exact execAmoFadd_formed p sd sa sb cls s hs
  | li32 p sd imm => exact execLi32_formed p sd imm s hs
  | lih p sd imm => exact execLih_formed p sd imm s hs
  | vadd e v => exact execVadd_formed e v s hs
  | vsub e v => exact execVsub_formed e v s hs
  | vmul e v => exact execVmul_formed e v s hs
  | vfma e v => exact execVfma_formed e v s hs
  | vmin e v => exact execVmin_formed e v s hs
  | vmax e v => exact execVmax_formed e v s hs
  | vabs e v => exact execVabs_formed e v s hs
  | vneg e v => exact execVneg_formed e v s hs
  | vexp2 e v => exact execVexp2_formed e v s hs
  | vlog2 e v => exact execVlog2_formed e v s hs
  | vrcp e v => exact execVrcp_formed e v s hs
  | vrsqrt e v => exact execVrsqrt_formed e v s hs
  | vtanh e v => exact execVtanh_formed e v s hs
  | vand e v => exact execVand_formed e v s hs
  | vor e v => exact execVor_formed e v s hs
  | vxor e v => exact execVxor_formed e v s hs
  | vshl e v => exact execVshl_formed e v s hs
  | vshr e v => exact execVshr_formed e v s hs
  | vsra e v => exact execVsra_formed e v s hs
  | vcmpEq e v => exact execVcmpEq_formed e v s hs
  | vcmpNe e v => exact execVcmpNe_formed e v s hs
  | vcmpLt e v => exact execVcmpLt_formed e v s hs
  | vcmpLe e v => exact execVcmpLe_formed e v s hs
  | vsel e v => exact execVsel_formed e v s hs
  | vcvt e v => exact execVcvt_formed e v s hs
  | vqblk e v => exact execVqblk_formed e v s hs
  | vunpk e v => exact execVunpk_formed e v s hs
  | vdrop e v => exact execVdrop_formed e v s hs
  | vrsum e v => exact execVrsum_formed e v s hs
  | vrmax e v => exact execVrmax_formed e v s hs
  | vrmin e v => exact execVrmin_formed e v s hs
  | vmov e v => exact execVmov_formed e v s hs
  | vshuf e v => exact execVshuf_formed e v s hs
  | viota e v => exact execViota_formed e v s hs
  | vsplat e v => exact execVsplat_formed e v s hs
  | vld e v => exact execVld_formed e v s hs
  | vst e v => exact execVst_formed e v s hs
  | vldt e v => exact execVldt_formed e v s hs
  | vgath e v => exact execVgath_formed e v s hs
  | vrng e v => exact execVrng_formed e v s hs
  | vtrn e v => exact execVtrn_formed e v s hs
  | alease e x => exact execAlease_formed e x s hs
  | arelease e x => exact execArelease_formed e x s hs
  | lds e x => exact execLds_formed e x s hs
  | ldsP e x => exact execLdsP_formed e x s hs
  | ldsCb e x => exact execLdsCb_formed e x s hs
  | ldsBs e x => exact execLdsBs_formed e x s hs
  | mswap e x => exact execMswap_formed e x s hs
  | mmul e x => exact execMmul_formed e x s hs
  | mmulBs e x => exact execMmulBs_formed e x s hs
  | mdrain e x => exact execMdrain_formed e x s hs
  | mzero e x => exact execMzero_formed e x s hs
  | mcbt e x => exact execMcbt_formed e x s hs
  | cpy e c => exact execCpy_formed e c s hs
  | cpyLd e c => exact execCpyLd_formed e c s hs
  | cpySt e c => exact execCpySt_formed e c s hs
  | cgath e c => exact execCgath_formed e c s hs
  | cscat e c => exact execCscat_formed e c s hs
  | cred e c => exact execCred_formed e c s hs
  | cpref e c => exact execCpref_formed e c s hs
  | cring e c => exact execCring_formed e c s hs
  | collOpen e c => exact execCollOpen_formed e c s hs
  | collAred e c => exact execCollAred_formed e c s hs
  | collAgath e c => exact execCollAgath_formed e c s hs
  | collBcast e c => exact execCollBcast_formed e c s hs
  | collClose e c => exact execCollClose_formed e c s hs
  | send e c => exact execSend_formed e c s hs
  | recv e c => exact execRecv_formed e c s hs
  | japp e c => exact execJapp_formed e c s hs
  | jwait e c => exact execJwait_formed e c s hs
  | jfetch e c => exact execJfetch_formed e c s hs
  | glzPost e c => exact execGlzPost_formed e c s hs
  | glzWait e c => exact execGlzWait_formed e c s hs
  | binit e y => exact execBinit_formed e y s hs
  | bexpect e y => exact execBexpect_formed e y s hs
  | barrive e y => exact execBarrive_formed e y s hs
  | bwait e y => exact execBwait_formed e y s hs
  | btest e y => exact execBtest_formed e y s hs
  | rinit e y => exact execRinit_formed e y s hs
  | rwaitf e y => exact execRwaitf_formed e y s hs
  | rrel e y => exact execRrel_formed e y s hs
  | patch index select value => exact execPatch_formed index select value s hs
  | tload p sa => exact execTload_formed p sa s hs
  | krules p sa => exact execKrules_formed p sa s hs
  | kneadGroupIssue entry => exact execKneadGroupIssue_formed entry s hs
  | engineInstructionCompletion crew op => exact execEngineInstructionCompletion_formed crew op s hs
  | asyncTrapEntry crew k => exact execAsyncTrapEntry_formed crew k s hs
  | waittWake crew k at_ => exact execWaittWake_formed crew k at_ s hs
  | jwaitDeadline crew sd pd chained => exact execJwaitDeadline_formed crew sd pd chained s hs
  | watchdogExpiry crew k => exact execWatchdogExpiry_formed crew k s hs
  | leaseGrant cu => exact execLeaseGrant_formed cu s hs
  | leaseLimit cu => exact execLeaseLimit_formed cu s hs
  | rampStep cu => exact execRampStep_formed cu s hs
  | copyUnit crew op => exact execCopyUnit_formed crew op s hs
  | copyCompletion crew op => exact execCopyCompletion_formed crew op s hs
  | reductionContextClaim => exact execReductionContextClaim_formed s hs
  | fabricOpCompletion crew op => exact execFabricOpCompletion_formed crew op s hs
  | collectiveChunk chunk => exact execCollectiveChunk_formed chunk s hs
  | sendData chunk => exact execSendData_formed chunk s hs
  | remoteAccess acc => exact execRemoteAccess_formed acc s hs
  | acknowledgement tag data => exact execAcknowledgement_formed tag data s hs
  | journalArrival group src entry fetched => exact execJournalArrival_formed group src entry fetched s hs
  | jfetchRequest group src first count => exact execJfetchRequest_formed group src first count s hs
  | jappResend crew op => exact execJappResend_formed crew op s hs
  | flitReceive port flit => exact execFlitReceive_formed port flit s hs
  | retryRequest port seq => exact execRetryRequest_formed port seq s hs
  | portRetrain port ok => exact execPortRetrain_formed port ok s hs
  | glazeCardRun crew card => exact execGlazeCardRun_formed crew card s hs
  | glazeCardCompletion crew card => exact execGlazeCardCompletion_formed crew card s hs
  | translationWalk cu fn va need => exact execTranslationWalk_formed cu fn va need s hs
  | translationExpiry => exact execTranslationExpiry_formed s hs
  | clockSkewDetection cu drift => exact execClockSkewDetection_formed cu drift s hs
  | fqrespWrite v => exact execFqrespWrite_formed v s hs
  | fqheadWrite v => exact execFqheadWrite_formed v s hs
  | xrRootWrite fn stage2 v => exact execXrRootWrite_formed fn stage2 v s hs
  | fcmdWrite v => exact execFcmdWrite_formed v s hs
  | frameFormatComplete => exact execFrameFormatComplete_formed s hs
  | queueConfigWrite q hi v => exact execQueueConfigWrite_formed q hi v s hs
  | tailWrite q v => exact execTailWrite_formed q v s hs
  | abortWrite q v => exact execAbortWrite_formed q v s hs
  | functionLevelReset vf => exact execFunctionLevelReset_formed vf s hs
  | launchRecordRead q => exact execLaunchRecordRead_formed q s hs
  | dispatch => exact execDispatch_formed s hs
  | tilePreloadComplete crew => exact execTilePreloadComplete_formed crew s hs
  | taskCompletion crew => exact execTaskCompletion_formed crew s hs
  | launchCompletion launch => exact execLaunchCompletion_formed launch s hs
  | accountRecordEviction crew => exact execAccountRecordEviction_formed crew s hs
  | accountCountOverflow crew => exact execAccountCountOverflow_formed crew s hs
  | priorityAging => exact execPriorityAging_formed s hs
  | epochBoundary => exact execEpochBoundary_formed s hs
  | partitionExamination => exact execPartitionExamination_formed s hs
  | preemptWrite v => exact execPreemptWrite_formed v s hs
  | contextSave crew => exact execContextSave_formed crew s hs
  | spillcfgWrite v => exact execSpillcfgWrite_formed v s hs
  | stagecfgWrite v => exact execStagecfgWrite_formed v s hs
  | powerControlInterval power temp0 temp1 => exact execPowerControlInterval_formed power temp0 temp1 s hs
  | pwrcfgWrite v => exact execPwrcfgWrite_formed v s hs
  | rowcapWrite v => exact execRowcapWrite_formed v s hs
  | uncorrectableError who unit sub pa => exact execUncorrectableError_formed who unit sub pa s hs
  | bootStart passes => exact execBootStart_formed passes s hs
  | bootclr v => exact execBootclr_formed v s hs
  | bootctl v => exact execBootctl_formed v s hs
  | fwsvn v => exact execFwsvn_formed v s hs
  | attctlGo i3c => exact execAttctlGo_formed i3c s hs
  | attestationReportComplete => exact execAttestationReportComplete_formed s hs
  | telesnap v => exact execTelesnap_formed v s hs
  | telesnapComplete => exact execTelesnapComplete_formed s hs
  | counterBankWrite tenant k v => exact execCounterBankWrite_formed tenant k v s hs
  | recorderConfigWrite q hi v => exact execRecorderConfigWrite_formed q hi v s hs
  | registerWrite reg v => exact execRegisterWrite_formed reg v s hs
  | unassignedEncoding w0 w1 => exact execUnassignedEncoding_formed w0 w1 s hs
  | instructionFetchFault cause tval => exact execInstructionFetchFault_formed cause tval s hs
  | zeroingComplete what => exact execZeroingComplete_formed what s hs
  | clockCopyResync cu => exact execClockCopyResync_formed cu s hs
  | correctedSoftError unit sub pa overflow => exact execCorrectedSoftError_formed unit sub pa overflow s hs
  | cxlMemAccess write pa data => exact execCxlMemAccess_formed write pa data s hs

end Sys2Proof.Machine
end

