-- ==== Sys2Proof/Laws/Issues.lean ====
section
/-! SUPPORT. How an instruction that issues ends, in the terms of Safety.lean: one lemma for plain instructions, one for
the effect and one for the stop of an instruction that its strand waits at, and the gate of an engine. -/
namespace Sys2Proof.Machine

/-- An instruction that executes is the end of its body. -/
theorem issue_finishes {i : Instr} {ks : List StrandKind} {p : BitVec 4} {b : Body} {s : State} {n : Nat} (off : Bool)
    (h : Issues s i) (hk : strandKinds i = ks) (hp : predField i = p) : issue i ks p off b s n = finish i s n (b s) := by
  subst hk; subst hp
  exact issue_executes h.1 h.2.1 h.2.2.1 h.2.2.2

/-- An order is not held where its class and, for a release, every earlier access have been performed. -/
theorem order_free {s : State} {e : Eng} {r : Bool} (h : MayPerform s e r) :
    ({ cls := e.cls.toNat, release := r } : Order).held s = false := by
  obtain ⟨-, h2, h3⟩ := h
  unfold InOrder at h2
  cases r <;> simp_all [Order.held, Released]

/-- An instruction that has had its effect may make its posts. -/
theorem postWait_none {s : State} {m : BitVec 3} (hc : s.myCrew.canPost s.cur.2 m = true) (hr : m = 0#3 ∨ Released s) :
    postWait s m = none := by
  unfold Released at hr
  rcases hr with rfl | h <;> simp_all [postWait]

/-- Its posts wait for an access that they cover. -/
theorem postWait_mem {s : State} {m : BitVec 3} (hc : s.myCrew.canPost s.cur.2 m = true) (hm : m ≠ 0#3) (hr : ¬Released s) :
    postWait s m = some qMem := by
  unfold Released at hr
  simp [postWait, hc, hm, hr]

/-- Its posts wait for a counter. -/
theorem postWait_token {s : State} {m : BitVec 3} (hc : ¬s.myCrew.canPost s.cur.2 m = true) : postWait s m = some qToken := by
  simp [postWait, hc]

/-- The held body of an instruction whose effect answers. -/
theorem heldBody_ok {e : Eng} {body : State → Res State} {s u : State} {r : Bool} (ht : MayPerform s e r) (hb : body s = .ok u) :
    heldBody e { cls := e.cls.toNat, release := r } body s =
      match postWait (u.setMyCrew (u.myCrew.take u.cur.2 e.wait)) e.post with
      | none => .ok ((u.setMyCrew (u.myCrew.take u.cur.2 e.wait)).setMyCrew
          ((u.setMyCrew (u.myCrew.take u.cur.2 e.wait)).myCrew.post (u.setMyCrew (u.myCrew.take u.cur.2 e.wait)).cur.2 e.post), none)
      | some q => .error (.wait q ((u.setMyCrew (u.myCrew.take u.cur.2 e.wait)).setMe
          { (u.setMyCrew (u.myCrew.take u.cur.2 e.wait)).me with owed := true })) := by
  unfold heldBody
  rw [ht.1, hb, order_free ht]
  rfl

/-- A held instruction that may have its effect, and whose effect answers, performs it. -/
theorem heldIssue_performs {i : Instr} {ks : List StrandKind} {e : Eng} {body : State → Res State} {s u : State} {r : Bool}
    (h : IssuesHeld s i) (hk : strandKinds i = ks) (hp : predField i = e.p) (ht : MayPerform s e r) (hb : body s = .ok u)
    (hx : exec i s = heldIssue i e ks body s r) : Performs i e s u := by
  have ho : s.me.owed = false := h.2
  have e0 : exec i s = finish i s 1 (heldBody e { cls := e.cls.toNat, release := r } body s) := by
    rw [hx]; unfold heldIssue; rw [ho]; exact issue_finishes _ h.1 hk hp
  rw [heldBody_ok ht hb] at e0
  refine ⟨fun hc hr => ?_, fun hc hm hr => ?_, fun hc => ?_⟩
  · unfold EndsIn; rw [e0, postWait_none hc hr]; rfl
  · unfold Waits; rw [e0, postWait_mem hc hm hr]; rfl
  · unfold Waits; rw [e0, postWait_token hc]; rfl

/-- A held instruction that may have its effect, and whose effect stops, stops so. -/
theorem heldIssue_stops {i : Instr} {ks : List StrandKind} {e : Eng} {body : State → Res State} {s : State} {w : Stop} {r : Bool}
    (h : IssuesHeld s i) (hk : strandKinds i = ks) (hp : predField i = e.p) (ht : MayPerform s e r)
    (hb : body s = .error w) (hx : exec i s = heldIssue i e ks body s r) : exec i s = finish i s 1 (.error w) := by
  have ho : s.me.owed = false := h.2
  rw [hx]; unfold heldIssue; rw [ho]
  refine (issue_finishes _ h.1 hk hp).trans ?_
  unfold heldBody; rw [ht.1, hb, order_free ht]
  cases w <;> rfl

/-- A copy or fabric engine with fewer than 16 operations has room. -/
theorem engineFull_of_lt {c : Crew} (h : c.ops.length < 16) : engineFull c = false := by
  simp [engineFull]; omega

/-- An open gate lets an instruction without tile operands start. -/
theorem engGate_of_open {s : State} {e : Eng} (h : GateOpen s e {} []) : engGate s e {} false = .ok () := by
  simp [engGate, h.1, h.2.1, h.2.2.2]

/-- The start of a fabric operation whose checks pass. -/
theorem fabBody_starts {s s1 : State} {e : Eng} {bar : Word} {check : State → Res (State × AsyncOp)} {o : AsyncOp}
    {after : Nat → State → State} (h : GateOpen s e {} []) (ho : EngineOpen s e [bar]) (hc : check s = .ok (s1, o)) :
    fabBody e bar check after s = .ok (after s1.myCrew.seq (enterEngine s1 e {} o), none) := by
  unfold EngineOpen at ho
  simp [fabBody, engGate_of_open h, hc, ho]

end Sys2Proof.Machine
end

