-- ==== Sys2Proof/Machine/Deliver.lean ====
section
/-! DEFINITION. What a message of another device is here: the event of the table that it brings about (spec 26 R382,
R386, R389; 14 R273, R276). With it, devices of this model can be put together. -/
namespace Sys2Proof.Machine

/-- The chunk of a collective or send message. -/
def msgChunk (m : Msg) : Chunk :=
  { group := m.group, src := m.nums.getD 0 0, oper := m.nums.getD 1 0, number := m.nums.getD 2 0, params := m.nums.drop 3,
    data := m.data }

/-- The wait that an acknowledgement m from a rank answers: of a remote access or a chunk of a send by its tag, of a
collective chunk by operation, number and opening, of a journal entry by its position, of a jfetch by its first
position, and of an entry that answers one by its position. -/
def answers (s : State) (rank : Nat) (m : Msg) (w : RemoteWait) : Bool :=
  w.msg.dst == rank && w.msg.group == m.group && w.msg.kind == m.tag &&
    (if m.tag = 2 then m.nums == [w.msg.nums.getD 1 0, w.msg.nums.getD 2 0, w.msg.nums.getD 3 0]
     else if m.tag = 4 then
      (if w.msg.nums.getD 1 0 = 2 then decide (1 < m.data.length) && m.nums == [w.msg.nums.getD 2 0]
       else if w.msg.nums.getD 1 0 = 1 then decide (m.data.length = 1) && m.nums == [w.msg.nums.getD 2 0, 1]
       else decide (m.data.length = 1) &&
        (s.crew w.crew).ops.any fun o => w.op == some o.id && m.nums == [o.pos])
     else m.nums == [w.tag])

/-- Numbers in pairs. -/
def pairsOf : List Nat → List (Nat × Nat)
  | a :: b :: r => (a, b) :: pairsOf r
  | _ => []

/-- The remote access of a message from a rank: byte o of its window is at rbase + o (R389); a unit of a cred has its
copy, unit, part and pieces (13 R250). -/
def msgAccess (rank : Nat) (m : Msg) : RemoteReq :=
  let n (i : Nat) : Nat := m.nums.getD i 0
  let base := m.nums.getLastD 0
  if n 0 = 3 then
    { tag := m.tag, group := m.group, srcRank := rank, kind := 3, fn := n 1, off := 0, size := m.data.length, data := m.data,
      copy := n 2, unit := n 3, part := n 4,
      pieces := (pairsOf (m.nums.drop 5)).map fun p => (base + p.1, p.2) }
  else
    { tag := m.tag, group := m.group, srcRank := rank, kind := n 0, fn := n 1, off := base + n 2, size := n 3,
      data := m.data }

/-- The event of a message that has arrived from a rank. -/
def msgEvent (s : State) (rank : Nat) (m : Msg) : Option Instr :=
  if m.kind = 1 then some (.remoteAccess (msgAccess rank m))
  else if m.kind = 2 then some (.collectiveChunk (msgChunk m))
  else if m.kind = 3 then some (.sendData (msgChunk m))
  else if m.kind = 4 then
    (if m.nums.getD 1 0 = 2 then some (.jfetchRequest m.group (m.nums.getD 0 0) (m.nums.getD 2 0) (m.nums.getD 3 0))
     else some (.journalArrival m.group (m.nums.getD 0 0) m.data (m.nums.getD 1 0 == 1)))
  else if m.kind = 5 then (s.remote.find? (answers s rank m)).map fun w => .acknowledgement w.tag m.data
  else none

end Sys2Proof.Machine
end

