-- ==== Sys2Proof/Machine/HostRead.lean ====
section
/-! DEFINITION. What the host reads, and which event of the table a write at a register address is: the register maps
of spec 21 R318 to R320, R332, R335, R336; 22 R341, R344, R347, R351, R355; 23 R365, R367; 25 R374, R375, R379; 26
R384, R385, R388, R392, R393; 27 R397 to R402. A read changes nothing, so it is no step. -/
namespace Sys2Proof.Machine

/-! ## The values of the registers -/

/-- A field of n as it stands at a bit. -/
def fieldAt (n lo : Nat) : Word := BitVec.ofNat 64 (n <<< lo)

/-- A Bool as a bit. -/
def bitAt (b : Bool) (lo : Nat) : Word := fieldAt b.toNat lo

/-- The halves of a queue's configuration (R319). -/
def queueRead (q : Queue) (hi : Bool) : Word :=
  if hi then bitAt q.en 63 ||| bitAt q.err 62 ||| fieldAt q.owner 48 ||| fieldAt q.vector 32 ||| fieldAt q.lsize 0 else q.base

/-- A word of a tenant's configuration (R332). -/
def tenantRead (t : Tenant) (w : Nat) : Word :=
  if w < 6 then t.crews.extractLsb' (64 * w) 64
  else if w = 6 then t.wdogMax.setWidth 64 ||| fieldAt t.target 48
  else fieldAt t.kpermAllow.toNat 1 ||| fieldAt (BitVec.ofInt 48 t.deficit).toNat 16

/-- The three registers of a ring of records (22 R351). -/
def ringRegRead (r : RecRing) (w : Nat) : Word :=
  if w = 0 then fieldAt (r.base / 4096) 12 ||| fieldAt r.lsize 8 ||| bitAt r.en 7
  else if w = 1 then fieldAt r.vector 48 ||| r.head.setWidth 64
  else if w = 2 then r.tail.setWidth 64
  else 0#64

/-- BOOTSTAT (25 R374). -/
def bootstatRead (b : Boot) : Word :=
  fieldAt b.step 56 ||| fieldAt b.mode 52 ||| bitAt b.recErr 49 ||| fieldAt b.bank 48 ||| fieldAt b.failed.toNat 32 |||
    fieldAt b.starts 0

/-- ATTCTL (25 R379). -/
def attctlRead (b : Boot) : Word := bitAt b.attGo 63 ||| fieldAt b.attStatus 48

/-- 8 bytes of a list as a register. -/
def bytesRead (bs : List Byte) (off : Nat) : Word := BitVec.ofNat 64 (leNat ((bs.drop off).take 8))

/-- FCMD (22 R355). -/
def fcmdRead (r : Regs) : Word :=
  bitAt r.fcmdGo 63 ||| fieldAt r.fcmdOp 61 ||| fieldAt r.fcmdFrame 12 ||| fieldAt r.fcmdCount 4 ||| bitAt r.fcmdErr 0

/-- SPILLCFG (R335). -/
def spillRead (r : Regs) : Word :=
  fieldAt r.spillBlocks 52 ||| fieldAt (r.spillBase / 65536) 16 ||| bitAt r.spillFull 1 ||| bitAt r.spillEn 0

/-- PWRCFG (27 R397): a written W is read from the write on. -/
def pwrcfgRead (w : Power) : Word :=
  fieldAt w.vector 48 ||| fieldAt w.hyst 32 ||| fieldAt (w.rampwNew.getD w.rampw) 12 ||| fieldAt w.cap 0

/-- PWRSTAT (27 R399). -/
def pwrstatRead (w : Power) : Word :=
  fieldAt w.intervals.toNat 32 ||| fieldAt w.th1 24 ||| fieldAt w.th0 20 ||| fieldAt w.row 16 ||| bitAt w.overCap 12 |||
    fieldAt w.power 0

/-- THERM0 and THERM1 (27 R399). -/
def thermRead (w : Power) (die : Nat) : Word :=
  if die = 0 then bitAt w.trip0 48 ||| fieldAt w.tripc0 40 ||| fieldAt w.warnc0 32 ||| fieldAt w.temp0 0
  else bitAt w.trip1 48 ||| fieldAt w.tripc1 40 ||| fieldAt w.warnc1 32 ||| fieldAt w.temp1 0

/-- The halves of a recorder's register (27 R402). -/
def recorderRead (r : Recorder) (hi : Bool) : Word :=
  if hi then fieldAt r.written.toNat 32 else bitAt r.en 63 ||| fieldAt r.lsize 52 ||| fieldAt (r.base / 256) 8

/-- A port's status (26 R384). -/
def portRead (p : Port) : Word := bitAt p.up 63 ||| fieldAt p.retrains 48 ||| fieldAt p.retries 0

/-! ## PF BAR0 -/

/-- The registers that are served in every mode (25 R375). -/
def bootRead (s : State) (off : Nat) : Option Word :=
  if off = 0x300200 then some (bootstatRead s.boot)
  else if off = 0x300208 ∨ off = 0x300210 then some 0#64
  else if 0x300400 ≤ off ∧ off < 0x300440 then some (bytesRead s.boot.record (off - 0x300400))
  else if off = 0x301010 then some (attctlRead s.boot)
  else if off = 0x301018 then some s.boot.attAddr
  else if 0x301020 ≤ off ∧ off < 0x301040 then some (s.boot.attNonce.getD ((off - 0x301020) / 8) 0#64)
  else none

/-- The single registers of PF BAR0. -/
def singleRead (s : State) (off : Nat) : Word :=
  if off = 0x300000 then fieldAt s.regs.ageK 0
  else if off = 0x300100 then fieldAt s.regs.saveCount 52 ||| fieldAt (s.regs.saveBase / 4096) 12
  else if off = 0x300108 then spillRead s.regs
  else if off = 0x300110 then bitAt s.regs.preEn 63 ||| fieldAt s.regs.preMargin 0
  else if off = 0x502000 then BitVec.ofNat 64 (s.cuCycle ioCu)
  else if off = 0x503000 then fcmdRead s.regs
  else if off = 0x601000 then fieldAt s.regs.stageBlocks 52 ||| fieldAt (s.regs.stageBase / 2 ^ 21) 21
  else if off = 0x602000 then fieldAt (s.regs.gwtBase / 4096) 12
  else if off = 0x700000 then pwrcfgRead s.power
  else if off = 0x700008 then pwrstatRead s.power
  else if off = 0x700010 then thermRead s.power 0
  else if off = 0x700018 then thermRead s.power 1
  else if off = 0x700100 then bitAt s.regs.snapGo 63 ||| bitAt s.regs.snapErr 62 ||| fieldAt (s.regs.snapAddr / 64) 6
  else 0#64

/-- off is entry x of a table of n entries of size k at base; the answer is x and the offset in it. -/
def inTable (off base k n : Nat) : Option (Nat × Nat) :=
  if base ≤ off ∧ off < base + k * n then some ((off - base) / k, (off - base) % k) else none

/-- The registers of the tables of PF BAR0. -/
def tableRead (s : State) (off : Nat) : Option Word :=
  match inTable off 0x100000 16 2048 with
  | some (q, o) => some (queueRead (s.queue q) (o == 8))
  | none =>
    match inTable off 0x200000 64 385 with
    | some (n, o) => some (tenantRead (s.tenant n) (o / 8))
    | none =>
      match inTable off 0x400000 8 3 with
      | some (w, _) => some (ringRegRead s.er w)
      | none =>
        match inTable off 0x500000 16 385 with
        | some (n, o) => some (if o = 0 then (s.tenant n).xr1 else (s.tenant n).xr2)
        | none =>
          match inTable off 0x503100 8 3 with
          | some (w, _) => some (ringRegRead s.fq w)
          | none =>
            match inTable off 0x504000 8 385 with
            | some (n, _) => some (BitVec.ofNat 64 (horizonOf s n))
            | none =>
              match inTable off 0x600000 8 385 with
              | some (n, _) => some (fieldAt (heldContexts s n) 32 ||| fieldAt (s.tenant n).cap 0)
              | none =>
                match inTable off 0x603000 8 18 with
                | some (p, _) => some (portRead (s.port p))
                | none =>
                  match inTable off 0x710000 128 385 with
                  | some (n, o) => some ((s.tenant n).counters.toList.getD (o / 8) 0#64)
                  | none =>
                    match inTable off 0x720000 16 2048 with
                    | some (q, o) => some (recorderRead (s.recorder q) (o == 8))
                    | none => none

/-- An entry of the route table, 4 bytes at PF BAR0 0x61_0000 + 4 × rank (26 R385). -/
def routeRead (s : State) (rank : Nat) : BitVec 32 := (sget 0#18 s.routes rank).setWidth 32

/-- An aligned 8-byte read of the route table: two entries. -/
def routeRead8 (s : State) (off : Nat) : Option Word :=
  match inTable off 0x610000 8 65536 with
  | some (x, _) => some (routeRead s (2 * x + 1) ++ routeRead s (2 * x))
  | none => none

/-- An aligned 8-byte read of PF BAR0 (R318): registers that are not there, and PREEMPT (R336), read zero; outside
operational mode only the registers of 25 R375 are served. -/
def barRead (s : State) (off : Nat) : Word :=
  match bootRead s off with
  | some v => v
  | none =>
    if s.boot.mode ≠ 1 then 0#64
    else
      match tableRead s off with
      | some v => v
      | none => (routeRead8 s off).getD (singleRead s off)

/-- An aligned 4-byte read of PF BAR0: a half of the 8 bytes. -/
def barRead4 (s : State) (off : Nat) : BitVec 32 :=
  (barRead s (off / 8 * 8)).extractLsb' (32 * (off / 4 % 2)) 32

/-- The HDM decoder as the PF driver reads it (R318): its base, or its size. -/
def hdmRead (s : State) (hi : Bool) : Word := BitVec.ofNat 64 (if hi then s.regs.hdmSize else s.regs.hdmBase)

/-! ## Doorbell pages and the BARs of a VF (R318, R320) -/

/-- The queue at page k of a function's BAR2: every queue for the PF, and the (k + 1)-th lowest of its own for a VF. -/
def doorQueue (s : State) (fn k : Nat) : Option Nat :=
  if fn = 0 then (if k < 2048 then some k else none)
  else if k < 64 then (((s.queues.filter fun p => p.2.owner == fn).map Prod.fst)[k]?) else none

/-- A read of the doorbell page of queue q (R320): of a page the PF does not own it reads zero. -/
def doorRead (s : State) (fn q off : Nat) : Word :=
  let x := s.queue q
  if s.boot.mode ≠ 1 ∨ x.owner ≠ fn then 0#64
  else if off = 0 then x.tail.setWidth 64
  else if off = 8 then x.head.setWidth 64
  else if off = 0x10 then bitAt x.en 0 ||| bitAt x.err 1 ||| bitAt x.aborted 2 ||| fieldAt x.ecode 8
  else 0#64

/-- An access of n bytes to a doorbell page is one that acts: 4 or 8 bytes, aligned (R320). -/
def doorAccess (off n : Nat) : Bool := (n == 4 || n == 8) && off % n == 0

/-- A read of n bytes of a function's BAR2 (R320): any other than an aligned one of 4 or 8 bytes reads zero. -/
def bar2Read (s : State) (fn off n : Nat) : Word :=
  if !doorAccess off n then 0#64
  else
    match doorQueue s fn (off / 4096) with
    | some q => doorRead s fn q (off % 4096)
    | none => 0#64

/-- An aligned read of a VF's BAR0: copies of its queues' configuration and of its own (R318). -/
def vfBarRead (s : State) (fn off : Nat) : Word :=
  if s.boot.mode ≠ 1 then 0#64
  else if 0x1000 ≤ off ∧ off < 0x1040 then tenantRead (s.tenant fn) ((off - 0x1000) / 8)
  else if off < 0x400 then
    match doorQueue s fn (off / 16) with
    | some q => queueRead (s.queue q) (off % 16 == 8)
    | none => 0#64
  else 0#64

/-! ## I3C (25 R374, R375, R379; 27 R397) -/

/-- A read over the I3C sideband port, in every mode (25 R375). The numbers that the spec does not give follow that of
BOOTSTAT, by the offsets in PF BAR0 (DESIGN CHOICE, assumption log 77): BOOTCLR 1, BOOTCTL 2, the boot record 0x40 to
0x47. -/
def i3cRead (s : State) (reg : Nat) : Word :=
  if reg = 0 then bootstatRead s.boot
  else if 0x40 ≤ reg ∧ reg < 0x48 then bytesRead s.boot.record (8 * (reg - 0x40))
  else if reg = 0x10 then fieldAt s.power.rowcap 0
  else if reg = 0x20 then attctlRead s.boot
  else if reg = 0x21 then s.boot.attAddr
  else if 0x24 ≤ reg ∧ reg < 0x28 then s.boot.attNonce.getD (reg - 0x24) 0#64
  else if 0x100 ≤ reg ∧ reg < 0x200 then bytesRead s.boot.attBuf (8 * (reg - 0x100))
  else 0#64

/-! ## What a write at an address is -/

/-- The event of a write to a single register of PF BAR0. -/
def singleWrite (off : Nat) (v : Word) : Option Instr :=
  if off = 0x300000 then some (.registerWrite .dcfg v)
  else if off = 0x300100 then some (.registerWrite .savepool v)
  else if off = 0x300108 then some (.spillcfgWrite v)
  else if off = 0x300110 then some (.registerWrite .precfg v)
  else if off = 0x300118 then some (.preemptWrite v)
  else if off = 0x300208 then some (.bootclr v)
  else if off = 0x300210 then some (.bootctl v)
  else if off = 0x300218 then some (.fwsvn v)
  else if off = 0x301010 then (if v.getLsbD 63 then some (.attctlGo false) else none)
  else if off = 0x301018 then some (.registerWrite .attaddr v)
  else if 0x301020 ≤ off ∧ off < 0x301040 then some (.registerWrite (.attnonce ((off - 0x301020) / 8)) v)
  else if off = 0x400000 then some (.registerWrite .ercfg v)
  else if off = 0x400008 then some (.registerWrite .erhead v)
  else if off = 0x503000 then some (.fcmdWrite v)
  else if off = 0x503100 then some (.registerWrite .fqcfg v)
  else if off = 0x503108 then some (.fqheadWrite v)
  else if off = 0x503118 then some (.fqrespWrite v)
  else if off = 0x601000 then some (.stagecfgWrite v)
  else if off = 0x602000 then some (.registerWrite .gwtbase v)
  else if off = 0x700000 then some (.pwrcfgWrite v)
  else if off = 0x700008 then some (.registerWrite .pwrstat v)
  else if off = 0x700010 then some (.registerWrite (.therm 0) v)
  else if off = 0x700018 then some (.registerWrite (.therm 1) v)
  else if off = 0x700100 then some (.telesnap v)
  else none

/-- The events of an aligned write of 4 bytes to PF BAR0: one entry of the route table (26 R385); none elsewhere. -/
def barWrite4 (off : Nat) (v : BitVec 32) : List Instr :=
  match inTable off 0x610000 4 (2 ^ 17) with
  | some (r, _) => [.registerWrite (.route r) (v.setWidth 64)]
  | none => []

/-- The event of an aligned 8-byte write to PF BAR0 outside the route table; none where the write is ignored. -/
def barWriteEvent (off : Nat) (v : Word) : Option Instr :=
  match inTable off 0x100000 16 2048 with
  | some (q, o) => some (.queueConfigWrite q (o == 8) v)
  | none =>
    match inTable off 0x200000 64 385 with
    | some (n, o) => some (.registerWrite (.tenant n (o / 8)) v)
    | none =>
      match inTable off 0x500000 16 385 with
      | some (n, o) => some (.xrRootWrite n (o == 8) v)
      | none =>
        match inTable off 0x600000 8 385 with
        | some (n, _) => some (.registerWrite (.cap n) v)
        | none =>
          match inTable off 0x603000 8 18 with
          | some (p, _) => some (.registerWrite (.port p) v)
          | none =>
            match inTable off 0x710000 128 385 with
            | some (n, o) => some (.counterBankWrite n (o / 8) v)
            | none =>
              match inTable off 0x720000 16 2048 with
              | some (q, o) => some (.recorderConfigWrite q (o == 8) v)
              | none => singleWrite off v

/-- The events of an aligned 8-byte write to PF BAR0: two entries of the route table, or one register. -/
def barWrite8 (off : Nat) (v : Word) : List Instr :=
  match inTable off 0x610000 8 65536 with
  | some _ => barWrite4 off (v.extractLsb' 0 32) ++ barWrite4 (off + 4) (v.extractLsb' 32 32)
  | none => (barWriteEvent off v).toList

/-- The event of a write of n bytes to a function's BAR2, through the page of a queue that the function owns; any
other than an aligned one of 4 or 8 bytes is ignored (R320). -/
def bar2WriteEvent (s : State) (fn off n : Nat) (v : Word) : Option Instr :=
  if !doorAccess off n then none
  else
    match doorQueue s fn (off / 4096) with
    | some q =>
      if (s.queue q).owner ≠ fn then none
      else if off % 4096 = 0 then some (.tailWrite q (v.setWidth 32))
      else if off % 4096 = 0x18 then some (.abortWrite q (v.setWidth 32))
      else none
    | none => none

end Sys2Proof.Machine
end

