-- ==== Sys2Proof/Tests/Slice0.lean ====
section
/-! SUPPORT. Tests: well-formedness refuses each ill-formed field, words of the spec's formats decode, one step of
instructions on small states gives the values of the spec, and each hypothesis of a statement is met by a state. -/
namespace Sys2Proof.Tests
set_option Elab.async false
open Sys2Proof Sys2Proof.Machine
set_option maxRecDepth 8000

/-! ## Decoding (spec 09 R143 to R159): words written out field by field, most significant field first -/

/-- The common fields of the engine words below: predicate 5, wait mask 3, post mask 6, noknead 1. -/
def eng (cls : BitVec 4) : Eng := { p := 5#4, wait := 3#3, post := 6#3, noknead := 1#1, cls }
/-- Fields of the V group. -/
def vf (dst : BitVec 12) (f e : BitVec 1) (src1 : BitVec 12) (x : BitVec 6) (ty : BitVec 3) : VFields := { dst, f, e, src1, x, ty }
/-- Fields of the VM group. -/
def vm (spec : BitVec 12) (flag : BitVec 1) (sa : BitVec 5) (z : BitVec 3) (off : BitVec 13) : VmFields := { spec, flag, sa, z, off }
/-- Fields of the X group. -/
def xf (ta tb : BitVec 5) (e f : BitVec 1) (sn : BitVec 5) (fmt : BitVec 4) (row : BitVec 7) (acc sr : BitVec 1) (pd : BitVec 3) :
    XFields := { ta, tb, e, f, sn, fmt, row, acc, sr, pd }
/-- Fields of the CP group. -/
def cp (sn sd : BitVec 5) (pd : BitVec 3) (tile : BitVec 5) (flag : BitVec 1) (zs zd : BitVec 3) : CpFields :=
  { sn, sd, pd, tile, flag, zs, zd }
/-- Fields of the SY group. -/
def sy (sa sb : BitVec 5) (pd : BitVec 3) : SyFields := { sa, sb, pd }

/-- Two words decode to an instruction. -/
def reads (t : W32 × W32 × Instr) : Bool :=
  match decode t.1 t.2.1 with
  | .ok i => decide (i = t.2.2)
  | .error _ => false

theorem test_decode_sys_1 : List.all ([
    ((0#6 ++ 5#4 ++ 1#6 ++ 0#16), 0#32, .exit 5#4),
    ((0#6 ++ 5#4 ++ 2#6 ++ 0#16), 0#32, .yield 5#4),
    ((0#6 ++ 5#4 ++ 3#6 ++ 0#16), 0#32, .yieldSafe 5#4),
    ((0#6 ++ 5#4 ++ 4#6 ++ 0#16), 0#32, .tret 5#4),
    ((0#6 ++ 5#4 ++ 7#6 ++ 0#16), 0#32, .acctflush 5#4),
    ((0#6 ++ 5#4 ++ 5#6 ++ 0x1234#16), 0#32, .trap 5#4 0x1234#16),
    ((0#6 ++ 5#4 ++ 6#6 ++ 0x8001#16), 0#32, .bkpt 5#4 0x8001#16),
    ((0#6 ++ 5#4 ++ 13#6 ++ 0x00FF#16), 0#32, .fence 5#4 5#3 0x00FF#16),
    ((0#6 ++ 5#4 ++ 16#6 ++ (3#5 ++ 0x13#11)), 0#32, .mfsr 5#4 3#5 0x13#11),
    ((0#6 ++ 5#4 ++ 17#6 ++ (4#5 ++ 3#11)), 0#32, .mtsr 5#4 4#5 3#11)] : List (W32 × W32 × Instr)) reads = true := by decide

theorem test_decode_sys_2 : List.all ([
    ((0#6 ++ 5#4 ++ 18#6 ++ (9#5 ++ 0#11)), 0#32, .waitt 5#4 9#5),
    ((0#6 ++ 5#4 ++ 19#6 ++ (0#13 ++ 5#3)), 0#32, .tkpush 5#4 5#3),
    ((0#6 ++ 5#4 ++ 20#6 ++ (0#13 ++ 6#3)), 0#32, .tkpop 5#4 6#3),
    ((0#6 ++ 5#4 ++ 21#6 ++ (0#8 ++ 200#8)), 0#32, .gsync 5#4 200#8),
    ((0#6 ++ 5#4 ++ 22#6 ++ (5#5 ++ 3#3 ++ 1#1 ++ 0#7)), 0#32, .qwr 5#4 5#5 3#3 1#1),
    ((0#6 ++ 5#4 ++ 23#6 ++ (6#5 ++ 4#3 ++ 0#1 ++ 0#7)), 0#32, .qrd 5#4 6#5 4#3 0#1)] : List (W32 × W32 × Instr)) reads = true := by decide

theorem test_decode_alu_1 : List.all ([
    ((1#6 ++ 5#4 ++ 17#5 ++ 18#5 ++ 19#5 ++ 0#7), 0#32, .add 5#4 17#5 18#5 19#5),
    ((1#6 ++ 5#4 ++ 17#5 ++ 18#5 ++ 19#5 ++ 1#7), 0#32, .sub 5#4 17#5 18#5 19#5),
    ((1#6 ++ 5#4 ++ 17#5 ++ 18#5 ++ 19#5 ++ 2#7), 0#32, .and 5#4 17#5 18#5 19#5),
    ((1#6 ++ 5#4 ++ 17#5 ++ 18#5 ++ 19#5 ++ 3#7), 0#32, .or 5#4 17#5 18#5 19#5),
    ((1#6 ++ 5#4 ++ 17#5 ++ 18#5 ++ 19#5 ++ 4#7), 0#32, .xor 5#4 17#5 18#5 19#5),
    ((1#6 ++ 5#4 ++ 17#5 ++ 18#5 ++ 19#5 ++ 5#7), 0#32, .sll 5#4 17#5 18#5 19#5),
    ((1#6 ++ 5#4 ++ 17#5 ++ 18#5 ++ 19#5 ++ 6#7), 0#32, .srl 5#4 17#5 18#5 19#5),
    ((1#6 ++ 5#4 ++ 17#5 ++ 18#5 ++ 19#5 ++ 7#7), 0#32, .sra 5#4 17#5 18#5 19#5),
    ((1#6 ++ 5#4 ++ 17#5 ++ 18#5 ++ 19#5 ++ 8#7), 0#32, .mul 5#4 17#5 18#5 19#5),
    ((1#6 ++ 5#4 ++ 17#5 ++ 18#5 ++ 19#5 ++ 9#7), 0#32, .mulh 5#4 17#5 18#5 19#5)] : List (W32 × W32 × Instr)) reads = true := by decide

theorem test_decode_alu_2 : List.all ([
    ((1#6 ++ 5#4 ++ 17#5 ++ 18#5 ++ 19#5 ++ 10#7), 0#32, .mulhu 5#4 17#5 18#5 19#5),
    ((1#6 ++ 5#4 ++ 17#5 ++ 18#5 ++ 19#5 ++ 11#7), 0#32, .div 5#4 17#5 18#5 19#5),
    ((1#6 ++ 5#4 ++ 17#5 ++ 18#5 ++ 19#5 ++ 12#7), 0#32, .divu 5#4 17#5 18#5 19#5),
    ((1#6 ++ 5#4 ++ 17#5 ++ 18#5 ++ 19#5 ++ 13#7), 0#32, .rem 5#4 17#5 18#5 19#5),
    ((1#6 ++ 5#4 ++ 17#5 ++ 18#5 ++ 19#5 ++ 14#7), 0#32, .remu 5#4 17#5 18#5 19#5),
    ((1#6 ++ 5#4 ++ 17#5 ++ 18#5 ++ 19#5 ++ 16#7), 0#32, .min 5#4 17#5 18#5 19#5),
    ((1#6 ++ 5#4 ++ 17#5 ++ 18#5 ++ 19#5 ++ 17#7), 0#32, .max 5#4 17#5 18#5 19#5),
    ((1#6 ++ 5#4 ++ 17#5 ++ 18#5 ++ 19#5 ++ 18#7), 0#32, .minu 5#4 17#5 18#5 19#5),
    ((1#6 ++ 5#4 ++ 17#5 ++ 18#5 ++ 19#5 ++ 19#7), 0#32, .maxu 5#4 17#5 18#5 19#5),
    ((1#6 ++ 5#4 ++ 17#5 ++ 18#5 ++ 0#5 ++ 32#7), 0#32, .clz 5#4 17#5 18#5)] : List (W32 × W32 × Instr)) reads = true := by decide

theorem test_decode_alu_3 : List.all ([
    ((1#6 ++ 5#4 ++ 17#5 ++ 18#5 ++ 0#5 ++ 33#7), 0#32, .ctz 5#4 17#5 18#5),
    ((1#6 ++ 5#4 ++ 17#5 ++ 18#5 ++ 0#5 ++ 34#7), 0#32, .popc 5#4 17#5 18#5)] : List (W32 × W32 × Instr)) reads = true := by decide

theorem test_decode_imm : List.all ([
    ((2#6 ++ 7#5 ++ 8#5 ++ 65520#16), 0#32, .addi 7#5 8#5 0xFFF0#16),
    ((3#6 ++ 7#5 ++ 8#5 ++ 65520#16), 0#32, .andi 7#5 8#5 0xFFF0#16),
    ((4#6 ++ 7#5 ++ 8#5 ++ 65520#16), 0#32, .ori 7#5 8#5 0xFFF0#16),
    ((5#6 ++ 7#5 ++ 8#5 ++ 65520#16), 0#32, .xori 7#5 8#5 0xFFF0#16),
    ((6#6 ++ 7#5 ++ 8#5 ++ 0#8 ++ 0#2 ++ 63#6), 0#32, .slli 7#5 8#5 63#6),
    ((6#6 ++ 7#5 ++ 8#5 ++ 0#8 ++ 1#2 ++ 63#6), 0#32, .srli 7#5 8#5 63#6),
    ((6#6 ++ 7#5 ++ 8#5 ++ 0#8 ++ 2#2 ++ 63#6), 0#32, .srai 7#5 8#5 63#6),
    ((7#6 ++ 7#5 ++ 1752286#21), 0#32, .lui 7#5 0x1ABCDE#21),
    ((37#6 ++ 5#4 ++ 9#5 ++ 0#17), 0xDEADBEEF#32, .li32 5#4 9#5 0xDEADBEEF#32),
    ((38#6 ++ 5#4 ++ 9#5 ++ 0#17), 0xDEADBEEF#32, .lih 5#4 9#5 0xDEADBEEF#32)] : List (W32 × W32 × Instr)) reads = true := by decide

theorem test_decode_pred_1 : List.all ([
    ((8#6 ++ 5#4 ++ 3#3 ++ 5#4 ++ 20#5 ++ 21#5 ++ 0#5), 0#32, .cmp 5#4 3#3 5#4 20#5 21#5),
    ((9#6 ++ 3#3 ++ 4#4 ++ 20#5 ++ 16383#14), 0#32, .cmpi 3#3 4#4 20#5 0x3FFF#14),
    ((10#6 ++ 5#4 ++ 1#3 ++ 2#3 ++ 6#3 ++ 0#3 ++ 0#10), 0#32, .pand 5#4 1#3 2#3 6#3),
    ((10#6 ++ 5#4 ++ 1#3 ++ 2#3 ++ 6#3 ++ 1#3 ++ 0#10), 0#32, .por 5#4 1#3 2#3 6#3),
    ((10#6 ++ 5#4 ++ 1#3 ++ 2#3 ++ 6#3 ++ 2#3 ++ 0#10), 0#32, .pxor 5#4 1#3 2#3 6#3),
    ((10#6 ++ 5#4 ++ 1#3 ++ 2#3 ++ 6#3 ++ 3#3 ++ 0#10), 0#32, .pandn 5#4 1#3 2#3 6#3),
    ((10#6 ++ 5#4 ++ 1#3 ++ 2#3 ++ 6#3 ++ 4#3 ++ 0#10), 0#32, .porn 5#4 1#3 2#3 6#3),
    ((11#6 ++ 5#4 ++ 1#5 ++ 2#5 ++ 3#5 ++ 0#3 ++ 0#4), 0#32, .lea 5#4 1#5 2#5 3#5),
    ((11#6 ++ 5#4 ++ 1#5 ++ 2#5 ++ 0#5 ++ 1#3 ++ 9#4), 0#32, .tag 5#4 1#5 2#5 9#4),
    ((11#6 ++ 5#4 ++ 1#5 ++ 2#5 ++ 0#5 ++ 2#3 ++ 0#4), 0#32, .space 5#4 1#5 2#5)] : List (W32 × W32 × Instr)) reads = true := by decide

theorem test_decode_pred_2 : List.all ([
    ((12#6 ++ 5#4 ++ 1#5 ++ 0#5 ++ 0#2 ++ 0#10), 0#32, .rng 5#4 1#5),
    ((12#6 ++ 5#4 ++ 1#5 ++ 28#5 ++ 1#2 ++ 0#10), 0#32, .rngc 5#4 1#5 28#5)] : List (W32 × W32 × Instr)) reads = true := by decide

theorem test_decode_jump : List.all ([
    ((16#6 ++ 5#4 ++ 4194303#22), 0#32, .br 5#4 0x3FFFFF#22),
    ((17#6 ++ 33554433#26), 0#32, .jmp 0x2000001#26),
    ((18#6 ++ 33554433#26), 0#32, .call 0x2000001#26),
    ((19#6 ++ 5#4 ++ 0#5 ++ 30#5 ++ 0#12), 0#32, .jr 5#4 30#5),
    ((19#6 ++ 5#4 ++ 1#5 ++ 30#5 ++ 0#12), 0#32, .callr 5#4 30#5),
    ((20#6 ++ 3#2 ++ 4#3 ++ 11#5 ++ 65535#16), 0#32, .loop 3#2 4#3 11#5 0xFFFF#16)] : List (W32 × W32 × Instr)) reads = true := by decide

theorem test_decode_mem_1 : List.all ([
    ((24#6 ++ 12#5 ++ 13#5 ++ 32768#16), 0#32, .ldb 12#5 13#5 0x8000#16),
    ((25#6 ++ 12#5 ++ 13#5 ++ 32768#16), 0#32, .ldbu 12#5 13#5 0x8000#16),
    ((26#6 ++ 12#5 ++ 13#5 ++ 32768#16), 0#32, .ldh 12#5 13#5 0x8000#16),
    ((27#6 ++ 12#5 ++ 13#5 ++ 32768#16), 0#32, .ldhu 12#5 13#5 0x8000#16),
    ((28#6 ++ 12#5 ++ 13#5 ++ 32768#16), 0#32, .ldw 12#5 13#5 0x8000#16),
    ((29#6 ++ 12#5 ++ 13#5 ++ 32768#16), 0#32, .ldwu 12#5 13#5 0x8000#16),
    ((30#6 ++ 12#5 ++ 13#5 ++ 32768#16), 0#32, .ldd 12#5 13#5 0x8000#16),
    ((31#6 ++ 12#5 ++ 13#5 ++ 32768#16), 0#32, .stb 12#5 13#5 0x8000#16),
    ((32#6 ++ 12#5 ++ 13#5 ++ 32768#16), 0#32, .sth 12#5 13#5 0x8000#16),
    ((33#6 ++ 12#5 ++ 13#5 ++ 32768#16), 0#32, .stw 12#5 13#5 0x8000#16)] : List (W32 × W32 × Instr)) reads = true := by decide

theorem test_decode_mem_2 : List.all ([
    ((34#6 ++ 12#5 ++ 13#5 ++ 32768#16), 0#32, .std 12#5 13#5 0x8000#16),
    ((35#6 ++ 5#4 ++ 1#5 ++ 2#5 ++ 3#5 ++ 2#2 ++ 1#1 ++ 0#3 ++ 0#1),
      (0#3 ++ 6#3 ++ 0#1 ++ 7#4 ++ 2097151#21),
      .ldx 5#4 1#5 2#5 3#5 2#2 1#1 6#3 7#4 0x1FFFFF#21),
    ((35#6 ++ 5#4 ++ 1#5 ++ 2#5 ++ 3#5 ++ 2#2 ++ 0#1 ++ 1#3 ++ 0#1),
      (0#3 ++ 6#3 ++ 0#1 ++ 7#4 ++ 2097151#21),
      .stx 5#4 1#5 2#5 3#5 2#2 6#3 7#4 0x1FFFFF#21),
    ((35#6 ++ 5#4 ++ 1#5 ++ 2#5 ++ 3#5 ++ 3#2 ++ 0#1 ++ 2#3 ++ 0#1),
      (5#3 ++ 1#3 ++ 0#1 ++ 7#4 ++ 0#5 ++ 48879#16),
      .ldxAcq 5#4 1#5 2#5 3#5 5#3 1#3 7#4 0xBEEF#16),
    ((35#6 ++ 5#4 ++ 1#5 ++ 2#5 ++ 3#5 ++ 3#2 ++ 0#1 ++ 3#3 ++ 0#1),
      (5#3 ++ 1#3 ++ 0#1 ++ 7#4 ++ 0#5 ++ 48879#16),
      .stxRel 5#4 1#5 2#5 3#5 5#3 1#3 7#4 0xBEEF#16)] : List (W32 × W32 × Instr)) reads = true := by decide

theorem test_decode_amo_1 : List.all ([
    ((36#6 ++ 5#4 ++ 1#5 ++ 2#5 ++ 3#5 ++ 0#5 ++ 1#1 ++ 0#1),
      (0#5 ++ 0#2 ++ 15#4 ++ 0#21),
      .amoAdd 5#4 1#5 2#5 3#5 1#1 15#4),
    ((36#6 ++ 5#4 ++ 1#5 ++ 2#5 ++ 3#5 ++ 0#5 ++ 1#1 ++ 0#1),
      (1#5 ++ 0#2 ++ 15#4 ++ 0#21),
      .amoMin 5#4 1#5 2#5 3#5 1#1 15#4),
    ((36#6 ++ 5#4 ++ 1#5 ++ 2#5 ++ 3#5 ++ 0#5 ++ 1#1 ++ 0#1),
      (2#5 ++ 0#2 ++ 15#4 ++ 0#21),
      .amoMax 5#4 1#5 2#5 3#5 1#1 15#4),
    ((36#6 ++ 5#4 ++ 1#5 ++ 2#5 ++ 3#5 ++ 0#5 ++ 1#1 ++ 0#1),
      (3#5 ++ 0#2 ++ 15#4 ++ 0#21),
      .amoMinu 5#4 1#5 2#5 3#5 1#1 15#4),
    ((36#6 ++ 5#4 ++ 1#5 ++ 2#5 ++ 3#5 ++ 0#5 ++ 1#1 ++ 0#1),
      (4#5 ++ 0#2 ++ 15#4 ++ 0#21),
      .amoMaxu 5#4 1#5 2#5 3#5 1#1 15#4),
    ((36#6 ++ 5#4 ++ 1#5 ++ 2#5 ++ 3#5 ++ 0#5 ++ 1#1 ++ 0#1),
      (5#5 ++ 0#2 ++ 15#4 ++ 0#21),
      .amoAnd 5#4 1#5 2#5 3#5 1#1 15#4),
    ((36#6 ++ 5#4 ++ 1#5 ++ 2#5 ++ 3#5 ++ 0#5 ++ 1#1 ++ 0#1),
      (6#5 ++ 0#2 ++ 15#4 ++ 0#21),
      .amoOr 5#4 1#5 2#5 3#5 1#1 15#4),
    ((36#6 ++ 5#4 ++ 1#5 ++ 2#5 ++ 3#5 ++ 0#5 ++ 1#1 ++ 0#1),
      (7#5 ++ 0#2 ++ 15#4 ++ 0#21),
      .amoXor 5#4 1#5 2#5 3#5 1#1 15#4),
    ((36#6 ++ 5#4 ++ 1#5 ++ 2#5 ++ 3#5 ++ 0#5 ++ 1#1 ++ 0#1),
      (8#5 ++ 0#2 ++ 15#4 ++ 0#21),
      .amoSwp 5#4 1#5 2#5 3#5 1#1 15#4),
    ((36#6 ++ 5#4 ++ 1#5 ++ 2#5 ++ 3#5 ++ 4#5 ++ 0#1 ++ 0#1),
      (9#5 ++ 0#2 ++ 15#4 ++ 0#21),
      .cas 5#4 1#5 2#5 3#5 4#5 0#1 15#4)] : List (W32 × W32 × Instr)) reads = true := by decide

theorem test_decode_amo_2 : List.all ([
    ((36#6 ++ 5#4 ++ 1#5 ++ 2#5 ++ 3#5 ++ 0#5 ++ 0#1 ++ 0#1),
      (10#5 ++ 0#2 ++ 15#4 ++ 0#21),
      .amoFadd 5#4 1#5 2#5 3#5 15#4)] : List (W32 × W32 × Instr)) reads = true := by decide

theorem test_decode_vec_1 : List.all ([
    ((40#6 ++ 5#4 ++ 0#8 ++ 261#12 ++ 1#1 ++ 1#1),
      (3#3 ++ 6#3 ++ 1#1 ++ 0#4 ++ 643#12 ++ 35#6 ++ 7#3),
      .vadd (eng 0) (vf 261 1 1 643 35 7)),
    ((40#6 ++ 5#4 ++ 1#8 ++ 261#12 ++ 1#1 ++ 1#1),
      (3#3 ++ 6#3 ++ 1#1 ++ 0#4 ++ 643#12 ++ 35#6 ++ 7#3),
      .vsub (eng 0) (vf 261 1 1 643 35 7)),
    ((40#6 ++ 5#4 ++ 2#8 ++ 261#12 ++ 1#1 ++ 1#1),
      (3#3 ++ 6#3 ++ 1#1 ++ 0#4 ++ 643#12 ++ 35#6 ++ 7#3),
      .vmul (eng 0) (vf 261 1 1 643 35 7)),
    ((40#6 ++ 5#4 ++ 3#8 ++ 261#12 ++ 1#1 ++ 1#1),
      (3#3 ++ 6#3 ++ 1#1 ++ 0#4 ++ 643#12 ++ 35#6 ++ 7#3),
      .vfma (eng 0) (vf 261 1 1 643 35 7)),
    ((40#6 ++ 5#4 ++ 4#8 ++ 261#12 ++ 1#1 ++ 1#1),
      (3#3 ++ 6#3 ++ 1#1 ++ 0#4 ++ 643#12 ++ 35#6 ++ 7#3),
      .vmin (eng 0) (vf 261 1 1 643 35 7)),
    ((40#6 ++ 5#4 ++ 5#8 ++ 261#12 ++ 1#1 ++ 1#1),
      (3#3 ++ 6#3 ++ 1#1 ++ 0#4 ++ 643#12 ++ 35#6 ++ 7#3),
      .vmax (eng 0) (vf 261 1 1 643 35 7)),
    ((40#6 ++ 5#4 ++ 6#8 ++ 261#12 ++ 1#1 ++ 1#1),
      (3#3 ++ 6#3 ++ 1#1 ++ 0#4 ++ 643#12 ++ 0#6 ++ 6#3),
      .vabs (eng 0) (vf 261 1 1 643 0 6)),
    ((40#6 ++ 5#4 ++ 7#8 ++ 261#12 ++ 1#1 ++ 1#1),
      (3#3 ++ 6#3 ++ 1#1 ++ 0#4 ++ 643#12 ++ 0#6 ++ 4#3),
      .vneg (eng 0) (vf 261 1 1 643 0 4)),
    ((40#6 ++ 5#4 ++ 8#8 ++ 261#12 ++ 1#1 ++ 1#1),
      (3#3 ++ 6#3 ++ 1#1 ++ 0#4 ++ 643#12 ++ 0#6 ++ 0#3),
      .vexp2 (eng 0) (vf 261 1 1 643 0 0)),
    ((40#6 ++ 5#4 ++ 9#8 ++ 261#12 ++ 1#1 ++ 1#1),
      (3#3 ++ 6#3 ++ 1#1 ++ 0#4 ++ 643#12 ++ 0#6 ++ 0#3),
      .vlog2 (eng 0) (vf 261 1 1 643 0 0))] : List (W32 × W32 × Instr)) reads = true := by decide

theorem test_decode_vec_2 : List.all ([
    ((40#6 ++ 5#4 ++ 10#8 ++ 261#12 ++ 1#1 ++ 1#1),
      (3#3 ++ 6#3 ++ 1#1 ++ 0#4 ++ 643#12 ++ 0#6 ++ 0#3),
      .vrcp (eng 0) (vf 261 1 1 643 0 0)),
    ((40#6 ++ 5#4 ++ 11#8 ++ 261#12 ++ 1#1 ++ 1#1),
      (3#3 ++ 6#3 ++ 1#1 ++ 0#4 ++ 643#12 ++ 0#6 ++ 0#3),
      .vrsqrt (eng 0) (vf 261 1 1 643 0 0)),
    ((40#6 ++ 5#4 ++ 12#8 ++ 261#12 ++ 1#1 ++ 1#1),
      (3#3 ++ 6#3 ++ 1#1 ++ 0#4 ++ 643#12 ++ 0#6 ++ 0#3),
      .vtanh (eng 0) (vf 261 1 1 643 0 0)),
    ((40#6 ++ 5#4 ++ 16#8 ++ 261#12 ++ 1#1 ++ 1#1),
      (3#3 ++ 6#3 ++ 1#1 ++ 0#4 ++ 643#12 ++ 4#6 ++ 5#3),
      .vand (eng 0) (vf 261 1 1 643 4 5)),
    ((40#6 ++ 5#4 ++ 17#8 ++ 261#12 ++ 1#1 ++ 1#1),
      (3#3 ++ 6#3 ++ 1#1 ++ 0#4 ++ 643#12 ++ 4#6 ++ 5#3),
      .vor (eng 0) (vf 261 1 1 643 4 5)),
    ((40#6 ++ 5#4 ++ 18#8 ++ 261#12 ++ 1#1 ++ 1#1),
      (3#3 ++ 6#3 ++ 1#1 ++ 0#4 ++ 643#12 ++ 4#6 ++ 5#3),
      .vxor (eng 0) (vf 261 1 1 643 4 5)),
    ((40#6 ++ 5#4 ++ 19#8 ++ 261#12 ++ 1#1 ++ 1#1),
      (3#3 ++ 6#3 ++ 1#1 ++ 0#4 ++ 643#12 ++ 4#6 ++ 6#3),
      .vshl (eng 0) (vf 261 1 1 643 4 6)),
    ((40#6 ++ 5#4 ++ 20#8 ++ 261#12 ++ 1#1 ++ 1#1),
      (3#3 ++ 6#3 ++ 1#1 ++ 0#4 ++ 643#12 ++ 4#6 ++ 6#3),
      .vshr (eng 0) (vf 261 1 1 643 4 6)),
    ((40#6 ++ 5#4 ++ 21#8 ++ 261#12 ++ 1#1 ++ 1#1),
      (3#3 ++ 6#3 ++ 1#1 ++ 0#4 ++ 643#12 ++ 4#6 ++ 6#3),
      .vsra (eng 0) (vf 261 1 1 643 4 6))] : List (W32 × W32 × Instr)) reads = true := by decide

theorem test_decode_vec2_1 : List.all ([
    ((40#6 ++ 5#4 ++ 24#8 ++ 261#12 ++ 1#1 ++ 1#1),
      (3#3 ++ 6#3 ++ 1#1 ++ 0#4 ++ 643#12 ++ 4#6 ++ 3#3),
      .vcmpEq (eng 0) (vf 261 1 1 643 4 3)),
    ((40#6 ++ 5#4 ++ 25#8 ++ 261#12 ++ 1#1 ++ 1#1),
      (3#3 ++ 6#3 ++ 1#1 ++ 0#4 ++ 643#12 ++ 4#6 ++ 3#3),
      .vcmpNe (eng 0) (vf 261 1 1 643 4 3)),
    ((40#6 ++ 5#4 ++ 26#8 ++ 261#12 ++ 1#1 ++ 1#1),
      (3#3 ++ 6#3 ++ 1#1 ++ 0#4 ++ 643#12 ++ 4#6 ++ 3#3),
      .vcmpLt (eng 0) (vf 261 1 1 643 4 3)),
    ((40#6 ++ 5#4 ++ 27#8 ++ 261#12 ++ 1#1 ++ 1#1),
      (3#3 ++ 6#3 ++ 1#1 ++ 0#4 ++ 643#12 ++ 4#6 ++ 3#3),
      .vcmpLe (eng 0) (vf 261 1 1 643 4 3)),
    ((40#6 ++ 5#4 ++ 28#8 ++ 261#12 ++ 1#1 ++ 1#1),
      (3#3 ++ 6#3 ++ 1#1 ++ 0#4 ++ 643#12 ++ 4#6 ++ 5#3),
      .vsel (eng 0) (vf 261 1 1 643 4 5)),
    ((40#6 ++ 5#4 ++ 32#8 ++ 261#12 ++ 1#1 ++ 1#1),
      (3#3 ++ 6#3 ++ 1#1 ++ 0#4 ++ 643#12 ++ 34#6 ++ 6#3),
      .vcvt (eng 0) (vf 261 1 1 643 34 6)),
    ((40#6 ++ 5#4 ++ 33#8 ++ 261#12 ++ 1#1 ++ 1#1),
      (3#3 ++ 6#3 ++ 1#1 ++ 0#4 ++ 643#12 ++ 15#6 ++ 5#3),
      .vqblk (eng 0) (vf 261 1 1 643 15 5)),
    ((40#6 ++ 5#4 ++ 34#8 ++ 261#12 ++ 1#1 ++ 1#1),
      (3#3 ++ 6#3 ++ 1#1 ++ 0#4 ++ 643#12 ++ 5#6 ++ 5#3),
      .vunpk (eng 0) (vf 261 1 1 643 5 5)),
    ((40#6 ++ 5#4 ++ 35#8 ++ 261#12 ++ 1#1 ++ 1#1),
      (3#3 ++ 6#3 ++ 1#1 ++ 0#4 ++ 643#12 ++ 63#6 ++ 6#3),
      .vdrop (eng 0) (vf 261 1 1 643 63 6)),
    ((40#6 ++ 5#4 ++ 40#8 ++ 261#12 ++ 1#1 ++ 1#1),
      (3#3 ++ 6#3 ++ 1#1 ++ 0#4 ++ 643#12 ++ 0#6 ++ 4#3),
      .vrsum (eng 0) (vf 261 1 1 643 0 4))] : List (W32 × W32 × Instr)) reads = true := by decide

theorem test_decode_vec2_2 : List.all ([
    ((40#6 ++ 5#4 ++ 41#8 ++ 261#12 ++ 1#1 ++ 1#1),
      (3#3 ++ 6#3 ++ 1#1 ++ 0#4 ++ 643#12 ++ 0#6 ++ 4#3),
      .vrmax (eng 0) (vf 261 1 1 643 0 4)),
    ((40#6 ++ 5#4 ++ 42#8 ++ 261#12 ++ 1#1 ++ 1#1),
      (3#3 ++ 6#3 ++ 1#1 ++ 0#4 ++ 643#12 ++ 0#6 ++ 4#3),
      .vrmin (eng 0) (vf 261 1 1 643 0 4)),
    ((40#6 ++ 5#4 ++ 48#8 ++ 261#12 ++ 1#1 ++ 1#1),
      (3#3 ++ 6#3 ++ 1#1 ++ 0#4 ++ 643#12 ++ 0#6 ++ 5#3),
      .vmov (eng 0) (vf 261 1 1 643 0 5)),
    ((40#6 ++ 5#4 ++ 49#8 ++ 261#12 ++ 1#1 ++ 1#1),
      (3#3 ++ 6#3 ++ 1#1 ++ 0#4 ++ 643#12 ++ 1#6 ++ 7#3),
      .vshuf (eng 0) (vf 261 1 1 643 1 7)),
    ((40#6 ++ 5#4 ++ 50#8 ++ 261#12 ++ 1#1 ++ 0#1),
      (3#3 ++ 6#3 ++ 1#1 ++ 0#4 ++ 0#12 ++ 0#6 ++ 7#3),
      .viota (eng 0) (vf 261 1 0 0 0 7)),
    ((40#6 ++ 5#4 ++ 51#8 ++ 261#12 ++ 1#1 ++ 0#1),
      (3#3 ++ 6#3 ++ 1#1 ++ 0#4 ++ 0#12 ++ 31#6 ++ 1#3),
      .vsplat (eng 0) (vf 261 1 0 0 31 1)),
    ((40#6 ++ 5#4 ++ 64#8 ++ 261#12 ++ 1#1 ++ 0#1),
      (3#3 ++ 6#3 ++ 1#1 ++ 0#4 ++ 0#12 ++ 32#6 ++ 6#3),
      .vrng (eng 0) (vf 261 1 0 0 32 6)),
    ((40#6 ++ 5#4 ++ 65#8 ++ 261#12 ++ 1#1 ++ 1#1),
      (3#3 ++ 6#3 ++ 1#1 ++ 0#4 ++ 643#12 ++ 0#6 ++ 4#3),
      .vtrn (eng 0) (vf 261 1 1 643 0 4)),
    ((40#6 ++ 5#4 ++ 59#8 ++ 261#12 ++ 1#1 ++ 1#1),
      (3#3 ++ 6#3 ++ 1#1 ++ 9#4 ++ 643#12 ++ 31#6 ++ 7#3),
      .vgath (eng 9) (vf 0x105 1 1 0x283 31 7)),
    ((40#6 ++ 5#4 ++ 56#8 ++ 261#12 ++ 1#1 ++ 0#1),
      (3#3 ++ 6#3 ++ 1#1 ++ 9#4 ++ 21#5 ++ 6#3 ++ 8191#13),
      .vld (eng 9) (vm 0x105 1 21 6 0x1FFF))] : List (W32 × W32 × Instr)) reads = true := by decide

theorem test_decode_vec2_3 : List.all ([
    ((40#6 ++ 5#4 ++ 57#8 ++ 261#12 ++ 1#1 ++ 0#1),
      (3#3 ++ 6#3 ++ 1#1 ++ 9#4 ++ 21#5 ++ 6#3 ++ 8191#13),
      .vst (eng 9) (vm 0x105 1 21 6 0x1FFF)),
    ((40#6 ++ 5#4 ++ 58#8 ++ 261#12 ++ 1#1 ++ 0#1),
      (3#3 ++ 6#3 ++ 1#1 ++ 9#4 ++ 21#5 ++ 6#3 ++ 8191#13),
      .vldt (eng 9) (vm 0x105 1 21 6 0x1FFF))] : List (W32 × W32 × Instr)) reads = true := by decide

theorem test_decode_mat_1 : List.all ([
    ((42#6 ++ 5#4 ++ 0#8 ++ 0#5 ++ 0#5 ++ 0#1 ++ 0#1 ++ 0#2),
      (3#3 ++ 6#3 ++ 1#1 ++ 0#4 ++ 0#5 ++ 0#4 ++ 0#7 ++ 0#1 ++ 0#1 ++ 7#3),
      .alease (eng 0) (xf 0 0 0 0 0 0 0 0 0 7)),
    ((42#6 ++ 5#4 ++ 1#8 ++ 0#5 ++ 0#5 ++ 0#1 ++ 0#1 ++ 0#2),
      (3#3 ++ 6#3 ++ 1#1 ++ 0#4 ++ 0#5 ++ 0#4 ++ 0#7 ++ 0#1 ++ 0#1 ++ 0#3),
      .arelease (eng 0) (xf 0 0 0 0 0 0 0 0 0 0)),
    ((42#6 ++ 5#4 ++ 8#8 ++ 15#5 ++ 0#5 ++ 1#1 ++ 0#1 ++ 0#2),
      (3#3 ++ 6#3 ++ 1#1 ++ 0#4 ++ 0#5 ++ 1#4 ++ 1#7 ++ 0#1 ++ 0#1 ++ 0#3),
      .lds (eng 0) (xf 15 0 1 0 0 1 1 0 0 0)),
    ((42#6 ++ 5#4 ++ 9#8 ++ 15#5 ++ 0#5 ++ 1#1 ++ 0#1 ++ 0#2),
      (3#3 ++ 6#3 ++ 1#1 ++ 0#4 ++ 28#5 ++ 2#4 ++ 1#7 ++ 0#1 ++ 0#1 ++ 0#3),
      .ldsP (eng 0) (xf 15 0 1 0 28 2 1 0 0 0)),
    ((42#6 ++ 5#4 ++ 10#8 ++ 3#5 ++ 1#5 ++ 1#1 ++ 0#1 ++ 0#2),
      (3#3 ++ 6#3 ++ 1#1 ++ 0#4 ++ 0#5 ++ 2#4 ++ 7#7 ++ 0#1 ++ 0#1 ++ 0#3),
      .ldsCb (eng 0) (xf 3 1 1 0 0 2 7 0 0 0)),
    ((42#6 ++ 5#4 ++ 11#8 ++ 3#5 ++ 4#5 ++ 1#1 ++ 0#1 ++ 0#2),
      (3#3 ++ 6#3 ++ 1#1 ++ 0#4 ++ 0#5 ++ 5#4 ++ 0#7 ++ 0#1 ++ 0#1 ++ 0#3),
      .ldsBs (eng 0) (xf 3 4 1 0 0 5 0 0 0 0)),
    ((42#6 ++ 5#4 ++ 16#8 ++ 0#5 ++ 0#5 ++ 0#1 ++ 0#1 ++ 0#2),
      (3#3 ++ 6#3 ++ 1#1 ++ 0#4 ++ 0#5 ++ 0#4 ++ 0#7 ++ 0#1 ++ 0#1 ++ 0#3),
      .mswap (eng 0) (xf 0 0 0 0 0 0 0 0 0 0)),
    ((42#6 ++ 5#4 ++ 24#8 ++ 5#5 ++ 23#5 ++ 1#1 ++ 1#1 ++ 0#2),
      (3#3 ++ 6#3 ++ 1#1 ++ 0#4 ++ 0#5 ++ 6#4 ++ 63#7 ++ 1#1 ++ 0#1 ++ 0#3),
      .mmul (eng 0) (xf 5 23 1 1 0 6 63 1 0 0)),
    ((42#6 ++ 5#4 ++ 25#8 ++ 5#5 ++ 16#5 ++ 1#1 ++ 1#1 ++ 0#2),
      (3#3 ++ 6#3 ++ 1#1 ++ 0#4 ++ 0#5 ++ 5#4 ++ 1#7 ++ 1#1 ++ 0#1 ++ 0#3),
      .mmulBs (eng 0) (xf 5 16 1 1 0 5 1 1 0 0)),
    ((42#6 ++ 5#4 ++ 32#8 ++ 23#5 ++ 16#5 ++ 1#1 ++ 0#1 ++ 0#2),
      (3#3 ++ 6#3 ++ 1#1 ++ 4#4 ++ 27#5 ++ 7#4 ++ 127#7 ++ 0#1 ++ 1#1 ++ 0#3),
      .mdrain (eng 4) (xf 23 16 1 0 27 7 127 0 1 0))] : List (W32 × W32 × Instr)) reads = true := by decide

theorem test_decode_mat_2 : List.all ([
    ((42#6 ++ 5#4 ++ 33#8 ++ 0#5 ++ 23#5 ++ 0#1 ++ 1#1 ++ 0#2),
      (3#3 ++ 6#3 ++ 1#1 ++ 0#4 ++ 0#5 ++ 0#4 ++ 0#7 ++ 0#1 ++ 0#1 ++ 0#3),
      .mzero (eng 0) (xf 0 23 0 1 0 0 0 0 0 0)),
    ((42#6 ++ 5#4 ++ 40#8 ++ 9#5 ++ 1#5 ++ 1#1 ++ 1#1 ++ 0#2),
      (3#3 ++ 6#3 ++ 1#1 ++ 0#4 ++ 0#5 ++ 0#4 ++ 63#7 ++ 0#1 ++ 0#1 ++ 0#3),
      .mcbt (eng 0) (xf 9 1 1 1 0 0 63 0 0 0))] : List (W32 × W32 × Instr)) reads = true := by decide

theorem test_decode_copy_1 : List.all ([
    ((43#6 ++ 5#4 ++ 0#8 ++ 24#5 ++ 3#5 ++ 0#3 ++ 0#1),
      (3#3 ++ 6#3 ++ 1#1 ++ 12#4 ++ 0#5 ++ 0#1 ++ 6#3 ++ 5#3 ++ 0#9),
      .cpy (eng 12) (cp 24 3 0 0 0 6 5)),
    ((43#6 ++ 5#4 ++ 1#8 ++ 24#5 ++ 3#5 ++ 0#3 ++ 0#1),
      (3#3 ++ 6#3 ++ 1#1 ++ 12#4 ++ 23#5 ++ 1#1 ++ 6#3 ++ 5#3 ++ 0#9),
      .cpyLd (eng 12) (cp 24 3 0 23 1 6 5)),
    ((43#6 ++ 5#4 ++ 2#8 ++ 1#5 ++ 3#5 ++ 0#3 ++ 0#1),
      (3#3 ++ 6#3 ++ 1#1 ++ 12#4 ++ 23#5 ++ 1#1 ++ 6#3 ++ 5#3 ++ 0#9),
      .cpySt (eng 12) (cp 1 3 0 23 1 6 5)),
    ((43#6 ++ 5#4 ++ 3#8 ++ 24#5 ++ 31#5 ++ 0#3 ++ 0#1),
      (3#3 ++ 6#3 ++ 1#1 ++ 12#4 ++ 0#5 ++ 0#1 ++ 1#3 ++ 2#3 ++ 0#9),
      .cgath (eng 12) (cp 24 31 0 0 0 1 2)),
    ((43#6 ++ 5#4 ++ 4#8 ++ 24#5 ++ 31#5 ++ 0#3 ++ 0#1),
      (3#3 ++ 6#3 ++ 1#1 ++ 12#4 ++ 0#5 ++ 0#1 ++ 1#3 ++ 2#3 ++ 0#9),
      .cscat (eng 12) (cp 24 31 0 0 0 1 2)),
    ((43#6 ++ 5#4 ++ 5#8 ++ 24#5 ++ 31#5 ++ 0#3 ++ 0#1),
      (3#3 ++ 6#3 ++ 1#1 ++ 12#4 ++ 0#5 ++ 0#1 ++ 1#3 ++ 2#3 ++ 0#9),
      .cred (eng 12) (cp 24 31 0 0 0 1 2)),
    ((43#6 ++ 5#4 ++ 7#8 ++ 24#5 ++ 31#5 ++ 0#3 ++ 0#1),
      (3#3 ++ 6#3 ++ 1#1 ++ 12#4 ++ 0#5 ++ 0#1 ++ 1#3 ++ 2#3 ++ 0#9),
      .cring (eng 12) (cp 24 31 0 0 0 1 2)),
    ((43#6 ++ 5#4 ++ 6#8 ++ 24#5 ++ 31#5 ++ 5#3 ++ 0#1),
      (3#3 ++ 6#3 ++ 1#1 ++ 12#4 ++ 0#5 ++ 0#1 ++ 1#3 ++ 2#3 ++ 0#9),
      .cpref (eng 12) (cp 24 31 5 0 0 1 2)),
    ((43#6 ++ 5#4 ++ 16#8 ++ 30#5 ++ 31#5 ++ 5#3 ++ 0#1),
      (3#3 ++ 6#3 ++ 1#1 ++ 12#4 ++ 0#5 ++ 0#1 ++ 0#3 ++ 0#3 ++ 0#9),
      .collOpen (eng 12) (cp 30 31 5 0 0 0 0)),
    ((43#6 ++ 5#4 ++ 17#8 ++ 26#5 ++ 31#5 ++ 0#3 ++ 0#1),
      (3#3 ++ 6#3 ++ 1#1 ++ 12#4 ++ 0#5 ++ 0#1 ++ 0#3 ++ 0#3 ++ 0#9),
      .collAred (eng 12) (cp 26 31 0 0 0 0 0))] : List (W32 × W32 × Instr)) reads = true := by decide

theorem test_decode_copy_2 : List.all ([
    ((43#6 ++ 5#4 ++ 18#8 ++ 26#5 ++ 31#5 ++ 0#3 ++ 0#1),
      (3#3 ++ 6#3 ++ 1#1 ++ 12#4 ++ 0#5 ++ 0#1 ++ 0#3 ++ 0#3 ++ 0#9),
      .collAgath (eng 12) (cp 26 31 0 0 0 0 0)),
    ((43#6 ++ 5#4 ++ 19#8 ++ 26#5 ++ 31#5 ++ 0#3 ++ 0#1),
      (3#3 ++ 6#3 ++ 1#1 ++ 12#4 ++ 0#5 ++ 0#1 ++ 0#3 ++ 0#3 ++ 0#9),
      .collBcast (eng 12) (cp 26 31 0 0 0 0 0)),
    ((43#6 ++ 5#4 ++ 20#8 ++ 31#5 ++ 31#5 ++ 0#3 ++ 0#1),
      (3#3 ++ 6#3 ++ 1#1 ++ 12#4 ++ 0#5 ++ 0#1 ++ 0#3 ++ 0#3 ++ 0#9),
      .collClose (eng 12) (cp 31 31 0 0 0 0 0)),
    ((43#6 ++ 5#4 ++ 24#8 ++ 26#5 ++ 31#5 ++ 0#3 ++ 0#1),
      (3#3 ++ 6#3 ++ 1#1 ++ 12#4 ++ 0#5 ++ 0#1 ++ 0#3 ++ 0#3 ++ 0#9),
      .send (eng 12) (cp 26 31 0 0 0 0 0)),
    ((43#6 ++ 5#4 ++ 25#8 ++ 26#5 ++ 31#5 ++ 0#3 ++ 0#1),
      (3#3 ++ 6#3 ++ 1#1 ++ 12#4 ++ 0#5 ++ 0#1 ++ 0#3 ++ 0#3 ++ 0#9),
      .recv (eng 12) (cp 26 31 0 0 0 0 0)),
    ((43#6 ++ 5#4 ++ 32#8 ++ 26#5 ++ 31#5 ++ 0#3 ++ 0#1),
      (3#3 ++ 6#3 ++ 1#1 ++ 12#4 ++ 0#5 ++ 0#1 ++ 0#3 ++ 0#3 ++ 0#9),
      .japp (eng 12) (cp 26 31 0 0 0 0 0)),
    ((43#6 ++ 5#4 ++ 33#8 ++ 29#5 ++ 31#5 ++ 5#3 ++ 0#1),
      (3#3 ++ 6#3 ++ 1#1 ++ 12#4 ++ 0#5 ++ 0#1 ++ 0#3 ++ 0#3 ++ 0#9),
      .jwait (eng 12) (cp 29 31 5 0 0 0 0)),
    ((43#6 ++ 5#4 ++ 34#8 ++ 27#5 ++ 31#5 ++ 0#3 ++ 0#1),
      (3#3 ++ 6#3 ++ 1#1 ++ 12#4 ++ 0#5 ++ 0#1 ++ 0#3 ++ 0#3 ++ 0#9),
      .jfetch (eng 12) (cp 27 31 0 0 0 0 0)),
    ((43#6 ++ 5#4 ++ 40#8 ++ 31#5 ++ 31#5 ++ 0#3 ++ 0#1),
      (3#3 ++ 6#3 ++ 1#1 ++ 12#4 ++ 0#5 ++ 0#1 ++ 0#3 ++ 0#3 ++ 0#9),
      .glzPost (eng 12) (cp 31 31 0 0 0 0 0)),
    ((43#6 ++ 5#4 ++ 41#8 ++ 31#5 ++ 31#5 ++ 0#3 ++ 0#1),
      (3#3 ++ 6#3 ++ 1#1 ++ 12#4 ++ 0#5 ++ 0#1 ++ 0#3 ++ 0#3 ++ 0#9),
      .glzWait (eng 12) (cp 31 31 0 0 0 0 0))] : List (W32 × W32 × Instr)) reads = true := by decide

theorem test_decode_sync : List.all ([
    ((44#6 ++ 5#4 ++ 0#8 ++ 31#5 ++ 30#5 ++ 0#3 ++ 0#1),
      (3#3 ++ 6#3 ++ 1#1 ++ 12#4 ++ 0#21),
      .binit (eng 12) (sy 31 30 0)),
    ((44#6 ++ 5#4 ++ 1#8 ++ 31#5 ++ 30#5 ++ 6#3 ++ 0#1),
      (3#3 ++ 6#3 ++ 1#1 ++ 12#4 ++ 0#21),
      .bexpect (eng 12) (sy 31 30 6)),
    ((44#6 ++ 5#4 ++ 2#8 ++ 31#5 ++ 30#5 ++ 6#3 ++ 0#1),
      (3#3 ++ 6#3 ++ 1#1 ++ 12#4 ++ 0#21),
      .barrive (eng 12) (sy 31 30 6)),
    ((44#6 ++ 5#4 ++ 3#8 ++ 31#5 ++ 30#5 ++ 0#3 ++ 0#1),
      (3#3 ++ 6#3 ++ 1#1 ++ 12#4 ++ 0#21),
      .bwait (eng 12) (sy 31 30 0)),
    ((44#6 ++ 5#4 ++ 4#8 ++ 31#5 ++ 30#5 ++ 6#3 ++ 0#1),
      (3#3 ++ 6#3 ++ 1#1 ++ 12#4 ++ 0#21),
      .btest (eng 12) (sy 31 30 6)),
    ((44#6 ++ 5#4 ++ 8#8 ++ 31#5 ++ 29#5 ++ 0#3 ++ 0#1),
      (3#3 ++ 6#3 ++ 1#1 ++ 12#4 ++ 0#21),
      .rinit (eng 12) (sy 31 29 0)),
    ((44#6 ++ 5#4 ++ 9#8 ++ 31#5 ++ 30#5 ++ 0#3 ++ 0#1),
      (3#3 ++ 6#3 ++ 1#1 ++ 12#4 ++ 0#21),
      .rwaitf (eng 12) (sy 31 30 0)),
    ((44#6 ++ 5#4 ++ 10#8 ++ 31#5 ++ 0#5 ++ 0#3 ++ 0#1),
      (3#3 ++ 6#3 ++ 1#1 ++ 12#4 ++ 0#21),
      .rrel (eng 12) (sy 31 0 0))] : List (W32 × W32 × Instr)) reads = true := by decide

theorem test_decode_table : List.all ([
    ((48#6 ++ 63#6 ++ 12#4 ++ 43981#16), 0#32, .patch 63#6 12#4 0xABCD#16),
    ((49#6 ++ 5#4 ++ 0#1 ++ 31#5 ++ 0#16), 0#32, .tload 5#4 31#5),
    ((49#6 ++ 5#4 ++ 1#1 ++ 31#5 ++ 0#16), 0#32, .krules 5#4 31#5)] : List (W32 × W32 × Instr)) reads = true := by decide

/-! ## Well-formedness (spec 09 R142 step 1): an ill-formed term for each check -/

theorem test_wf_scalar : List.all ([.fence 0 6 0, .fence 0 7 0, .mfsr 0 1 6, .mfsr 0 1 0x15, .mtsr 0 1 7, .mtsr 0 1 0x21,
    .cmp 0 1 6 2 3, .cmpi 1 15 2 0, .rngc 0 1 0, .rngc 0 1 29, .loop 0 5 1 1, .loop 0 0 1 0] : List Instr) (fun i => !i.wf) = true := by
  decide

theorem test_wf_memory : List.all ([.ldx 0 1 2 0 0 0 7 0 0, .ldx 0 1 2 0 3 1 0 0 0, .stx 0 1 2 0 0 7 0 0, .ldxAcq 0 1 2 0 0 7 0 0,
    .ldxAcq 0 1 2 0 6 0 0 0, .stxRel 0 1 2 0 0 7 0 0, .stxRel 0 1 2 0 7 0 0 0] : List Instr) (fun i => !i.wf) = true := by decide

/-- A V instruction without a class. -/
def e0 : Eng := { p := 0, wait := 0, post := 0, noknead := 0, cls := 0 }
/-- The same with class 1. -/
def e1 : Eng := { e0 with cls := 1 }

theorem test_wf_vector_rows : List.all ([.vadd e1 (vf 0 0 0 0x80 1 0), .vadd e0 (vf 0 0 0 0x80 1 3), .vadd e0 (vf 96 0 0 0x80 1 0),
    .vadd e0 (vf 100 0 0 0x80 1 0), .vadd e0 (vf 127 1 0 0x80 1 0), .vadd e0 (vf 0xE1 0 0 0x80 1 0), .vadd e0 (vf 0xC20 0 0 127 1 0),
    .vadd e0 (vf 0 0 1 96 1 0), .vadd e0 (vf 0 0 0 0xC20 1 0), .vadd e0 (vf 0 0 0 0x80 0 0), .vadd e0 (vf 0 0 0 0x80 5 0),
    .vadd e0 (vf 0 0 0 0x80 31 0), .vadd e0 (vf 0 0 0 0x80 56 0), .vadd e0 (vf 0 0 0 96 32 0), .vadd e0 (vf 0 0 0 (0x800 + 64) 32 0)]
    : List Instr) (fun i => !i.wf) = true := by decide

theorem test_wf_vector_aux : List.all ([.vfma e0 (vf 127 0 0 0x80 1 0), .vabs e0 (vf 0 0 0 0x80 1 0), .vabs e0 (vf 0 0 0 0x80 0 5),
    .vexp2 e0 (vf 0 0 0 0x80 0 1), .vshl e0 (vf 0 0 0 0x80 1 0), .vcvt e0 (vf 0 0 0 0x80 0 0), .vcvt e0 (vf 0 0 0 0x80 4 3),
    .vcvt e0 (vf 0 0 0 0x80 2 1), .vcvt e0 (vf 0 0 0 0x80 1 7), .vcvt e0 (vf 0 0 0 0x80 40 1), .vcvt e0 (vf 0 0 0 0x80 48 7),
    .vqblk e0 (vf 0 0 0 0x80 16 5), .vqblk e0 (vf 0 0 0 0x80 0 4), .vunpk e0 (vf 0 0 0 0x80 8 6), .vunpk e0 (vf 0 0 0 0x80 2 5),
    .viota e0 (vf 0 0 0 0x80 0 0), .viota e0 (vf 0 0 1 0 0 0), .vsplat e0 (vf 0 0 0 0 32 0), .vrng e0 (vf 0 0 0 0 1 0),
    .vgath e1 (vf 0 0 0 0x80 32 0), .vgath e1 (vf 0 0 0 0x80 0 1), .vld e1 (vm 0 0 1 7 0), .vld e1 (vm 127 1 1 0 0),
    .vst e1 (vm 0 0 1 7 0), .vst e1 (vm 127 0 1 0 0), .vst e1 (vm 96 1 1 0 0), .vldt e1 (vm 0 0 1 7 0)] : List Instr)
    (fun i => !i.wf) = true := by decide

theorem test_wf_matrix : List.all ([.alease e1 (xf 0 0 0 0 0 0 0 0 0 1), .alease e0 (xf 1 0 0 0 0 0 0 0 0 1), .arelease e0 (xf 0 0 0 0 0 0 0 0 0 1),
    .lds e0 (xf 16 0 0 0 0 1 0 0 0 0), .lds e0 (xf 0 0 0 0 0 5 0 0 0 0), .lds e0 (xf 0 0 0 0 0 3 1 0 0 0), .lds e0 (xf 0 0 0 0 0 1 2 0 0 0),
    .ldsP e0 (xf 0 0 0 0 0 1 0 0 0 0), .ldsP e0 (xf 0 0 0 0 29 1 0 0 0 0), .ldsP e0 (xf 0 0 0 0 1 6 0 0 0 0),
    .ldsCb e0 (xf 0 2 0 0 0 1 0 0 0 0), .ldsCb e0 (xf 0 0 0 0 0 3 0 0 0 0), .ldsCb e0 (xf 0 0 0 0 0 1 8 0 0 0),
    .ldsBs e0 (xf 3 3 0 0 0 5 0 0 0 0), .ldsBs e0 (xf 3 16 0 0 0 5 0 0 0 0), .ldsBs e0 (xf 3 4 0 0 0 6 0 0 0 0), .mswap e0 (xf 0 0 0 0 0 0 0 1 0 0),
    .mmul e0 (xf 0 15 0 0 0 6 0 0 0 0), .mmul e0 (xf 0 16 0 0 0 5 0 0 0 0), .mmul e0 (xf 0 16 0 0 0 6 0 0 1 0),
    .mmulBs e0 (xf 0 16 0 0 0 6 0 0 0 0), .mdrain e1 (xf 16 0 0 0 1 0 0 0 0 0), .mdrain e0 (xf 15 0 0 0 1 0 0 0 0 0),
    .mdrain e0 (xf 16 17 0 0 1 0 0 0 0 0), .mdrain e0 (xf 16 16 0 1 1 0 0 0 0 0), .mdrain e0 (xf 16 0 0 0 1 5 0 0 0 0),
    .mdrain e0 (xf 16 0 0 0 28 0 0 0 0 0), .mdrain e0 (xf 16 0 0 0 0 0 0 0 0 0), .mzero e0 (xf 0 24 0 0 0 0 0 0 0 0),
    .mcbt e0 (xf 16 0 0 0 0 0 0 0 0 0), .mcbt e0 (xf 0 2 0 0 0 0 0 0 0 0), .mcbt e0 (xf 0 0 0 0 0 0 64 0 0 0)] : List Instr)
    (fun i => !i.wf) = true := by decide

theorem test_wf_copy : List.all ([.cpy e0 (cp 0 1 0 0 0 0 0), .cpy e0 (cp 25 1 0 0 0 0 0), .cpy e0 (cp 1 1 1 0 0 0 0), .cpy e0 (cp 1 1 0 1 0 0 0),
    .cpy e0 (cp 1 1 0 0 1 0 0), .cpy e0 (cp 1 1 0 0 0 7 0), .cpy e0 (cp 1 1 0 0 0 0 7), .cpyLd e0 (cp 1 1 0 24 0 0 0),
    .cpySt e0 (cp 1 1 0 31 0 0 0), .cpref e0 (cp 1 1 0 1 0 0 0), .collOpen e0 (cp 31 1 0 0 0 0 0), .collOpen e0 (cp 1 1 0 0 0 1 0),
    .collAred e0 (cp 27 1 0 0 0 0 0), .collAred e0 (cp 1 1 1 0 0 0 0), .collClose e0 (cp 1 1 1 0 0 0 0), .send e0 (cp 27 1 0 0 0 0 0),
    .japp e0 (cp 1 1 0 0 0 0 1), .jwait e0 (cp 30 1 0 0 0 0 0), .jfetch e0 (cp 28 1 0 0 0 0 0), .glzPost e0 (cp 1 1 1 0 0 0 0),
    .glzWait e0 (cp 1 1 0 0 1 0 0), .binit e0 (sy 1 2 1), .bwait e0 (sy 1 2 1), .rinit e0 (sy 1 30 0), .rinit e0 (sy 1 0 0),
    .rinit e0 (sy 1 2 1), .rwaitf e0 (sy 1 2 1), .rrel e0 (sy 1 2 0)] : List Instr) (fun i => !i.wf) = true := by decide

theorem test_reserved_bits : List.all ([(0x08A60010#32 ||| 0#32, true), (0#32, false), (0x00010001#32, false), (0x04000080#32 ||| 0x17#32, false),
    (0x04000008#32, true), (0x0400000F#32, false), (0xC8000001#32, false), (0xD0000000#32, false), (0x4C080000#32, false)]
    : List (W32 × Bool)) (fun t => decide ((match decode t.1 0#32 with
      | .ok _ => true
      | .error _ => false) = t.2)) = true := by decide

/-! ## Small states -/

/-- A strand with some registers. -/
def regsOf (l : List (Nat × Word)) : Strand := l.foldl (fun x p => x.setReg (BitVec.ofNat 5 p.1) p.2) { started := true, tvec := 0x4001#64 }

/-- The device with a context of tenant 0 on crew 0 whose strand k, in focus, is x. -/
def dev (k : StrandKind) (x : Strand) : State :=
  ({ State.reset with cur := (0, k) } : State).setCrew 0
    (({ ctx := some { launch := 0, task := 0, tenant := 0, created := 0 } } : Crew).setStr k x)

/-- The scalar strand of crew 0 with some registers. -/
def sdev (l : List (Nat × Word)) : State := dev .s (regsOf l)

/-- The value of a register after one step of exec. -/
def regAfter (i : Instr) (s : State) (r : BitVec 5) : Option Word :=
  match exec i s with
  | .next t => some (t.me.reg r)
  | _ => none

/-- A check of the state after exec. -/
def after (i : Instr) (s : State) (ok : State → Bool) : Bool :=
  match exec i s with
  | .next t => ok t
  | _ => false

/-! ## Scalar arithmetic -/

/-- Registers of the tests: the largest number, 3, the most negative number, -7. -/
def arith : State := sdev [(2, 0xFFFFFFFFFFFFFFFF#64), (3, 3#64), (4, 0x8000000000000000#64), (6, 0xFFFFFFFFFFFFFFF9#64)]

theorem test_alu : List.all ([
    (.add 0 1 2 3, 2#64), (.sub 0 1 3 4, 0x8000000000000003#64), (.and 0 1 6 3, 1#64), (.or 0 1 4 3, 0x8000000000000003#64),
    (.xor 0 1 2 3, 0xFFFFFFFFFFFFFFFC#64), (.sll 0 1 3 2, 0x8000000000000000#64), (.srl 0 1 4 2, 1#64), (.sra 0 1 4 2, 0xFFFFFFFFFFFFFFFF#64),
    (.mul 0 1 2 2, 1#64), (.mulh 0 1 2 4, 0#64), (.mulhu 0 1 2 2, 0xFFFFFFFFFFFFFFFE#64),
    (.min 0 1 4 3, 0x8000000000000000#64), (.max 0 1 4 3, 3#64), (.minu 0 1 4 3, 3#64), (.maxu 0 1 4 3, 0x8000000000000000#64),
    (.div 0 1 6 3, 0xFFFFFFFFFFFFFFFE#64), (.rem 0 1 6 3, 0xFFFFFFFFFFFFFFFF#64), (.div 0 1 4 2, 0x8000000000000000#64), (.rem 0 1 4 2, 0#64),
    (.divu 0 1 2 3, 0x5555555555555555#64), (.remu 0 1 6 3, 0#64), (.div 0 1 3 0, 0xFFFFFFFFFFFFFFFF#64), (.rem 0 1 3 0, 3#64),
    (.clz 0 1 3, 62#64), (.clz 0 1 0, 64#64), (.ctz 0 1 4, 63#64), (.popc 0 1 6, 62#64)] : List (Instr × Word))
    (fun t => decide (regAfter t.1 arith 1 = some t.2)) = true := by decide

theorem test_immediates : List.all ([
    (.addi 1 3 0xFFFF, 2#64), (.andi 1 2 0x8000, 0xFFFFFFFFFFFF8000#64), (.ori 1 3 0x10, 0x13#64), (.xori 1 2 0xFFFF, 0#64),
    (.slli 1 3 63, 0x8000000000000000#64), (.srli 1 4 63, 1#64), (.srai 1 4 63, 0xFFFFFFFFFFFFFFFF#64), (.lui 1 0x100000, 0xFFFFFFF000000000#64),
    (.li32 0 1 0x80000000, 0xFFFFFFFF80000000#64), (.lih 0 3 0x80000001, 0x8000000100000003#64)] : List (Instr × Word))
    (fun t => decide (regAfter t.1 arith (if t.2 = 0x8000000100000003#64 then 3 else 1) = some t.2)) = true := by decide

theorem test_zero_register : after (.addi 0 3 1) arith (fun t => t.me.reg 0 == 0#64 && t.me.pc == 4#64) = true := by decide

theorem test_div0_traps : after (.div 0 1 3 0) (dev .s { regsOf [(1, 9#64), (3, 3#64)] with div0 := true })
    (fun t => t.me.level == 1 && t.me.pc == 0x4000#64 && t.me.t1.cause == 3#64 && t.me.t1.val == 3#64 && t.me.t1.epc == 0#64 &&
      t.me.reg 1 == 9#64) = true := by decide

/-- 10 R167: cmpi.ltu p1, s5, -1 is true unless s5 is all ones. -/
theorem test_compares : List.all ([(.cmpi 1 4 3 0x3FFF, true), (.cmpi 1 4 2 0x3FFF, false), (.cmp 0 1 2 6 3, true), (.cmp 0 1 4 6 3, false),
    (.cmp 0 1 3 3 6, true), (.cmp 0 1 5 6 3, true), (.cmp 0 1 0 3 3, true), (.cmp 0 1 1 3 3, false)] : List (Instr × Bool))
    (fun t => after t.1 arith fun u => u.me.pred 1 == t.2) = true := by decide

theorem test_predicates : List.all ([(.pand 0 1 2 0, true), (.por 0 1 3 3, false), (.pxor 0 1 2 0, false), (.pandn 0 1 2 3, true),
    (.porn 0 1 0 0, true), (.pand 0 0 3 3, true)] : List (Instr × Bool))
    (fun t => after t.1 (dev .s { regsOf [] with preds := 5#8 }) fun u =>
      u.me.pred (match t.1 with
        | .pand _ d _ _ => d
        | _ => 1) == t.2) = true := by decide

theorem test_predicate_skips : after (.add 8 1 2 3) arith (fun t => t.me.reg 1 == 0#64 && t.me.pc == 4#64) = true := by decide

theorem wit_AluResults : ∀ i ∈ [Instr.add 0 1 2 3, .sub 0 0 2 3, .and 0 1 2 3, .or 0 1 2 3, .xor 0 1 2 3, .sll 0 1 2 3, .srl 0 1 2 3,
    .sra 0 1 2 3, .mul 0 1 2 3, .mulh 0 1 2 3, .mulhu 0 1 2 3, .min 0 1 2 3, .max 0 1 2 3, .minu 0 1 2 3, .maxu 0 31 2 3],
    i.wf = true ∧ Issues arith i := by unfold Issues; decide

theorem wit_DivisionResults : (∀ i ∈ [Instr.div 0 1 4 2, .divu 0 1 4 2, .rem 0 1 4 2, .remu 0 1 4 2], i.wf = true ∧ Issues arith i) ∧
    arith.me.reg 2 ≠ 0#64 := by unfold Issues; decide

theorem wit_DivisionResults_zero : (∀ i ∈ [Instr.div 0 1 4 0, .divu 0 1 4 0, .rem 0 1 4 0, .remu 0 1 4 0], i.wf = true ∧ Issues arith i) ∧
    arith.me.reg 0 = 0#64 ∧ arith.me.div0 = false := by unfold Issues; decide

theorem wit_DivisionResults_trap :
    let s := dev .s { regsOf [] with div0 := true }
    (∀ i ∈ [Instr.div 0 1 4 0, .divu 0 1 4 0, .rem 0 1 4 0, .remu 0 1 4 0], i.wf = true ∧ Issues s i) ∧ s.me.reg 0 = 0#64 ∧ s.me.div0 = true := by
  unfold Issues; decide

theorem wit_ImmediatesAndCounts : ∀ i ∈ [Instr.addi 1 2 0x8000, .andi 1 2 0, .ori 1 2 0, .xori 1 2 0, .slli 1 2 63, .srli 1 2 0, .srai 1 2 1,
    .lui 1 0x100000, .li32 0 1 0, .lih 0 1 0, .clz 0 1 0, .ctz 0 1 2, .popc 0 1 2], i.wf = true ∧ Issues arith i := by unfold Issues; decide

theorem wit_CompareResults : (∀ i ∈ [Instr.cmp 0 1 0 2 3, .cmp 0 1 5 2 3, .cmpi 1 0 2 0, .cmpi 0 5 2 0x2000], i.wf = true ∧ Issues arith i) ∧
    (5 : BitVec 4).toNat < 6 := by unfold Issues; decide

theorem wit_PredicateLogic : ∀ i ∈ [Instr.pand 0 1 2 3, .por 0 1 2 3, .pxor 0 1 2 3, .pandn 0 1 2 3, .porn 0 7 2 3], i.wf = true ∧ Issues arith i := by
  unfold Issues; decide

/-! ## Addresses, random words, transfers, loops -/

theorem test_addresses : List.all ([(.lea 0 1 2 3, 0x1000000000000110#64), (.tag 0 1 2 9, 0x9000000000000100#64), (.space 0 1 2, 1#64)]
    : List (Instr × Word)) (fun t => decide (regAfter t.1 (sdev [(2, 0x1000000000000100#64), (3, 0x10#64)]) 1 = some t.2)) = true := by decide

theorem test_lea_traps : after (.lea 0 1 2 3) (sdev [(2, 0xF00#64), (3, 0x1000000000000000#64)])
    (fun t => t.me.t1.cause == 5#64 && t.me.t1.val == 0x1000000000000F00#64 && t.me.reg 1 == 0#64) = true := by decide

theorem test_rng_counts : after (.rng 0 1) (dev .s { regsOf [] with rngctr := 0xFFFFFFFFFF#40 }) (fun t => t.me.rngctr == 0#40) = true := by
  decide

/-- lea at the ends of its clauses: a sum that keeps its space and is legal, one in another space, one with a reserved
bit. -/
theorem wit_AddressesAndRandom :
    let s := sdev [(2, 0x1000000000000000#64), (3, 0x1000000000000000#64), (4, 0x0200000000000000#64), (5, 0xFFFFFF#64), (6, 0xFFFFFFFFFF#64)]
    (∀ i ∈ [Instr.lea 0 1 2 0, .lea 0 1 2 3, .lea 0 1 0 4, .tag 0 1 2 15, .space 0 1 2, .rng 0 1, .rngc 0 1 3, .rngc 0 1 4], i.wf = true ∧ Issues s i) ∧
      (s.me.reg 2 + s.me.reg 0).toNat / 2 ^ 60 = (s.me.reg 2).toNat / 2 ^ 60 ∧ ptrOk (s.me.reg 2) = true ∧
      (s.me.reg 2 + s.me.reg 3).toNat / 2 ^ 60 ≠ (s.me.reg 2).toNat / 2 ^ 60 ∧ ptrOk (s.me.reg 4) = false ∧
      (s.me.reg 5).toNat < 2 ^ 24 ∧ (s.me.reg 6).toNat < 2 ^ 40 ∧ 2 ^ 24 ≤ (s.me.reg 6).toNat := by unfold Issues; decide

theorem test_transfers : List.all ([(.br 0 0x3FFFFF, 0xFFC#64, 0#64), (.jmp 2, 0x1008#64, 0#64), (.call 2, 0x1008#64, 0x1004#64),
    (.jr 0 2, 0x2000#64, 0#64), (.callr 0 2, 0x2000#64, 0x1004#64)] : List (Instr × Word × Word))
    (fun t => after t.1 (dev .s { regsOf [(2, 0x2000#64)] with pc := 0x1000#64 }) fun u => u.me.pc == t.2.1 && u.me.reg 1 == t.2.2) = true := by
  decide

theorem wit_TransferResults :
    let s := dev .s { regsOf [(2, 0x01FFFFFFFFFFFFFC#64), (3, 2#64), (4, 0x0200000000000000#64)] with pc := 0x1000#64 }
    (∀ i ∈ [Instr.br 0 0x3FFFFF, .jmp 2, .call 2, .jr 0 2, .callr 0 2, .jr 0 3, .callr 0 4], i.wf = true ∧ Issues s i) ∧
      (s.me.reg 2).toNat % 4 = 0 ∧ (s.me.reg 2).toNat < 2 ^ 57 ∧ (s.me.reg 3).toNat % 4 ≠ 0 ∧ (s.me.reg 4).toNat % 4 = 0 ∧
      2 ^ 57 ≤ (s.me.reg 4).toNat ∧ (leaveLoops s.me s.me.pc (s.me.reg 2)).2 = [] := by unfold Issues; decide

/-- The device with a page of GLOBAL at 0 cached for CU 0, and memory cells in its frame at 0x100000. -/
def paged (k : StrandKind) (x : Strand) (m : List Host.Cell) : State :=
  let s := dev k x
  let t : Tlb := {
    fn := 0
    vpage := 0
    frame := 0x100000
    r := true
    w := true
    x := true
    host := false
    cmp := false
    tier := 0
    gw := false
    expiry := 2 ^ 40
    single := false }
  { s.setCu 0 { s.cu 0 with tlb := [t] } with mem := m }

/-- A nop (09, worked encodings) at the given byte of the frame. -/
def nopAt (o : Nat) : List Host.Cell := [(0x100000 + o + 3, 0x08#8)]

theorem test_loop_starts : after (.loop 1 2 2 4) (paged .s { regsOf [(2, 5#64)] with pc := 0x10#64 } (nopAt 0x20))
    (fun t => t.me.pc == 0x14#64 && (t.me.loop 1).active && (t.me.loop 1).trips == 5 && (t.me.loop 1).last == 0x20#64 &&
      t.me.pred 4 && !t.me.pred 5) = true := by decide

theorem test_loop_skips : after (.loop 1 0 0 4) (paged .s { regsOf [] with pc := 0x10#64 } (nopAt 0x20))
    (fun t => t.me.pc == 0x24#64 && !(t.me.loop 1).active) = true := by decide

/-- The word that a fetch finds, if it does. -/
def fetched (s : State) (a : Word) : Option W32 :=
  match fetchWord s a with
  | .ok p => some p.2
  | .error _ => none

theorem wit_LoopStarts :
    let s := paged .s { regsOf [(2, 0xFFFFFFFF#64), (3, 0x100000000#64)] with pc := 0x10#64 } (nopAt 0x20)
    (∀ i ∈ [Instr.loop 1 4 2 4, .loop 3 0 0 4, .loop 1 0 3 4], i.wf = true ∧ Issues s i) ∧ (s.me.reg 2).toNat < 2 ^ 32 ∧ 2 ^ 32 ≤ (s.me.reg 3).toNat ∧
      (∀ k, (s.me.loop k).active = false) ∧ overlaps s.me 0x14#64 0x20#64 = false ∧ fetched s 0x20#64 = some 0x08000000#32 ∧
      majorOf 0x08000000#32 < 0x10 := by unfold Issues; decide

theorem wit_LoopStarts_transfer :
    let s := paged .s { regsOf [(2, 1#64)] with pc := 0x10#64 } [(0x100023, 0x50#8)]
    Issues s (.loop 1 0 2 4) ∧ fetched s 0x20#64 = some 0x50000000#32 ∧ 0x10 ≤ majorOf 0x50000000#32 ∧ majorOf 0x50000000#32 ≤ 0x14 := by
  unfold Issues; decide

/-- A strand at the last instruction of loop 1, iteration i of 3. -/
def looping (i : Nat) : State :=
  dev .s ({ regsOf [] with pc := 0x20#64 }.setLoop 1
    { active := true, stages := 0, trips := 3, i, start := 0x14#64, last := 0x20#64, level := 0, fresh := false })

theorem test_loop_repeats : after (.addi 1 0 1) (looping 1) (fun t => t.me.pc == 0x14#64 && (t.me.loop 1).i == 2) = true := by decide
theorem test_loop_ends : after (.addi 1 0 1) (looping 2) (fun t => t.me.pc == 0x24#64 && !(t.me.loop 1).active) = true := by decide

theorem wit_InstructionEnds : NoLoopEnd arith ∧ innermostAt (looping 1).me (looping 1).me.pc = some 1 ∧
    ((looping 1).me.loop 1).i + 1 < ((looping 1).me.loop 1).total ∧ ((looping 2).me.loop 1).total ≤ ((looping 2).me.loop 1).i + 1 ∧
    (∀ j : Fin 4, j ≠ 1 → ((looping 2).me.loop j).active = false) := by unfold NoLoopEnd; decide

/-! ## Memory -/

/-- The key of offset o of the slice of CU 0. -/
def slice (o : Nat) : Nat := 2 ^ 55 + o

/-- A LOCAL pointer. -/
def localPtr (o : Nat) : Word := BitVec.ofNat 64 (0x3000000000000000 + o)

/-- The scalar strand of crew 0 with registers and cells. -/
def mdev (l : List (Nat × Word)) (m : List Host.Cell) : State := { sdev l with mem := m }

/-- Eight bytes 80 81 … 87 at offset 8 of the slice of CU 0. -/
def bytes8 : List Host.Cell := (List.range 8).map fun k => (slice (8 + k), BitVec.ofNat 8 (0x80 + k))

/-- s2 and s3 point at the slice at 8 and at its end. -/
def loads : State := mdev [(2, localPtr 8), (3, localPtr 0xFFFFF8), (4, 0x1122334455667788#64)] bytes8

theorem test_loads : List.all ([(.ldb 1 2 0, 0xFFFFFFFFFFFFFF80#64), (.ldbu 1 2 0, 0x80#64), (.ldh 1 2 2, 0xFFFFFFFFFFFF8382#64),
    (.ldhu 1 2 2, 0x8382#64), (.ldw 1 2 4, 0xFFFFFFFF87868584#64), (.ldwu 1 2 4, 0x87868584#64), (.ldd 1 2 0, 0x8786858483828180#64),
    (.ldx 0 1 2 0 2 1 0 0 0, 0xFFFFFFFF83828180#64), (.ldx 0 1 2 0 1 0 0 0 0x1FFFFE, 0#64), (.ldxAcq 0 1 2 0 0 0 0 0, 0x8786858483828180#64)]
    : List (Instr × Word)) (fun t => decide (regAfter t.1 loads 1 = some t.2)) = true := by decide

theorem test_stores : List.all ([(.stb 4 2 1, 9, 1), (.sth 4 2 2, 10, 2), (.stw 4 2 4, 12, 4), (.std 4 2 8, 16, 8), (.stx 0 4 2 0 3 0 0 0, 8, 8),
    (.stxRel 0 4 2 0 0 0 0 0, 8, 8)] : List (Instr × Nat × Nat))
    (fun t => after t.1 loads fun u => leNat (memBytes u.mem (slice t.2.1) t.2.2) == 0x1122334455667788 % 2 ^ (8 * t.2.2) &&
      memByte u.mem (slice 7) == 0#8 && u.me.reg 1 == 0#64) = true := by decide

/-- A swizzle of 5 moves a word in 1 KiB row 3 to bank bits xor 3 (03 R46, R47): 0xC00 becomes 0xC60. -/
theorem test_swizzle : after (.stx 0 4 5 0 2 5 0 0) (mdev [(4, 7#64), (5, localPtr 0xC00)] [])
    (fun u => memByte u.mem (slice 0xC60) == 7#8 && memByte u.mem (slice 0xC00) == 0#8) = true := by decide

/-- The example of 03 R44: 0x2000000000001234 in cluster 7 is byte 0x234 of the slice of CU rank 4 there. -/
theorem test_cluster_pointer : padByte 56 0x2000000000001234#64 0x1234 = padByte 0 0x1780000000000234#64 0x234 := by decide

theorem test_load_misaligned : after (.ldw 1 2 1) loads (fun t => t.me.t1.cause == 4#64 && t.me.t1.val == localPtr 9) = true := by decide
theorem test_load_beyond : after (.ldd 1 3 8) loads (fun t => t.me.t1.cause == 5#64 && t.me.reg 1 == 0#64) = true := by decide

/-- The places of an access, where it finds them. -/
def found (s : State) (a : Word) (n z : Nat) (need : BitVec 3) : Option (List Place) :=
  match placesOf s a n z need with
  | .ok p => some p.2
  | .error _ => none

/-- What found says, as the hypothesis of the statements has it. -/
theorem found_ok {s : State} {a : Word} {n z : Nat} {need : BitVec 3} {ps : List Place} (h : found s a n z need = some ps) :
    ∃ s1, placesOf s a n z need = .ok (s1, ps) := by
  unfold found at h
  split at h
  · simp only [Option.some.injEq] at h
    subst h
    exact ⟨_, by assumption⟩
  · cases h

theorem wit_LoadResults : InOrder loads 0 ∧
    ∀ f ∈ ([(.ldb 1 3 7, 1, 0), (.ldd 1 3 0, 8, 0), (.ldx 0 1 3 0 3 1 6 0 0, 8, 6), (.ldxAcq 0 1 3 0 0 6 0 0, 8, 6)] : List (Instr × Nat × Nat)),
      let a : Word := if f.2.1 = 1 then localPtr 0xFFFFFF else localPtr 0xFFFFF8
      Issues loads f.1 ∧ pointerCheck a f.2.1 f.2.2 f.2.1 a = none ∧
        found loads a f.2.1 f.2.2 1#3 = some [(sliceKey 0 (swizzle f.2.2 (ptrOff a)), f.2.1)] := by
  unfold Issues InOrder; decide

theorem wit_StoreResults : InOrder loads 0 ∧ maskHeld loads 0xFFFF = false ∧
    ∀ f ∈ ([(.stb 4 3 7, 1, 0), (.std 4 3 0, 8, 0), (.stx 0 4 3 0 3 6 0 0, 8, 6), (.stxRel 0 4 3 0 0 6 0 0xFFFF, 8, 6)] : List (Instr × Nat × Nat)),
      let a : Word := if f.2.1 = 1 then localPtr 0xFFFFFF else localPtr 0xFFFFF8
      Issues loads f.1 ∧ pointerCheck a f.2.1 f.2.2 f.2.1 a = none ∧
        found loads a f.2.1 f.2.2 2#3 = some [(sliceKey 0 (swizzle f.2.2 (ptrOff a)), f.2.1)] := by
  unfold Issues InOrder; decide

/-- s2 points at the SLICE of CU 0 at 8, s3 at LOCAL. -/
def atoms : State := mdev [(2, 0x1000000000000008#64), (3, localPtr 8), (4, 0xFFFFFFFF00000005#64), (5, 0x87868584#64), (6, 0x3F800000#64)]
  (bytes8 ++ [(slice 0x12, 0x80#8), (slice 0x13, 0x3F#8)])

theorem test_atomics : List.all ([(.amoAdd 0 1 2 4 0 0, 0x83828185), (.amoMin 0 1 2 4 0 0, 0x83828180), (.amoMax 0 1 2 4 0 0, 5),
    (.amoMinu 0 1 2 4 0 0, 5), (.amoMaxu 0 1 2 4 0 0, 0x83828180), (.amoAnd 0 1 2 4 0 0, 0), (.amoOr 0 1 2 4 0 0, 0x83828185),
    (.amoXor 0 1 2 4 0 0, 0x83828185), (.amoSwp 0 1 2 4 0 0, 5), (.cas 0 1 2 5 4 0 0, 0x83828180)] : List (Instr × Nat))
    (fun t => after t.1 atoms fun u => leNat (memBytes u.mem (slice 8) 4) == t.2 && u.me.reg 1 == 0x83828180#64 &&
      leNat (memBytes u.mem (slice 12) 4) == 0x87868584) = true := by decide

/-- 1.0 plus 1.0 is 2.0. -/
theorem test_fadd : after (.amoFadd 0 1 2 6 0) (mdev [(2, 0x1000000000000010#64), (6, 0x3F800000#64)] [(slice 0x12, 0x80#8), (slice 0x13, 0x3F#8)])
    (fun u => leNat (memBytes u.mem (slice 0x10) 4) == 0x40000000 && u.me.reg 1 == 0x3F800000#64) = true := by decide

theorem wit_AtomicResults :
    (∀ i ∈ [Instr.amoAdd 0 1 2 4 1 0, .amoMin 0 1 2 4 1 0, .amoMax 0 1 2 4 1 0, .amoMinu 0 1 2 4 1 0, .amoMaxu 0 1 2 4 1 0,
        .amoAnd 0 1 2 4 1 0, .amoOr 0 1 2 4 1 0, .amoXor 0 1 2 4 1 0, .amoSwp 0 1 2 4 1 0, .cas 0 1 2 4 5 1 0, .amoFadd 0 1 2 4 0,
        .amoAdd 0 1 3 4 0 0], i.wf = true ∧ Issues atoms i) ∧ InOrder atoms 0 ∧
      spaceOf (atoms.me.reg 2) = 1 ∧ spaceOf (atoms.me.reg 3) = 3 ∧
      (∀ m ∈ [4, 8], pointerCheck (atoms.me.reg 2) m 0 m (atoms.me.reg 2) = none ∧
        found atoms (atoms.me.reg 2) m 0 3#3 = some [(slice 8, m)]) := by unfold Issues InOrder; decide

/-- The four clauses of the first part: a swizzle on GLOBAL, a bad space, an end beyond the field, a misaligned
address. -/
theorem wit_AccessChecks :
    let s := sdev [(2, 0x10#64), (3, 0x4000000000000000#64), (4, localPtr 0xFFFFFF), (5, localPtr 4)]
    (∀ r ∈ [2, 3, 4, 5], Issues s (.ldx 0 1 r 0 3 0 5 0 0)) ∧ spaceOf (s.me.reg 2) = 0 ∧ ptrOk (s.me.reg 3) = false ∧
      ptrOk (s.me.reg 4) = true ∧ fieldSize (s.me.reg 4) < ptrOff (s.me.reg 4) + 8 ∧ ptrOk (s.me.reg 5) = true ∧
      ptrOff (s.me.reg 5) + 8 ≤ fieldSize (s.me.reg 5) ∧ (s.me.reg 5).toNat % 8 ≠ 0 := by unfold Issues; decide

theorem wit_AccessChecks_pad :
    let s := { sdev [] with segs := [(1, 7)] }
    isPad (localPtr 0xFFFF8) = true ∧ ptrOk (localPtr 0xFFFF8) = true ∧ ptrOff (localPtr 0xFFFF8) + 8 ≤ fieldSize (localPtr 0xFFFF8) ∧
      segOwner s (segOf (sliceKey 0 0xFFFF8)) = s.myCrew.tenant ∧ (segOf (sliceKey 0 0xFFFF8) % 16) ∉ (s.cu 0).zeroSegs ∧
      isPad (localPtr 0x100000) = true ∧ segOwner s (segOf (sliceKey 0 0x100000)) ≠ s.myCrew.tenant := by decide

theorem wit_AccessChecks_global :
    let s := paged .s (regsOf []) []
    let a : Word := 0xFF8#64
    spaceOf a = 0 ∧ ptrOk a = true ∧ a.toNat % 8 = 0 ∧ faultOf s (.strand 0 .s) = none ∧ unitOk s 0 = true ∧
      ∃ t ∈ (s.cu 0).tlb, cached (s.cu 0).tlb s.myCrew.tenant (a.toNat / 4096) (s.cuCycle 0) 0 = some t ∧
        tlbCheck s t 3#3 a.toNat = .ok t ∧ t.gw = false ∧ s.has t.frame = true ∧ formatting s t.frame = false := by
  decide

theorem test_global_load : after (.ldwu 1 0 0xFFC) (paged .s (regsOf []) [(0x100FFC, 0x2A#8)]) (fun t => t.me.reg 1 == 0x2A#64) = true := by decide

/-- exec answers a next state. -/
def goes (i : Instr) (s : State) : Bool := after i s fun _ => true

/-- The frame's hypotheses: no loop ends at the PC and each access finds its places. -/
theorem wit_MemoryFrame : NoLoopEnd loads ∧ NoLoopEnd atoms ∧ goes (.ldd 1 2 0) loads = true ∧ goes (.std 4 2 0) loads = true ∧
    found loads (localPtr 8) 8 0 1#3 = some [(slice 8, 8)] ∧
    found loads (localPtr 8) 8 0 2#3 = some [(slice 8, 8)] ∧ isWindowKey (slice 8) = false ∧
    goes (.amoAdd 0 1 2 4 1 0) atoms = true ∧
    found atoms (atoms.me.reg 2) 8 0 3#3 = some [(slice 8, 8)] := by unfold NoLoopEnd; decide

theorem wit_ScalarFrame : NoLoopEnd arith ∧ goes (.add 0 1 2 3) arith = true ∧ goes (.cmp 0 1 0 2 3) arith = true := by
  unfold NoLoopEnd; decide

/-- A store of class 2 that strand k of crew 0 has sent to another device, on which later accesses of class 2 wait. -/
def sent (k : StrandKind) : RemoteWait :=
  { tag := 7, crew := 0, op := none, by_ := some (kindNum k), cls := 2, holds := 4#16,
    msg := { kind := 1, group := 5, dst := 1, tag := 7, nums := [1, 0, 0, 1], data := [0#8] } }

/-- The state with such a store on its way. -/
def far (k : StrandKind) (s : State) : State := { s with remote := [sent k] }

/-- What a store on its way holds back: its own class, a release, a mask with its class; not another class. -/
theorem wit_far : ¬InOrder (far .s loads) 2 ∧ InOrder (far .s loads) 1 ∧ ¬Released (far .s loads) ∧ Released loads ∧
    maskHeld (far .s loads) 4 = true ∧ maskHeld (far .s loads) 0xFFFB = false := by
  unfold InOrder Released; decide

/-! ## System instructions and traps -/

/-- The device with crew 0 as given but for its context and the strand in focus. -/
def cdev (k : StrandKind) (c : Crew) (x : Strand := regsOf []) : State :=
  ({ State.reset with cur := (0, k) } : State).setCrew 0
    (({ c with ctx := some { launch := 0, task := 0, tenant := 0, created := 0 } } : Crew).setStr k x)

/-- An array operation in flight. -/
def arrayOp : EngOp := { id := 0, kind := .m, unit := .array, isArray := true }

/-- A copy in flight with its units unchecked. -/
def copyOp : AsyncOp := { id := 0, opc := 0, fields := cp 0 0 0 0 0 0 0, regs := List.replicate 8 0#64, total := 1 }

/-- Crew 0 holds the lease of CU 0, on its matrix strand. -/
def leased (c : Crew) (x : Strand := regsOf []) : State :=
  let s := cdev .m c x
  s.setCu 0 { s.cu 0 with lease := some { crew := 0 } }

theorem test_exit : after (.exit 0) (dev .v (regsOf [])) (fun t => t.me.exited && t.me.cond == qIdle) = true := by decide
theorem test_exit_lease : after (.exit 0) (leased {}) (fun t => t.me.exited && !holdsLease t 0) = true := by decide
theorem test_exit_waits : after (.exit 0) (cdev .c { ops := [copyOp] }) (fun t => !t.me.exited && t.me.cond == qMem && t.me.pc == 0#64) = true := by
  decide

theorem test_yield : after (.yield 0) (dev .s { regsOf [] with wdog := 100#48, wleft := 3 }) (fun t => t.me.wleft == 4096) = true := by decide
theorem test_yield_safe : List.all [(regsOf [], true), ({ regsOf [] with level := 1 }, false)]
    (fun t => after (.yieldSafe 0) (cdev .s { mark := some false } t.1) fun u => u.myCrew.mark == some t.2) = true := by decide

theorem wit_StrandControl :
    Issues (dev .s (regsOf [])) (.exit 0) ∧
    (Issues (cdev .c { ops := [copyOp] }) (.exit 0) ∧ exitHeld (cdev .c { ops := [copyOp] }).myCrew = true) ∧
    (let s := dev .s { regsOf [] with late := [{ sd := 1, size := 8, sext := false, pc := 0#64, ptr := 0#64, level := 0, parts := [(8, [])] }] }
     Issues s (.exit 0) ∧ s.me.late ≠ []) ∧
    (Issues (leased {}) (.exit 0) ∧ holdsLease (leased {}) 0 = true ∧ arrayBusy (leased {}).myCrew = false) ∧
    (holdsLease (leased { inflight := [arrayOp] }) 0 = true ∧ arrayBusy (leased { inflight := [arrayOp] }).myCrew = true) := by
  unfold Issues; decide

theorem wit_StrandControl_yield :
    let s := cdev .s { mark := some false }
    Issues s (.yield 0) ∧ Issues s (.yieldSafe 0) ∧ Issues s (.fence 0 4 0) ∧ Issues (dev .c (regsOf [])) (.yieldSafe 0) ∧
      (Issues (far .s s) (.fence 0 4 4) ∧ mine (far .s s) = [sent .s] ∧ BitVec.getLsbD 4#16 (sent .s).cls = true) ∧
      s.myCrew.mark.isSome = true ∧ s.myCrew.ops = [] ∧ holdsLease s 0 = false ∧ ∀ k, (s.myCrew.str k).level = 0 := by
  refine ⟨?_, ?_, ?_, ?_, ?_, ?_, ?_, ?_, ?_⟩
  any_goals unfold Issues; decide
  any_goals decide
  intro k
  cases k <;> decide

/-- Token counters at 14 but one at 15; the pairs of s with v, m and c are 0, 1, 2; those towards s are 3, 6 and 9. -/
def tokens (n m : Nat) : Crew := { tokens := Vector.ofFn fun i => if i.val = 1 then m else n }

theorem test_tkpush : after (.tkpush 0 7) (cdev .s (tokens 14 14)) (fun t => t.myCrew.tok 0 == 15 && t.myCrew.tok 2 == 15 &&
    t.myCrew.tok 3 == 14) = true := by decide
theorem test_tkpush_waits : after (.tkpush 0 7) (cdev .s (tokens 14 15)) (fun t => t.me.cond == qToken && t.myCrew.tok 0 == 14 &&
    t.me.pc == 0#64) = true := by decide
theorem test_tkpop : after (.tkpop 0 4) (cdev .s (tokens 1 0)) (fun t => (t.myCrew.tok 3, t.myCrew.tok 6, t.myCrew.tok 9) ==
    (1, 1, 0)) = true := by decide

theorem wit_TokensAndMailboxes :
    let a := cdev .s (tokens 14 14)
    let b := cdev .s (tokens 0 15)
    Released a ∧ (Issues (far .s a) (.tkpush 0 7) ∧ ¬Released (far .s a)) ∧ Issues a (.tkpush 0 7) ∧ Issues a (.tkpop 0 7) ∧ Issues a (.tkpush 0 0) ∧ Issues a (.tkpop 0 0) ∧
      (∀ j ∈ (maskStrands .s 7).map fun y => tokIdx .s y, a.myCrew.tok j < 15) ∧
      (∀ j ∈ (maskStrands .s 7).map fun y => tokIdx y .s, 0 < a.myCrew.tok j) ∧
      Issues b (.tkpush 0 2) ∧ Issues b (.tkpop 0 2) ∧ ¬(∀ j ∈ (maskStrands .s 2).map fun y => tokIdx .s y, b.myCrew.tok j < 15) ∧
      ¬(∀ j ∈ (maskStrands .s 2).map fun y => tokIdx y .s, 0 < b.myCrew.tok j) := by unfold Issues Released; decide

/-- Mailbox 3 is FULL with 5 in it, mailbox 4 is FILLING, the others are EMPTY. -/
def mailed : Crew :=
  { qs := Vector.ofFn fun i => if i.val = 3 then 5#64 else 0#64
    qfe := Vector.ofFn fun i => if i.val = 3 then Fe.full else if i.val = 4 then .filling else .empty }

theorem test_qrd : after (.qrd 0 1 3 1) (cdev .v mailed) (fun t => t.me.reg 1 == 5#64 && t.myCrew.feOf 29 == .empty) = true := by decide
theorem test_qwr : after (.qwr 0 2 0 1) (cdev .v mailed (regsOf [(2, 9#64)])) (fun t => t.myCrew.mail 0 == 9#64 &&
    t.myCrew.feOf 26 == .full) = true := by decide
theorem test_mail_waits : List.all [.qwr 0 2 3 1, .qwr 0 2 4 0, .qrd 0 1 0 1, .qrd 0 1 4 0]
    (fun i => after i (cdev .c mailed) fun t => t.me.cond == qTile && t.me.pc == 0#64) = true := by decide

theorem wit_TokensAndMailboxes_mail :
    let s := cdev .s mailed
    let c := s.myCrew
    (∀ i ∈ [Instr.qwr 0 2 7 1, .qwr 0 2 3 1, .qrd 0 1 3 1, .qrd 0 1 0 1], i.wf = true ∧ Issues s i) ∧ c.feOf 33 = .empty ∧
      c.readByOther .s 33 = false ∧ c.feOf 29 = .full ∧ c.feOf 26 = .empty ∧ c.feOf 30 = .filling ∧ c.zeroing = false ∧ Released s ∧
      (Issues (far .s s) (.qwr 0 2 7 1) ∧ ¬Released (far .s s)) ∧
      (let z := cdev .s { mailed with zeroing := true }
       Issues z (.qwr 0 2 7 0) ∧ Issues z (.qrd 0 1 3 0) ∧ z.myCrew.zeroing = true) := by unfold Issues Released; decide

/-- A crew with a promise for cycle 100, and the device at a cycle. -/
def promised (cycle : Nat) (done : Bool) : State :=
  { cdev .s { promises := [{ op := 1, cycle := 100#64, done }] } (regsOf [(2, 100#64)]) with cycle }

theorem test_waitt : List.all [(99, false, 0), (100, true, 1), (100, false, 2)] (fun q => after (.waitt 0 2) (promised q.1 q.2.1) fun t =>
    match q.2.2 with
    | 0 => t.me.cond == qSleep && t.me.pc == 0#64
    | 1 => t.me.pc == 4#64 && t.myCrew.promises.all fun p => p.acquired
    | _ => t.me.t1.cause == 0x11#64 && t.me.t1.val == 100#64) = true := by decide

theorem wit_SleepAndFlush : Issues (promised 99 false) (.waitt 0 2) ∧ (promised 99 false).cuCycle 0 < 100 ∧
    100 ≤ (promised 100 true).cuCycle 0 ∧ (∀ q ∈ (promised 100 true).myCrew.promises, q.done = true) ∧
    ¬(∀ q ∈ (promised 100 false).myCrew.promises, q.cycle.toNat ≤ 100 → q.acquired = true ∨ q.done = true) := by
  unfold Issues; decide

/-- The page of the account area is cached: every write of the flush reaches it. -/
theorem wit_SleepAndFlush_flush : IssuesHeld (paged .v (regsOf []) []) (.acctflush 0) ∧
    (match flushReady true (paged .v (regsOf []) []) 0 with
      | .ok s1 => !acctPending (acctFlush s1 s1.cur.1) (acctFlush s1 s1.cur.1).cur.1
      | .error _ => false) = true := by
  unfold IssuesHeld Issues; decide +kernel

/-- A launch of two tasks of group 9, the other at round r. -/
def grouped (x : Strand) (r : Nat) : State :=
  let n (k : Nat) : Node :=
    { targs := [], entries := [], succs := [], npred := 0, grps := [9, 0, 0, 0], gmask := 1#4, prio := 0, tiles := [], rounds := [k, 0, 0, 0] }
  let l : Launch := { id := 0, queue := 0, owner := 0, record := [], start := 0, nodes := [n 0, n r] }
  let s := { dev .s x with launches := [l] }
  s.setMyCrew { s.myCrew with ctx := some { launch := 0, task := 0, tenant := 0, created := 0, gmask := 1#4, grps := [9, 0, 0, 0] } }

theorem test_gsync : List.all [(0, true), (1, false)] (fun q => after (.gsync 0 9) (grouped (regsOf []) q.1) fun t =>
    ((t.me.pc == 0#64) == q.2) && ((t.me.cond == qBarrier) == q.2) &&
      (t.launches.all fun l => (l.nodes.map fun n => n.rounds.getD 0 9) == [1, q.1])) = true := by decide
theorem test_gsync_stranger : after (.gsync 0 8) (grouped (regsOf []) 0) (fun t => t.me.t1.cause == 1#64) = true := by decide

theorem wit_GroupSync :
    (∀ r ∈ [0, 1], let s := grouped (regsOf []) r
      Issues s (.gsync 0 9) ∧ (s.me.arrival 9).isSome = false ∧
        (s.launch 0).map (fun l => roundDone (l.mapNode 0 fun x => x.arrive 0) 9 1) = some (decide (r = 1))) ∧
    (∀ r ∈ [0, 1], let s := grouped { regsOf [] with gsyncs := [{ level := 0, pc := 0#64, group := 9 }] } r
      Issues s (.gsync 0 9) ∧ (s.me.arrival 9).isSome = true) ∧
    (let s := far .s (grouped (regsOf []) 0)
     Issues s (.gsync 0 9) ∧ (s.me.arrival 9).isSome = false ∧ ¬Released s) ∧ Released (grouped (regsOf []) 0) ∧
    groupSlot 1#4 [9, 0, 0, 0] 9 = some 0 ∧ groupSlot 1#4 [9, 0, 0, 0] 8 = none := by unfold Issues Released; decide

/-- An arrival at another PC is none of this gsync's (02 R29). -/
theorem test_gsync_passed : ({ regsOf [] with gsyncs := [{ level := 0, pc := 4#64, group := 9 }] } : Strand).arrival 9 = none := by decide


/-- Reads of CYCLE, TSTAT and RNGCTR. -/
theorem test_mfsr : List.all [(0x00, 77#64), (0x01, 0x101#64), (0x19, 5#64)] (fun q =>
    decide (regAfter (.mfsr 0 1 q.1) { dev .s { regsOf [] with level := 1, div0 := true, rngctr := 5#40 } with cycle := 77 } 1 = some q.2)) = true := by
  decide
theorem test_mtsr_tvec : after (.mtsr 0 2 2) (sdev [(2, 0xFFFFFFFFFFFFFFFF#64)]) (fun t => t.me.tvec == 0x01FFFFFFFFFFFFFD#64) = true := by decide
theorem test_mtsr_kperm : after (.mtsr 0 2 5) (sdev [(2, 7#64)]) (fun t => t.me.t1.cause == 2#64 && t.myCrew.kperm == 1#4) = true := by decide

theorem wit_SystemRegisters : ∀ n ∈ [0x00, 0x01, 0x02, 0x03, 0x04, 0x05, 0x08, 0x09, 0x0A, 0x0B, 0x0C, 0x0D, 0x0E, 0x0F, 0x10, 0x11, 0x12, 0x13,
    0x14, 0x18, 0x19, 0x20], Issues arith (.mfsr 0 1 (BitVec.ofNat 11 n)) ∧ Issues arith (.mtsr 0 2 (BitVec.ofNat 11 n)) := by
  unfold Issues; decide

/-- A strand at a trap level with its saved PCs. -/
def trapped (level : Nat) (epc : Word) : Strand :=
  { regsOf [] with level, t1 := { epc, ring := [{ row := 7#8192 }, {}, {}, {}] }, t2 := { epc } }

theorem test_trap_entry : after (.trap 0 0x1234) (dev .s { trapped 1 8#64 with pc := 0x100#64 }) (fun t => t.me.level == 2 && t.me.pc == 0x4000#64 &&
    t.me.t2.epc == 0x104#64 && t.me.t2.cause == 0x19#64 && t.me.t2.val == 0x1234#64 && t.me.t1.epc == 8#64) = true := by decide
theorem test_bkpt : after (.bkpt 0 5) (dev .v { regsOf [] with pc := 0x100#64 }) (fun t => t.me.t1.epc == 0x100#64 && t.me.t1.cause == 0x18#64 &&
    t.me.t1.val == 5#64) = true := by decide
/-- A third trap level kills the context (23 R364). -/
theorem test_triple_trap : after (.trap 0 0) (dev .m (trapped 2 0#64)) (fun t => t.myCrew.killed == some 0x19 && t.me.cond == qIdle) = true := by decide
theorem test_tret : after (.tret 0) (dev .v (trapped 1 0x40#64)) (fun t => t.me.level == 0 && t.me.pc == 0x40#64 &&
    (t.myCrew.ring.getD 0 {}).row == 7#8192) = true := by decide +kernel
theorem test_tret_misaligned : after (.tret 0) (dev .s (trapped 1 0x41#64)) (fun t => t.me.level == 2 && t.me.t2.cause == 4#64 &&
    t.me.t2.val == 0x41#64) = true := by decide

theorem wit_TrapEntry : ((dev .s (trapped 1 0#64)).strand 0 .s).level < 2 ∧ ((dev .s (trapped 1 0#64)).strand 0 .s).tvec.getLsbD 0 = true ∧
    ((dev .s (trapped 2 0#64)).strand 0 .s).level = 2 ∧ ((dev .s (trapped 2 0#64)).crew 0).ctx.isSome = true ∧
    ((dev .s (trapped 2 0#64)).crew 0).killed = none ∧ ((dev .s {}).strand 0 .s).tvec.getLsbD 0 = false := by decide

/-- Level 0; a legal target; a misaligned one; one outside GLOBAL. -/
theorem wit_SoftwareTraps : (∀ i ∈ [Instr.trap 0 1, .bkpt 0 1, .tret 0], i.wf = true ∧ Issues (dev .v (regsOf [])) i) ∧ (regsOf []).tvec.getLsbD 0 = true := by
  unfold Issues; decide
theorem wit_SoftwareTraps_targets : Issues (dev .v (trapped 1 0x01FFFFFFFFFFFFFC#64)) (.tret 0) ∧
    ((trapped 1 0x01FFFFFFFFFFFFFC#64).trapRegs 1).epc = 0x01FFFFFFFFFFFFFC#64 ∧
    Issues (dev .v (trapped 1 2#64)) (.tret 0) ∧ Issues (dev .v (trapped 1 0x0200000000000000#64)) (.tret 0) ∧
    (let s := dev .s { trapped 1 4#64 with late := [{ sd := 1, size := 8, sext := false, pc := 0#64, ptr := 0#64, level := 1, parts := [(8, [])] }] }
     Issues s (.tret 0) ∧ ∃ l ∈ s.me.late, l.level = s.me.level) := by
  refine ⟨?_, ?_, ?_, ?_, ?_, _, List.mem_singleton.mpr rfl, rfl⟩ <;> first | (unfold Issues; decide) | decide

/-- At level 2, and with TVEC.en 0: the trap kills the context. -/
theorem wit_SoftwareTraps_dies : ∀ x ∈ [trapped 2 0#64, { regsOf [] with tvec := 0#64 }], let s := dev .s x
    (x.level = 2 ∨ x.tvec.getLsbD 0 = false) ∧ Issues s (.trap 0 1) ∧ Issues s (.bkpt 0 1) ∧ s.myCrew.ctx.isSome = true ∧ s.myCrew.killed = none := by
  unfold Issues; decide

/-! ## Vector instructions -/

/-- A row of 32-bit elements from its first elements. -/
def row32 (l : List Nat) : Row := BitVec.ofNat 8192 (l.zipIdx.foldl (fun a p => a + p.1 * 2 ^ (32 * p.2)) 0)

/-- The vector strand with ring rows ~1, ~2, ~3, the first of them also in tile 0, row 0. -/
def vdev (m a b : Row) (x : Strand := regsOf []) : State :=
  cdev .v { ring := [{ row := m }, { row := a }, { row := b }, {}], tiles := [(0, m)] } x

/-- ~2 and, as src2, ~3, with tile 0, row 0 as the destination. -/
def rr (ty : BitVec 3) (x : BitVec 6 := 3) : VFields := vf 0 0 0 97 x ty

/-- Elements of the result row that the instruction starts with. -/
def gives (i : Instr) (s : State) (ty : Nat) (l : List (Nat × Nat)) : Bool :=
  after i s fun t => l.all fun p => rowElem ty (t.myCrew.ring.getD 0 {}).row p.1 == p.2

/-- FP32: the mask and addend row 1.0, 0.0; the sources 1.0, 3.0 and 2.0, -1.0. -/
def floats : State := vdev (row32 [0x3F800000, 0]) (row32 [0x3F800000, 0x40400000]) (row32 [0x40000000, 0xBF800000])

theorem test_vector_floats : List.all ([(.vadd e0 (rr 0), 0x40400000, 0x40000000), (.vsub e0 (rr 0), 0xBF800000, 0x40800000),
    (.vmul e0 (rr 0), 0x40000000, 0xC0400000), (.vfma e0 (rr 0), 0x40400000, 0xC0400000), (.vmin e0 (rr 0), 0x3F800000, 0xBF800000),
    (.vmax e0 (rr 0), 0x40000000, 0x40400000), (.vand e0 (rr 0), 0, 0), (.vor e0 (rr 0), 0x7F800000, 0xFFC00000),
    (.vxor e0 (rr 0), 0x7F800000, 0xFFC00000), (.vcmpEq e0 (rr 0), 0, 0), (.vcmpNe e0 (rr 0), 0xFFFFFFFF, 0xFFFFFFFF),
    (.vcmpLt e0 (rr 0), 0xFFFFFFFF, 0), (.vcmpLe e0 (rr 0), 0xFFFFFFFF, 0), (.vsel e0 (rr 0), 0x3F800000, 0xBF800000),
    (.vmov e0 (rr 0 0), 0x3F800000, 0x40400000), (.vrsum e0 (rr 0 0), 0x40800000, 0x40800000), (.vrmax e0 (rr 0 0), 0x40400000, 0x40400000),
    (.vrmin e0 (rr 0 0), 0, 0), (.vneg e0 (rr 0 0), 0xBF800000, 0xC0400000)] : List (Instr × Nat × Nat))
    (fun t => gives t.1 floats 0 [(0, t.2.1), (1, t.2.2)]) = true := by decide +kernel

/-- INT32: the sources -8, 5 and 1, 33. -/
def ints : State := vdev (row32 []) (row32 [0xFFFFFFF8, 5]) (row32 [1, 33])

theorem test_vector_ints : List.all ([(.vshl e0 (rr 7), 0xFFFFFFF0, 10), (.vshr e0 (rr 7), 0x7FFFFFFC, 2), (.vsra e0 (rr 7), 0xFFFFFFFC, 2),
    (.vshuf e0 (rr 7), 5, 0), (.vabs e0 (rr 7 0), 8, 5), (.vtrn e0 (rr 7 0), 0xFFFFFFF8, 0), (.viota e0 (vf 0 0 0 0 0 7), 0, 1),
    (.vsplat e0 (vf 0 0 0 0 0 7), 0, 0), (.vunpk e0 (rr 6 4), 0xFFFFFFF8, 0xFFFFFFFF), (.vdrop e0 (rr 7 0), 0xFFFFFFF8, 5)]
    : List (Instr × Nat × Nat)) (fun t => gives t.1 ints 7 [(0, t.2.1), (1, t.2.2)]) = true := by decide +kernel

/-- log2 1.0 is 0; 2 to the 1, 1/1 and 1/sqrt 1 are exact; tanh of 0 is 0. -/
theorem test_vector_special : List.all ([(.vexp2 e0 (rr 0 0), 0x40000000), (.vlog2 e0 (rr 0 0), 0), (.vrcp e0 (rr 0 0), 0x3F800000),
    (.vrsqrt e0 (rr 0 0), 0x3F800000)] : List (Instr × Nat)) (fun t => gives t.1 floats 0 [(0, t.2)]) = true ∧
    gives (.vtanh e0 (rr 0 0)) floats 0 [(5, 0)] = true := by decide +kernel

/-- The block worked under 05 R80: codes 7, 8, 13, 2 and zeros, scale 0x7F, special 0x03. -/
theorem test_vqblk : encodeBlock ([0x40E00000, 0x40A00000, 0xC0266666, 0x3F666666] ++ List.replicate 28 0) =
    ([7, 8, 13, 2] ++ List.replicate 28 0, 0x7F, 0x03) := by decide +kernel

/-- 1.0 narrows to 0x3F80 in BF16 and widens back. -/
theorem test_vcvt : gives (.vcvt e0 (rr 1 0)) floats 1 [(0, 0x3F80), (1, 0x4040)] = true ∧
    gives (.vcvt e0 (rr 1 32)) (vdev (row32 []) (row32 [0x40403F80]) (row32 [])) 0 [(0, 0x3F800000), (1, 0x40400000)] = true := by decide +kernel

theorem test_vrng_draws : after (.vrng e0 (vf 0 0 0 0 0 7)) ints (fun t => t.me.rngctr == 256#40) = true := by decide +kernel

/-- A copy of a row to a tile is in flight, its destination FILLING and its ring row not complete. -/
theorem test_vector_starts : after (.vmov e0 (vf 0x81 1 0 97 0 7)) ints (fun t => t.myCrew.feOf 1 == .filling && t.myCrew.inflight.length == 1 &&
    ((t.myCrew.ring.getD 0 {}).op == some 0) && t.me.pc == 8#64) = true := by decide

/-- A row of LOCAL memory. -/
def vmem : State := { cdev .v { ring := [{ row := row32 [0x11223344] }, {}, {}, {}] } (regsOf [(2, localPtr 0x400)]) with
  mem := [(slice 0x400, 0xAA#8), (slice 0x500, 0x77#8)] }

theorem test_vld : gives (.vld e0 (vm 0 0 2 0 0)) vmem 6 [(0, 0xAA), (256, 0x77), (1, 0)] = true := by decide +kernel
theorem test_vldt : gives (.vldt e0 (vm 0 0 2 0 0)) vmem 7 [(0, 0xAA), (1, 0)] = true := by decide +kernel
theorem test_vst : after (.vst e0 (vm 96 0 2 0 0)) vmem (fun t => memBytes t.mem (slice 0x400) 4 == [0x44#8, 0x33#8, 0x22#8, 0x11#8] &&
    memByte t.mem (slice 0x500) == 0#8) = true := by decide +kernel
theorem test_vgath : gives (.vgath e0 (vf 0 0 0 97 2 7)) { vdev (row32 []) (row32 [64, 0]) (row32 []) (regsOf [(2, localPtr 0x400)]) with
    mem := vmem.mem } 7 [(0, 0x77), (1, 0xAA)] = true := by decide +kernel

theorem wit_VectorPairs : ∀ i ∈ [Instr.vadd e0 (rr 0), .vsub e0 (rr 0), .vmul e0 (rr 0), .vmin e0 (rr 0), .vmax e0 (rr 0), .vand e0 (rr 0),
    .vor e0 (rr 0), .vxor e0 (rr 0), .vshl e0 (rr 7), .vshr e0 (rr 7), .vsra e0 (rr 7), .vcmpEq e0 (rr 0), .vcmpNe e0 (rr 0), .vcmpLt e0 (rr 0),
    .vcmpLe e0 (rr 0), .vshuf e0 (rr 7), .vfma e0 (rr 0), .vsel e0 (rr 0)], i.wf = true ∧ Issues floats i := by unfold Issues; decide

/-- The rows of the sources and the place of the destination. -/
theorem wit_VectorPairs_starts :
    VStarts floats e0 (rr 0) (srcs2 (rr 0)) [row32 [0x3F800000, 0x40400000], row32 [0x40000000, 0xBF800000]] (some (0, 0)) ∧
    VStarts floats e0 (rr 0) (srcs2 (rr 0) ++ [(rowSpec (rr 0).dst, 0#1)])
      [row32 [0x3F800000, 0x40400000], row32 [0x40000000, 0xBF800000], row32 [0x3F800000, 0]] (some (0, 0)) ∧
    VStarts floats e0 (rr 0) (srcs2 (rr 0) ++ [(.ring 1, 0#1)])
      [row32 [0x3F800000, 0x40400000], row32 [0x40000000, 0xBF800000], row32 [0x3F800000, 0]] (some (0, 0)) := by
  refine ⟨⟨?_, rfl, rfl⟩, ⟨?_, rfl, rfl⟩, ⟨?_, rfl, rfl⟩⟩ <;> (unfold GateOpen; decide)

theorem wit_VectorSingles : (∀ i ∈ [Instr.vabs e0 (rr 0 0), .vneg e0 (rr 0 0), .vexp2 e0 (rr 0 0), .vlog2 e0 (rr 0 0), .vrcp e0 (rr 0 0),
    .vrsqrt e0 (rr 0 0), .vtanh e0 (rr 0 0), .vqblk e0 (rr 5 15), .vunpk e0 (rr 6 7), .vrsum e0 (rr 0 0), .vrmax e0 (rr 7 0), .vrmin e0 (rr 0 0),
    .vmov e0 (rr 0 0), .vtrn e0 (rr 7 0)], i.wf = true ∧ Issues floats i) ∧
    VStarts floats e0 (rr 0 0) (srcs1 (rr 0 0)) [row32 [0x3F800000, 0x40400000]] (some (0, 0)) := by
  refine ⟨by unfold Issues; decide, ?_, rfl, rfl⟩
  unfold GateOpen; decide

/-- A strand with a legal tensor descriptor in s16 to s19, drop thresholds below and at 2^16 in s4 and s5. -/
def described : State := vdev (row32 []) (row32 []) (row32 []) (regsOf [(4, 0xFFFF#64), (5, 0x10000#64), (19, 1#64)])

/-- Each mode of vcvt, both sources of draws, a threshold on each side. -/
theorem wit_VectorConversions : (∀ i ∈ [Instr.vcvt e0 (rr 1 0), .vcvt e0 (rr 1 9), .vcvt e0 (rr 1 16), .vcvt e0 (rr 1 24), .vcvt e0 (rr 1 33),
    .vdrop e0 (rr 7 4), .vdrop e0 (rr 7 36), .vdrop e0 (rr 7 5), .vrng e0 (vf 0 0 0 0 0 7), .vrng e0 (vf 0 0 0 0 32 7),
    .viota e0 (vf 0 0 0 0 0 7), .vsplat e0 (vf 0 0 0 0 4 7)], i.wf = true ∧ Issues described i) ∧ descOk described.me = true ∧
    (described.me.reg 4).toNat < 2 ^ 16 ∧ 2 ^ 16 ≤ (described.me.reg 5).toNat ∧
    VStarts described e0 (rr 7 4) (srcs1 (rr 7 4)) [0#8192] (some (0, 0)) ∧
    VStarts described e0 (vf 0 0 0 0 0 7) [] [] (some (0, 0)) := by
  refine ⟨by unfold Issues; decide, by decide, by decide, by decide, ⟨?_, rfl, rfl⟩, ⟨?_, rfl, rfl⟩⟩ <;> (unfold GateOpen; decide)

/-- Each form issues, its gate is open, its address passes and its bytes lie on this device. -/
theorem wit_VectorMemory :
    (∀ i ∈ [Instr.vld e0 (vm 0 0 2 0 0), .vldt e0 (vm 0 0 2 0 0), .vst e0 (vm 96 0 2 0 0), .vgath e0 (vf 0 0 0 97 2 7)], i.wf = true ∧ Issues vmem i) ∧
    GateOpen vmem e0 (useOf [] (rowSpec 0) 0#1) [] ∧ GateOpen vmem e0 (useOf [(rowSpec 96, 0#1)] .none 0#1) [rowSpec 96] ∧
    pieceCheck 1024 0 (localPtr 0x400) 0 32 = none ∧ pieceCheck 64 0 (localPtr 0x400) (1024 * 15) 64 = none ∧
    (found vmem (localPtr 0x400) 1024 0 1#3).map List.length = some 32 ∧
    (found vmem (localPtr 0x400) 1024 0 2#3).map (fun ps => ps.all fun p => !isWindowKey p.1) = some true ∧ InOrder vmem 0 := by
  unfold Issues GateOpen InOrder; decide

/-- The pieces of vldt and the elements of vgath lie on this device. -/
theorem wit_VectorMemory_pieces :
    (match piecePlaces 64 0 ((List.range 16).map fun r => localPtr 0x400 + BitVec.ofNat 64 (1024 * r)) vmem with
      | .ok p => p.2.length == 32 && p.2.all fun q => !isWindowKey q.1
      | .error _ => false) = true ∧
    (match gatherPlaces ((List.range 256).map fun k => localPtr 0x400 + BitVec.ofInt 64 (4 * (BitVec.ofNat 32 (4 * k)).toInt)) vmem with
      | .ok p => p.2.length == 256 && p.2.all fun q => !isWindowKey q.1
      | .error _ => false) = true := by decide +kernel

/-! ## Matrix instructions -/

/-- Matrix fields: tile ta to tb, format, row, first register. -/
def mx (ta tb : BitVec 5) (fmt : BitVec 4) (row : BitVec 7) (sn : BitVec 5 := 0) : XFields := xf ta tb 0 0 sn fmt row 0 0 0

/-- Crew 0 holds the lease of CU 0 and both planes are as given. -/
def planed (c : Crew) (p : Plane) (x : Strand := regsOf []) : State :=
  let s := leased c x
  s.setCu 0 { s.cu 0 with active := p, shadow := p }

/-- The first operation in flight. -/
def firstOp (t : State) : EngOp := t.myCrew.inflight.getD 0 { id := 9, kind := .s, unit := .self }

theorem test_alease : after (.alease e0 { mx 0 0 0 0 with pd := 1 }) (planed {} { tag := some { tenant := 0, crew := 0, mask := 0xFF#8 } })
    (fun t => t.me.pred 1 && t.me.pc == 8#64) = true := by decide
theorem test_alease_waits : after (.alease e0 (mx 0 0 0 0)) (dev .m (regsOf [])) (fun t => t.me.cond == qLease && (t.cu 0).requests == [0] &&
    t.me.pc == 0#64) = true := by decide
theorem test_arelease : after (.arelease e0 (mx 0 0 0 0)) (leased { leased := true }) (fun t => !holdsLease t 0 && !t.myCrew.leased) = true := by
  decide

theorem test_lds : after (.lds e0 (mx 3 0 1 1)) (planed {} {}) (fun t => (firstOp t).unit == .load &&
    ((firstOp t).part.map fun p => (p.fmt, p.mask)) == some (1, 0xF0#8) && (t.cu 0).lease.any fun l => l.used == 1) = true := by decide
theorem test_lds_overrun : after (.lds e0 (mx 3 0 1 1)) (dev .m (regsOf [])) (fun t => t.me.t1.cause == 0x13#64 && t.me.t1.val == 0#64) = true := by
  decide
theorem test_ldsCb : after (.ldsCb e0 (mx 3 1 1 5)) (planed { fe := Vector.ofFn fun i => if i.val = 25 then .full else .empty } {}) (fun t => ((firstOp t).part.map fun p => (p.mask, p.rows.length)) ==
    some (0x20#8, 32)) = true := by decide
theorem test_ldsBs : after (.ldsBs e0 (mx 3 4 5 0)) (planed {} {}) (fun t => ((firstOp t).part.map fun p => (p.fmt, p.mask, p.scales.length)) ==
    some (5, 0xFF#8, 256)) = true := by decide +kernel
theorem test_mswap : after (.mswap e0 (mx 0 0 0 0)) (planed {} {}) (fun t => (firstOp t).unit == .swap && (firstOp t).isArray) = true := by decide

/-- Activations 3 and 5 with weights 2 and -1: 3 * 2 + 5 * -1 = 1. -/
theorem test_column : columnInt (fun k => if k = 0 then 3 else if k = 1 then 5 else 0) (fun k => if k = 0 then 2 else -1) 0 = 1 := by decide
theorem test_mmul : after (.mmul e0 (mx 0 16 6 2)) (planed {} { fmt := some 6 }) (fun t => (firstOp t).unit == .array &&
    ((firstOp t).rows.map Prod.fst) == [2048, 2049, 2050] && t.myCrew.feOf 16 == .filling) = true := by decide
theorem test_mmul_pair : after (.mmul e0 (mx 0 16 6 2)) (planed {} { fmt := some 1 }) (fun t => t.me.t1.cause == 1#64) = true := by decide

/-- Registers of mdrain: scale 1, clip at the infinities, LOCAL 0x100, pitch 512, no barrier. -/
def drains : State := leased { tiles := [(2048, row32 [0x3F800000, 0xC0400000])] }
  (regsOf [(8, 127#64), (9, 0x7F800000FF800000#64), (10, localPtr 0x100), (11, 512#64), (12, 0#64)])

theorem test_mdrain_tile : after (.mdrain e0 (mx 16 2 1 0 8)) { drains with mem := [] } (fun t => (firstOp t).unit == .drain) = true := by decide
theorem test_mdrain_rows : (let s := drains.setMe (drains.me.setReg 11 0#64)
    after (.mdrain e0 (mx 16 2 1 0 8)) s fun t => ((firstOp t).rows.map fun r => (r.1, r.2.toNat % 2 ^ 32)) == [(256, 0xC0403F80)]) = true := by
  decide +kernel
theorem test_mdrain_mem : after (.mdrain e0 (mx 16 16 1 0 8)) drains (fun t => (((firstOp t).left.take 1).map fun p => p.bs.take 4) ==
    [[0x80#8, 0x3F#8, 0x40#8, 0xC0#8]] && (firstOp t).arrive == 512) = true := by decide +kernel
theorem test_mzero : after (.mzero e0 (mx 0 2 0 0)) (dev .m (regsOf [])) (fun t => (firstOp t).rows.length == 64 &&
    t.myCrew.feOf 2 == .filling) = true := by decide
theorem test_mcbt : after (.mcbt e0 (mx 0 1 0 0)) (cdev .m { tiles := [(0, row32 [5])] }) (fun t => ((firstOp t).rows.map fun r => (r.1, r.2 == row32 [5])) ==
    [(3200, true)]) = true := by decide +kernel

theorem wit_LeaseInstructions :
    (∀ i ∈ [Instr.alease e0 (mx 0 0 0 0), .arelease e0 (mx 0 0 0 0)], ∀ s ∈ [planed {} {}, dev .m (regsOf []), leased { inflight := [arrayOp] }],
      IssuesHeld s i ∧ MayPerform s e0) ∧
    (let s := { leased { inflight := [arrayOp] } with cycle := 15, power := { State.reset.power with rowF := 3 } }
     IssuesHeld s (.arelease e0 (mx 0 0 0 0)) ∧ arrayBusy s.myCrew = true ∧ (s.myCrew.inflight.any fun o => o.unit == .array) = true ∧
       arrayOpen s 0 = false) ∧
    holdsLease (planed {} {}) 0 = true ∧ planesZeroing (planed {} {}) = false ∧ arrayBusy (planed {} {}).myCrew = false ∧
    holdsLease (dev .m (regsOf [])) 0 = false ∧ 0 ∉ ((dev .m (regsOf [])).cu 0).requests ∧ arrayBusy (leased { inflight := [arrayOp] }).myCrew = true := by
  unfold IssuesHeld Issues MayPerform InOrder Released; decide

/-- A zeroing lease, and a request that already waits. -/
theorem wit_LeaseInstructions_waits :
    (let s := (dev .m (regsOf [])).setCu 0 { lease := some { crew := 0, zeroing := true } }
     IssuesHeld s (.alease e0 (mx 0 0 0 0)) ∧ MayPerform s e0 ∧ holdsLease s 0 = true ∧ planesZeroing s = true) ∧
    (let s := (dev .m (regsOf [])).setCu 0 { requests := [0] }
     IssuesHeld s (.alease e0 (mx 0 0 0 0)) ∧ MayPerform s e0 ∧ holdsLease s 0 = false ∧ 0 ∈ (s.cu 0).requests) := by
  unfold IssuesHeld Issues MayPerform InOrder Released; decide

/-- lds.cb reads its codebook as with :e, so the codebook is FULL here. -/
theorem wit_WeightLoads :
    let s := planed { fe := Vector.ofFn fun i => if i.val = 25 then .full else .empty } {} (regsOf [(9, 0#64), (11, 1#64)])
    (∀ i ∈ [Instr.lds e0 (mx 3 0 1 1), .ldsP e0 (mx 3 0 1 1 8), .ldsCb e0 (mx 3 1 1 7), .ldsBs e0 (mx 3 4 5 0), .mswap e0 (mx 0 0 0 0)], i.wf = true ∧ Issues s i) ∧
      MStarts s e0 { reads := [(3, false)] } true false ∧ MStarts s e0 { reads := [(3, false), (25, true)] } true false ∧
      MStarts s e0 { reads := [(3, false), (4, false)] } true false ∧ MStarts s e0 {} true false ∧ ldsPOk (s.me.regsFrom 8 4) = true ∧
      unitBusy s.myCrew .load = false ∧ unitBusy s.myCrew .swap = false ∧ arrayBusy s.myCrew = false := by
  unfold Issues MStarts GateOpen; decide

/-- A pair, a pair while the throttle shuts the array in this cycle, and a plane of another format. -/
theorem wit_ProductResults :
    let u : TileUse := { reads := [(0, false)], write := some (16, false) }
    (∀ p ∈ [some 6, some 5, none], let s := planed {} { fmt := p }
      Issues s (.mmul e0 (mx 0 16 6 63)) ∧ Issues s (.mmulBs e0 (mx 0 16 5 63)) ∧ MStarts s e0 u true false ∧ arrayOpen s 0 = true) ∧
    pairOk false (some 6) 6 = true ∧ pairOk true (some 5) 5 = true ∧ pairOk false none 6 = false ∧
    (let s := { planed {} { fmt := some 6 } with cycle := 15, power := { State.reset.power with rowF := 3 } }
     Issues s (.mmul e0 (mx 0 16 6 63)) ∧ MStarts s e0 u true false ∧ arrayOpen s 0 = false) := by
  unfold Issues MStarts GateOpen; decide

/-- The formats that the clauses about the elements name. -/
theorem wit_formats : ([1, 2, 3, 4, 5, 6].map fun n => (mx 0 16 n 63).fmt.toNat) = [1, 2, 3, 4, 5, 6] ∧
    ([1, 2, 3, 4].map fun n => ((planed {} { fmt := some n }).cu 0).active.fmt.getD 0) = [1, 2, 3, 4] := by decide

theorem wit_DrainsAndTiles :
    let s := drains.setMe (drains.me.setReg 13 0#64)
    (∀ i ∈ [Instr.mdrain e0 (mx 16 2 1 0 8), .mdrain e0 (mx 16 16 1 0 8), .mzero e0 (mx 0 2 0 0), .mcbt e0 (mx 0 1 0 0)], i.wf = true ∧ Issues s i) ∧
      MStarts s e0 { reads := [(16, false)], write := some (2, false) } false (unitBusy s.myCrew .drain) ∧
      MStarts s e0 { reads := [(16, false)] } false (unitBusy s.myCrew .drain) ∧ MStarts s e0 { write := some (2, false) } false false ∧
      MStarts s e0 { reads := [(0, false)], write := some (25, false) } false false ∧ drainOk (s.me.regsFrom 8 5) 1 1 false = true ∧
      drainOk (s.me.regsFrom 8 5) 1 1 true = true ∧ (match drainMem s (s.me.regsFrom 8 5) 512 1 with
        | .ok p => p.2.length == 1
        | .error _ => false) = true := by
  unfold Issues MStarts GateOpen; decide

/-- The frame's hypotheses: no loop ends and an instruction of each kind answers a next state. -/
theorem wit_EngineFrame : NoLoopEnd ints ∧ goes (.vadd e0 (rr 7)) ints = true ∧ NoLoopEnd (planed {} {}) ∧
    goes (.mswap e0 (mx 0 0 0 0)) (planed {} {}) = true := by unfold NoLoopEnd; decide


/-! ## Copies -/

/-- Copy fields with descriptor registers s8 to s15 and sd = s1. -/
def c8 : CpFields := cp 8 1 0 0 0 0 0
/-- The same with tile 2. -/
def cT : CpFields := cp 8 1 0 2 0 0 0
/-- The same with p1. -/
def cP : CpFields := cp 8 1 1 0 0 0 0

/-- A descriptor of one row of 32 bytes from src to dst. -/
def desc (src dst : Word) (r4 r5 bar opt : Word := 0#64) : List (Nat × Word) :=
  [(8, src), (9, dst), (10, 0x0001000100000020#64), (12, r4), (13, r5), (14, bar), (15, opt)]

/-- A ring object at offset 0x40 of the slice: base LOCAL 0x800, slots of 32 bytes, one slot, both indexes 0. -/
def ringCells : List Host.Cell :=
  [(slice 0x41, 0x08#8), (slice 0x47, 0x30#8), (slice 0x48, 0x20#8), (slice 0x4C, 1#8)]

/-- The copy strand with registers and the ring object. -/
def cdev' (l : List (Nat × Word)) (m : List Host.Cell := ringCells) : State := { dev .c (regsOf l) with mem := m }

theorem test_cpy_starts : after (.cpy e0 c8) (cdev' (desc (localPtr 0x100) (localPtr 0x203) ++ [(1, 9#64)])) (fun t => t.me.reg 1 == 0#64 &&
    (t.myCrew.ops.map fun o => (o.id, o.opc, o.total)) == [(0, 0, 1)] && t.me.pc == 8#64) = true := by decide
/-- With prom 1, sd is the promised cycle, which is free: here only that the promise is recorded. -/
theorem test_cpy_promise : after (.cpy e0 c8) (cdev' (desc (localPtr 0x100) (localPtr 0x200) 0 0 0 (BitVec.ofNat 64 (2 ^ 39))))
    (fun t => t.myCrew.promises.length == 1) = true := by decide
theorem test_cpy_illegal : after (.cpy e0 c8) (cdev' [(8, localPtr 0x100), (9, localPtr 0x200)]) (fun t => t.me.t1.cause == 1#64) = true := by decide
theorem test_cpyLd_starts : after (.cpyLd e0 cT) (cdev' (desc (localPtr 0x100) 0x200#64)) (fun t => t.myCrew.feOf 2 == .filling) = true := by decide
theorem test_cpySt_starts : after (.cpySt e0 cT) (cdev' (desc 0x200#64 (localPtr 0x100))) (fun t => t.myCrew.ops.length == 1) = true := by decide
theorem test_cpref_starts : after (.cpref e0 c8) (cdev' (desc 0x40#64 0#64)) (fun t => t.myCrew.ops.length == 1 && t.me.reg 1 == 0#64) = true := by
  decide
/-- A copy's only unit moves its bytes and arrives with them; the copy then completes. -/
theorem test_copy_unit : (let s := cdev' [] ([(slice 0x101, 0x5A#8)])
    let o : AsyncOp := { id := 0, opc := 0, fields := c8, regs := [localPtr 0x100, localPtr 0x204, 0x0001000100000020#64] ++ List.replicate 5 0#64, total := 1 }
    after (.copyUnit 0 0) (s.setMyCrew { s.myCrew with ops := [o] }) fun t => memByte t.mem (slice 0x205) == 0x5A#8 &&
      t.myCrew.ops.all fun o => o.finished) = true := by decide
theorem test_copy_completion : (let s := cdev' []
    after (.copyCompletion 0 0) (s.setMyCrew { s.myCrew with ops := [{ copyOp with finished := true, post := 1#3 }] }) fun t =>
      t.myCrew.ops.isEmpty && t.myCrew.tok (tokIdx .c .s) == 1) = true := by decide

/-- A copy other than cring that is ready. -/
theorem copy_ready {s : State} {i : Instr} {opc : Nat} {e : Eng} {c : CpFields} (n : opc ≠ 7) (g : GateOpen s e (copyUse opc c) [])
    (d : dCheck s i opc c (s.me.regsFrom c.sn 8) = .ok ()) (l : startWait s false e.cls.toNat (dObjects opc (s.me.regsFrom c.sn 8)) = none) :
    CopyReady s i opc e c [] :=
  ⟨g, by simp [ringFull, n], l, d, by rw [if_neg n]⟩

theorem wit_CopyStarts :
    (∀ i ∈ [Instr.cpy e0 c8, .cpyLd e0 cT, .cpySt e0 cT, .cgath e0 c8, .cscat e0 c8, .cred e0 c8, .cpref e0 c8, .cring e0 c8], i.wf = true ∧ Issues (cdev' []) i) ∧
    CopyReady (cdev' (desc (localPtr 0x100) (localPtr 0x200))) (.cpy e0 c8) 0 e0 c8 [] ∧
    CopyReady (cdev' (desc (localPtr 0x100) 0x200#64)) (.cpyLd e0 cT) 1 e0 cT [] ∧
    CopyReady (cdev' (desc 0x1FFE0#64 (localPtr 0x100))) (.cpySt e0 (cp 8 1 0 16 0 0 0)) 2 e0 (cp 8 1 0 16 0 0 0) [] ∧
    CopyReady (cdev' (desc (localPtr 0x100) (localPtr 0x200) (localPtr 0x300))) (.cgath e0 c8) 3 e0 c8 [] ∧
    CopyReady (cdev' (desc (localPtr 0x100) (localPtr 0x200) (localPtr 0x300))) (.cscat e0 c8) 4 e0 c8 [] ∧
    CopyReady (cdev' (desc (localPtr 0x100) (localPtr 0x200))) (.cred e0 c8) 5 e0 c8 [] ∧
    CopyReady (cdev' (desc 0x40#64 0#64)) (.cpref e0 c8) 6 e0 c8 [] ∧
    CopyReady (cdev' (desc (localPtr 0x100) (localPtr 0x40))) (.cring e0 c8) 7 e0 c8 [localPtr 0x800, 32#64, 1#64] := by
  refine ⟨by unfold Issues; decide, ?_, ?_, ?_, ?_, ?_, ?_, ?_, ⟨by unfold GateOpen; decide, by decide, by unfold EngineOpen; decide, rfl, rfl⟩⟩ <;>
    exact copy_ready (by decide) (by unfold GateOpen; decide) rfl (by decide)

/-- The cycle of a promise is bounded below only while CYCLE is below 2^63, and dProm tells the two cases. -/
theorem wit_CopyStarts_promise : (cdev' []).cuCycle 0 < 2 ^ 63 ∧ dProm (((cdev' (desc 0 0 0 0 0 (BitVec.ofNat 64 (2 ^ 39)))).me).regsFrom 8 8) = true ∧
    dProm (((cdev' (desc 0 0)).me).regsFrom 8 8) = false := by decide

/-! ## The fabric -/

/-- Window 0 of the window table: valid, accepting, group 5, of tenant 0, this device member 0 of 2, bytes 0x200000
on, 64 KiB; members of ranks 0 and 1. A journal header at byte 0x40 and a job card at byte 0x400 of page 0. -/
def fabricCells : List Host.Cell :=
  [(0, 3#8), (8, 5#8), (20, 2#8), (26, 0x20#8), (34, 0x30#8), (42, 1#8),
    (0x100041, 8#8), (0x100049, 0x0C#8), (0x100050, 16#8), (0x100058, 1#8),
    (0x100428, 1#8), (0x100440, 1#8), (0x100442, 0x40#8), (0x100448, 1#8), (0x300004, 1#8)]

/-- The copy strand with page 0 of GLOBAL in a frame and page 1 the group window 0. -/
def fdev (l : List (Nat × Word)) (c : Crew → Crew := id) : State :=
  let s := paged .c (regsOf l) fabricCells
  let t : Tlb := {
    fn := 0
    vpage := 1
    frame := 2 ^ 56
    r := true
    w := true
    x := false
    host := false
    cmp := false
    tier := 0
    gw := true
    expiry := 2 ^ 40
    single := false }
  let s := s.setCu 0 { s.cu 0 with tlb := t :: (s.cu 0).tlb }
  s.setMyCrew (c s.myCrew)

/-- Handle 3 of group 5, held by the task on crew 0. -/
def held3 (s : State) : State :=
  let x : RedCtx := {
    crew := 0
    launch := 0
    task := 0
    tenant := 0
    window := 0
    group := 5
    inst := 0
    alg := 0
    maxBytes := 4096
    staging := 0
    ranks := [0, 1] }
  { s with redCtxs := [(3, x)] }

/-- The operation that a check gives. -/
def checked (r : Res (State × AsyncOp)) : Option (Nat × Nat × Nat × Nat) :=
  match r with
  | .ok p => some (p.2.opc, p.2.group, p.2.members, p.2.self)
  | .error _ => none

/-- What checked says, as the hypothesis of the statement has it. -/
theorem checked_ok {r : Res (State × AsyncOp)} {x : Nat × Nat × Nat × Nat} (h : checked r = some x) : ∃ s1 o, r = .ok (s1, o) := by
  unfold checked at h
  split at h
  · exact ⟨_, _, rfl⟩
  · cases h

/-- Registers of coll.open. -/
def openRegs : List (Nat × Word) := [(8, 0x1000#64), (9, 256#64)]
/-- Registers of a collective. -/
def collRegs : List (Nat × Word) := [(8, 3#64), (9, localPtr 0x100), (10, localPtr 0x200), (11, 64#64)]
/-- Registers of send and recv. -/
def sendRegs : List (Nat × Word) := [(8, 0x1000#64), (9, 1#64), (11, localPtr 0x100), (12, 64#64)]
/-- Registers of japp. -/
def jappRegs : List (Nat × Word) := [(8, 0x40#64), (9, 7#64), (13, 0x1000#64)]
/-- Registers of jfetch. -/
def jfetchRegs : List (Nat × Word) := [(8, 0x40#64), (10, 1#64), (11, 0x1000#64), (12, 1#64)]

theorem test_collOpen : after (.collOpen e0 cP) (fdev openRegs) (fun t => t.claims == [{ crew := 0, op := 0, tenant := 0 }] &&
    (t.myCrew.ops.map fun o => (o.opc, o.group, o.members)) == [(0x10, 5, 2)]) = true := by decide
theorem test_collOpen_window : after (.collOpen e0 cP) (fdev [(9, 256#64)]) (fun t => t.me.t1.cause == 9#64) = true := by decide
theorem test_collAred : after (.collAred e0 c8) (held3 (fdev collRegs)) (fun t => (t.redCtxs.map fun p => p.2.issued) == [1] &&
    t.myCrew.ops.length == 1) = true := by decide
theorem test_collBcast_handle : after (.collBcast e0 c8) (fdev collRegs) (fun t => t.me.t1.cause == 1#64) = true := by decide
theorem test_send : after (.send e0 c8) (fdev sendRegs) (fun t => (t.myCrew.ops.map fun o => o.opc) == [0x18] && t.remoteSeq == 1) = true := by decide
theorem test_japp : after (.japp e0 c8) (fdev jappRegs) (fun t => (t.myCrew.ops.map fun o => (o.opc, o.pos, o.entry.length)) == [(0x20, 0, 32)] &&
    t.bindings.length == 1) = true := by decide
theorem test_jfetch : after (.jfetch e0 c8) (fdev jfetchRegs) (fun t => (t.myCrew.ops.map fun o => o.opc) == [0x22]) = true := by decide

theorem wit_FabricStarts :
    (∀ i ∈ [Instr.collOpen e0 cP, .collAred e0 c8, .collAgath e0 c8, .collBcast e0 c8, .send e0 c8, .recv e0 c8, .japp e0 c8, .jfetch e0 c8],
      i.wf = true ∧ Issues (fdev []) i) ∧ (GateOpen (fdev []) e0 {} [] ∧ EngineOpen (fdev []) e0 [0#64]) ∧
    checked (openCheck (.collOpen e0 cP) cP (fdev openRegs)) = some (0x10, 5, 2, 0) ∧
    checked (collCheck (.collAred e0 c8) 0x11 c8 (held3 (fdev collRegs))) = some (0x11, 5, 2, 0) ∧
    checked (collCheck (.collAgath e0 c8) 0x12 c8 (held3 (fdev collRegs))) = some (0x12, 5, 2, 0) ∧
    checked (collCheck (.collBcast e0 c8) 0x13 c8 (held3 (fdev collRegs))) = some (0x13, 5, 2, 0) ∧
    checked (sendCheck (.send e0 c8) 0x18 c8 (fdev sendRegs)) = some (0x18, 5, 2, 0) ∧
    checked (sendCheck (.recv e0 c8) 0x19 c8 (fdev sendRegs)) = some (0x19, 5, 2, 0) ∧
    checked (jappCheck (.japp e0 c8) c8 (fdev jappRegs)) = some (0x20, 5, 2, 0) ∧
    checked (jfetchCheck (.jfetch e0 c8) c8 (fdev jfetchRegs)) = some (0x22, 5, 2, 0) := by
  refine ⟨by unfold Issues; decide, by unfold GateOpen EngineOpen; decide, ?_, ?_, ?_, ?_, ?_, ?_, ?_, ?_⟩ <;> decide

/-- A trap of the checks of each. -/
theorem wit_FabricStarts_traps : List.all [openCheck (.collOpen e0 cP) cP (fdev []), collCheck (.collAred e0 c8) 0x11 c8 (fdev []),
    sendCheck (.send e0 c8) 0x18 c8 (fdev []), jappCheck (.japp e0 c8) c8 (fdev []), jfetchCheck (.jfetch e0 c8) c8 (fdev [])]
    (fun r => match r with
      | .error (.trap _ _) => true
      | _ => false) = true := by decide

theorem test_collClose : after (.collClose e0 c8) (held3 (fdev [(1, 7#64), (8, 3#64)])) (fun t => t.redCtxs.isEmpty && t.me.reg 1 == 0#64 &&
    t.me.pc == 8#64) = true := by decide
/-- jwait with nothing chained: it waits with no deadline, and ends with pd false when the deadline has passed. -/
theorem test_jwait : List.all [(0xFFFFFFFFFFFFFFFF#64, 0#64), (0#64, 8#64)] (fun p => after (.jwait e0 cP) (fdev [(8, 0x40#64), (10, p.1)]) fun t =>
    t.me.pc == p.2 && !t.me.pred 1) = true := by decide
theorem test_glzPost : after (.glzPost e0 c8) (fdev [(8, 0x400#64), (1, 7#64)]) (fun t => t.cards.length == 1 && t.me.reg 1 == 0#64) = true := by
  decide +kernel
theorem test_glzWait : after (.glzWait e0 c8) (fdev [(8, 0x400#64)]) (fun t => t.me.pc == 0#64 && t.me.cond == qMem) = true := by decide

theorem wit_HeldFabric :
    (∀ i ∈ [Instr.collClose e0 c8, .jwait e0 cP, .glzPost e0 c8, .glzWait e0 c8], i.wf = true ∧ IssuesHeld (fdev [(8, 0x400#64)]) i) ∧
    MayPerform (fdev []) e0 ∧ (fdev []).myCrew.ops.length < 16 ∧
    (let s := held3 (fdev [(8, 3#64)])
     (ownHandle s 3#64).map Prod.fst = some 3 ∧ handleBusy s.myCrew 3 = false ∧ ownHandle s 4#64 = none ∧
       handleBusy { s.myCrew with ops := [{ copyOp with opc := 0x11, regs := [3#64] }] } 3 = true) ∧
    (match readHeader (retryAll (fdev [])) 0x40#64 with
      | .ok p => p.2.chained == 0 && p.2.capacity == 16 &&
          (chainOn (strandJournal p.1 0x40#64) 17 p.2 p.1).toOption.any fun q => q.2.chained == 0
      | .error _ => false) = true ∧
    (crewCards (fdev []) 0).length < 16 ∧ cardCheck 0x400#64 = none ∧
    (match loadBytes (fdev []) 0x400#64 256 0 64 with
      | .ok p => !cardBad p.2 && (cardPointers p.2).isNone && cardBar p.2 == 0#64 && !(leNat ((p.2.drop 192).take 4)).testBit 31 &&
          (fabPointers p.1 [] (cardBar p.2)).isOk && !barZeroing p.1 0 (cardBar p.2) && (storeBytes p.1 0x4C0#64 (leBytes 4 0) 0 4 0).isOk
      | .error _ => false) = true := by
  unfold IssuesHeld Issues MayPerform InOrder Released; decide +kernel

/-- chained is above the register's 0. -/
theorem wit_HeldFabric_chained : (let s := fdev [(8, 0x40#64)]
    match readHeader (retryAll { s with mem := memWrite s.mem 0x100068 [3#8] }) 0x40#64 with
    | .ok p => decide ((s.me.regN 9).toNat < p.2.chained)
    | .error _ => false) = true := by decide +kernel

/-! ## Barriers, rings, tables and patch -/

/-- A barrier object at offset 0x40 of the slice: expected 4096, pending 1024, phase 0; and the scalar strand with its
pointer in s2 and a count in s3. -/
def bdev (v : Word) (l : List (Nat × Word) := []) : State :=
  mdev ([(2, localPtr 0x40), (3, v)] ++ l) [(slice 0x41, 0x10#8), (slice 0x45, 0x04#8)]

/-- SY fields: the object in s2, the operand in s3, the result in p1. -/
def y0 : SyFields := sy 2 3 1
/-- The same without a result. -/
def y1 : SyFields := sy 2 3 0

/-- The example of 04 R70: an arrival of 1536 flips the phase, reloads 4096 and leaves an overrun of 512. -/
theorem test_barrive_overrun : after (.barrive e0 y0) { bdev 1536#64 with inits := [(slice 0x40, (0, 0, 0))] } (fun t =>
    (memNat t.mem (slice 0x44) 4, memNat t.mem (slice 0x48) 1, memNat t.mem (slice 0x49) 1, memNat t.mem (slice 0x4C) 4) == (4096, 1, 1, 512) &&
      t.me.pred 1 && t.me.pend.overrun == [localPtr 0x40]) = true := by decide
theorem test_barrive : after (.barrive e0 y0) (bdev 1000#64) (fun t => memNat t.mem (slice 0x44) 4 == 24 && !t.me.pred 1) = true := by decide
theorem test_binit : after (.binit e0 y1) (bdev 0x123#64) (fun t => memNat t.mem (slice 0x40) 4 == 0x123 && memNat t.mem (slice 0x44) 4 == 0x123 &&
    t.inits.length == 1) = true := by decide
theorem test_bexpect : after (.bexpect e0 y0) (bdev 0xFFFFFFFFFFFFFC00#64) (fun t => memNat t.mem (slice 0x44) 4 == 4096 && t.me.pred 1) = true := by
  decide
theorem test_bwait : List.all [(0#64, 0#64), (1#64, 8#64)] (fun p => after (.bwait e0 y1) (bdev p.1) fun t => t.me.pc == p.2) = true := by decide
theorem test_btest : List.all [(0#64, false), (1#64, true)] (fun p => after (.btest e0 y0) (bdev p.1) fun t => t.me.pred 1 == p.2) = true := by decide

/-- The ring object of the copies, pointed at by s2; the operand is in s3, size and count in s4 and s5. -/
def rdev (v : Word) (write read : Nat) : State :=
  mdev [(2, localPtr 0x40), (3, v), (4, 64#64), (5, 7#64)]
    (ringCells ++ (if write = 0 then [] else [(slice 0x50, BitVec.ofNat 8 write)]) ++ (if read = 0 then [] else [(slice 0x58, BitVec.ofNat 8 read)]))

theorem test_rinit : after (.rinit e0 y1) (rdev (localPtr 0x1000) 1 1) (fun t => ringBase t.mem (slice 0x40) == localPtr 0x1000 &&
    (ringSize t.mem (slice 0x40), ringCount t.mem (slice 0x40), ringWrite t.mem (slice 0x40), ringRead t.mem (slice 0x40)) == (64, 7, 0, 0)) = true := by
  decide
theorem test_rwaitf : List.all [(1#64, 2, 8#64), (2#64, 2, 0#64)] (fun p => after (.rwaitf e0 y1) (rdev p.1 p.2.1 1) fun t => t.me.pc == p.2.2) = true := by
  decide
theorem test_rrel : after (.rrel e0 (sy 2 0 0)) (rdev 0#64 2 1) (fun t => ringRead t.mem (slice 0x40) == 2) = true := by decide

theorem wit_BarrierArrival : (∀ p ∈ [((1023 : Int), true), (1024, false), (1025, false)],
      decide (0 < barPending (bdev 0#64).mem (slice 0x40) - p.1) = p.2) ∧ barPending (bdev 0#64).mem (slice 0x40) - 1 < 2 ^ 31 ∧
    barPending (bdev 0#64).mem (slice 0x40) - 1024 = 0 ∧ barPending (bdev 0#64).mem (slice 0x40) - 1536 < 0 := by decide

/-- The context that initialised the object is on its crew. -/
theorem wit_BarrierArrival_context : (let s := { bdev 1536#64 with inits := [(slice 0x40, (0, 0, 0))] }
    sget? s.inits (slice 0x40) = some (0, 0, 0) ∧ ((s.crew 0).ctx.map fun x => (x.launch, x.task)) = some (0, 0)) := by decide

/-- The object of key k that passes the checks. -/
def objectAt (s : State) (n : Nat) : Option Nat :=
  match objectKey s (s.me.reg 2) n with
  | .ok k => some k
  | .error _ => none

/-- What objectAt says, as the hypothesis of the statement has it. -/
theorem objectAt_ok {s : State} {n k : Nat} (h : objectAt s n = some k) : objectKey s (s.me.reg 2) n = .ok k := by
  unfold objectAt at h
  split at h
  · simp only [Option.some.injEq] at h
    subst h
    assumption
  · cases h

/-- The operands at the ends of their clauses. -/
theorem wit_BarriersAndRings :
    (∀ i ∈ [Instr.binit e0 y1, .bexpect e0 y0, .barrive e0 y0, .bwait e0 y1, .btest e0 y0], i.wf = true ∧ IssuesHeld (bdev 1#64) i) ∧
    MayPerform (bdev 0#64) e0 true := by unfold IssuesHeld Issues MayPerform InOrder Released; decide
theorem wit_BarriersAndRings_object : objectAt (bdev 0#64) 16 = some (slice 0x40) ∧ barReserved (bdev 0#64).mem (slice 0x40) = false ∧
    (bdev 0#64).myCrew.ctx.isSome = true ∧ barPhase (bdev 0#64).mem (slice 0x40) = 0 := by decide
theorem wit_BarriersAndRings_most : (0x7FFFFFFF#64 : Word).toInt = 2147483647 ∧ barPending (bdev 0#64).mem (slice 0x40) = 1024 := by decide

theorem wit_BarriersAndRings_ring :
    (∀ i ∈ [Instr.rinit e0 y1, .rwaitf e0 y1, .rrel e0 (sy 2 0 0)], ∀ s ∈ [rdev (localPtr 0x1000) 1 1, rdev 0#64 2 1, rdev 1#64 2 1, rdev 2#64 2 1],
      IssuesHeld s i ∧ MayPerform s e0 true ∧ objectAt s 32 = some (slice 0x40)) ∧
    ptrOk (localPtr 0x1000) = true ∧ (localPtr 0x1000).toNat % 32 = 0 ∧ ringCount (rdev 0#64 2 1).mem (slice 0x40) ≠ 0 ∧
    ringRead (rdev 0#64 2 1).mem (slice 0x40) = 1 ∧ ringWrite (rdev 0#64 2 1).mem (slice 0x40) = 2 ∧
    ringWrite (rdev 0#64 1 1).mem (slice 0x40) ≤ ringRead (rdev 0#64 1 1).mem (slice 0x40) := by unfold IssuesHeld Issues MayPerform InOrder Released; decide

/-- The template tables hold an addi s1, s0, 0 as template 3; the patch amends its imm16. -/
def patched (t : W32) : Strand :=
  { regsOf [] with tmplA := [(24, t.extractLsb' 0 8), (25, t.extractLsb' 8 8), (26, t.extractLsb' 16 8), (27, t.extractLsb' 24 8)] }

/-- Select 1 is imm16 (09 R150): addi s0, s0, 17. -/
theorem test_patch : after (.patch 3 1 17) (dev .v (patched 0x08000000#32)) (fun t => t.me.latch == some [0x08000011#32] && t.me.pc == 0#64) = true := by
  decide
theorem test_patch_empty : after (.patch 4 1 17) (dev .v (patched 0x08000000#32)) (fun t => t.me.t1.cause == 1#64) = true := by decide
theorem test_tload : after (.tload 0 2) (mdev [(2, localPtr 0x400)] [(slice 0x403, 0x08#8)]) (fun t => t.me.tgen == 1#32 && t.me.tmplA == [(3, 0x08#8)]) =
    true := by decide +kernel
/-- Entry 1 of the table holds the header 7, which is illegal (18 R291). -/
theorem test_krules_bad : after (.krules 0 2) { dev .m (regsOf [(2, localPtr 0x1000)]) with mem := [(slice 0x1040, 7#8)] } (fun t =>
    t.me.t1.cause == 1#64 && t.me.t1.val == localPtr 0x1040) = true := by decide +kernel

/-- The bytes of a load, where it succeeds. -/
def loaded (s : State) (a : Word) (n : Nat) : Option (List Byte) :=
  match loadBytes s a n 0 64 with
  | .ok p => some p.2
  | .error _ => none

/-- A table of zero bytes passes the checks. -/
theorem tableBad_ok {bs : List Byte} (h : ∀ b ∈ bs, b = 0#8) : tableBad bs = none := by
  have z : ∀ l : List Byte, (∀ b ∈ l, b = 0#8) → leNat l = 0 := by
    intro l
    induction l with
    | nil => intro _; rfl
    | cons b r ih =>
      intro hl
      have hb : b = 0#8 := hl b (by simp)
      have hr := ih fun c hc => hl c (by simp [hc])
      simp [leNat, hb, hr]
  refine List.find?_eq_none.mpr fun k _ => ?_
  have he : ∀ b ∈ (bs.drop (64 * k)).take 64, b = 0#8 := fun b hb => h b (List.mem_of_mem_drop (List.mem_of_mem_take hb))
  have hn : ruleN ((bs.drop (64 * k)).take 64) = 0 := by
    unfold ruleN recField
    rw [z _ fun b hb => he b (List.mem_of_mem_drop (List.mem_of_mem_take hb))]
  unfold entryOk
  simp [hn]
  exact he

theorem wit_TablesAndPatch :
    (let s := { dev .m (regsOf [(2, localPtr 0x1000)]) with mem := [(slice 0x1040, 7#8)] }
     Issues s (.tload 0 2) ∧ Issues s (.krules 0 2) ∧ (loaded s (localPtr 0x1000) 512).isSome = true ∧
       (loaded s (localPtr 0x1000) 4096).bind tableBad = some 1) ∧
    (let s := dev .m (regsOf [(2, localPtr 0x1000)])
     Issues s (.krules 0 2) ∧ ((loaded s (localPtr 0x1000) 4096).map fun b => b.all fun x => x == 0#8) = some true) ∧
    amended (patched 0x08000000#32) 3 1 17 = some [0x08000011#32] ∧ amended (patched 0x08000000#32) 4 1 17 = none := by
  unfold Issues; decide +kernel

/-! ## Knead groups -/

/-- A matrix rule table: entry 0 matches one mzero and puts the given word in its place. -/
def ruled (head repl : W32) : State :=
  dev .m { regsOf [] with
    latch := some [head, 0#32]
    ruleA := [(0, 0x89#8), (8, 0x21#8), (48, repl.extractLsb' 0 8), (49, repl.extractLsb' 8 8), (50, repl.extractLsb' 16 8),
      (51, repl.extractLsb' 24 8)].filter fun p => p.2 ≠ 0#8 }

/-- mzero of tile 2 becomes mzero of tile 5; with predicate 8, which is never true, nothing happens; an mswap without
the lease and a word that is no instruction trap for the group. -/
theorem test_group : List.all [(0xA8084020#32, 0xA8084050#32, 0), (0xAA084020#32, 0xA8084050#32, 1), (0xA8084020#32, 0xA8040000#32, 2),
    (0xA8084020#32, 0xA8060000#32, 3)] (fun p => after (.kneadGroupIssue 0) (ruled p.1 p.2.1) fun t =>
      match p.2.2 with
      | 0 => t.myCrew.feOf 5 == .filling && t.myCrew.feOf 2 == .empty && t.me.level == 0
      | 1 => t.myCrew.feOf 5 == .empty && t.me.level == 0
      | 2 => t.me.level == 1 && t.me.t1.cause == 0x113#64
      | _ => t.me.level == 1 && t.me.t1.cause == 0x101#64) = true := by decide

theorem wit_GroupIssues : List.all [0xA8084020#32, 0xAA084020#32] (fun h => let s := ruled h 0xA8084050#32
    headWords s == some [h, 0#32] && (match kneadAt s [h, 0#32] with
      | .group k ms => k == 0 && ms.length == 1 && ms.head?.isSome && (decodeRepls [replWords true (ruleEntry s.me.ruleA 0) ms 0]).toOption.isSome
      | _ => false)) = true := by decide

/-- A vector strand whose rule replaces a vadd by a vld of a page that is not present. -/
def ruledV : State :=
  let ws := encode (.vld e0 (vm 0 0 2 0 0))
  let bytes := leBytes 4 (ws.headD 0#32).toNat ++ leBytes 4 ((ws.drop 1).headD 0#32).toNat
  dev .v { regsOf [(2, 0x5000#64)] with
    latch := some [0xA0000400#32, 0x00040008#32]
    ruleA := ((0, 0x09#8) :: (bytes.zipIdx.map fun p => (48 + p.2, p.1))).filter fun p => p.2 ≠ 0#8 }

/-- What keeps a replacement from its effect: the trap of its walk, with the state that the walk leaves. -/
theorem wit_GroupIssues_xtrap : (match kneadAt ruledV [0xA0000400#32, 0x00040008#32] with
    | .group 0 ms =>
      let e := ruleEntry ruledV.me.ruleA 0
      let rs := (List.range (ruleRepls e)).map fun j => replWords false e ms j
      (match decodeRepls rs with
       | .ok bodies =>
         (match groupEffect ruledV e ms rs bodies with
          | .error (.xtrap cause v _) => cause == cNotPresent && v == 0x5000#64
          | _ => false)
       | .error _ => false)
    | _ => false) = true := by decide +kernel

/-- A vector strand whose rule replaces a vadd by two vst, of classes 0 and 2, while a store of class 2 is on its way.
-/
def ruledTwo : State :=
  let bytes (ws : List W32) := leBytes 4 (ws.headD 0#32).toNat ++ leBytes 4 ((ws.drop 1).headD 0#32).toNat
  let repls := bytes (encode (.vst e0 (vm 0 0 2 0 0))) ++ bytes (encode (.vst { e0 with cls := 2 } (vm 0 0 2 0 0)))
  far .v (dev .v { regsOf [(2, localPtr 0x1000)] with
    latch := some [0xA0000400#32, 0x00040008#32]
    ruleA := ((0, 0x11#8) :: (repls.zipIdx.map fun p => (48 + p.2, p.1))).filter fun p => p.2 ≠ 0#8 })

/-- The state in which its second replacement is still to be carried out, and the store has been performed. -/
def restTwo : Option State :=
  match exec (.kneadGroupIssue 0) ruledTwo with
  | .next t => some { t with remote := [] }
  | _ => none

theorem wit_GroupIssues_later : ruledTwo.me.rest = none ∧
    (match kneadAt ruledTwo [0xA0000400#32, 0x00040008#32] with
     | .group 0 ms =>
       let e := ruleEntry ruledTwo.me.ruleA 0
       let rs := (List.range (ruleRepls e)).map fun j => replWords false e ms j
       (match decodeRepls rs with
        | .ok bodies =>
          (match groupEffect ruledTwo e ms rs bodies with
           | .ok (_, later) => later
           | .error _ => false)
        | .error _ => false)
     | _ => false) = true ∧
    (restTwo.any fun t => t.me.rest.any fun r => r.entry == 0 && (match decodeRepls [(r.w0, r.w1)] with
      | .ok [b] => (b (excuse t false allOperands)).toOption.isSome
      | _ => false)) = true := by decide +kernel
theorem test_group_later : (restTwo.any fun t => t.me.pc == 0#64 && t.me.cond == qMem &&
    after (.kneadGroupIssue 0) t fun u => u.me.rest.isNone && u.me.pc == 4#64) = true := by decide +kernel

/-! ## Events of strands -/

/-- Strand k of crew 0, started, with pending causes. -/
def pending (k : StrandKind) (p : Pend) (ops : List AsyncOp := []) : State := cdev k { ops } { regsOf [] with pend := p, pc := 0x20#64, wleft := 1 }

theorem test_async : List.all [(.c, { conflict := [5#64] }, 0x214#64), (.s, { overrun := [5#64], skew := [6#64] }, 0x210#64),
    (.s, { skew := [5#64] }, 0x212#64)] (fun p => after (.asyncTrapEntry 0 p.1) (pending p.1 p.2.1) fun t =>
      t.me.t1.cause == p.2.2 && t.me.t1.val == 5#64 && t.me.t1.epc == 0x20#64) = true := by decide
/-- A held copy: side 1, 3 units done (13 R254). -/
theorem test_async_held : after (.asyncTrapEntry 0 .c) (pending .c {} [{ copyOp with held := some { cause := 9, side := 1, progress := 3 } }]) (fun t =>
    t.me.t1.cause == 0x609#64 && t.me.t1.val == 0x4000000000000003#64) = true := by decide
theorem test_unassigned : after (.unassignedEncoding 0x04000000#32 7#32) (dev .s (regsOf [])) (fun t => t.me.t1.cause == 1#64) = true := by decide
theorem test_fetch_fault : after (.instructionFetchFault 8 0x20#64) (pending .v {}) (fun t => t.me.t1.cause == 8#64 && t.me.t1.epc == 0x20#64) = true := by
  decide
theorem test_watchdog : after (.watchdogExpiry 0 .s) (dev .s (regsOf [])) (fun t => t.myCrew.killed == some 0x20) = true := by decide

/-- A strand that sleeps at waitt s2 until cycle 100. -/
def asleep (k : StrandKind) : State := { dev k { regsOf [(2, 100#64)] with latch := some (encode (.waitt 0 2)), cond := qSleep } with cycle := 100 }
/-- A copy strand that waits at jwait with its deadline 0. -/
def jwaiting : State :=
  let s := fdev [(8, 0x40#64)]
  s.setMe { s.me with latch := some (encode (.jwait e0 cP)), cond := qColl }

theorem test_waittWake : after (.waittWake 0 .v 100#64) (asleep .v) (fun t => t.me.pc == 4#64) = true := by decide
theorem test_jwaitDeadline : after (.jwaitDeadline 0 1 1 0) jwaiting (fun t => !t.me.pred 1 && t.me.latch.isNone) = true := by decide

theorem wit_StrandEvents :
    (∀ p ∈ [(.c, ({ conflict := [5#64] } : Pend)), (.s, { overrun := [5#64] }), (.s, { skew := [5#64] })],
      atBoundary ((pending p.1 p.2).crew 0) p.1 = true ∧ heldOp ((pending p.1 p.2).crew 0) = none) ∧
    heldOp ((pending .c {} [{ copyOp with held := some { cause := 9, side := 1, progress := 3 } }]).crew 0) =
      some (0, { cause := 9, side := 1, progress := 3 }) ∧
    (let s := dev .s (regsOf [])
     (s.crew 0).ctx.isSome = true ∧ (s.crew 0).killed = none ∧ ((s.crew 0).str .s).started = true ∧ ((s.crew 0).str .s).exited = false ∧
       ((s.crew 0).str .s).wleft = 0) ∧
    (match waitingAt (asleep .v) 0 .v qSleep with
      | some (s1, i) => i == .waitt 0 2 && decide (s1.me.reg 2 = 100#64) && decide (100 ≤ s1.cuCycle 0) && s1.myCrew.promises.isEmpty
      | none => false) = true := by decide

theorem wit_StrandEvents_waitt : ∃ s1, waitingAt (asleep .v) 0 .v qSleep = some (s1, .waitt 0 2) ∧ Issues s1 (.waitt 0 2) ∧ s1.me.reg 2 = 100#64 ∧
    (100#64 : Word).toNat ≤ s1.cuCycle (cuOf 0) ∧ s1.myCrew.promises = [] :=
  ⟨_, rfl, by unfold Issues; decide, by decide, by decide, by decide⟩

theorem wit_StrandEvents_jwait_issues : ∃ s1, waitingAt jwaiting 0 .c qColl = some (s1, .jwait e0 cP) ∧ IssuesHeld s1 (.jwait e0 cP) ∧
    MayPerform s1 e0 ∧ s1.journalHeld = [] ∧ (s1.me.regN (cP.sn.toNat + 2)).toNat ≠ 2 ^ 64 - 1 ∧
    (match readHeader s1 (s1.me.reg cP.sn) with
     | .ok (s2, h) => decide (h.chained ≤ (s1.me.regN (cP.sn.toNat + 1)).toNat) &&
         (chainOn (strandJournal s2 (s1.me.reg cP.sn)) (h.capacity + 1) h s2).toOption.any fun p =>
           let u := dropAsked p.1 (.strand s2.cur.1 s2.cur.2)
           decide ((s1.me.regN (cP.sn.toNat + 2)).toNat ≤ u.cuCycle (cuOf u.cur.1))
     | .error _ => false) = true :=
  ⟨_, rfl, by unfold IssuesHeld Issues; decide, by unfold MayPerform InOrder Released; decide, by decide, by decide, by decide⟩

theorem wit_StrandEvents_jwait : (match waitingAt jwaiting 0 .c qColl with
      | some (s1, i) => i == .jwait e0 cP && s1.journalHeld.isEmpty && decide (s1.myCrew.ops.length < 16) && s1.myCrew.canTake .c 0#3 &&
          (match readHeader s1 0x40#64 with
            | .ok p => p.2.chained == 0
            | .error _ => false)
      | none => false) = true ∧ (0 : Nat) ≠ 2 ^ 64 - 1 := by decide

/-! ## Events of the engines and the fabric -/

/-- CU 0 with its array free or leased, and requests that wait. -/
def arrayed (l : Option Lease) (requests : List Nat) (c : Crew := {}) : State :=
  (cdev .m c).setCu 0 { lease := l, requests, lastHolder := 3, ramp := 10, shadow := { tag := some { tenant := 7, crew := 3, mask := 0#8 } } }

/-- The first requester after the last holder in rotation (02 R25); the planes of another tenant are zeroed. -/
theorem test_leaseGrant : after (.leaseGrant 0) (arrayed none [2, 0]) (fun t => ((t.cu 0).lease.map fun l => (l.crew, l.zeroing)) == some (0, true) &&
    (t.cu 0).requests == [2] && (t.cu 0).shadow.tag.isNone) = true := by decide
theorem test_leaseLimit : after (.leaseLimit 0) (arrayed (some { crew := 0, used := 64 }) [1]) (fun t => (t.cu 0).lease.any fun l => l.ending) = true := by
  decide
theorem test_rampStep : List.all [(some { crew := 0 }, 9), (none, 11)] (fun p => after (.rampStep 0) (arrayed p.1 []) fun t => (t.cu 0).ramp == p.2) =
    true := by decide

/-- A free array; an ending lease whose holder is idle; a lease at each limit; a ramp that may move in each direction.
-/
theorem wit_LeaseAndRamp : ((arrayed none [2, 0]).cu 0).lease = none ∧ nextRequest [2, 0] 3 = some 0 ∧
    (let s := arrayed (some { crew := 0, ending := true }) [1]
     leaseEnding s 0 = true ∧ arrayBusy (s.crew 0) = false ∧ nextRequest (s.cu 0).requests 0 = some 1) ∧
    (let s := arrayed (some { crew := 0 }) [] { killed := some 0x21 }
     (s.crew 0).killed.isSome = true ∧ arrayBusy (s.crew 0) = false ∧ nextRequest (s.cu 0).requests 0 = none) ∧
    (∀ l ∈ [({ crew := 0, used := 64 } : Lease)], ((arrayed (some l) [1]).cu 0).lease = some l ∧ 64 ≤ l.used ∧ l.ending = false) ∧
    (0 : Nat) + 32768 ≤ ({ arrayed (some { crew := 0 }) [1] with cycle := 32768 } : State).cycle ∧
    (arrayed none []).power.rampw ≠ 0 ∧ ((arrayed none []).cu 0).rampNext ≤ (arrayed none []).cycle ∧ 0 < ((arrayed none []).cu 0).ramp ∧
    ((arrayed none []).cu 0).ramp < 15 := by decide

/-- An operation in flight that writes tile 2, row 0. -/
def writing : EngOp := { id := 4, kind := .v, unit := .vector, dst := some (2, .full), rows := [(256, row32 [5])], post := 1#3 }

theorem test_engine_completion : after (.engineInstructionCompletion 0 4) (cdev .v { inflight := [writing] }) (fun t =>
    rowElem 7 (sget 0#8192 t.myCrew.tiles 256) 0 == 5 && t.myCrew.feOf 2 == .full && t.myCrew.tok (tokIdx .v .s) == 1 &&
      t.myCrew.inflight.isEmpty) = true := by decide +kernel

/-- A crew with one asynchronous operation. -/
def oped (o : AsyncOp) : State := (fdev collRegs fun c => { c with ops := [o] })

/-- A cpy of 32 bytes of LOCAL. -/
def cpy32 : AsyncOp := { copyOp with regs := [localPtr 0x100, localPtr 0x200, 0x0001000100000020#64] ++ List.replicate 5 0#64 }

/-- An all-reduce of 64 elements with one unit to read, issued on handle 3. -/
def ared : AsyncOp := { copyOp with opc := 0x11, fields := cP, regs := [3#64, localPtr 0x100, localPtr 0x200, 64#64, 0#64, 0#64], group := 5, members := 2 }

/-- Member 1 has no route: the operation ends with status 2, a lost member (14 R266). -/
theorem test_fabric_step : after (.fabricOpCompletion 0 0) (held3 (oped ared)) (fun t => t.myCrew.ops.isEmpty && t.me.reg 1 == 0x0200000000000000#64) =
    true := by decide
/-- Nothing answers a claim without staging; with 2 MiB in the pool it gets handle 0. -/
theorem test_claim : List.all [(0, 9 * 2 ^ 56), (1, 0)] (fun p => (let s := oped { ared with opc := 0x10, regs := [0x1000#64, 256#64] }
    after .reductionContextClaim { s with claims := [{ crew := 0, op := 0, tenant := 0 }], regs := { s.regs with stageBlocks := p.1 } } fun t =>
      t.me.reg 1 == BitVec.ofNat 64 p.2 && t.claims.isEmpty && t.me.pred 1 == (p.1 == 1) && t.redCtxs.length == p.1)) = true := by decide

/-- Port 3 carries traffic; port 2, which leads to rank 1, is not up yet: what is sent there stays in the outbox. -/
def wired (s : State) : State := { s with ports := [(3, { up := true })], routes := [(1, 4#18)] }

/-- A message that its crew's operation 0 waits for. -/
def waitFor (tag dst : Nat) : RemoteWait :=
  { tag, crew := 0, op := some 0, msg := { kind := 4, group := 5, dst, tag, nums := [], data := [] } }

/-- A swap, a load of a part of a plane, and a drain of one row to LOCAL. -/
def swapping : EngOp := { id := 4, kind := .m, unit := .swap }
def draining : EngOp := { writing with
  kind := .m
  unit := .drain
  dst := none
  rows := []
  post := 0#3
  left := [{ row := 0, va := localPtr 64, key := slice 64, bs := [7#8] }] }

theorem test_swap_completion : after (.engineInstructionCompletion 0 4) (cdev .m { inflight := [draining] }) (fun t =>
    memByte t.mem (slice 64) == 7#8 && t.myCrew.inflight.isEmpty) = true := by decide +kernel

theorem wit_EngineCompletions_array :
    (∀ g ∈ [writing, swapping, draining], (cdev .m { inflight := [g] }).myCrew.inflight.find? (fun x => x.id = 4) = some g ∧
      firstOfUnit (cdev .m { inflight := [g] }).myCrew g = true ∧ (cdev .m { inflight := [g] }).remote = [] ∧
      barZeroing (cdev .m { inflight := [g] }) 0 g.bar = false ∧ postHeld (cdev .m { inflight := [g] }) 0 g.kind g.post g.after = false) ∧
    writing.left = [] ∧ writing.dst ≠ none ∧ writing.arrivals = 0 ∧ swapping.left = [] ∧ swapping.unit = .swap ∧
    (∃ p, draining.left = [p] ∧ draining.stored = [] ∧ isWindowKey p.key = false ∧ p.till = none ∧ draining.bar = 0#64 ∧
      formatting (cdev .m { inflight := [draining] }) p.key = false) ∧ clockOk (cdev .m { inflight := [draining] }) 0 = true := by
  refine ⟨by decide +kernel, by decide, by decide, by decide, by decide, by decide, ⟨_, rfl, ?_⟩, by decide⟩
  decide +kernel

/-- A prefetch of a scratchpad range, which has nothing to translate. -/
def pref32 : AsyncOp := { cpy32 with opc := 6 }

theorem wit_EngineCompletions_units :
    (∀ o ∈ [cpy32, pref32, { cpy32 with sent := true }, { cpy32 with finished := true }],
      (oped o).myCrew.ops.find? (fun x => x.id = 0) = some o ∧ o.held = none ∧ faultOpen (oped o) 0 0 = false ∧ o.opc < 8 ∧
        stopped (oped o).myCrew o = false ∧ opSending (oped o) 0 0 = false ∧ postHeld (oped o) 0 .c o.post o.after = false) ∧
    clockOk (oped cpy32) 0 = true ∧ (oped cpy32).myCrew.zeroing = false ∧ spaceOf (dReg pref32.regs 0) ≠ 0 ∧
    (unitStep (oped cpy32) 0 cpy32).toOption.isSome = true := by decide

/-- Copies of one run on crew 0: a load and a store of a tile, a gather and a scatter by the index at 0x400, a
reduction, and a fill of slot 1 of a ring of slots of 64 bytes at 0x400. -/
def ofOpc (opc : Nat) (regs : List Word) : AsyncOp :=
  { copyOp with
    opc
    regs := regs ++ List.replicate (8 - regs.length) 0#64
    ring := [localPtr 0x400, 64#64, 2#64] }
def runOps : List AsyncOp :=
  let n := 0x0001000100000020#64
  [cpy32, ofOpc 1 [localPtr 0x100, 0#64, n], ofOpc 2 [0#64, localPtr 0x200, n],
    ofOpc 3 [localPtr 0x100, localPtr 0x200, n, 0#64, localPtr 0x400], ofOpc 4 [localPtr 0x100, localPtr 0x200, n, 0#64, localPtr 0x400],
    ofOpc 5 [localPtr 0x100, localPtr 0x200, n, 0#64, 0#64, 0#64, 0#64, 0x70000000#64], ofOpc 7 [localPtr 0x100, localPtr 0x300, n, 0#64, 0#64, 1#64]]

/-- The hypotheses of the clause about the one run of a unit: its index, its source and its destination lie on this
device, it does not overlap itself, and nothing of it is on its way. -/
def runMet (s : State) (o : AsyncOp) (q n : Nat) : Bool :=
  let here (p : Place) := !isWindowKey p.1
  let kept (p : AsyncOp) := p.opc == o.opc && p.id == o.id && p.regs == o.regs && p.fields == o.fields && p.ring == o.ring && p.next == o.next &&
    p.total == o.total
  let idx : Option (State × AsyncOp × Int) :=
    if o.opc = 3 ∨ o.opc = 4 then
      match opPlaces s 0 o.anew (dReg o.regs 4 + BitVec.ofNat 64 (dIdxSize o.regs * (q / dLen o.regs))) (dIdxSize o.regs) 0 1#3 2 with
      | .ok (s1, o1, [(k, m)]) =>
        if m = dIdxSize o.regs && here (k, m) then
          some (countPlaces s1 (s1.crew 0).tenant false [(k, m)], o1, signedNat m (memNat s1.mem k m))
        else none
      | _ => none
    else some (s, o.anew, 0)
  idx.any fun (s0, o1, x) =>
    (match (if o.opc = 2 then .ok (s0, o1, []) else opPlaces s0 0 o1 (srcAddr o q x) n o.fields.zs.toNat 1#3 0) with
     | .ok (s2, o2, src) =>
       (match (if o.opc = 1 then .ok (s2, o2, []) else opPlaces s2 0 o2 (dstAddr o q x) n o.fields.zd.toNat 2#3 (if o.opc = 7 then 3 else 1)) with
        | .ok (s3, o3, dst) =>
          src.length == (if o.opc = 2 then 0 else 1) && dst.length == (if o.opc = 1 then 0 else 1) &&
            (src ++ dst).all (fun p => p.2 == n && here p) && kept o1 && kept o2 && kept o3 &&
            !clashes o3 (allRuns (countPlaces s3 (s3.crew 0).tenant false src) 0 o3) && s3.remote.isEmpty
        | _ => false)
     | _ => false)

theorem wit_EngineCompletions_run : ∀ o ∈ runOps, o.used = [] ∧ unitRuns o.regs o.next = [(0, 32)] ∧ dBar o.regs = 0#64 ∧ o.held = none ∧
    o.finished = false ∧ o.sent = false ∧ stopped (oped o).myCrew o = false ∧ faultOpen (oped o) 0 o.id = false ∧ runMet (oped o) o 0 32 = true := by
  decide +kernel
theorem test_copy_runs : (runOps.map fun o => after (.copyUnit 0 0) { oped o with mem := [(slice 0x100, 9#8), (slice 0x200, 4#8)] } fun t =>
    t.myCrew.ops.map (fun o => o.finished) == [true] && (match o.opc with
      | 1 => t.myCrew.tileByte 0 0 == 9#8
      | 2 => memByte t.mem (slice 0x200) == 0#8
      | 5 => memByte t.mem (slice 0x200) == 13#8
      | 7 => memByte t.mem (slice 0x440) == 9#8
      | _ => memByte t.mem (slice 0x200) == 9#8)) = List.replicate 7 true := by decide +kernel

theorem test_copy_bytes : after (.copyUnit 0 0) { oped cpy32 with mem := [(slice 0x100, 9#8)] } (fun t => memByte t.mem (slice 0x200) == 9#8 &&
    t.myCrew.ops.map (fun o => o.finished) == [true]) = true := by decide +kernel

/-- A cring whose slot has its turn, and a cpref that has counted 3 pages. -/
def cring32 : AsyncOp :=
  { copyOp with opc := 7, finished := true, regs := [0#64, localPtr 0x300, 0#64, 0#64, 0#64, 0#64, 0#64, 0#64] }
/-- A fill of slot 1, whose turn has not come. -/
def cring33 : AsyncOp := { cring32 with regs := cring32.regs.set 5 1#64 }
def cprefEnd : AsyncOp := { copyOp with opc := 6, fields := cP, finished := true, count := 3 }

theorem test_cpref_completion : after (.copyCompletion 0 0) (oped cprefEnd) (fun t => t.me.reg 1 == 3#64 && !t.me.pred 1 && t.myCrew.ops.isEmpty) =
    true := by decide +kernel
theorem test_cring_completion : List.all [(cring32, 1, 0), (cring33, 0, 1)] (fun p => after (.copyCompletion 0 0) (oped p.1) (fun t =>
    memNat t.mem (ringKey 0 cring32 + 16) 8 == p.2.1 && t.ringFills.length == p.2.2 && t.myCrew.ops.isEmpty)) = true := by decide +kernel

theorem wit_EngineCompletions_ends :
    (∀ o ∈ [{ cpy32 with finished := true }, cprefEnd, cring32, cring33], (oped o).myCrew.ops.find? (fun x => x.id = 0) = some o ∧
      o.finished = true ∧ o.opc < 8 ∧ opSending (oped o) 0 0 = false ∧ postHeld (oped o) 0 .c o.post o.after = false) ∧
    (let ring := padKey (cuOf 0) (dReg cring32.regs 1)
     cring32.cut = false ∧ ringWrite (oped cring32).mem ring = (dReg cring32.regs 5).toNat ∧ sget [] (oped cring32).ringFills ring = [] ∧
       dReg cring33.regs 1 = dReg cring32.regs 1 ∧ cring33.cut = false ∧ ringWrite (oped cring33).mem ring < (dReg cring33.regs 5).toNat ∧
       ringWrite (oped cring33).mem ring ∉ sget [] (oped cring33).ringFills ring) ∧
    cprefEnd.fields.sd ≠ 0#5 ∧ cprefEnd.fields.pd ≠ 0#3 := by decide +kernel

/-- A japp that has its answers, a send whose data is acknowledged, and a jfetch that has its entries. -/
def jappEnd : AsyncOp := { ared with opc := 0x20, sent := true, phase := 2, pos := 6 }
def sendEnd : AsyncOp :=
  { ared with opc := 0x18, phase := 3, ranks := [0, 1], regs := [0x1000#64, 1#64, 0#64, localPtr 0x100, 64#64, 0#64] }
def jfetchEnd : AsyncOp := { ared with opc := 0x22, phase := 2, count := 4 }

theorem test_japp_completion : after (.fabricOpCompletion 0 0) (wired (oped jappEnd)) (fun t => t.me.reg 1 == 6#64 && t.myCrew.ops.isEmpty) = true := by
  decide +kernel
theorem test_jfetch_completion : after (.fabricOpCompletion 0 0) (wired (oped jfetchEnd)) (fun t => t.me.reg 1 == fabWord 0 4) = true := by decide +kernel

/-- A coll.open that has its handle. -/
def openEnd : AsyncOp := { ared with opc := 0x10, regs := [0x1000#64, 256#64], finished := true }

theorem wit_FabricCompletions :
    (∀ o ∈ [ared, jappEnd, sendEnd, jfetchEnd, openEnd], (wired (oped o)).myCrew.ops.find? (fun x => x.id = 0) = some o ∧ o.held = none ∧
      clockOk (wired (oped o)) 0 = true ∧ faultOpen (wired (oped o)) 0 0 = false ∧ stopped (wired (oped o)).myCrew o = false ∧ 8 ≤ o.opc ∧
        postHeld (wired (oped o)) 0 .c o.post o.after = false ∧ opSending (wired (oped o)) 0 0 = false ∧
        entryBusy (wired (oped o)) o.window = false) ∧
    (fabricStep (held3 (oped ared)) 0 ared).toOption.isSome = true ∧ (sendLost (wired (oped sendEnd)) sendEnd).isSome = true ∧
    (winEntry (oped jfetchEnd) 0).isSome = true ∧ jfetchEnd.window = 0 ∧
    winEntry { oped jfetchEnd with mem := [] } 0 = none ∧ entryBusy { oped jfetchEnd with mem := [] } 0 = false := by decide +kernel

/-- A japp whose answer is late; in the second state its member 7 has been removed. -/
def late7 (dst : Nat) : State := { wired (oped { jappEnd with phase := 1 }) with cycle := 2 ^ 20, remote := [waitFor 0 dst] }

theorem wit_FabricCompletions_resend :
    (∀ d ∈ [1, 7], (late7 d).myCrew.ops.find? (fun x => decide (x.id = 0) && decide (x.opc = 0x20)) = some { jappEnd with phase := 1 } ∧
      0 + 2 ^ 20 ≤ (late7 d).cycle ∧ (∃ r ∈ (late7 d).remote, r.crew = 0 ∧ r.op = some 0)) ∧
    (∀ r ∈ (late7 7).remote, r.msg.dst ∉ (winEntry (late7 7) 0).elim [] (winRanks (late7 7))) ∧
    after (.jappResend 0 0) (late7 7) (fun t => t.remote.isEmpty) = true ∧
    after (.jappResend 0 0) (late7 1) (fun t => t.remote.length == 1 && t.outbox.length == 1) = true := by decide +kernel

/-- A claim whose operation is there or gone; no free handle; a tenant over its cap; a pool with and without room. -/
def claiming (o : AsyncOp) : State := { oped o with claims := [{ crew := 0, op := 0, tenant := 0 }] }
def copen : AsyncOp := { ared with opc := 0x10, regs := [0x1000#64, 256#64] }

theorem wit_FabricCompletions_claim :
    (let s := claiming copen
     (nextClaim s).map (fun k => k.op) = some 0 ∧ s.myCrew.ops.find? (fun x => x.id = 0) = some copen ∧
       (nextClaim (claiming { copen with id := 3 })).map (fun k => k.op) = some 0 ∧
       (claiming { copen with id := 3 }).myCrew.ops.find? (fun x => x.id = 0) = none ∧
       freeHandle s = some 0 ∧ heldContexts s 0 < min 64 (s.tenant 0).cap ∧ poolBytes s < s.stagingUsed + 256 ∧
       s.stagingUsed + stagingOf 2 0 0 256 ≤ poolBytes { s with regs := { s.regs with stageBlocks := 1 } } ∧
       freeHandle { s with redCtxs := (List.range 64).map fun h => (h, ((held3 s).redCtxs.headD (0, {
         crew := 0
         launch := 0
         task := 0
         tenant := 0
         window := 0
         group := 0
         inst := 0
         alg := 0
         maxBytes := 0
         staging := 0 })).2) } = none ∧
       min 64 (({ s with tenants := [(0, { tenant0 with cap := 0 })] } : State).tenant 0).cap ≤ heldContexts s 0) := by decide +kernel

/-- A post that covers a store on its way holds the completion, not the decision. -/
theorem wit_FabricCompletions_post : ∀ p ∈ [(0#3, false), (1#3, true)],
    let o := { copen with post := p.1, after := 8 }
    let s := far .c (claiming o)
    s.arbNext ≤ s.cycle ∧ (nextClaim s).map (fun k => k.op) = some 0 ∧ postHeld s 0 .c o.post o.after = p.2 := by decide +kernel

/-- No memory, no window. -/
theorem no_windows_ok {s : State} (h : s.mem = []) (g : Nat) (ok : Win → Bool) (n w : Nat) : findWin s g ok n w = none := by
  induction n generalizing w with
  | zero => rfl
  | succ n ih =>
    have e : winEntry s w = none := by
      unfold winEntry
      simp only [h]
      rw [if_neg]
      rintro ⟨a, -⟩
      have z : ∀ k : Nat, memByte ([] : List Host.Cell) k = 0#8 := fun _ => rfl
      simp [memBytes, z, leNat] at a
    unfold findWin
    rw [e]
    exact ih _

/-- A chunk of group 5 from member 1, and an access of 4 bytes at a byte of its window. -/
def chunk5 (params : List Nat) : Chunk := { group := 5, src := 1, oper := 0, number := 0, params, data := [7#8] }
def access5 (kind off : Nat) : RemoteReq := { tag := 9, group := 5, srcRank := 1, kind, fn := 0, off := 0x200000 + off, size := 4, data := [1#8, 2#8, 3#8, 4#8] }

theorem wit_FabricMessages_stranger : linkUp (wired (dev .s (regsOf []))) = true ∧ tableBusy (wired (dev .s (regsOf []))) = false ∧
    groupEntry (wired (dev .s (regsOf []))) 5 = none ∧ accessEntry (payload 10 (wired (dev .s (regsOf []))) 5 4) (access5 1 0) = none := by
  have g : groupEntry (wired (dev .s (regsOf []))) 5 = none := no_windows_ok rfl ..
  have e : payload 10 (wired (dev .s (regsOf []))) 5 4 = wired (dev .s (regsOf [])) := by simp [payload, g]
  refine ⟨by decide, by decide, g, ?_⟩
  rw [e]
  exact no_windows_ok rfl ..

theorem test_chunk : after (.collectiveChunk (chunk5 [0])) (wired (fdev [])) (fun t => t.inbox == [chunk5 [0]]) = true := by decide
theorem test_chunk_closed : goes (.collectiveChunk (chunk5 [0])) (fdev []) = false := by decide
theorem test_sendData : after (.sendData (chunk5 [0, 1, 4, 2])) (wired (fdev [])) (fun t => t.inbox.length == 1) = true := by decide
theorem test_remote_store : after (.remoteAccess (access5 1 0x10)) (wired (fdev [])) (fun t => memBytes t.mem 0x200010 4 == [1#8, 2#8, 3#8, 4#8] &&
    t.applied.length == 1 && ((t.tenant 0).counters.get 10).toNat == 4 && ((t.tenant 0).counters.get 5).toNat == 4) = true := by decide
theorem test_remote_beyond : (groupEntry (wired (fdev [])) 5).map (accepts (wired (fdev [])) (access5 1 0xFFFD)) = some false := by decide
theorem test_journalArrival : after (.journalArrival 5 1 (List.replicate 32 0#8) false) (wired (fdev [])) (fun t => t.journalHeld.length == 1) = true := by
  decide
theorem test_ack : after (.acknowledgement 3 [0#8]) { wired (dev .s (regsOf [])) with remote := [waitFor 3 1] } (fun t => t.remote.isEmpty) = true := by
  decide
theorem test_jfetchRequest : after (.jfetchRequest 5 1 0 1) (wired (fdev [])) (fun t => t.outbox.length == 1) = true := by decide

/-- A notice of a loss and data of a send, one that is known already. -/
theorem wit_FabricMessages_data : (let s := wired (fdev [])
    linkUp s = true ∧ tableBusy s = false ∧ (groupEntry s 5).isSome = true ∧ (chunk5 [0, 10, 0, 3]).params.getD 1 0 = 10 ∧
      (chunk5 [0, 1, 4, 2]).params.getD 1 0 ≠ 10 ∧ (s.applied.any fun a => a.1 = memberKey 5 1 && a.2.1 = 3) = false ∧
      (({ s with applied := [(memberKey 5 1, 3, [])] } : State).applied.any fun a => a.1 = memberKey 5 1 && a.2.1 = 3) = true) := by
  decide +kernel

/-- A part of a cred unit; staging of 2 MiB. -/
def unit5 : RemoteReq := { access5 3 0x10 with size := 32, pieces := [(0x200010, 4)], copy := 2, unit := 1 }
def roomy : State := { wired (fdev []) with regs := { (fdev []).regs with stageBlocks := 1 } }

theorem test_unit : after (.remoteAccess unit5) roomy (fun t => t.staged == [unit5] && t.stagingUsed == 4096 && t.applied.isEmpty) = true := by
  decide +kernel

theorem wit_FabricMessages_unit : (let u := payload 10 roomy unit5.group unit5.data.length
    let x := { u with staged := [unit5], stagingUsed := 4096 }
    linkUp roomy = true ∧ tableBusy roomy = false ∧ unit5.kind = 3 ∧ inStaging u unit5 = false ∧ u.stagingUsed + 4096 ≤ poolBytes u ∧
      (accessEntry u unit5).isSome = true ∧ inStaging x unit5 = true ∧
      (u.applied.find? fun a => a.1 = unit5.srcRank && a.2.1 = accessKey unit5) = none ∧ tableBusy x = false ∧
      spansBusy x (accessSpans unit5) = false ∧
      (accessEntry { x with staged := x.staged.filter fun y => decide (y ≠ unit5), stagingUsed := x.stagingUsed - 4096 } unit5).isSome = true) := by
  decide +kernel

/-- A store that the other device has discarded. -/
theorem wit_FabricMessages_discard : (let s := wired (far .s (dev .s (regsOf [])))
    linkUp s = true ∧ s.remote.find? (fun r => r.tag = 7) = some (sent .s) ∧ (sent .s).msg.kind = 1 ∧ ([1#8] : List Byte).headD 0#8 ≠ 0#8) := by
  decide

theorem wit_FabricMessages : linkUp (wired (fdev [])) = true ∧
    (groupEntry (wired (fdev [])) 5).map (fun w => (w.members, w.rbase, w.rlen)) = some (2, 0x200000, 0x10000) ∧
    (accessEntry (payload 10 (wired (fdev [])) 5 4) (access5 1 0xFFFC)).isSome = true ∧
    spansBusy (payload 10 (wired (fdev [])) 5 4) (accessSpans (access5 1 0xFFFC)) = false ∧
    accessSpans (access5 1 0xFFFC) = [(0x20FFFC, 4)] ∧ (access5 1 0xFFFC).kind ≠ 3 ∧
    (({ fdev [] with applied := [(1, 9, [0#8])] } : State).applied.find? fun a => a.1 = (access5 1 0).srcRank && a.2.1 = accessKey (access5 1 0)) =
      some (1, 9, [0#8]) ∧
    ((wired (fdev [])).applied.find? fun a => a.1 = (access5 1 0).srcRank && a.2.1 = accessKey (access5 1 0)) = none ∧
    28 ≤ (List.replicate 32 0#8).length ∧ boundAgent (wired (fdev [])) 5 = none := by decide

/-- Group 5 with its header at 0x40 bound on crew 0. -/
def bound : State := wired (bindNow 0x40#64 0x1000#64 (fdev []))

/-- A journal entry that is applied. -/
theorem wit_FabricMessages_arrival : linkUp bound = true ∧ tableBusy bound = false ∧ (applyArrival (payload 10 bound 5 32)
    { group := 5, src := 1, entry := List.replicate 32 0#8, fetched := false }).2.isNone = true := by decide +kernel

theorem wit_FabricMessages_bound : (boundAgent bound 5).isSome = true ∧
    ((boundAgent bound 5).any fun g => (answerFrom g 0 1 bound).toOption.any fun p => p.2.1 == 0 && p.2.2.isEmpty) = true := by decide +kernel

/-- A load of strand s whose only part is still to come. -/
def loadFar : State :=
  let s := wired (dev .s { regsOf [(6, 1#64)] with late := [{ sd := 5, size := 4, sext := false, pc := 0, ptr := 0, level := 0, parts := [(4, [])] }] })
  { s with
    mem := (fdev []).mem
    regs := (fdev []).regs
    remote := [{ sent .s with tag := 3, load := true, place := (2 ^ 56, 4) }] }

theorem test_load_answer : after (.acknowledgement 3 [0#8, 0x80#8, 1#8, 0#8, 0#8]) loadFar (fun t => t.me.reg 5 == 0x180#64 && t.me.reg 6 == 1#64 &&
    t.me.late.isEmpty && t.remote.isEmpty && ((t.tenant 0).counters.get 10).toNat == 4) = true := by decide

theorem wit_FabricMessages_load : linkUp loadFar = true ∧ ∃ x, loadFar.remote.find? (fun r => r.tag = 3) = some x ∧ x.load = true ∧ x.by_ = some (kindNum .s) ∧
    ∃ l, (loadFar.strand x.crew (kindOf (kindNum .s))).late = [l] ∧ l.parts = [(3 + 1, [])] ∧ l.sd ≠ 0#5 := by
  refine ⟨by decide, _, rfl, by decide, by decide, _, rfl, by decide, by decide⟩

/-- A store that waits for its answer. -/
theorem wit_FabricMessages_store : ∃ x, (far .s (wired (dev .s (regsOf [])))).remote.find? (fun r => r.tag = (sent .s).tag) = some x ∧ x.load = false ∧
    x.msg.kind ≠ 4 := by
  exact ⟨_, rfl, by decide, by decide⟩

/-! ## Links and cards -/

/-- Port 2 is up and expects seq 0; a flit of link word 0. -/
def linked (p : Port) : State := { dev .s (regsOf []) with ports := [(2, p)] }
def badFlit : List Byte := List.replicate 256 0xFF#8

theorem test_flit_retry : List.all [(false, 1), (true, 0)] (fun p => after (.flitReceive 2 badFlit) (linked { up := true, sentRetry := p.1 }) fun t =>
    (t.port 2).sentRetry && (t.port 2).unacked.length == p.2) = true := by decide +kernel
theorem test_retry : after (.retryRequest 2 1) (linked { up := true, nextSeq := 2#12, unacked := [[0#8], [1#8]], retrySeq := 1#12, retryCount := 3 }) (fun t =>
    (t.port 2).resend == [[1#8]] && (t.port 2).retryCount == 4) = true := by decide
theorem test_retrain : List.all [(true, true), (false, false)] (fun p => after (.portRetrain 2 p.1) (linked { attempts := 2 }) fun t =>
    (t.port 2).up == p.2) = true := by decide

/-- A card of the job card at 0x400 of page 0, done with a code. -/
def carded (code : Option Nat) : State :=
  let k : Card := { id := 0, crew := 0, launch := 0, task := 0, ptr := 0x400#64, bytes := memBytes fabricCells 0x100400 256, cls := 0, tenant := 0,
                    doneCode := code, badIndex := 6, started := true }
  { fdev [] with cards := [k] }

theorem test_card_done : after (.glazeCardCompletion 0 0) (carded (some 2)) (fun t => t.cards.isEmpty && memNat t.mem 0x1004C0 4 == 2 ^ 31 + 2 &&
    memNat t.mem 0x1004C4 4 == 6) = true := by decide +kernel
/-- A card of 4 FP32 elements at page 0, offset 0x800, with its translation. -/
def cardBytes : List Byte := (memBytes fabricCells 0x100400 256)
def cardRuns : State :=
  let s := carded none
  { s with cards := s.cards.map fun k => { k with used := (s.cu 0).tlb.drop 1 } }
theorem test_card_run : goes (.glazeCardRun 0 0) (carded none) = true := by decide +kernel

theorem wit_LinksAndCards : badFlit.length = 256 ∧ (linked { up := true }).port 2 = { up := true } ∧ mustTrain (linked {}) ((linked {}).port 2) = true ∧
    mustTrain (linked { attempts := 2 }) ((linked { attempts := 2 }).port 2) = true ∧
    ((carded none).cards.find? fun x => decide (x.crew = 0) && decide (x.id = 0)).map Card.started = some true ∧ clockOk (carded none) 0 = true ∧
    ((carded (some 4)).cards.find? fun x => decide (x.crew = 0) && decide (x.id = 0)).map Card.doneCode = some (some 4) := by decide +kernel
/-- The card is ready for its next chunk, and once done for its result; nothing of it is on its way. -/
theorem wit_LinksAndCards_card : ((carded none).cards.head?.any fun k =>
      (cardPages (cardAgent k) k.used (cardElems k.bytes) (cardSpans k.bytes) (carded none)).toOption.any fun p =>
        (cardAccess p.1 { k with used := p.2 } 0 (min chunkElems (cardElems k.bytes))).toOption.isSome) = true ∧
    (∀ code ∈ [0, 2, 4], ((carded (some code)).cards.head?.any fun k => !cardSending (carded (some code)) k &&
      (cardPut k 192 (leBytes 4 (2 ^ 31 + code)) (carded (some code))).toOption.isSome &&
      (cardPut k 196 (leBytes 4 k.badIndex) (carded (some code))).toOption.isSome &&
      (cardPut k 200 (leBytes 8 k.faultAddr.toNat) (carded (some code))).toOption.isSome) = true) := by decide +kernel
/-- A card that has not started, whose journal has no header. -/
theorem wit_LinksAndCards_turn : (let c (k : Card) : Card := { k with started := false, bytes := cardBytes.set 184 0x80#8 }
    let s : State := { carded none with cards := (carded none).cards.map c }
    s.cards.head?.any fun k => cardTurn s k && k.doneCode.isNone &&
      (match jHeader { header := cardHeader k.bytes, agent := cardAgent k } s with
       | .ok (_, none) => true
       | _ => false)) = true := by decide +kernel
/-- The words of a card that is done are written, and have been performed or not. -/
theorem wit_LinksAndCards_posted : (∀ code ∈ [0, 2, 4], ((carded (some code)).cards.head?.any fun k =>
      !k.posted && !cardSending (carded (some code)) k &&
      (match (if 1 ≤ code ∧ code ≤ 3 then cardPut k 196 (leBytes 4 k.badIndex) (carded (some code))
          else if code = 4 then cardPut k 200 (leBytes 8 k.faultAddr.toNat) (carded (some code)) else .ok (carded (some code))) with
       | .ok s1 =>
         (match cardPut k 192 (leBytes 4 (2 ^ 31 + code)) s1 with
          | .ok s2 => decide (s2.cards = (carded (some code)).cards) && !cardSending (s2.setCard { k with posted := true }) k
          | .error _ => false)
       | .error _ => false)) = true) ∧
    (let s := carded (some 2)
     let t : State := { s with remote := [{ sent .c with agent := some (.card 0) }] }
     s.cards.all (fun k => cardSending t k && !cardSending s k) = true) := by decide +kernel
theorem test_card_posted : after (.glazeCardCompletion 0 0) { carded (some 2) with cards := (carded (some 2)).cards.map fun k => { k with posted := true } }
    (fun t => t.cards.isEmpty && t.mem == (carded none).mem) = true := by decide +kernel

/-- A flit out of order: its check sum or its seq differs. -/
theorem wit_LinksAndCards_flit : ¬(crc32c (badFlit.take 252) = leNat (badFlit.drop 252) ∧
    BitVec.ofNat 12 (leNat (badFlit.take 8)) = ({} : Port).lastSeq + 1#12) := by decide +kernel

/-- A flit whose check sum is right, with the given link word. -/
def goodFlit (link : Nat) : List Byte :=
  let bs := leBytes 8 link ++ List.replicate 244 0#8
  bs ++ leBytes 4 (crc32c bs)

theorem wit_LinksAndCards_good : (goodFlit 0).length = 256 ∧ crc32c ((goodFlit 0).take 252) = leNat ((goodFlit 0).drop 252) ∧
    BitVec.ofNat 12 (leNat ((goodFlit 0).take 8)) = ({} : Port).lastSeq + 1#12 ∧ flitOk 0 0 = true ∧ flitOk (5 * 2 ^ 24) 0 = false ∧
    flitOk (2 * 2 ^ 24) 0 = true ∧ (2 * 2 ^ 24 : Nat) / 2 ^ 24 % 16 = 2 ∧ (0 : Nat) / 2 ^ 24 % 16 ≠ 2 := by decide +kernel

theorem test_flit_good : after (.flitReceive 2 (goodFlit 0)) (linked { up := true }) (fun t => (t.port 2).lastSeq == 0#12 && t.errs.isEmpty) = true := by
  decide +kernel

/-! ## Translation, clocks, queues and memory management -/

theorem test_translationExpiry : after .translationExpiry { paged .s (regsOf []) [] with cycle := 2 ^ 40 } (fun t => (t.cu 0).tlb.isEmpty) = true := by
  decide +kernel
/-- A drift of 16 is kept; one of 17 holds the unit, drops its entries and writes an error record (22 R348). -/
theorem test_drift : List.all [(16, 1, 0), (17, 0, 1)] (fun p => after (.clockSkewDetection 0 p.1) (paged .s (regsOf []) []) fun t =>
    (t.cu 0).tlb.length == p.2.1 && t.errs.length == p.2.2) = true := by decide
/-- A cluster walker that drifts too far forgets the entries of its cluster and its own non-leaf ones. -/
theorem test_drift_walker : (let e : WalkEnt := { fn := 0, stage := 1, level := 1, tag := 0, table := 0, d := 0, expiry := 2 ^ 40 }
    after (.clockSkewDetection 97 17) { dev .s (regsOf []) with
      clusterTlb := [(0, ((paged .s (regsOf []) []).cu 0).tlb)]
      walkCache := [(97, [e]), (98, [e])] } fun t =>
      (sget [] t.clusterTlb 0).isEmpty && (sget [] t.walkCache 97).isEmpty && (sget [] t.walkCache 98).length == 1 && t.errs.length == 1 &&
        (t.cu 97).resync) = true := by decide +kernel
theorem test_drift_pending : after (.clockSkewDetection 0 (-17)) { dev .s (regsOf []) with cycle := 20 } (fun t =>
    t.myCrew.ss.pend.skew == [0xFFFFFFFFFFFFFFEF#64]) = true := by decide
theorem test_resync : after (.clockCopyResync 0) ({ dev .s (regsOf []) with cycle := 100 }.setCu 0 { drift := -17, resync := true }) (fun t => (t.cu 0).drift == 0 &&
    !(t.cu 0).resync) = true := by decide
theorem test_walk : goes (.translationWalk 0 0 0x1000#64 1#3) (paged .s (regsOf []) []) = true := by decide

theorem wit_TranslationAndClock : unitServes (paged .s (regsOf []) []) 0 0 = true ∧ clockOk (paged .s (regsOf []) []) 0 = true ∧
    (∀ u ∈ [0, 95, 97, 108], clockUnit u = true) ∧ ((dev .s (regsOf [])).setCu 0 { drift := 3 }).cuCycle 0 ≤ 5 ∧ (2 : Nat) < (3 : Int).natAbs := by decide
theorem wit_TranslationAndClock_drift : (0 : Int) ≤ ((17 : Nat) : Int) + (-17) ∧ 16 < (-17 : Int).natAbs ∧ (-16 : Int).natAbs ≤ 16 := by decide
/-- An expired leaf of a CU, one of a cluster, and an expired non-leaf entry of a walker. -/
theorem wit_TranslationAndClock_expired :
    (let s : State := { paged .s (regsOf []) [] with cycle := 2 ^ 40 }
     (s.cus.any fun p => p.2.tlb.any fun t => decide (t.expiry ≤ s.cuCycle p.1)) = true) ∧
    (let s : State := { State.reset with
       cycle := 2 ^ 40
       clusterTlb := [(0, ((paged .s (regsOf []) []).cu 0).tlb)]
       walkCache := [(96, [{ fn := 0, stage := 1, level := 1, tag := 0, table := 0, d := 0, expiry := 5 }])] }
     (s.clusterTlb.any fun p => p.2.any fun t => decide (t.expiry ≤ s.cuCycle (walkerOf (8 * p.1)))) = true ∧
       (s.walkCache.any fun p => p.2.any fun t => decide (t.expiry ≤ s.cuCycle p.1)) = true) := by decide +kernel
/-- A walk whose second stage fails: function 1 with an empty second-stage table (22 R350). -/
def staged : State :=
  let s := dev .s (regsOf [])
  s.setTenant 1 { s.tenant 1 with xr1 := 0x8000000000000000#64, xr2 := 0x8000000000000000#64 }
theorem wit_TranslationAndClock_stall : unitServes staged 96 1 = true ∧ clockOk staged 96 = true ∧
    (match (walkIn staged 96 1 0x1000 1#3).2 with
     | .stall _ _ _ _ _ => true
     | _ => false) = true := by decide
/-- A walk that ends in a trap: the page has no entry. -/
theorem wit_TranslationAndClock_walk : (match (walkIn (dev .s (regsOf [])) 0 0 0x1000 1#3).2 with
    | .trap _ _ => true
    | _ => false) = true := by decide

/-- The operational module with queue 0 as given. -/
def queued (q : Queue) : State := { dev .s (regsOf []) with queues := [(0, q)], boot := { State.reset.boot with mode := 1 } }

/-- A ring of 2 records holds one: moving the tail by 1 is accepted, by 2 sets err with ecode 1 (21 R319, R320). -/
theorem test_tailWrite : List.all [(2#32, 2#32, false), (3#32, 1#32, true)] (fun p => after (.tailWrite 0 p.1) (queued { en := true, tail := 1#32 }) fun t =>
    (t.queue 0).tail == p.2.1 && (t.queue 0).err == p.2.2 && ((t.queue 0).ecode == 1) == p.2.2) = true := by decide
theorem test_queueConfig : after (.queueConfigWrite 0 false 0xFFFFFFFFFFFFFFFF#64) (queued {}) (fun t => (t.queue 0).base == 0x01FFFFFFFFFFFFC0#64) = true := by
  decide
/-- The high half of a queue register turns the queue on, unless its owner has 64 on (21 R319). -/
def owned (n : Nat) : State := { queued {} with queues := (List.range n).map fun k => (k + 1, { en := true, owner := 3 }) }
theorem test_queueHigh : List.all [(63, true, false), (64, false, true)] (fun p => after (.queueConfigWrite 0 true 0x8003000200000005#64) (owned p.1) fun t =>
    (t.queue 0).en == p.2.1 && (t.queue 0).err == p.2.2 && (t.queue 0).owner == 3 && (t.queue 0).lsize == 5 && (t.queue 0).vector == 2) = true := by
  decide +kernel
theorem wit_QueueWrites_high : (let v : Word := 0x8003000200000005#64
    v.getLsbD 63 = true ∧ v.bits 56 48 = 3 ∧ (0x0003000200000005#64 : Word).getLsbD 63 = false ∧ ((owned 64).queue 0).en = false ∧
      (∀ n ∈ [63, 64], ((owned n).queues.filter fun p => p.2.en && p.2.owner == 3).length = n) ∧ ((queued { en := true }).queue 0).en = true ∧
      (([0x0180000000000001#64, 0x0181000000000001#64] : List Word).map fun v => v.bits 56 48) = [384, 385]) := by decide +kernel
theorem test_abort : after (.abortWrite 0 1#32) (queued { en := true }) (fun t => (t.queue 0).aborted) = true := by decide
theorem test_flr : after (.functionLevelReset 3) (queued { en := true, owner := 3 }) (fun t => (t.queue 0).aborted && !(t.queue 0).en) = true := by decide
theorem test_recorder : after (.recorderConfigWrite 0 false 0x8050000000000100#64) (queued {}) (fun t => (t.recorder 0).en && (t.recorder 0).lsize == 5 &&
    (t.recorder 0).base == 0x100) = true := by decide
/-- The HDM decoder exposes 4 KiB from 0. -/
def exposed : State := { queued {} with regs := { State.reset.regs with hdmSize := 4096 } }
theorem test_cxl : List.all [(0x40, true), (0xFFF, true), (0x1000, false)] (fun p =>
    after (.cxlMemAccess true p.1 [7#8]) exposed (fun t => memByte t.mem p.1 == 7#8) == p.2) = true := by decide

theorem wit_QueueWrites : (queued {}).boot.mode = 1 ∧ ((queued {}).queue 0).en = false ∧ ((queued { en := true }).queue 0).en = true ∧
    (let x := (queued { en := true, tail := 1#32 }).queue 0
     x.aborted = false ∧ x.err = false ∧ (2#32 - x.tail).toNat = 1 ∧ (2 ^ x.lsize : Nat) - (x.tail - x.head).toNat = 1 ∧ 1 < (3#32 - x.tail).toNat) ∧
    [7#8] ≠ [] ∧ hdmCovers exposed 0xFFF [7#8].length = true ∧ hdmCovers exposed 0x1000 [7#8].length = false := by decide

theorem test_fqresp : List.all [(5, 0, false), (2 ^ 32 + 5, 1, true)] (fun p => (let f : FaultRec := {
      id := 5
      va := 0#64
      pa := 0
      fn := 0
      level := 0
      kind := 0
      need := 1#3
      cycle := 0
      written := true
      waiters := [(.strand 0 .s, 0#64)] }
    after (.fqrespWrite (BitVec.ofNat 64 p.1)) { queued {} with faults := [f] } fun t => t.faults.length == p.2.1 && t.faults.all fun g => g.unres == p.2.2)) =
    true := by decide
theorem test_fcmd : after (.fcmdWrite 0x8000000000000010#64) (queued {}) (fun t => t.regs.fcmdGo && t.regs.fcmdCount == 1) = true := by decide
theorem test_fcmd_done : after .frameFormatComplete { queued {} with regs := { State.reset.regs with fcmdGo := true, fcmdFrame := 1 }, mem := [(0x1004, 7#8)] }
    (fun t => memByte t.mem 0x1004 == 0#8 && !t.regs.fcmdGo) = true := by decide +kernel
theorem test_xrRoot : after (.xrRootWrite 0 true 5#64) (queued {}) (fun t => (t.tenant 0).xr2 == 0#64) = true := by decide
theorem test_stagecfg : List.all [(0, 3), (1, 0)] (fun p => after (.stagecfgWrite 0x0030000000000000#64) { queued {} with stagingUsed := p.1 } fun t =>
    t.regs.stageBlocks == p.2) = true := by decide
theorem test_preempt : after (.preemptWrite 0x8000000000000000#64) { queued {} with regs := { State.reset.regs with saveCount := 1 } } (fun t =>
    t.myCrew.mark == some false && t.myCrew.markKept) = true := by decide

theorem wit_ManagementWrites : (freeArea { queued {} with regs := { State.reset.regs with saveCount := 1 } }).isSome = true ∧
    poolFull { queued {} with regs := { State.reset.regs with saveCount := 1 } } = false ∧ ((queued {}).crew 0).ctx.isSome = true ∧
    (queued {}).regs.fcmdGo = false ∧ (queued {}).stagingUsed = 0 ∧ (0x8000000000000010#64 : Word).getLsbD 63 = true ∧
    decide (2 ≤ Word.bits 0x8000000000000010#64 62 61) = false ∧ 2 ≤ Word.bits 0xC000000000000010#64 62 61 := by decide
/-- An answer that names a record, one that names none. -/
theorem wit_ManagementWrites_answer : (let f : FaultRec := {
      id := 5
      va := 0#64
      pa := 0
      fn := 0
      level := 0
      kind := 0
      need := 1#3
      cycle := 0
      written := true
      waiters := [] }
    ([5, 6].map fun n => ({ queued {} with faults := [f] } : State).faults.find? fun g => g.id == n && g.written && !g.unres) = [some f, none]) := by decide

/-! ## Power, counters, boot and attestation -/

theorem test_rowcap : List.all [(0#16, 800), (1000#16, 1000), (0xFFFF#16, 2000)] (fun p => after (.rowcapWrite p.1) (queued {}) fun t =>
    t.power.rowcap == p.2) = true := by decide
theorem test_pwrcfg : after (.pwrcfgWrite 0x0007000000100001#64) (queued {}) (fun t => t.power.vector == 7 && t.power.rampwNew == some 256 &&
    t.power.rampw == 256 && t.power.cap == 800) = true := by decide
/-- The row step over the cap, at it, at cap - hyst and below; the thermal step at the trip temperature of 105 °C,
below it, at the warning of 95 °C, below it, 5 °C below it and lower (27 R398). -/
def warm : Power := { State.reset.power with row := 3, th0 := 3 }
theorem test_power_row : ([2001, 2000, 1980, 1979].map fun p => (warm.next 0 p 0 0).row) = [4, 3, 3, 2] := by decide
theorem test_power_therm : ([1680, 1679, 1520, 1519, 1440, 1439].map fun t => ((warm.next 0 0 t 0).th0, (warm.next 0 0 t 0).trip0)) =
    [(15, true), (4, false), (4, false), (3, false), (3, false), (2, false)] := by decide
theorem test_counter : after (.counterBankWrite 384 15 9#64) (queued {}) (fun t => (t.tenant 384).counters.get 15 == 9#64) = true := by decide
theorem test_telesnap : after (.telesnap 0x8000000000000040#64) (queued {}) (fun t => t.regs.snapGo && t.regs.snapAddr == 64) = true := by decide
theorem test_telesnap_done : after .telesnapComplete { queued {} with regs := { State.reset.regs with snapGo := true, snapCycle := 0x1234 } } (fun t =>
    memBytes t.mem (hostKey 0) 2 == [0x34#8, 0x12#8] && !t.regs.snapGo) = true := by decide +kernel

theorem wit_PowerAndCounters : ({ queued {} with cycle := 65536 } : State).nextPower ≤ 65536 ∧ (0x8000000000000040#64 : Word).getLsbD 63 = true ∧
    decide (Word.bits 0x8000000000000040#64 51 6 * 64 + snapSize ≤ 2 ^ 52) = true ∧
    decide (Word.bits 0x800FFFFFFFFFFFC0#64 51 6 * 64 + snapSize ≤ 2 ^ 52) = false := by decide

theorem wit_PowerAndCounters_run : (let s : State := { queued {} with regs := { State.reset.regs with snapGo := true } }
    s.boot.mode = 1 ∧ s.regs.snapGo = true) ∧ (queued {}).regs.snapGo = false := by decide

theorem test_bootclr : after (.bootclr 0x5A#64) (queued {}) (fun t => t.boot.entries == List.replicate 10 {} && t.boot.seq == 1) = true := by decide +kernel
theorem test_bootctl : after (.bootctl 1#64) { queued {} with cycle := 77 } (fun t => t.boot.mode == 0 && t.cycle == 77 && (t.crew 0).ctx.isNone) = true := by
  decide
theorem test_fwsvn : after (.fwsvn 0xA5#64) { queued {} with boot := { State.reset.boot with mode := 1, svnFused := 2, svnRun := 3 } } (fun t =>
    t.boot.svnFused == 3) = true := by decide
theorem test_attctl : List.all [(true, 1, false), (false, 0, true)] (fun p => after (.attctlGo true) { queued {} with
    boot := { State.reset.boot with mode := 1, attGo := p.1 } } fun t => t.boot.attStatus == p.2.1 && ((t.boot.leaf == 1) == p.2.2)) = true := by decide
theorem test_registers_locked : after (.registerWrite .gwtbase 0x1000#64) { queued {} with boot := { State.reset.boot with mode := 2 } } (fun t =>
    t.regs.gwtBase == 0) = true := by decide
theorem test_attaddr : after (.registerWrite .attaddr 0x1000#64) State.reset (fun t => t.boot.attAddr == 0x1000#64) = true := by decide

theorem wit_BootAndAttestation_start : State.reset.boot.mode = 0 ∧ State.reset.boot.load.entries = List.replicate 10 {} := by decide +kernel

theorem wit_BootAndAttestation : State.reset.boot.mode = 0 ∧ (queued {}).boot.mode = 1 ∧ (queued {}).boot.attGo = false ∧
    (queued {}).boot.attAddr.toNat % 2048 = 0 ∧ (queued {}).boot.attAddr.toNat + 2048 ≤ 2 ^ 52 ∧ (queued {}).boot.leaf < lmsLeaves ∧
    HostReg.gwtbase ≠ .attaddr ∧ (∀ j, HostReg.gwtbase ≠ .attnonce j) := by
  refine ⟨by decide, by decide, by decide, by decide, by decide, by decide, by decide, ?_⟩
  intro j h
  cases h

theorem wit_BootAndAttestation_modes : State.reset.boot.mode ≠ 1 ∧ State.reset.boot.mode ≠ 2 ∧
    ({ queued {} with boot := { State.reset.boot with mode := 2 } } : State).boot.mode = 2 := by decide

/-! ## Launches and scheduling -/

/-- Page 0 is cached for the I/O die: a record at 0 with its configuration at 0x100, its graph header at 0x400, one
node at 0x7C0 and the group table at 0x800. -/
def launching : State :=
  let s := paged .s (regsOf []) [(0x100001, 1#8), (0x100009, 4#8), (0x100400, 0xC0#8), (0x100401, 7#8), (0x100419, 8#8), (0x100420, 1#8)]
  { (s.setCu 96 { s.cu 96 with tlb := (s.cu 0).tlb }) with queues := [(0, { en := true, tail := 1#32 })] }

theorem test_launchRecordRead : after (.launchRecordRead 0) launching (fun t => (t.launches.map fun l => (l.stop, l.nodes.length)) == [(none, 1)] &&
    t.pool.length == 1 && (t.queue 0).head == 1#32) = true := by decide +kernel

/-- One ready task, and a free crew. -/
def poolOf : State :=
  let n : Node := { targs := [], entries := [], succs := [], npred := 0, grps := [], gmask := 0#4, prio := 0, tiles := [] }
  { State.reset with
    launches := [{ id := 0, queue := 0, owner := 0, record := [], start := 0, nodes := [n] }]
    pool := [{ launch := 0, task := 0, tenant := 0, prio := 0, readyAt := 0 }] }

theorem test_dispatch : canDispatch poolOf = true := by decide +kernel
theorem test_preload : after (.tilePreloadComplete 0) (cdev .s { starting := true } {}) (fun t => !t.myCrew.starting && (t.myCrew.str .v).started) = true := by decide

/-- The only task of a launch, all of whose strands have exited. -/
def finished : State :=
  let s := grouped { regsOf [] with exited := true } 0
  let c := s.myCrew
  s.setMyCrew { c with sv := { c.sv with exited := true }, sm := { c.sm with exited := true }, sc := { c.sc with exited := true } }

/-- The same with its launches changed. -/
def launchesOf (f : Launch → Launch) : State := { finished with launches := finished.launches.map f }

theorem wit_Scheduling :
    nextQueue launching = some 0 ∧ launching.launches.length < 1024 ∧ poolFull launching = false ∧
    (let c := (cdev .s { starting := true } {}).crew 0
     c.ctx.isSome = true ∧ c.starting = true ∧ c.killed = none ∧ c.preloadBad = false ∧ c.ops = [] ∧ c.zeroing = false) ∧
    taskOver finished 0 = true ∧ (finished.launch 0).map (fun l => (taskRecords l, l.nodes.length)) = some (false, 2) ∧
    (launchesOf fun l => { l with flags := 4, record := [0#8] }).launches.map taskRecords = [true] ∧
    (launchesOf fun l => { l with nodes := l.nodes.map fun n => { n with st := TaskState.done } }).launches.map
      (fun l => (launchOver finished l, recordAt l, taskRecords l)) = [(true, false, false)] := by decide +kernel

/-- The queue engine reads its record, or waits for a walker; the records of the finished task can be written. -/
theorem wit_Scheduling_reads :
    (let l : Launch := { id := launching.launchSeq, queue := 0, owner := 0, record := [], start := launching.cycle }
     (match agentRead (loadAgent l) (headAddr (launching.queue 0)) 64 launching with
      | .ok (s1, bs) =>
        (match (loadLaunch s1 l bs).2 with
         | .read _ => true
         | _ => false)
      | _ => false) = true ∧
     (match agentRead (loadAgent l) (headAddr (launching.queue 0)) 64 (launching.setCu 96 { launching.cu 96 with resync := true }) with
      | .error (.wait _ _) => true
      | _ => false) = true) ∧
    (match (finished.crew 0).ctx, finished.launch 0 with
     | some x, some l =>
       (match recordsReady finished 0 l x with
        | .ok _ => true
        | _ => false)
     | _, _ => false) = true := by decide +kernel

theorem wit_Scheduling_save :
    (let s := { cdev .s { mark := some true } with regs := { State.reset.regs with saveCount := 1 } }
     canSave s 0 = true ∧ freeArea s = some 0 ∧ areaBusy s 0 = false ∧ (flushReady false s 0).toOption.isSome = true) ∧
    ((({ poolOf with cycle := 2 ^ 20 } : State).pool.any fun e => decide (e.readyAt < 2 ^ 20) && (2 ^ 20 - e.readyAt) % agingOf poolOf == 0) = true) ∧
    (65536 : Nat) ≥ State.reset.nextEpoch ∧ (1024 : Nat) ≥ State.reset.nextExam := by decide

/-- An entry of the pool. Of two, the one whose effective priority is higher ranks first. -/
def ent (task prio readyAt : Nat) : PoolEnt := { launch := 0, task, tenant := 0, prio, readyAt }
theorem wit_Scheduling_rank : (let s := { poolOf with cycle := 2 ^ 15 }
    bestOf s [ent 0 1 (2 ^ 15), ent 1 0 0] = some (ent 1 0 0) ∧ bestOf s [ent 0 3 0, ent 1 4 0] = some (ent 1 4 0) ∧
      (ent 1 0 0).readyAt ≤ s.cycle) := by decide +kernel

/-- CU 0 waits for its clock copy: what its crews would write waits too. -/
def blind (s : State) : State := s.setCu 0 { s.cu 0 with resync := true }
def waits {α : Type} (r : Res α) : Bool :=
  match r with
  | .error (.wait _ _) => true
  | _ => false
theorem wit_Scheduling_waits :
    (let s := blind { cdev .s { mark := some true } with regs := { State.reset.regs with saveCount := 1 } }
     canSave s 0 = true ∧ freeArea s = some 0 ∧ areaBusy s 0 = false ∧ waits (flushReady false s 0) = true) ∧
    taskOver (blind finished) 0 = true ∧ (match (blind finished).launch 0, ((blind finished).crew 0).ctx with
      | some l, some x =>
        (match recordsReady (blind finished) 0 l x with
         | .error _ => true
         | .ok _ => false)
      | _, _ => false) = true := by decide +kernel

theorem test_epoch : after .epochBoundary { poolOf with cycle := 65536, tenants := [(0, { tenant0 with used := 5 })] } (fun t => (t.tenant 0).used == 0 &&
    t.nextEpoch == 131072) = true := by decide

/-! ## Accounts and errors -/

/-- A record that has left the cache of strand s. -/
def evicted (n : Nat) : AccRec := { strand := 0, acc := { pc := 0x10#64, cause := 0, count := n } }

theorem test_mem_error : after (.uncorrectableError (.access 0) 0 0 0x40#64) (dev .s (regsOf [])) (fun t => t.myCrew.killed == some 0x21 && t.errs.length == 1) =
    true := by decide
theorem test_corrected : List.all [(false, 0), (true, 1)] (fun p => after (.correctedSoftError 0 0 0x40#64 p.1) (dev .s (regsOf [])) fun t =>
    t.errs.length == p.2) = true := by decide
theorem test_zeroing : after (.zeroingComplete (.crew 0)) (cdev .s { zeroing := true }) (fun t => !t.myCrew.zeroing) = true := by decide
theorem test_eviction : after (.accountRecordEviction 0) (cdev .s { evicted := [evicted 5] }) (fun t => t.myCrew.evicted.isEmpty && t.myCrew.recCount == 1) =
    true := by decide

theorem wit_AccountsAndErrors : ((cdev .s { evicted := [evicted 5] }).crew 0).evicted = [evicted 5] ∧ (evicted 5).acc.count < accMax ∧
    accMax ≤ (evicted accMax).acc.count ∧ ((dev .s (regsOf [])).crew 0).ctx.isSome = true ∧ ((cdev .s { zeroing := true }).crew 0).zeroing = true ∧
    (((dev .s (regsOf [])).setCu 0 { lease := some { crew := 0, zeroing := true } }).cu 0).lease = some { crew := 0, zeroing := true } ∧
    5 ∈ (((dev .s (regsOf [])).setCu 0 { zeroSegs := [5] }).cu 0).zeroSegs := by decide

/-- Data lost by a started instruction: it writes nothing, and its context is killed. -/
theorem test_mem_error_started : after (.uncorrectableError (.started 0 4) 2 0 0x40#64) (cdev .v { inflight := [writing] }) (fun t =>
    t.myCrew.killed == some 0x21 && t.myCrew.inflight.all fun o => o.rows.isEmpty) = true := by decide +kernel
/-- A walk on which a context and a card wait, or a card alone: one record, and both are undone. -/
theorem test_mem_error_walk : List.all [[0], []] (fun l => after (.uncorrectableError (.walk l [0]) 0 0 0x40#64) (carded none) fun t =>
    t.cards.isEmpty && t.errs.length == 1 && t.myCrew.killed == some 0x21) = true := by decide +kernel
theorem wit_AccountsAndErrors_consumers : ((cdev .v { inflight := [writing] }).myCrew.inflight.any fun o => o.id == 4) = true ∧
    ((oped cpy32).myCrew.ops.any fun o => o.id == 0) = true ∧ ((carded none).cards.find? fun k => k.id = 0).isSome = true ∧
    waits (acctReady false (blind (cdev .s { evicted := [evicted 5] })) 0 1) = true ∧
    (let s := cdev .s { evicted := [evicted 5] }
     match acctReady false s 0 1 with
     | .ok s1 => (writeRec 0 (s1.setCrew 0 { s1.crew 0 with evicted := (s1.crew 0).evicted.drop 1 }) (evicted 5)).toOption.isSome
     | .error _ => false) = true ∧
    ((carded none).cards.find? fun k => [0].contains k.id).isSome = true ∧
    goes (.uncorrectableError (.walk [0] []) 0 0 0x40#64) (dev .s (regsOf [])) = true ∧ goes (.uncorrectableError (.card 0) 0 0 0x40#64) (carded none) = true := by
  decide +kernel

/-! ## The order of checks, and whole steps -/

/-- A vector strand may not execute a load; the copy engine has yet to write s1; the predicate is false; only posts
are left. -/
theorem wit_CheckOrder : StrandKind.v ∉ strandKinds (.ldd 1 2 0) ∧
    interlock (cdev .c { ops := [{ copyOp with opc := 6, fields := c8 }] }) (.add 0 1 2 3) = some qMem ∧
    interlock arith (.add 8 1 2 3) = none ∧ arith.me.predHolds 8 = false ∧ strandKinds (.vmov e0 (rr 0 0)) = [.v] ∧
    ({ regsOf [] with owed := true } : Strand).owed = true ∧ (cdev .s {}).myCrew.canPost .s 7 = true ∧
    (cdev .s (tokens 15 15)).myCrew.canPost .s 7 = false ∧ Released arith ∧ ¬Released (far .s arith) ∧
    predWait arith 8 = none ∧ predWait (cdev .c { ops := [{ copyOp with opc := 6, fields := cP }] }) 1 = some qMem := by
  unfold Released; decide

/-- Fetched and run as the first instruction after reset, with nothing due: addi s5, s6, 16 (a worked encoding of 09).
-/
theorem test_step_addi : (match step (State.reset.withFetchWord 32 0x08A60010) with
    | .next t => t.me.reg 5 == 16#64 && t.cycle == 0
    | _ => false) = true := by decide +kernel

/-- A turn: nothing is due, the strand in focus has its turn, and its words come from memory or from a patch. -/
theorem wit_StepRunsDecoded :
    (let s := State.reset.withFetchWord 32 0x08A60010
     dueNow s = none ∧ settleDue s = none ∧ agendaNow s = none ∧ hasTurn s.myCrew s.cur.2 = true ∧ s.me.rest = none ∧ lostLate s.me = none ∧ lstopAt s.me = none ∧ s.me.latch = none ∧
       (match fetchWords s s.me.pc with
         | .ok p => p.2.headD 0#32 == 0x08A60010#32
         | .error _ => false) = true) := by decide +kernel

theorem wit_DecodeEncode : reads (0x08A60010#32, 0#32, .addi 5 6 16) = true ∧ isLong 0x08A60010#32 = false ∧
    reads (0xA0000400#32, 0x00040008#32, .vadd { p := 0, wait := 0, post := 0, noknead := 0, cls := 0 }
      { dst := 0x100, f := 0, e := 0, src1 := 0x200, x := 1, ty := 0 }) = true := by decide

theorem wit_MemoryWfKept : Memory.wf loads.mem = true ∧ Memory.wf ringCells = true ∧ Memory.wf fabricCells = true := by decide

/-- The tuples of the round trip: an instruction that is a word and well formed. -/
theorem wit_RoundTrip : (Instr.addi 5 6 16).wf = true ∧ (Instr.addi 5 6 16).isWord = true ∧ (Instr.kneadGroupIssue 0).isWord = false := by decide

end Sys2Proof.Tests
end

section
/-! The canonical form of memory (01 R10, 03 R50) is kept by every step: the lookahead of the Knead stage, a strand's
turn, an act of the agenda and the end of a cycle, on top of `exec_formed` and the laws of Form.lean. -/
namespace Sys2Proof.Machine

/-! ## The lookahead and matching of a Knead group (18 R286 to R288) -/

/-- The state in which a lookahead leaves the window open has the form. -/
def LookFormed : LookAns → Prop
  | .open_ t => Formed t
  | _ => True

/-- The state in which a window is open has the form. -/
def WinEndFormed : WinEnd → Prop
  | .open_ t => Formed t
  | .closed => True

/-- The state in which the head of a window waits has the form. -/
def KneadFormed : KneadAns → Prop
  | .wait t => Formed t
  | _ => True

theorem lookRead_formed (s : State) (t : Tlb) (pc : Word) (hs : Formed s) : LookFormed (lookRead s t pc) := by
  unfold lookRead
  split
  · next hp => exact StopRes.of_eq hp (pagePlaces_formed _ s t pc 4 false hs)
  · trivial
  · next ps _ =>
    have hb := agentBytes_formed (lookAgent s) s pc ps false hs
    split
    · trivial
    · next he =>
      rw [he] at hb
      exact hb
    · trivial

theorem lookWord_formed (s : State) (pc : Word) (hs : Formed s) : LookFormed (lookWord s pc) := by
  have ha := agentAnswer_formed (lookAgent s) pc 4#3 qFetch _
    (xlate_formed s (lookAgent s).cu (lookAgent s).fn (pc.toNat % 2 ^ 57) 4#3 0 hs)
  unfold lookWord
  dsimp only
  split
  · trivial
  · split
    · split
      · trivial
      · exact hs
    · split
      · exact hs
      · split
        · next he =>
          rw [he] at ha
          exact lookRead_formed _ _ _ ha
        · next he =>
          rw [he] at ha
          exact ha
        · trivial

theorem windowFrom_formed (s : State) (n : Nat) (pc : Word) (hs : Formed s) : WinEndFormed (windowFrom s n pc).2 := by
  induction n generalizing pc with
  | zero => trivial
  | succ n ih =>
    have h0 := lookWord_formed s pc hs
    rw [windowFrom]
    split
    · trivial
    · next he =>
      rw [he] at h0
      exact h0
    · next w0 _ =>
      have h1 : LookFormed (if isLong w0 then lookWord s (pc + 4#64) else .word 0#32) := by
        split
        · exact lookWord_formed s _ hs
        · trivial
      split
      · trivial
      · next he =>
        rw [he] at h1
        exact h1
      · dsimp only
        split
        · trivial
        · exact ih _

theorem windowOf_formed (s : State) (head : List W32) (hs : Formed s) : WinEndFormed (windowOf s head).2 := by
  unfold windowOf
  dsimp only
  split
  · trivial
  · exact windowFrom_formed s 7 _ hs

theorem firstMatch_formed (x : Strand) (kperm : BitVec 4) (mx : Bool) (win : List WinItem) (fin : WinEnd) (s : State)
    (left k : Nat) (hf : WinEndFormed fin) (hs : Formed s) : KneadFormed (firstMatch x kperm mx win fin s left k) := by
  induction left generalizing k with
  | zero => trivial
  | succ left ih =>
    unfold firstMatch
    split
    · trivial
    · cases fin with
      | closed => exact hs
      | open_ t => exact hf
    · exact ih _

theorem kneadAt_formed (s : State) (head : List W32) (hs : Formed s) : KneadFormed (kneadAt s head) := by
  have hd := dropLook_formed s hs
  have hw := windowOf_formed (dropLook s) head hd
  unfold kneadAt
  dsimp only
  split
  · trivial
  · split
    · trivial
    · -- The number of entries tried does not matter; left as 64, the search would be unfolded in full.
      generalize windowOf (dropLook s) head = w at hw ⊢
      generalize 64 = left
      exact firstMatch_formed _ _ _ _ _ _ _ _ hw hd

/-! ## A strand's turn -/

theorem issueWords_formed (s : State) (ws : List W32) (hs : Formed s) : OutFormed (issueWords s ws) := by
  have hk := kneadAt_formed s ws hs
  unfold issueWords
  split
  · next he =>
    rw [he] at hk
    exact holdMe_formed _ _ hk
  · exact exec_formed _ s hs
  · exact exec_formed _ s hs

theorem fetchDone_formed (s0 : State) (ps : List Place) (o : Outcome) (ho : OutFormed o) :
    OutFormed (fetchDone s0 ps o) := by
  cases o with
  | next t => exact formed_ite ho (countPlaces_formed _ _ _ _ (dropAsked_formed _ _ (dropAsked_formed _ _ ho)))
  | fault f => trivial
  | refused r => trivial

/-- Whatever a fetch comes to, the strand's turn goes on in a state that has the form. -/
theorem strandTurn_formed (s : State) (hs : Formed s) : OutFormed (strandTurn s) := by
  unfold strandTurn
  split
  · exact fetchDone_formed _ _ _ (exec_formed _ s hs)
  · exact lostTrap_formed s _ hs
  · split
    · exact lstopTrap_formed s _ hs
    · have hf := fetchNow_formed s hs
      split <;> rename_i he <;> rw [he] at hf
      · exact fetchDone_formed _ _ _ (issueWords_formed _ _ hf)
      · exact exec_formed _ s hs
      · exact exec_formed _ _ hf
      · exact holdMe_formed _ _ hf
      · trivial

/-! ## The agenda and the end of a cycle -/

theorem agendaNow_formed (s : State) (a : Act) (t : State) (h : agendaNow s = some (a, t)) (hs : Formed s) :
    Formed t := by
  unfold agendaNow at h
  split at h
  · split at h
    · cases h
      exact hs
    · cases h
  · cases h

theorem agendaAct_formed (a : Act) (s : State) (hs : Formed s) : OutFormed (agendaAct a s) := by
  cases a with
  | strand n k =>
    simp only [agendaAct]
    split
    · exact strandTurn_formed { s with cur := (n, k) } hs
    · exact hs
  | event i =>
    simp only [agendaAct]
    split
    · split
      · exact hs
      · exact exec_formed i s hs
    · exact hs

theorem endOfCycle_formed (s : State) (hs : Formed s) : OutFormed (endOfCycle s) := by
  unfold endOfCycle
  split
  · exact exec_formed _ s hs
  · exact newCycle_formed s hs

/-! ## One step -/

theorem nextFresh_formed (i : Instr) (o : Outcome) (ho : OutFormed o) : OutFormed (nextFresh i o) := by
  cases o with
  | next t =>
    simp only [nextFresh]
    split <;> exact ho
  | fault f => trivial
  | refused r => trivial

/-- One step keeps the form: whatever it takes next, an event that is due, a change that is due, a turn of the agenda
or of a strand, the next strand or the end of the cycle. -/
theorem step_formed (s : State) (hs : Formed s) : OutFormed (step s) := by
  unfold step takeStep
  split
  · exact nextFresh_formed _ _ (exec_formed _ s hs)
  · have hd := settleDue_formed s hs
    split
    · next he =>
      rw [he] at hd
      exact hd
    · split
      · next he => exact agendaAct_formed _ _ (agendaNow_formed _ _ _ he hs)
      · split
        · exact strandTurn_formed s hs
        · split
          · exact hs
          · exact endOfCycle_formed s hs

/-- Settles O57: `step_formed`, read for a step that answers a next state. -/
theorem memoryWfKept : Obligations.MemoryWfKept := by
  intro s t hs hst
  have h := step_formed s hs
  rw [hst] at h
  exact h

/-- Settles O58: after reset no cell is listed. -/
theorem resetMemoryWf : Obligations.ResetMemoryWf := wf_nil

end Sys2Proof.Machine
end

section
/-! What reset leaves (02 R25, 07 R117, 21 R332): a fresh crew has EMPTY operands, zero counters and fresh strands. -/
namespace Sys2Proof.Machine

/-- At reset only tenant 0 is listed: every other has the default configuration. -/
theorem reset_tenant_of_pos {n : Nat} (h : 0 < n) : State.reset.tenant n = {} := by
  show sget {} [(0, tenant0)] n = {}
  rw [sget, if_neg (Nat.ne_of_lt h), sget]

/-- Every operand of a fresh crew is EMPTY. -/
theorem feOf_default (i : Nat) : ({} : Crew).feOf i = .empty := by
  simp [Crew.feOf, -List.reduceReplicate, List.getElem?_replicate, apply_ite (Option.getD · Fe.empty)]

/-- Every token counter of a fresh crew is 0. -/
theorem tok_default (i : Nat) : ({} : Crew).tok i = 0 := by
  simp [Crew.tok, -List.reduceReplicate, List.getElem?_replicate, apply_ite (Option.getD · 0)]

/-- Every strand of a fresh crew is a fresh strand. -/
theorem str_default (k : StrandKind) : ({} : Crew).str k = {} := by
  cases k <;> rfl

/-- Settles O59: the registers and the other units by evaluation, the operands, counters and strands of a crew by the
lemmas about a fresh crew. -/
theorem resetValues : Obligations.ResetValues := by
  refine ⟨rfl, rfl, rfl, rfl, rfl, rfl, rfl, rfl, rfl, rfl, rfl, rfl, rfl, rfl, rfl, rfl, rfl, rfl, rfl, rfl, rfl,
    ?_, ?_, ?_, ?_⟩
  · intro n h
    rw [reset_tenant_of_pos h]
    exact ⟨rfl, rfl, rfl⟩
  · exact fun q => ⟨rfl, rfl, rfl, rfl⟩
  · exact fun n => ⟨rfl, rfl, rfl⟩
  · intro n
    refine ⟨feOf_default, tok_default, rfl, fun k => ?_⟩
    show (({} : Crew).str k).level = 0 ∧ (({} : Crew).str k).counters = _
    rw [str_default]
    exact ⟨rfl, rfl⟩

end Sys2Proof.Machine
end

section
/-! The events of strands (02 R37; 04 R74; 10 R171; 14 R275; 23 R361): asynchronous causes by their precedence, and the ends
of the waits of waitt and jwait. -/
namespace Sys2Proof.Machine

/-! ## The strand that a fetch leaves in focus -/

/-- An agent that has every answer it asked for is in the state it was in. -/
theorem askRemote_state {a : Agent} {s s1 : State} {reqs : List (Ask × Word)} {bss : List (List Byte)}
    (h : askRemote a s reqs = .ok (s1, bss)) : s1 = s := by
  unfold askRemote at h
  dsimp only at h
  split at h
  · cases h
  · split at h
    · cases h
    · split at h
      · split at h <;> cases h
      · split at h <;> cases h
        rfl

/-- Bytes that an agent has read leave the state as it was. -/
theorem agentBytes_state {a : Agent} {s s1 : State} {p : Word} {ps : List Place} {w : Bool} {bs : List Byte}
    (h : agentBytes a s p ps w = .ok (s1, bs)) : s1 = s := by
  unfold agentBytes at h
  split at h
  · cases h
    rfl
  · split at h
    · cases h
    · next heq =>
      cases h
      exact askRemote_state heq

/-- A fetched word leaves memory, the crews and the strand in focus. -/
theorem fetchWord_keeps {s s1 : State} {pc : Word} {w : W32} (h : fetchWord s pc = .ok (s1, w)) : SameCrews s s1 := by
  unfold fetchWord at h
  split at h
  · cases h
  · split at h
    · cases h
    · next hp =>
      split at h
      · cases h
      · cases h
      · next hb =>
        cases h
        rw [agentBytes_state hb]
        exact agentPlaces_keeps rfl _ hp

/-- Fetched words leave memory, the crews and the strand in focus. -/
theorem fetchWords_keeps {s s1 : State} {pc : Word} {ws : List W32} (h : fetchWords s pc = .ok (s1, ws)) : SameCrews s s1 := by
  unfold fetchWords at h
  split at h
  · cases h
  · next h0 =>
    split at h
    · split at h
      · cases h
      · next h1 =>
        cases h
        exact (fetchWord_keeps h0).trans (fetchWord_keeps h1)
    · cases h
      exact fetchWord_keeps h0

/-- The strand that waits is in focus. -/
theorem waitingAt_cur {s s1 : State} {crew q : Nat} {k : StrandKind} {i : Instr} (h : waitingAt s crew k q = some (s1, i)) :
    s1.cur = (crew, k) := by
  unfold waitingAt at h
  dsimp only at h
  split at h
  · cases h
  · split at h
    · cases h
      rfl
    · split at h
      · next hf =>
        cases h
        obtain ⟨-, -, hcur, -⟩ := fetchWords_keeps hf
        exact hcur
      · cases h

/-! ## Asynchronous causes -/

/-- A fetch slot is charged FETCH, or TRAP above level 0. -/
theorem effCause_fetch (level : Nat) : effCause level qFetch = if 0 < level then qTrap else qFetch := by
  simp [effCause, qFetch, qIdle, qDesched]

/-- The event takes the cause that is next. -/
theorem asyncTrapEntry_takes {s : State} {crew : Nat} {k : StrandKind} {a : AsyncCause} (h : asyncNext (s.crew crew) k = some a) :
    exec (.asyncTrapEntry crew k) s = .next (takeTrap
      (s.setCrew crew (a.deliver (s.crew crew) k (((s.crew crew).str k).level + 1))) crew k a.report.1 a.report.2.1 a.report.2.2
      ((s.crew crew).str k).pc) := by
  show execAsyncTrapEntry crew k s = _
  unfold execAsyncTrapEntry
  dsimp only
  rw [h]

/-- The copy strand reports a held operation first. -/
theorem asyncNext_held {c : Crew} {op : Nat} {h : Hold} (hb : atBoundary c .c = true) (hl : (c.str .c).level ≤ 1)
    (hh : heldOp c = some (op, h)) : asyncNext c .c = some (.held op h) := by
  simp [asyncNext, hb, hl, hh]

/-- Without a held operation the copy strand reports its first conflict. -/
theorem asyncNext_conflict {c : Crew} {v : Word} {rest : List Word} (hb : atBoundary c .c = true) (hl : (c.str .c).level ≤ 1)
    (hh : heldOp c = none) (hp : (c.str .c).pend.conflict = v :: rest) : asyncNext c .c = some (.conflict v) := by
  simp [asyncNext, hb, hl, hh, hp]

/-- The scalar strand reports its first overrun. -/
theorem asyncNext_overrun {c : Crew} {v : Word} {rest : List Word} (hb : atBoundary c .s = true) (hl : (c.str .s).level = 0)
    (hp : (c.str .s).pend.overrun = v :: rest) : asyncNext c .s = some (.overrun v) := by
  simp [asyncNext, hb, hl, hp]

/-- Without an overrun the scalar strand reports its first skew. -/
theorem asyncNext_skew {c : Crew} {v : Word} {rest : List Word} (hb : atBoundary c .s = true) (hl : (c.str .s).level = 0)
    (ho : (c.str .s).pend.overrun = []) (hp : (c.str .s).pend.skew = v :: rest) : asyncNext c .s = some (.skew v) := by
  simp [asyncNext, hb, hl, ho, hp]

/-! ## The ends of two waits -/

/-- Where every promise not later than v is acquired or done, waitt on a cycle that has come goes on with them acquired. -/
theorem waittBody_goes {s : State} {v : Word} (hv : v.toNat ≤ s.cuCycle (cuOf s.cur.1))
    (hp : ∀ q ∈ s.myCrew.promises, q.cycle.toNat ≤ v.toNat → q.acquired = true ∨ q.done = true) :
    waittBody v s = .ok (s.setMyCrew (acquirePromises s.myCrew v), none) := by
  have hk : promisesKept s.myCrew v = true := by
    rw [promisesKept, List.all_eq_true]
    intro q hq
    by_cases hc : q.cycle.toNat ≤ v.toNat
    · rcases hp q hq hc with h | h <;> simp [h]
    · simp [hc]
  unfold waittBody
  rw [if_neg (by omega), if_pos hk]

/-- The event wakes a waitt on a cycle that has come. -/
theorem waittWake_goes {s s1 : State} {crew : Nat} {k : StrandKind} {p : BitVec 4} {sa : BitVec 5}
    (hw : waitingAt s crew k qSleep = some (s1, .waitt p sa)) (hi : Issues s1 (.waitt p sa))
    (hc : (s1.me.reg sa).toNat ≤ s1.cuCycle (cuOf crew))
    (hp : ∀ q ∈ s1.myCrew.promises, q.cycle.toNat ≤ (s1.me.reg sa).toNat → q.acquired = true ∨ q.done = true) :
    exec (.waittWake crew k (s1.me.reg sa)) s =
      .next (retire (.waitt p sa) (s1.setMyCrew (acquirePromises s1.myCrew (s1.me.reg sa)))) := by
  have hcur : s1.cur.1 = crew := by rw [waitingAt_cur hw]
  show execWaittWake crew k (s1.me.reg sa) s = _
  unfold execWaittWake
  rw [hw]
  dsimp only
  rw [if_pos ⟨rfl, hc⟩]
  unfold execWaitt
  rw [issue_finishes (ks := anyKind) (p := p) false hi rfl rfl, waittBody_goes (by rwa [hcur]) hp, finish_retire]

/-- A jwait whose deadline has come answers, its chain not past n positions. -/
theorem jwaitBody_deadline {s1 s2 s3 : State} {f : CpFields} {h h2 : Hdr} (hj : s1.journalHeld = [])
    (hh : readHeader s1 (s1.me.reg f.sn) = .ok (s2, h)) (hn : h.chained ≤ (s1.me.regN (f.sn.toNat + 1)).toNat)
    (hc : chainOn (strandJournal s2 (s1.me.reg f.sn)) (h.capacity + 1) h s2 = .ok (s3, h2))
    (hd : (s1.me.regN (f.sn.toNat + 2)).toNat ≠ 2 ^ 64 - 1)
    (hu : (s1.me.regN (f.sn.toNat + 2)).toNat ≤ (dropAsked s3 (.strand s2.cur.1 s2.cur.2)).cuCycle
      (cuOf (dropAsked s3 (.strand s2.cur.1 s2.cur.2)).cur.1)) :
    jwaitBody f s1 = .ok ((dropAsked s3 (.strand s2.cur.1 s2.cur.2)).setMe
      (((dropAsked s3 (.strand s2.cur.1 s2.cur.2)).me.setReg f.sd (BitVec.ofNat 64 h2.chained)).setPred f.pd
        (decide ((s1.me.regN (f.sn.toNat + 1)).toNat < h2.chained)))) := by
  have hr : retryAll s1 = s1 := if_pos (.inl hj)
  unfold jwaitBody
  dsimp only
  rw [hr, hh]
  dsimp only
  rw [if_neg (by omega), hc]
  exact if_pos (.inr ⟨hd, hu⟩)

/-- The event of the deadline runs the jwait. -/
theorem jwaitDeadline_runs {s s1 s2 : State} {crew : Nat} {e : Eng} {f : CpFields} {h : Hdr}
    (hw : waitingAt s crew .c qColl = some (s1, .jwait e f)) (hh : readHeader s1 (s1.me.reg f.sn) = .ok (s2, h))
    (hn : h.chained ≤ (s1.me.regN (f.sn.toNat + 1)).toNat)
    (hc : (s1.me.regN (f.sn.toNat + 2)).toNat ≤ s1.cuCycle (cuOf crew)) :
    exec (.jwaitDeadline crew f.sd f.pd h.chained) s = exec (.jwait e f) s1 := by
  show execJwaitDeadline crew f.sd f.pd h.chained s = execJwait e f s1
  unfold execJwaitDeadline
  rw [hw]
  dsimp only
  rw [hh]
  exact if_pos ⟨rfl, rfl, hc, hn, by simp⟩

/-- Settles O36: each event by the lemma of its cause or its wait above. -/
theorem strandEvents : Obligations.StrandEvents := by
  intro s crew k w0 w1 cause v
  dsimp only
  refine ⟨rfl, ?_, ?_, ?_, ?_, ?_, ?_, ?_, ?_⟩
  · rw [← effCause_fetch]
    rfl
  · rintro id h hb rfl hl hh
    exact asyncTrapEntry_takes (asyncNext_held hb hl hh)
  · rintro rest hb rfl hl hh hp
    rw [asyncTrapEntry_takes (asyncNext_conflict hb hl hh hp), AsyncCause.deliver, hp]
    rfl
  · rintro rest hb rfl hl hp
    rw [asyncTrapEntry_takes (asyncNext_overrun hb hl hp), AsyncCause.deliver, hp]
    rfl
  · rintro rest hb rfl hl ho hp
    rw [asyncTrapEntry_takes (asyncNext_skew hb hl ho hp), AsyncCause.deliver, hp]
    rfl
  · intro hx hk hs he hw
    refine if_pos ?_
    simp [watchdogOut, hx, hk, hs, he, hw]
  · rintro s1 p sa hw hi rfl hc hp
    exact waittWake_goes hw hi hc hp
  · rintro s1 s2 s3 e f h h2 n hw hi hm hroom hj hh rfl hn hc hd hdc hdu
    refine ⟨jwaitDeadline_runs hw hh hn hdc, heldIssue_performs hi rfl rfl hm ?_ rfl⟩
    rw [roomBody, engineFull_of_lt hroom]
    exact jwaitBody_deadline hj hh hn hc hd hdu

end Sys2Proof.Machine
end

section
/-! The array lease and its ramp (02 R24, R25; 07 R117; 12 R220). -/
namespace Sys2Proof.Machine

/-! ## The grant -/

/-- A crew that is next in rotation has a request. -/
theorem nextRequest_mem {req : List Nat} {n j : Nat} (h : nextRequest req n = some j) : j ∈ req := by
  simpa using List.find?_some h

/-- What a grant of the array to crew j of a CU comes to: the planes are zeroed when an owner tag records another
tenant. -/
def GrantsTo (s t : State) (cu j : Nat) : Prop :=
  let c := s.cu cu
  let n := (s.crew (4 * cu + j)).tenant
  let foreign := foreignPlane c.active n || foreignPlane c.shadow n
  t.mem = s.mem ∧ (t.cu cu).lease = some { crew := 4 * cu + j, grant := s.cycle, zeroing := foreign } ∧
    (t.cu cu).requests = c.requests.filter (fun k => decide (k ≠ j)) ∧
    (foreign = true → (t.cu cu).active = {} ∧ (t.cu cu).shadow = {}) ∧
    (foreign = false → (t.cu cu).active = c.active ∧ (t.cu cu).shadow = c.shadow)

/-- The arbiter's grant. -/
theorem grantLease_grants (s : State) (cu j : Nat) : GrantsTo s (grantLease s cu j) cu j := by
  unfold GrantsTo grantLease
  dsimp only
  generalize hf : (foreignPlane (s.cu cu).active (s.crew (4 * cu + j)).tenant ||
    foreignPlane (s.cu cu).shadow (s.crew (4 * cu + j)).tenant) = f
  cases f <;> simp

/-- A grant after the last holder has been written down is a grant in the state before. -/
theorem GrantsTo.of_ended {s t : State} {cu j : Nat} {h : Nat}
    (g : GrantsTo (s.setCu cu { s.cu cu with lease := none, lastHolder := h }) t cu j) : GrantsTo s t cu j := by
  simpa [GrantsTo] using g

/-- The event of the grant runs the arbiter where a lease is over. -/
theorem leaseGrant_over {s : State} {cu : Nat} (h : leaseOver s cu = true) :
    exec (.leaseGrant cu) s = .next (arbitrate s cu) :=
  if_pos (by rw [h]; rfl)

/-- The event of the grant runs the arbiter where a free array is requested. -/
theorem leaseGrant_free {s : State} {cu : Nat} (hl : (s.cu cu).lease = none) (hr : (s.cu cu).requests ≠ []) :
    exec (.leaseGrant cu) s = .next (arbitrate s cu) :=
  if_pos (by simp [hl, hr])

/-- A lease whose holder has completed its array instructions is over once it is ending or its context is killed. -/
theorem leaseOver_of_ending {s : State} {cu : Nat} {l : Lease} (hl : (s.cu cu).lease = some l)
    (he : leaseEnding s cu = true ∨ (s.crew l.crew).killed.isSome = true) (hb : arrayBusy (s.crew l.crew) = false) :
    leaseOver s cu = true := by
  simpa [leaseOver, hl, hb] using he

/-! ## The end of a lease -/

/-- A turn of the ramp changes nothing of the lease. -/
theorem rampTurn_keeps (s : State) (cu : Nat) (b : Bool) :
    (rampTurn s cu b).mem = s.mem ∧ ((rampTurn s cu b).cu cu).lease = (s.cu cu).lease ∧
      ((rampTurn s cu b).cu cu).lastHolder = (s.cu cu).lastHolder ∧
      ((rampTurn s cu b).cu cu).requests = (s.cu cu).requests := by
  unfold rampTurn
  dsimp only
  split
  · exact ⟨rfl, rfl, rfl, rfl⟩
  · split <;> simp

/-- A lease that ends leaves the array free, and its holder is remembered. -/
theorem endLease_frees {s : State} {cu : Nat} {l : Lease} (hl : (s.cu cu).lease = some l) :
    (endLease s cu).mem = s.mem ∧ ((endLease s cu).cu cu).lease = none ∧
      ((endLease s cu).cu cu).lastHolder = l.crew % 4 ∧ ((endLease s cu).cu cu).requests = (s.cu cu).requests := by
  unfold endLease
  dsimp only
  rw [hl]
  simpa using rampTurn_keeps (s.setCu cu { s.cu cu with lease := none, lastHolder := l.crew % 4 }) cu true

/-! ## The obligation -/

/-- Settles O38: the arbiter in its three cases, then the limit and the ramp by their guards. -/
theorem leaseAndRamp : Obligations.LeaseAndRamp := by
  intro s cu j l
  dsimp only
  refine ⟨fun hl hn => ?_, fun hl he hb => ?_, fun hl hm hr he => ?_, fun hw hd hbusy hidle => ?_⟩
  · refine ⟨_, leaseGrant_free hl (List.ne_nil_of_mem (nextRequest_mem hn)), ?_⟩
    have ha : arbitrate s cu = grantLease s cu j := by simp [arbitrate, hl, hn]
    rw [ha]
    exact grantLease_grants s cu j
  · have ho := leaseOver_of_ending hl he hb
    refine ⟨fun hn => ⟨_, leaseGrant_over ho, ?_⟩, fun hn => ⟨_, leaseGrant_over ho, ?_⟩⟩
    · have ha : arbitrate s cu =
          grantLease (s.setCu cu { s.cu cu with lease := none, lastHolder := l.crew % 4 }) cu j := by
        simp [arbitrate, hl, ho, hn]
      rw [ha]
      exact (grantLease_grants _ cu j).of_ended
    · have ha : arbitrate s cu = endLease s cu := by simp [arbitrate, hl, ho, hn]
      rw [ha]
      exact endLease_frees hl
  · have hlim : limitReached s l = true := by
      rw [limitReached, Bool.or_eq_true, decide_eq_true_iff, decide_eq_true_iff]
      exact hm
    show execLeaseLimit cu s = _
    simp [execLeaseLimit, hl, hlim, hr, he]
  · have hdue : rampDue s cu = true := by
      unfold rampDue
      cases hb : ((s.cu cu).lease.isSome || !(s.cu cu).requests.isEmpty) <;> simp_all
    refine ⟨_, if_pos hdue, ?_⟩
    simp [rampInterval]

end Sys2Proof.Machine
end

section
/-! Launches and scheduling (02 R31; 21 R323 to R336; 23 R368). -/
namespace Sys2Proof.Machine

/-! ## The rank of R31 -/

/-- On keys of one length the comparison is the lexicographic order of lists. -/
theorem keyLt_iff_lt : ∀ {a b : List Int}, a.length = b.length → (keyLt a b = true ↔ a < b)
  | [], [], _ => by simp [keyLt]
  | x :: a, y :: b, h => by
    have ih := keyLt_iff_lt (a := a) (b := b) (by simpa using h)
    simp [keyLt, List.cons_lt_cons_iff, ih]
  | [], _ :: _, h => by simp at h
  | _ :: _, [], h => by simp at h

/-- One entry comes before another where its rank is lower. -/
theorem rank_lt_iff {s : State} {a b : PoolEnt} : keyLt (rankKey s a) (rankKey s b) = true ↔ rankKey s a < rankKey s b :=
  keyLt_iff_lt rfl

/-- The rank as R31 gives it: deficit, tenant, effective priority, readiness, launch and task. -/
theorem rankKey_lt_iff {s : State} {a b : PoolEnt} : rankKey s a < rankKey s b ↔
    deficitOf s b.tenant < deficitOf s a.tenant ∨ (deficitOf s a.tenant = deficitOf s b.tenant ∧
    (a.tenant < b.tenant ∨ (a.tenant = b.tenant ∧
    (effPrio s b < effPrio s a ∨ (effPrio s a = effPrio s b ∧
    (a.readyAt < b.readyAt ∨ (a.readyAt = b.readyAt ∧
    (a.launch < b.launch ∨ (a.launch = b.launch ∧ a.task < b.task))))))))) := by
  simp only [rankKey, List.cons_lt_cons_iff, List.not_lt_nil, Int.natCast_inj, Int.ofNat_lt, Int.neg_lt_neg_iff, Int.neg_inj,
    and_false, or_false]

/-- Not coming before is transitive, as the rank is a linear order. -/
theorem rank_not_lt_trans {s : State} {a b m : PoolEnt} (hb : ¬rankKey s b < rankKey s m) (ha : ¬rankKey s a < rankKey s b) :
    ¬rankKey s a < rankKey s m := by
  rw [rankKey_lt_iff] at *
  omega

/-- The better of what has been found and one more entry. -/
def better (s : State) (a : Option PoolEnt) (e : PoolEnt) : Option PoolEnt :=
  match a with
  | none => some e
  | some b => if keyLt (rankKey s e) (rankKey s b) then some e else some b

/-- The entry that is kept is one of the two, and neither comes before it. -/
theorem better_some (s : State) (b e : PoolEnt) :
    ∃ m, better s (some b) e = some m ∧ (m = b ∨ m = e) ∧ ¬rankKey s b < rankKey s m ∧ ¬rankKey s e < rankKey s m := by
  unfold better
  dsimp only
  split
  · next h => exact ⟨e, rfl, .inr rfl, List.lt_asymm (rank_lt_iff.mp h), List.lt_irrefl _⟩
  · next h => exact ⟨b, rfl, .inl rfl, List.lt_irrefl _, mt rank_lt_iff.mpr h⟩

/-- The best of what has been found and a list is one of them, and none of them comes before it. -/
theorem foldl_better (s : State) (l : List PoolEnt) (b : PoolEnt) :
    ∃ m, l.foldl (better s) (some b) = some m ∧ m ∈ b :: l ∧ ∀ a ∈ b :: l, ¬rankKey s a < rankKey s m := by
  induction l generalizing b with
  | nil =>
    refine ⟨b, rfl, List.mem_singleton_self b, fun a ha => ?_⟩
    rw [List.mem_singleton.mp ha]
    exact List.lt_irrefl _
  | cons e r ih =>
    obtain ⟨k, hk, hin, hb, he⟩ := better_some s b e
    obtain ⟨m, hm, hmem, hle⟩ := ih k
    have hmk : ¬rankKey s k < rankKey s m := hle k List.mem_cons_self
    refine ⟨m, by rw [List.foldl_cons, hk, hm], ?_, fun a ha => ?_⟩
    · rcases List.mem_cons.mp hmem with rfl | hr
      · rcases hin with rfl | rfl
        · exact List.mem_cons_self
        · exact List.mem_cons_of_mem _ List.mem_cons_self
      · exact List.mem_cons_of_mem _ (List.mem_cons_of_mem _ hr)
    · simp only [List.mem_cons] at ha
      rcases ha with rfl | rfl | ha
      · exact rank_not_lt_trans hmk hb
      · exact rank_not_lt_trans hmk he
      · exact hle a (List.mem_cons_of_mem _ ha)

/-- The entry that ranks first is one of the entries, and none comes before it. -/
theorem bestOf_first {s : State} {es : List PoolEnt} {e : PoolEnt} (h : bestOf s es = some e) :
    e ∈ es ∧ ∀ a ∈ es, ¬rankKey s a < rankKey s e := by
  cases es with
  | nil => cases h
  | cons b r =>
    obtain ⟨m, hm, hmem, hfirst⟩ := foldl_better s r b
    obtain rfl : m = e := Option.some.inj (hm.symm.trans h)
    exact ⟨hmem, hfirst⟩

/-- One aging interval later an effective priority is one higher, up to 15. -/
theorem prio_ages {p c r i : Nat} (hi : 0 < i) (hr : r ≤ c) :
    min 15 (p + (c + i - r) / i) = min 15 (min 15 (p + (c - r) / i) + 1) := by
  have h : (c + i - r) / i = (c - r) / i + 1 := by
    rw [show c + i - r = c - r + i by omega, Nat.add_div_right _ hi]
  omega

/-! ## What the pool, the launches and the counters leave of the crews -/

@[simp] theorem poolMap_crews (s : State) (l t : Nat) (f : PoolEnt → PoolEnt) : (poolMap s l t f).crews = s.crews := rfl
@[simp] theorem noteFull_crews (s : State) : (noteFull s).crews = s.crews := by unfold noteFull; split <;> rfl
@[simp] theorem poolAdd_crews (s : State) (e : PoolEnt) : (poolAdd s e).crews = s.crews := by simp [poolAdd]
@[simp] theorem countFor_crews (s : State) (t k n : Nat) : (countFor s t k n).crews = s.crews := (countFor_keeps s t k n).2.1

/-- A pool that fills up leaves the crews. -/
@[simp] theorem poolFill_crews (n : Nat) (s : State) : (poolFill n s).crews = s.crews := by
  induction n generalizing s with
  | zero => rfl
  | succ n ih =>
    unfold poolFill
    split
    · split
      · split
        · split
          · rfl
          · simp [ih]
        · rfl
      · simp [ih]
    · split
      · split
        · rfl
        · simp [ih]
      · rfl

@[simp] theorem poolDrop_crews (s : State) (p : PoolEnt → Bool) : (poolDrop s p).crews = s.crews := by simp [poolDrop]

/-- A launch that stops leaves the crews. -/
@[simp] theorem stopLaunch_crews (s : State) (l c : Nat) : (stopLaunch s l c).crews = s.crews := by
  unfold stopLaunch
  split
  · rfl
  · simp

/-- A task that becomes ready leaves the crews. -/
@[simp] theorem makeReady_crews (s : State) (l t : Nat) (late : Bool) : (makeReady s l t late).crews = s.crews := by
  unfold makeReady
  split
  · rfl
  · split
    · rfl
    · dsimp only
      split
      · rfl
      · simp

/-- The successors of a completed task leave the crews. -/
@[simp] theorem decSuccs_crews (l : Nat) (ys : List Nat) (s : State) : (decSuccs l ys s).crews = s.crews := by
  induction ys generalizing s with
  | nil => rfl
  | cons y r ih =>
    unfold decSuccs
    split
    · rfl
    · dsimp only
      split
      · simp [ih]
      · split
        · simp [ih]
        · split <;> simp [ih]

/-! ## The events -/

/-- The queue engine that may read a record answers. -/
theorem launchRecordRead_completes {s : State} {q : Nat} (hq : nextQueue s = some q) (hl : s.launches.length < 1024)
    (hp : poolFull s = false) : Completes (.launchRecordRead q) s := by
  unfold Completes
  show ∃ t, execLaunchRecordRead q s = .next t
  unfold execLaunchRecordRead
  rw [if_neg (by simp [hq, hp]; omega)]
  dsimp only
  split
  · exact ⟨_, rfl⟩
  · split <;> exact ⟨_, rfl⟩

/-- A record that the queue engine can read becomes a launch. -/
theorem launchRecordRead_reads {s s1 s2 : State} {q : Nat} {m : Launch} {bs : List Byte} (hq : nextQueue s = some q)
    (hl : s.launches.length < 1024) (hp : poolFull s = false)
    (hr : agentRead (loadAgent { id := s.launchSeq, queue := q, owner := (s.queue q).owner, record := [], start := s.cycle })
      (headAddr (s.queue q)) 64 s = .ok (s1, bs))
    (hg : loadLaunch s1 { id := s.launchSeq, queue := q, owner := (s.queue q).owner, record := [], start := s.cycle } bs =
      (s2, .read m)) :
    exec (.launchRecordRead q) s =
      let u := { dropAsked s2 (.queue q) with launches := s2.launches ++ [m], launchSeq := s2.launchSeq + 1, lastQueue := some q }
      .next (enterReady (u.setQueue q { u.queue q with head := (s.queue q).head + 1#32 }) m) := by
  show execLaunchRecordRead q s = _
  unfold execLaunchRecordRead
  rw [if_neg (by simp [hq, hp]; omega)]
  dsimp only
  rw [hr]
  dsimp only
  rw [hg]

/-- A record whose read waits is read later. -/
theorem launchRecordRead_waits {s s1 : State} {q w : Nat} (hq : nextQueue s = some q)
    (hl : s.launches.length < 1024) (hp : poolFull s = false)
    (hr : agentRead (loadAgent { id := s.launchSeq, queue := q, owner := (s.queue q).owner, record := [], start := s.cycle })
      (headAddr (s.queue q)) 64 s = .error (.wait w s1)) :
    exec (.launchRecordRead q) s = .next s1 := by
  show execLaunchRecordRead q s = _
  unfold execLaunchRecordRead
  rw [if_neg (by simp [hq, hp]; omega)]
  dsimp only
  rw [hr]

/-- A crew whose preload is done starts its strands. -/
theorem tilePreload_starts {s : State} {crew : Nat} {x : Ctx} (hx : (s.crew crew).ctx = some x)
    (hs : (s.crew crew).starting = true) (hk : (s.crew crew).killed = none) (hb : (s.crew crew).preloadBad = false)
    (ho : (s.crew crew).ops = []) :
    exec (.tilePreloadComplete crew) s = .next (s.setCrew crew (startStrands (s.crew crew))) := by
  show execTilePreloadComplete crew s = _
  simp [execTilePreloadComplete, hx, hs, hk, hb, ho]

section
variable {s s1 : State} {crew : Nat} {x : Ctx} {l : Launch} {n : Node} (hx : (s.crew crew).ctx = some x)
  (ho : taskOver s crew = true) (hl : s.launch x.launch = some l) (hn : l.nodes[x.task]? = some n)
include hx ho hl hn

/-- A task that is over whose records cannot be written yet waits. -/
theorem taskCompletion_waits (hr : recordsReady s crew l x = .error s1) : exec (.taskCompletion crew) s = .next s1 := by
  show execTaskCompletion crew s = _
  simp [execTaskCompletion, hx, ho, hl, hn, hr]

/-- A task that is over whose records can be written leaves its crew free. -/
theorem taskCompletion_frees (hr : recordsReady s crew l x = .ok s1) :
    ∃ t, exec (.taskCompletion crew) s = .next t ∧ (t.crew crew).ctx = none := by
  show ∃ t, execTaskCompletion crew s = .next t ∧ _
  unfold execTaskCompletion
  dsimp only
  rw [hx]
  dsimp only
  rw [if_neg (by simp [ho]), hl]
  dsimp only
  rw [hn]
  dsimp only
  rw [hr]
  refine ⟨_, rfl, ?_⟩
  generalize finalFlush _ _ _ = u
  generalize hw : (if taskRecords l then _ else u : State) = w
  generalize hv : State.setLaunch w _ = v
  have hfree : ((v.setCrew crew (freedCrew (v.crew crew))).crew crew).ctx = none := by simp [freedCrew]
  unfold State.crew at hfree ⊢
  split <;> split <;> simpa using hfree

/-- A task that is over completes or waits for its records. -/
theorem taskCompletion_completes : Completes (.taskCompletion crew) s := by
  cases hr : recordsReady s crew l x with
  | error s1 => exact ⟨s1, taskCompletion_waits hx ho hl hn hr⟩
  | ok s1 =>
    obtain ⟨t, ht, -⟩ := taskCompletion_frees hx ho hl hn hr
    exact ⟨t, ht⟩

end

/-- A launch that is over and writes no record leaves. -/
theorem launchCompletion_leaves {s : State} {id : Nat} {l : Launch} (hl : s.launch id = some l) (ho : launchOver s l = true)
    (ht : taskRecords l = false) (hr : recordAt l = false) : exec (.launchCompletion id) s = .next (launchDone s l) := by
  show execLaunchCompletion id s = _
  simp [execLaunchCompletion, hl, ho, ht, hr]

/-- A launch that is over leaves, or waits for its records. -/
theorem launchCompletion_completes {s : State} {id : Nat} {l : Launch} (hl : s.launch id = some l)
    (ho : launchOver s l = true) : Completes (.launchCompletion id) s := by
  unfold Completes
  show ∃ t, execLaunchCompletion id s = .next t
  unfold execLaunchCompletion
  rw [hl]
  dsimp only
  rw [if_neg (by simp [ho])]
  split
  · exact ⟨_, rfl⟩
  · split <;> exact ⟨_, rfl⟩

section
variable {s s1 : State} {crew area w : Nat} {x : Ctx} (hx : (s.crew crew).ctx = some x) (ha : freeArea s = some area)
  (hc : canSave s crew = true) (hb : areaBusy s area = false)
include hx ha hc hb

/-- A context whose accounts cannot be written yet waits. -/
theorem contextSave_waits (hr : flushReady false s crew = .error (.wait w s1)) : exec (.contextSave crew) s = .next s1 := by
  show execContextSave crew s = _
  simp [execContextSave, hx, ha, hc, hb, hr]

/-- A context whose accounts can be written is saved and leaves its crew free. -/
theorem contextSave_frees (hr : flushReady false s crew = .ok s1) :
    ∃ t, exec (.contextSave crew) s = .next t ∧ (t.crew crew).ctx = none := by
  show ∃ t, execContextSave crew s = .next t ∧ _
  unfold execContextSave
  rw [hx, ha]
  dsimp only
  rw [if_neg (by simp [hc, hb]), hr]
  refine ⟨_, rfl, ?_⟩
  unfold State.crew
  rw [poolAdd_crews]
  simp [State.setCrew, freedCrew]

/-- A context that can be saved is saved, or it waits, or its accounts are given up. -/
theorem contextSave_completes : Completes (.contextSave crew) s := by
  unfold Completes
  show ∃ t, execContextSave crew s = .next t
  unfold execContextSave
  rw [hx, ha]
  dsimp only
  rw [if_neg (by simp [hc, hb])]
  split <;> exact ⟨_, rfl⟩

end

/-- Settles O47: the events by their lemmas above, the rank by `bestOf_first`. -/
theorem scheduling : Obligations.Scheduling := by
  intro s s1 s2 q crew id area w x l m n bs e es
  dsimp only
  refine ⟨launchRecordRead_completes, launchRecordRead_reads, launchRecordRead_waits, fun h => if_neg (by simp [h]),
    tilePreload_starts, taskCompletion_completes, taskCompletion_frees, taskCompletion_waits, launchCompletion_leaves,
    launchCompletion_completes, contextSave_completes, contextSave_frees, contextSave_waits, fun h => ?_, fun u hr hu => ?_,
    fun h => if_pos h, fun h => if_neg (by omega), fun h => if_neg (by omega)⟩
  · obtain ⟨hin, hfirst⟩ := bestOf_first h
    exact ⟨hin, fun a ha hbefore => hfirst a ha (rankKey_lt_iff.mpr hbefore)⟩
  · rw [hu]
    exact prio_ages (Nat.mul_pos (by decide) (Nat.pow_pos (by decide))) hr

end Sys2Proof.Machine
end

section
/-! The frame of the engine instructions (02 R21; 12 R219 to R221; 13 R242). -/
namespace Sys2Proof.Machine

/-! ## The frame -/

/-- Two states agree in memory, in the strand in focus, in its predicates and its registers but d, and in the tiles of
its crew. -/
structure FrameOff (d : BitVec 5) (s t : State) : Prop where
  mem : t.mem = s.mem
  cur : t.cur = s.cur
  tiles : t.myCrew.tiles = s.myCrew.tiles
  preds : t.me.preds = s.me.preds
  regs : ∀ r, r ≠ d → t.me.reg r = s.me.reg r

/-- The same, and the same loops end at the PC. -/
structure BodyFrame (d : BitVec 5) (s t : State) : Prop extends FrameOff d s t where
  ends : innermostAt t.me t.me.pc = innermostAt s.me s.me.pc

variable {d : BitVec 5} {s t u : State}

theorem FrameOff.refl (d : BitVec 5) (s : State) : FrameOff d s s := ⟨rfl, rfl, rfl, rfl, fun _ _ => rfl⟩

theorem BodyFrame.refl (d : BitVec 5) (s : State) : BodyFrame d s s := ⟨.refl d s, rfl⟩

theorem FrameOff.trans (h : FrameOff d s t) (g : FrameOff d t u) : FrameOff d s u :=
  ⟨g.mem.trans h.mem, g.cur.trans h.cur, g.tiles.trans h.tiles, g.preds.trans h.preds,
    fun r hr => (g.regs r hr).trans (h.regs r hr)⟩

theorem BodyFrame.trans (h : BodyFrame d s t) (g : BodyFrame d t u) : BodyFrame d s u :=
  ⟨h.toFrameOff.trans g.toFrameOff, g.ends.trans h.ends⟩

/-- A state with the same memory and crews and the same strand in focus. -/
theorem BodyFrame.of_crews (hm : t.mem = s.mem) (hc : t.crews = s.crews) (hf : t.cur = s.cur) : BodyFrame d s t := by
  have hcrew : t.myCrew = s.myCrew := by simp [State.myCrew, State.crew, hc, hf]
  have hme : t.me = s.me := by simp [State.me, hcrew, hf]
  exact ⟨⟨hm, hf, by rw [hcrew], by rw [hme], fun r _ => by rw [hme]⟩, by rw [hme]⟩

/-- A crew in focus that keeps its strands and its tiles. -/
theorem BodyFrame.setMyCrew {c : Crew} (hs : c.str s.cur.2 = s.me) (ht : c.tiles = s.myCrew.tiles) :
    BodyFrame d s (s.setMyCrew c) := by
  have hme : (s.setMyCrew c).me = s.me := by rw [setMyCrew_me, hs]
  exact ⟨⟨rfl, rfl, by rw [myCrew_setMyCrew, ht], by rw [hme], fun r _ => by rw [hme]⟩, by rw [hme]⟩

/-- A strand in focus that keeps its predicates and its registers but one. -/
theorem FrameOff.setMe {x : Strand} (hp : x.preds = s.me.preds) (hr : ∀ r, r ≠ d → x.reg r = s.me.reg r) :
    FrameOff d s (s.setMe x) :=
  ⟨rfl, rfl, by rw [setMe_myCrew, setStr_tiles], by rw [me_setMe, hp], fun r h => by rw [me_setMe, hr r h]⟩

/-- A strand in focus with the same registers and predicates. -/
theorem FrameOff.setMe_regs {x : Strand} (hp : x.preds = s.me.preds) (hr : x.regs = s.me.regs) : FrameOff d s (s.setMe x) :=
  .setMe hp fun r _ => by rw [Strand.reg, Strand.reg, hr]

/-! ## Waits, traps and the end of an instruction -/

/-- A waiting strand. -/
theorem holdMe_frame (q : Nat) : FrameOff d s (holdMe q s) := .setMe_regs rfl rfl

/-- Where no loop ends, an instruction that completes changes neither registers nor predicates. -/
theorem retire_frame (i : Instr) (n : Nat) (h : NoLoopEnd s) : FrameOff d s (retire i s n) := by
  rw [retire_plain i s n h]
  exact .setMe_regs rfl rfl

/-- A strand that leaves the fault records changes no crew. -/
theorem dropStrand_bodyFrame (crew : Nat) (k : StrandKind) : BodyFrame d s (dropStrand s crew k) :=
  .of_crews (dropStrand_mem ..) (by simp [dropStrand, dropWaiter, dropAsked]) (by simp [dropStrand, dropWaiter, dropAsked])

/-- A request that is withdrawn changes no crew. -/
theorem withdraw_bodyFrame (crew : Nat) : BodyFrame d s (withdraw s crew) :=
  .of_crews (withdraw_mem ..) (by simp [withdraw]) (by simp [withdraw])

/-- A strand that a kill has stopped. -/
def Strand.stopped (x : Strand) : Strand :=
  if x.exited then x else { x with
    cond := qIdle
    condPc := x.pc
    latch := none
    late := []
    slot := x.slot.map fun p => (p.1, p.2.1, min 1 p.2.2) }

/-- A stopped strand keeps its predicates and registers. -/
theorem stopped_keeps (x : Strand) : x.stopped.preds = x.preds ∧ x.stopped.regs = x.regs := by
  unfold Strand.stopped
  split <;> exact ⟨rfl, rfl⟩

/-- A kill stops every strand of a context that has not been killed before. -/
theorem killCrew_str (c : Crew) (cause : Nat) (k : StrandKind) :
    (killCrew c cause).str k = (c.str k).stopped ∨ (killCrew c cause).str k = c.str k := by
  unfold killCrew
  split
  · left
    cases k <;> rfl
  · right
    rfl

/-- A killed crew keeps its tiles. -/
theorem killCrew_tiles (c : Crew) (cause : Nat) : (killCrew c cause).tiles = c.tiles := by
  unfold killCrew
  split <;> rfl

/-- A killed strand keeps its predicates and registers. -/
theorem killCrew_keeps (c : Crew) (cause : Nat) (k : StrandKind) :
    ((killCrew c cause).str k).preds = (c.str k).preds ∧ ((killCrew c cause).str k).regs = (c.str k).regs := by
  rcases killCrew_str c cause k with h | h <;> rw [h]
  · exact stopped_keeps _
  · exact ⟨rfl, rfl⟩

/-- A crew in focus that keeps its tiles, and its strand in focus the predicates and registers. -/
theorem FrameOff.setMyCrew {c : Crew} (ht : c.tiles = s.myCrew.tiles)
    (hs : (c.str s.cur.2).preds = s.me.preds ∧ (c.str s.cur.2).regs = s.me.regs) : FrameOff d s (s.setMyCrew c) :=
  ⟨rfl, rfl, by rw [myCrew_setMyCrew, ht], by rw [setMyCrew_me, hs.1], fun r _ => by
    rw [setMyCrew_me, Strand.reg, Strand.reg, hs.2]⟩

/-- A kill of the context in focus. -/
theorem killContext_frame (cause : Nat) : FrameOff d s (killContext s s.cur.1 cause) := by
  have h : FrameOff d s (s.setMyCrew (killCrew s.myCrew cause)) :=
    .setMyCrew (killCrew_tiles ..) (killCrew_keeps ..)
  have hd (k : StrandKind) (u : State) : BodyFrame d u (dropStrand u s.cur.1 k) := dropStrand_bodyFrame _ k
  exact h.trans ((((hd .s _).trans (hd .v _)).trans (hd .m _)).trans (hd .c _) |>.trans (withdraw_bodyFrame _)).toFrameOff

/-- A strand that enters a trap level keeps its predicates and registers. -/
theorem setTrapRegs_keeps (x : Strand) (n : Nat) (t : TrapRegs) :
    (x.setTrapRegs n t).preds = x.preds ∧ (x.setTrapRegs n t).regs = x.regs := by
  unfold Strand.setTrapRegs
  split <;> exact ⟨rfl, rfl⟩

/-- Another ring leaves the tiles and the strands. -/
theorem clearRing_keeps (k : StrandKind) (c : Crew) (r : List RingEnt) :
    (if k = .v then { c with ring := r } else c).tiles = c.tiles ∧
      (if k = .v then { c with ring := r } else c).str k = c.str k := by
  cases k <;> exact ⟨rfl, rfl⟩

/-- A trap of the strand in focus. -/
theorem takeTrap_frame (c f : Nat) (v e : Word) (m : Option Nat) : FrameOff d s (takeTrap s s.cur.1 s.cur.2 c f v e m) := by
  unfold takeTrap
  dsimp only
  split
  · exact killContext_frame c
  · have hw (k : StrandKind) (u : State) : FrameOff d u (if k = .m then withdraw u s.cur.1 else u) := by
      split
      · exact (withdraw_bodyFrame _).toFrameOff
      · exact .refl d u
    refine FrameOff.trans ?_ (hw _ _)
    refine FrameOff.trans (t := s.setMyCrew _) (.setMyCrew ?_ ?_) (dropStrand_bodyFrame _ _).toFrameOff
    · rw [(clearRing_keeps _ _ _).1, setStr_tiles]
      rfl
    · rw [(clearRing_keeps _ _ _).2, str_setStr]
      exact setTrapRegs_keeps ..

/-- A synchronous trap of the strand in focus. -/
theorem trapMe_frame (c : Nat) (v : Word) : FrameOff d s (trapMe s c v) :=
  FrameOff.trans (t := s.setMe s.me.useSlot.begun) (.setMe_regs rfl rfl) (takeTrap_frame c 0 v _ none)

/-! ## Bodies -/

/-- What a body answers keeps the frame: it goes on without a transfer, it waits, or it traps. -/
def ResFrame (d : BitVec 5) (s : State) : Res (State × Option Word) → Prop
  | .ok (u, o) => o = none ∧ BodyFrame d s u
  | .error (.xtrap _ _ u) => FrameOff d s u
  | .error (.wait _ u) => FrameOff d s u
  | .error _ => True

/-- An instruction whose body keeps the frame keeps it. -/
theorem finish_frame {i : Instr} {n : Nat} {r : Res (State × Option Word)} (hn : NoLoopEnd s) (hr : ResFrame d s r)
    (h : finish i s n r = .next t) : FrameOff d s t := by
  match r, hr with
  | .ok (u, _), ⟨rfl, hu⟩ =>
    obtain rfl := Host.Outcome.next.inj h
    exact hu.toFrameOff.trans (retire_frame i n (hu.ends.trans hn))
  | .error (.trap c v), _ =>
    obtain rfl := Host.Outcome.next.inj h
    exact trapMe_frame c v
  | .error (.xtrap c v u), hu =>
    obtain rfl := Host.Outcome.next.inj h
    exact hu.trans (trapMe_frame c v)
  | .error (.wait q u), hu =>
    obtain rfl := Host.Outcome.next.inj h
    exact hu.trans (holdMe_frame q)
  | .error (.fault f), _ => cases h

/-- A zero row in the ring. -/
theorem pushRing_bodyFrame (e : RingEnt) : BodyFrame d s (s.setMyCrew (pushRing s.myCrew e)) := by
  refine .setMyCrew ?_ rfl
  show Crew.str (pushRing s.myCrew e) s.cur.2 = s.myCrew.str s.cur.2
  cases s.cur.2 <;> rfl

/-- An instruction keeps the frame on every path of the common order of checks, where its body does. -/
theorem issue_frame {i : Instr} {ks : List StrandKind} {p : BitVec 4} {off : Bool} {b : Body} {n : Nat} (hn : NoLoopEnd s)
    (hb : ResFrame d s (b s)) (h : issue i ks p off b s n = .next t) : FrameOff d s t := by
  unfold issue at h
  split at h
  · obtain rfl := Host.Outcome.next.inj h
    exact trapMe_frame _ _
  · split at h
    · obtain rfl := Host.Outcome.next.inj h
      exact holdMe_frame _
    · split at h
      · obtain rfl := Host.Outcome.next.inj h
        cases off
        · exact retire_frame _ _ hn
        · have hp : BodyFrame d s (s.setMyCrew (pushRing s.myCrew {})) := pushRing_bodyFrame _
          exact hp.toFrameOff.trans (retire_frame _ _ (hp.ends.trans hn))
      · split at h
        · obtain rfl := Host.Outcome.next.inj h
          exact holdMe_frame _
        · exact finish_frame hn hb h

/-- A stop that keeps the state, or traps. -/
def StopKeeps (s : State) : Stop → Prop
  | .xtrap _ _ u => u = s
  | .wait _ u => u = s
  | _ => True

/-- A stop that keeps the state keeps the frame. -/
theorem StopKeeps.resFrame {w : Stop} (h : StopKeeps s w) : ResFrame d s (.error w) := by
  cases w with
  | xtrap c v u => exact (show u = s from h) ▸ .refl d s
  | wait q u => exact (show u = s from h) ▸ .refl d s
  | trap c v => trivial
  | fault f => trivial

/-- The gate of an engine stops in the state that it finds. -/
theorem engGate_stops {e : Eng} {u : TileUse} {more : Bool} {w : Stop} (h : engGate s e u more = .error w) :
    StopKeeps s w := by
  unfold engGate at h
  dsimp only at h
  split at h
  · cases h
    rfl
  · split at h <;> cases h
    rfl

/-- Other operations in flight leave the strands. -/
theorem str_setInflight (c : Crew) (l : List EngOp) (n : Nat) (k : StrandKind) :
    ({ c with inflight := l, seq := n } : Crew).str k = c.str k := by
  cases k <;> rfl

/-- Other operations of the copy engine leave the strands. -/
theorem str_setOps (c : Crew) (l : List AsyncOp) (n : Nat) (k : StrandKind) :
    ({ c with ops := l, seq := n } : Crew).str k = c.str k := by
  cases k <;> rfl

/-- An operand that is filled leaves the strands and the tiles. -/
theorem fillEnds_keeps (c : Crew) (ends : Option (Nat × Fe)) (k : StrandKind) :
    (match ends with | some (i, _) => c.setFe i .filling | none => c).str k = c.str k ∧
      (match ends with | some (i, _) => c.setFe i .filling | none => c).tiles = c.tiles := by
  split <;> simp

/-- An operation that starts changes tokens, states and what is in flight. -/
theorem startOp_bodyFrame (e : Eng) (u : TileUse) (o : EngOp) : BodyFrame d s (startOp s e u o) := by
  unfold startOp
  refine .setMyCrew ?_ ?_
  · rw [str_setInflight]
    exact (fillEnds_keeps _ _ _).1.trans (take_str _ _ _ _)
  · exact (fillEnds_keeps _ _ s.cur.2).2.trans (take_tiles ..)

/-- A copy that enters the engine changes tokens, states and the operations of the engine. -/
theorem enterEngine_bodyFrame (e : Eng) (u : TileUse) (o : AsyncOp) : BodyFrame d s (enterEngine s e u o) := by
  have hf : BodyFrame d s { s with fresh := s.fresh + 1 } := .of_crews rfl rfl rfl
  refine hf.trans ?_
  unfold enterEngine
  refine .setMyCrew ?_ ?_
  · rw [str_setOps]
    exact (fillEnds_keeps _ _ _).1.trans (take_str _ _ _ _)
  · exact (fillEnds_keeps _ _ s.cur.2).2.trans (take_tiles ..)

/-- A vector instruction that starts pushes its row besides. -/
theorem startVector_bodyFrame (e : Eng) (u : TileUse) (p : Option (Nat × Nat)) (row : Row) :
    BodyFrame d s (startVector s e u p row) :=
  (startOp_bodyFrame e u _).trans (pushRing_bodyFrame _)

/-! ## Vector instructions -/

/-- What a stop of a computation on registers and rows is: a trap. -/
def Stop.IsTrap (w : Stop) : Prop := ∃ c v, w = .trap c v

theorem Stop.IsTrap.resFrame {w : Stop} (h : w.IsTrap) : ResFrame d s (.error w) := by
  obtain ⟨c, v, rfl⟩ := h
  trivial

/-- A computation that draws from the strand's stream and changes nothing else of it. -/
def VCalc.Draws (comp : VCalc) : Prop :=
  (∀ x rows row y, comp x rows = .ok (row, y) → y = { x with rngctr := y.rngctr }) ∧
    ∀ x rows w, comp x rows = .error w → w.IsTrap

/-- A computation that only gives a row. -/
theorem VCalc.Draws.of_row {f : Strand → List Row → Row} : VCalc.Draws fun x rows => .ok (f x rows, x) := by
  refine ⟨fun x rows row y h => ?_, fun x rows w h => ?_⟩
  · cases h
    rfl
  · cases h

theorem illegalWords_isTrap {α : Type} {i : Instr} {w : Stop} (h : (illegalWords i : Res α) = .error w) : w.IsTrap := by
  cases h
  exact ⟨_, _, rfl⟩

/-- vdrop draws. -/
theorem dropCalc_draws (i : Instr) (v : VFields) : VCalc.Draws (dropCalc i v) := by
  unfold VCalc.Draws dropCalc
  refine ⟨fun x rows row y h => ?_, fun x rows w h => ?_⟩ <;> dsimp only at h <;> split at h
  · cases h
  · split at h <;> cases h
    split <;> rfl
  · exact illegalWords_isTrap h
  · split at h
    · exact illegalWords_isTrap h
    · cases h

/-- vrng draws. -/
theorem vrngCalc_draws (i : Instr) (v : VFields) : VCalc.Draws (vrngCalc i v) := by
  unfold VCalc.Draws vrngCalc
  refine ⟨fun x rows row y h => ?_, fun x rows w h => ?_⟩ <;> dsimp only at h <;> split at h
  · cases h
  · cases h
    split <;> rfl
  · exact illegalWords_isTrap h
  · cases h

/-- vcvt draws. -/
theorem cvtCalc_draws (i : Instr) (v : VFields) : VCalc.Draws (cvtCalc i v) := by
  unfold VCalc.Draws cvtCalc
  refine ⟨fun x rows row y h => ?_, fun x rows w h => ?_⟩ <;> dsimp only at h <;> split at h
  · split at h
    · cases h
    · obtain ⟨-, rfl⟩ := Prod.mk.inj (Except.ok.inj h)
      split <;> rfl
  · obtain ⟨-, rfl⟩ := Prod.mk.inj (Except.ok.inj h)
    rfl
  · split at h
    · exact illegalWords_isTrap h
    · cases h
  · cases h

/-- A row that lies beyond its tile traps. -/
theorem place_isTrap {x : Strand} {sp : RowSpec} {w : Stop} (h : sp.place x = .error w) : w.IsTrap := by
  unfold RowSpec.place at h
  split at h
  · cases h
  · split at h <;> cases h
    exact ⟨_, _, rfl⟩
  · cases h

theorem readRow_isTrap {c : Crew} {x : Strand} {sp : RowSpec} {w : Stop} (h : readRow c x sp = .error w) : w.IsTrap := by
  unfold readRow at h
  split at h
  · cases h
  · split at h
    · next hp =>
      cases h
      exact place_isTrap hp
    · cases h
    · cases h

theorem readRows_isTrap {c : Crew} {x : Strand} {w : Stop} : ∀ {l : List RowSpec}, readRows c x l = .error w → w.IsTrap
  | [], h => by cases h
  | sp :: r, h => by
    unfold readRows at h
    split at h
    · next hr =>
      cases h
      exact readRow_isTrap hr
    · split at h
      · next hr =>
        cases h
        exact readRows_isTrap hr
      · cases h

/-- The common course of the V group. -/
theorem vBody_frame {e : Eng} {v : VFields} {reads : List (RowSpec × BitVec 1)} {comp : VCalc} (hc : comp.Draws) :
    ResFrame d s (vBody e v reads comp s) := by
  unfold vBody
  dsimp only
  split
  · next hg => exact (engGate_stops hg).resFrame
  · split
    · next hr => exact (readRows_isTrap hr).resFrame
    · split
      · next hp => exact (place_isTrap hp).resFrame
      · split
        · next hw => exact (hc.2 _ _ _ hw).resFrame
        · next hx =>
          have hx' := hc.1 _ _ _ _ hx
          refine ⟨rfl, BodyFrame.trans ?_ (startVector_bodyFrame ..)⟩
          rw [hx']
          exact ⟨.setMe_regs rfl rfl, by rw [me_setMe]; rfl⟩

/-- A V group instruction keeps the frame. -/
theorem vIssue_frame {i : Instr} {ks : List StrandKind} {p : BitVec 4} {off : Bool} {e : Eng} {v : VFields}
    {reads : List (RowSpec × BitVec 1)} {comp : VCalc} (hn : NoLoopEnd s) (hc : comp.Draws)
    (h : issue i ks p off (vBody e v reads comp) s = .next t) : FrameOff d s t :=
  issue_frame hn (vBody_frame hc) h

/-! ## Matrix instructions -/

/-- The check of the lease traps. -/
theorem leaseCheck_isTrap {w : Stop} (h : leaseCheck s = .error w) : w.IsTrap := by
  unfold leaseCheck at h
  dsimp only at h
  split at h
  · split at h <;> cases h
    exact ⟨_, _, rfl⟩
  · cases h
    exact ⟨_, _, rfl⟩

/-- What a matrix instruction starts with: its checks stop in the state that they find, and its operation changes no
crew and no memory. -/
def OpFrame (s : State) (op : State → Res (State × EngOp)) : Prop :=
  match op s with
  | .ok (u, _) => u.mem = s.mem ∧ u.crews = s.crews ∧ u.cur = s.cur
  | .error w => StopKeeps s w

/-- Counting an array instruction on the lease changes no crew. -/
theorem countIf_bodyFrame (array : Bool) : BodyFrame d s (if array then countArray s else s) := by
  cases array
  · exact .refl d s
  · exact .of_crews rfl rfl rfl

/-- The gate of a matrix instruction stops in the state that it finds. -/
theorem mGate_stops {e : Eng} {u : TileUse} {b : Option Nat} {w : Stop}
    (h : (if b = some qThrottle then .error (.wait qThrottle s) else engGate s e u b.isSome : Res Unit) = .error w) :
    StopKeeps s w := by
  split at h
  · cases h
    rfl
  · exact engGate_stops h

/-- The common course of a matrix instruction. -/
theorem mBody_frame {e : Eng} {u : TileUse} {array : Bool} {busy : State → Option Nat} {op : State → Res (State × EngOp)}
    (ho : OpFrame s op) : ResFrame d s (mBody e u array busy op s) := by
  unfold mBody
  dsimp only
  split
  · next hl =>
    cases array
    · cases hl
    · exact (leaseCheck_isTrap hl).resFrame
  · split
    · next hg => exact (mGate_stops hg).resFrame
    · split
      · exact .refl d s
      · unfold OpFrame at ho
        split
        · next hw =>
          rw [hw] at ho
          exact StopKeeps.resFrame ho
        · next hw =>
          rw [hw] at ho
          obtain ⟨hm, hc, hf⟩ := ho
          exact ⟨rfl, ((BodyFrame.of_crews hm hc hf).trans (startOp_bodyFrame e u _)).trans (countIf_bodyFrame array)⟩

/-- A matrix instruction keeps the frame. -/
theorem mIssue_frame {i : Instr} {ks : List StrandKind} {p : BitVec 4} {e : Eng} {u : TileUse} {array : Bool}
    {busy : State → Option Nat} {op : State → Res (State × EngOp)} (hn : NoLoopEnd s) (ho : OpFrame s op)
    (h : issue i ks p false (mBody e u array busy op) s = .next t) : FrameOff d s t :=
  issue_frame hn (mBody_frame ho) h

/-- The operation of lds.p, whose registers may be illegal. -/
theorem ldsP_frame {i : Instr} {ks : List StrandKind} {p : BitVec 4} {e : Eng} {x : XFields} (hn : NoLoopEnd s)
    (h : issue i ks p false (ldsPB e x) s = .next t) : FrameOff d s t := by
  refine mIssue_frame hn ?_ h
  unfold OpFrame
  dsimp only
  split
  · next hw =>
    split at hw <;> cases hw
    exact ⟨rfl, rfl, rfl⟩
  · next hw =>
    split at hw
    · next hp =>
      cases hw
      split at hp
      · cases hp
      · cases hp
        trivial
    · cases hw

/-- The operation of an mmul form. -/
theorem mmul_frame {i : Instr} {ks : List StrandKind} {p : BitVec 4} {e : Eng} {x : XFields} {bs : Bool} (hn : NoLoopEnd s)
    (h : issue i ks p false (mmulBody i e x bs) s = .next t) : FrameOff d s t := by
  refine mIssue_frame hn ?_ h
  unfold OpFrame
  dsimp only
  split
  · next hw =>
    split at hw
    · cases hw
    · split at hw <;> cases hw
      obtain ⟨hm, hc, hf, -⟩ := countFor_keeps s s.myCrew.tenant 2
        ((x.row.toNat + 1) * (if x.fmt.toNat = 1 ∨ x.fmt.toNat = 2 then 4 else 1))
      exact ⟨hm, hc, hf⟩
  · next hw =>
    split at hw
    · cases hw
      trivial
    · split at hw <;> cases hw
      rfl

/-! ## Copies -/

/-- A check of the descriptor that fails traps. -/
theorem dCheck_isTrap {i : Instr} {opc : Nat} {c : CpFields} {r : List Word} {w : Stop} (h : dCheck s i opc c r = .error w) :
    w.IsTrap := by
  unfold dCheck at h
  dsimp only at h
  split at h
  · exact illegalWords_isTrap h
  · split at h
    · cases h
      exact ⟨_, _, rfl⟩
    · split at h
      · cases h
        exact ⟨_, _, rfl⟩
      · split at h
        · cases h
          exact ⟨_, _, rfl⟩
        · split at h <;> cases h
          exact ⟨_, _, rfl⟩

theorem ringCheck_isTrap {i : Instr} {c : CpFields} {r : List Word} {w : Stop} (h : ringCheck s i c r = .error w) :
    w.IsTrap := by
  unfold ringCheck at h
  dsimp only at h
  split at h
  · cases h
    exact ⟨_, _, rfl⟩
  · split at h
    · exact illegalWords_isTrap h
    · split at h <;> cases h
      exact ⟨_, _, rfl⟩

/-- A write of sd. -/
theorem setReg_bodyFrame (r : BitVec 5) (v : Word) : BodyFrame r s (s.setMe (s.me.setReg r v)) :=
  ⟨.setMe (setReg_preds ..) fun q hq => reg_setReg_ne _ _ _ _ hq, by
    rw [me_setMe]
    exact innermostAt_congr _ _ _ (fun id => by simp [Strand.loop]) (setReg_level ..) |>.trans (by rw [setReg_pc])⟩

/-- More promises leave the strands. -/
theorem str_setPromises (c : Crew) (l : List Promise) (k : StrandKind) :
    ({ c with promises := l } : Crew).str k = c.str k := by
  cases k <;> rfl

/-- The start of a copy writes sd only. -/
theorem startPromise_bodyFrame (id : Nat) (sd : BitVec 5) (opc : Nat) (r : List Word) :
    BodyFrame sd s (startPromise s id sd opc r) := by
  unfold startPromise
  split
  · exact .refl sd s
  · split
    · refine BodyFrame.trans (t := State.setMyCrew { s with fresh := s.fresh + 1 } _) ?_ (setReg_bodyFrame ..)
      exact BodyFrame.trans (t := { s with fresh := s.fresh + 1 }) (.of_crews rfl rfl rfl)
        (.setMyCrew (str_setPromises ..) rfl)
    · exact setReg_bodyFrame ..

/-- A copy keeps the frame but for sd. -/
theorem copy_frame {i : Instr} {ks : List StrandKind} {p : BitVec 4} {opc : Nat} {e : Eng} {c : CpFields}
    (hn : NoLoopEnd s) (h : issue i ks p false (copyBody i opc e c) s = .next t) : FrameOff c.sd s t := by
  refine issue_frame hn ?_ h
  unfold copyBody
  dsimp only
  split
  · next hg => exact (engGate_stops hg).resFrame
  · split
    · exact .refl _ s
    · split
      · next hd => exact (dCheck_isTrap hd).resFrame
      · split
        · next hr =>
          split at hr
          · exact (ringCheck_isTrap hr).resFrame
          · cases hr
        · exact ⟨rfl, (enterEngine_bodyFrame ..).trans (startPromise_bodyFrame ..)⟩

/-! ## The obligation -/

/-- Where every register but d is kept and d is s0, every register is. -/
theorem FrameOff.all_regs (h : FrameOff 0#5 s t) (r : BitVec 5) : t.me.reg r = s.me.reg r := by
  by_cases hr : r = 0#5
  · rw [hr, reg_zero, reg_zero]
  · exact h.regs r hr

/-- The frame as the statement has it. -/
theorem FrameOff.same (h : FrameOff d s t) :
    SameMemory s t ∧ t.cur = s.cur ∧ t.me.preds = s.me.preds ∧ t.myCrew.tiles = s.myCrew.tiles :=
  ⟨fun a => by rw [h.mem], h.cur, h.preds, h.tiles⟩

/-- Settles O52: each instruction is one of the courses of its group. -/
theorem engineFrame : Obligations.EngineFrame := by
  intro s t e v x c
  dsimp only
  intro hn
  have hvec {i : Instr} {ks : List StrandKind} {p : BitVec 4} {off : Bool} {reads : List (RowSpec × BitVec 1)}
      {f : Strand → List Row → Row}
      (h : issue i ks p off (vBody e v reads fun x rows => .ok (f x rows, x)) s = .next t) : FrameOff 0#5 s t :=
    vIssue_frame hn .of_row h
  have hlds {i : Instr} {ks : List StrandKind} {p : BitVec 4} {u : TileUse} {part : State → PlanePart}
      (h : issue i ks p false (ldsBody e u fun s => .ok (part s)) s = .next t) : FrameOff 0#5 s t :=
    mIssue_frame hn (by exact ⟨rfl, rfl, rfl⟩) h
  have hmat {i : Instr} {ks : List StrandKind} {p : BitVec 4} {u : TileUse} {array : Bool} {busy : State → Option Nat}
      {o : State → EngOp}
      (h : issue i ks p false (mBody e u array busy fun s => .ok (s, o s)) s = .next t) : FrameOff 0#5 s t :=
    mIssue_frame hn (by exact ⟨rfl, rfl, rfl⟩) h
  refine ⟨fun i hi hx => ?_, fun i hi hx => ?_⟩
  · suffices h : FrameOff 0#5 s t from ⟨h.same, h.all_regs⟩
    revert hx
    revert i
    simp only [List.forall_mem_cons]
    exact ⟨hvec, hvec, hvec, hvec, hvec, hvec, hvec, hvec, hvec, hvec, hvec, hvec, hvec, hvec, hvec, hvec, hvec, hvec, hvec,
      hvec, hvec, hvec, hvec, hvec, vIssue_frame hn (cvtCalc_draws ..), hvec, hvec, vIssue_frame hn (dropCalc_draws ..),
      hvec, hvec, hvec, hvec, hvec, hvec, hvec, vIssue_frame hn (vrngCalc_draws ..), hvec,
      hlds, ldsP_frame hn, hlds, hlds, hmat, mmul_frame hn, mmul_frame hn,
      hmat, hmat, by simp⟩
  · suffices h : FrameOff c.sd s t from ⟨h.same, h.regs⟩
    revert hx
    revert i
    simp only [List.forall_mem_cons]
    exact ⟨copy_frame hn, copy_frame hn, copy_frame hn, copy_frame hn, copy_frame hn, copy_frame hn, copy_frame hn,
      copy_frame hn, by simp⟩

end Sys2Proof.Machine
end

section
/-! Completions of engine instructions and copies, and the units of a copy (02 R16 to R22; 12 R218, R234; 13 R244 to R253). -/
namespace Sys2Proof.Machine

/-- A cpref of 32 bytes of LOCAL from the last 16 bytes of its field on. -/
def strayPrefetch : AsyncOp :=
  { id := 0, opc := 6, total := 1
    fields := { sn := 0, sd := 0, pd := 0, tile := 0, flag := 0, zs := 0, zd := 0 }
    regs := [0x3000000000FFFFF0#64, 0#64, 0x0001000100000020#64] }

/-- A device whose crew 0 has the prefetch in its copy engine. -/
def strayState : State :=
  ({} : State).setCrew 0 { ctx := some { launch := 0, task := 0, tenant := 0, created := 0 }, ops := [strayPrefetch] }

/-- Crew 0 has an operation that is held. -/
def holdsCopy : Outcome → Bool
  | .next t => (t.crew 0).ops.any fun o => o.held.isSome
  | _ => false

/-- The unit leaves its field (03 R42), so that the event holds the prefetch. -/
theorem strayPrefetch_held : holdsCopy (exec (.copyUnit 0 0) strayState) = true := by decide

/-- A unit that has been performed leaves the prefetch without a hold. -/
theorem strayPrefetch_done_not_held : holdsCopy (.next (unitDone strayState 0 strayPrefetch 0)) = false := by decide

/-- Refutes O39: its clause about cpref says that every unit outside GLOBAL is done. A unit whose address leaves its
field is not: here a prefetch of 32 bytes from the last 16 bytes of LOCAL is held (13 R241, R254; 03 R42). -/
theorem not_engineCompletions : ¬ Obligations.EngineCompletions := by
  intro h
  obtain ⟨-, -, -, -, hpref, -⟩ := h strayState strayState 0 0 strayPrefetch { id := 0, kind := .v, unit := .vector }
  have hdone := hpref (by decide) (by decide) (by decide) rfl (by decide)
  have hheld := strayPrefetch_held
  rw [hdone, strayPrefetch_done_not_held] at hheld
  cases hheld

end Sys2Proof.Machine
end

section
/-! Account records, errors and zeroing (03 R53, R54; 07 R110; 14 R259; 23 R365). -/
namespace Sys2Proof.Machine

/-! ## Account records -/

/-- A record whose accumulator is not full leaves by the event of an eviction. -/
theorem accountRecordEviction_writes {s : State} {crew : Nat} {r : AccRec} {rest : List AccRec}
    (h : (s.crew crew).evicted = r :: rest) (hc : r.acc.count < accMax) :
    exec (.accountRecordEviction crew) s = .next (writeEvicted s crew r) := by
  show execAccountRecordEviction crew s = _
  simp [execAccountRecordEviction, h, hc]

/-- A record whose accumulator is full leaves by the event of an overflow. -/
theorem accountCountOverflow_writes {s : State} {crew : Nat} {r : AccRec} {rest : List AccRec}
    (h : (s.crew crew).evicted = r :: rest) (hc : accMax ≤ r.acc.count) :
    exec (.accountCountOverflow crew) s = .next (writeEvicted s crew r) := by
  show execAccountCountOverflow crew s = _
  simp [execAccountCountOverflow, h, hc]

/-- Where the account can be written, the record leaves its list for its slot. -/
theorem writeEvicted_ready {s s1 s2 : State} {crew : Nat} {r : AccRec} (ha : acctReady false s crew 1 = .ok s1)
    (hw : writeRec crew (s1.setCrew crew { s1.crew crew with evicted := (s1.crew crew).evicted.drop 1 }) r = .ok s2) :
    writeEvicted s crew r = dropAsked s2 (.acct crew) := by
  simp only [writeEvicted, ha, hw]

/-- Where an access of the account stalls, the record waits. -/
theorem writeEvicted_waits {s s1 : State} {crew w : Nat} {r : AccRec} (ha : acctReady false s crew 1 = .error (.wait w s1)) :
    writeEvicted s crew r = s1 := by
  simp only [writeEvicted, ha]

/-! ## Errors -/

section
variable {s : State} {unit sub : Nat} {pa : Word}

/-- The unit of an error is one that the device has, and for HBM the stack too (R365). -/
def KnownUnit (unit sub : Nat) : Prop := unit < 5 ∧ (unit = 0 → sub < 12)

/-- A known unit passes the guard of the error events. -/
theorem KnownUnit.guard (h : KnownUnit unit sub) : ¬(5 ≤ unit ∨ unit = 0 ∧ 12 ≤ sub) := by
  obtain ⟨hu, hs⟩ := h
  omega

/-- A context is on a crew that the device has. -/
def Live (s : State) (n : Nat) : Prop := n < 384 ∧ (s.crew n).ctx.isSome = true

/-- A crew with a context passes the guard of a consuming crew. -/
theorem Live.guard {n : Nat} (h : Live s n) : ¬(384 ≤ n ∨ (s.crew n).ctx.isNone = true) := by
  obtain ⟨hn, hc⟩ := h
  rintro (h | h)
  · omega
  · simp [Option.isNone_iff_eq_none.mp h] at hc

/-- A corrected error leaves at most the record of its count's overflow. -/
theorem correctedSoftError_known (hk : KnownUnit unit sub) (overflow : Bool) :
    exec (.correctedSoftError unit sub pa overflow) s =
      .next (if overflow then pushErr s (errKind 2 unit sub) unit 0 0x1FF pa.toNat else s) :=
  if_neg hk.guard

/-- Data that nobody consumes leaves a record alone. -/
theorem uncorrectableError_nobody (hk : KnownUnit unit sub) : exec (.uncorrectableError .nobody unit sub pa) s =
    .next (pushBad s unit sub 0 0x1FF (BitVec.allOnes 64) pa) :=
  if_neg hk.guard

/-- An access that consumes the data costs its crew the context. -/
theorem uncorrectableError_access {n : Nat} (hk : KnownUnit unit sub) (hl : Live s n) :
    exec (.uncorrectableError (.access n) unit sub pa) s =
      .next (killContext (pushBadOf s unit sub n pa) n cMemError) :=
  (if_neg hk.guard).trans (if_neg hl.guard)

/-- A started instruction or operation that consumes the data is dropped, and its context killed. -/
theorem uncorrectableError_started {n op : Nat} (hk : KnownUnit unit sub) (hl : Live s n)
    (ho : ((s.crew n).inflight.any fun o => o.id == op) = true ∨ ((s.crew n).ops.any fun o => o.id == op) = true) :
    exec (.uncorrectableError (.started n op) unit sub pa) s =
      .next (killContext ((pushBadOf s unit sub n pa).setCrew n (dropStarted (s.crew n) op)) n cMemError) := by
  refine (if_neg hk.guard).trans (if_neg ?_)
  have hg := hl.guard
  rw [or_assoc.symm, not_or]
  refine ⟨hg, ?_⟩
  rcases ho with ho | ho <;> simp [ho]

/-- The waiting contexts and cards of a walk pass its guard. -/
theorem walk_guard {crews cards : List Nat} (hc : ∀ n ∈ crews, Live s n) (hd : ∀ id ∈ cards, ∃ k ∈ s.cards, k.id = id) :
    ¬((crews.any (fun n => decide (384 ≤ n) || (s.crew n).ctx.isNone) ||
      cards.any (fun id => !(s.cards.any fun k => k.id == id))) = true) := by
  simp only [Bool.or_eq_true, not_or, List.any_eq_true, not_exists, not_and, decide_eq_true_iff]
  refine ⟨fun n hn => (hc n hn).guard |> not_or.mp, fun id hi => ?_⟩
  simpa using hd id hi

/-- A walk on which contexts wait: the record names the first crew, and all that wait are undone. -/
theorem uncorrectableError_walk_crews {n : Nat} {crews cards : List Nat} (hk : KnownUnit unit sub)
    (hc : ∀ m ∈ n :: crews, Live s m) (hd : ∀ id ∈ cards, ∃ k ∈ s.cards, k.id = id) :
    exec (.uncorrectableError (.walk (n :: crews) cards) unit sub pa) s = .next (cards.foldl killCard
      ((n :: crews).foldl (fun s n => killContext s n cMemError) (pushBadOf s unit sub n pa))) :=
  (if_neg hk.guard).trans (if_neg (walk_guard hc hd))

/-- A walk on which cards alone wait: the record names the first of them on the device. -/
theorem uncorrectableError_walk_cards {cards : List Nat} {k : Card} (hk : KnownUnit unit sub)
    (hf : (s.cards.find? fun k => cards.contains k.id) = some k) (hd : ∀ id ∈ cards, ∃ k ∈ s.cards, k.id = id) :
    exec (.uncorrectableError (.walk [] cards) unit sub pa) s = .next (cards.foldl killCard (pushBadCard s unit sub k pa)) := by
  refine ((if_neg hk.guard).trans (if_neg (walk_guard (by simp) hd))).trans ?_
  simp only [hf]
  rfl

/-- A card that consumes the data ends with the context that posted it. -/
theorem uncorrectableError_card {id : Nat} {k : Card} (hk : KnownUnit unit sub)
    (hf : (s.cards.find? fun k => k.id = id) = some k) :
    exec (.uncorrectableError (.card id) unit sub pa) s = .next (killCard (pushBadCard s unit sub k pa) id) := by
  refine (if_neg hk.guard).trans ?_
  simp only [hf]

end

/-- A card on the device leaves it, asks and waits no more, and its task is killed. -/
theorem killCard_found {s : State} {id : Nat} {k : Card} (hf : (s.cards.find? fun k => k.id = id) = some k) :
    killCard s id = killTask (dropAsked (dropWaiter { s with cards := s.cards.filter fun x => decide (x.id ≠ id) }
      (.card id)) (.card id)) k.crew k.launch k.task := by
  simp only [killCard, hf]

/-! ## Zeroing -/

/-- A zeroed crew. -/
theorem zeroingComplete_crew {s : State} {n : Nat} (h : (s.crew n).zeroing = true) :
    exec (.zeroingComplete (.crew n)) s = .next (s.setCrew n { s.crew n with zeroing := false }) :=
  if_pos h

/-- Zeroed planes, whose lease goes on. -/
theorem zeroingComplete_planes {s : State} {cu : Nat} {l : Lease} (hl : (s.cu cu).lease = some l) (hz : l.zeroing = true) :
    exec (.zeroingComplete (.planes cu)) s =
      .next (s.setCu cu { s.cu cu with lease := some { l with zeroing := false } }) := by
  show execZeroingComplete (.planes cu) s = _
  simp [execZeroingComplete, hl, hz]

/-- A zeroed segment, whose initialisers are forgotten. -/
theorem zeroingComplete_segment {s : State} {cu seg : Nat} (h : seg ∈ (s.cu cu).zeroSegs) :
    exec (.zeroingComplete (.segment cu seg)) s =
      .next (forgetInits (s.setCu cu { s.cu cu with zeroSegs := (s.cu cu).zeroSegs.filter fun x => decide (x ≠ seg) })
        (16 * cu + seg)) :=
  if_pos (List.contains_iff_mem.mpr h)

/-! ## The obligation -/

/-- Settles O48: each event by the lemma of its case above. -/
theorem accountsAndErrors : Obligations.AccountsAndErrors := by
  intro s crew cu seg unit sub op id crews cards pa r rest l k s1 s2 w
  dsimp only
  exact ⟨accountRecordEviction_writes, accountCountOverflow_writes, fun _ => writeEvicted_ready,
    fun _ => writeEvicted_waits, uncorrectableError_nobody, uncorrectableError_access, uncorrectableError_started,
    fun hk hl hc hd => uncorrectableError_walk_crews hk (List.forall_mem_cons.mpr ⟨hl, hc⟩) hd,
    uncorrectableError_walk_cards, uncorrectableError_card, fun _ => killCard_found,
    fun hk => ⟨correctedSoftError_known hk false, correctedSoftError_known hk true⟩, zeroingComplete_crew,
    zeroingComplete_planes, zeroingComplete_segment⟩

end Sys2Proof.Machine
end

section
/-! The frame of scalar loads, stores and atomics on this device (03 R46; 10 R175 to R178). -/
namespace Sys2Proof.Machine

variable {d : BitVec 5} {s s1 t : State} {m : List Host.Cell} {P : Nat → Prop}

/-! ## Bodies that write memory -/

/-- The frame of a body that may write memory: of the strand in focus all but d stays, and of memory the bytes that P
names; where it stops, memory stays whole. -/
def ResKeeps (d : BitVec 5) (s : State) (P : Nat → Prop) : Res (State × Option Word) → Prop
  | .ok (u, o) => o = none ∧ BodyFrame d { s with mem := u.mem } u ∧ ∀ a, P a → memByte u.mem a = memByte s.mem a
  | .error w => ResFrame d s (.error w)

/-- An instruction keeps the frame before its body runs, or it ends as its body answers. -/
theorem issue_frame_or_finish {i : Instr} {ks : List StrandKind} {p : BitVec 4} {b : Body} {n : Nat} (hn : NoLoopEnd s)
    (h : issue i ks p false b s n = .next t) : FrameOff d s t ∨ finish i s n (b s) = .next t := by
  by_cases hk : s.cur.2 ∈ ks
  · cases hw : predWait s p with
    | some q =>
      rw [issue_predWait hk hw] at h
      exact .inl (Host.Outcome.next.inj h ▸ holdMe_frame q)
    | none =>
      cases hp : s.me.predHolds p with
      | false =>
        rw [issue_skips hk hw hp] at h
        exact .inl (Host.Outcome.next.inj h ▸ retire_frame i _ hn)
      | true =>
        cases hi : interlock s i with
        | some q =>
          rw [issue_interlocked hk hw hp hi] at h
          exact .inl (Host.Outcome.next.inj h ▸ holdMe_frame _)
        | none =>
          rw [issue_executes hk hw hi hp] at h
          exact .inr h
  · rw [issue_wrong_kind hk] at h
    exact .inl (Host.Outcome.next.inj h ▸ trapMe_frame _ _)

/-- The frame of an instruction as the statement has it: the bytes that P names, and of the strand all but d. -/
def MemFrame (d : BitVec 5) (P : Nat → Prop) (s t : State) : Prop :=
  (∀ a, P a → memByte t.mem a = memByte s.mem a) ∧
    t.cur = s.cur ∧ (∀ r, r ≠ d → t.me.reg r = s.me.reg r) ∧ t.me.preds = s.me.preds

/-- Where memory stays whole, so do the bytes of P. -/
theorem FrameOff.memFrame (h : FrameOff d s t) : MemFrame d P s t :=
  ⟨fun a _ => by rw [h.mem], h.cur, h.regs, h.preds⟩

/-- An instruction keeps of memory and of its strand what its body keeps. -/
theorem issue_memFrame {i : Instr} {ks : List StrandKind} {p : BitVec 4} {b : Body} (hn : NoLoopEnd s)
    (hb : ResKeeps d s P (b s)) (h : issue i ks p false b s = .next t) : MemFrame d P s t := by
  rcases issue_frame_or_finish (d := d) hn h with h | h
  · exact h.memFrame
  · cases hr : b s with
    | error w =>
      rw [hr] at hb h
      exact (finish_frame hn hb h).memFrame
    | ok r =>
      rw [hr] at hb h
      obtain ⟨u, o⟩ := r
      obtain ⟨rfl, hu, hm⟩ := hb
      obtain rfl := Host.Outcome.next.inj h
      have ht : FrameOff d { s with mem := u.mem } (retire i u) := hu.toFrameOff.trans (retire_frame i _ (hu.ends.trans hn))
      exact ⟨fun a ha => by rw [ht.mem, hm a ha], ht.cur, ht.regs, ht.preds⟩

/-- The order of a class at most makes a body wait. -/
theorem inClass_keeps {c : Nat} {b : Body} (hb : ResKeeps d s P (b s)) : ResKeeps d s P (inClass c b s) := by
  unfold inClass
  split
  · next r hr =>
    rw [hr] at hb
    split
    · exact .refl d s
    · exact hb
  · next q u hr =>
    rw [hr] at hb
    split
    · exact .refl d s
    · exact hb
  · exact hb

/-- A release at most makes a body wait. -/
theorem releaseBody_keeps {mask : BitVec 16} {b : Body} (hb : ResKeeps d s P (b s)) :
    ResKeeps d s P (releaseBody mask b s) := by
  unfold releaseBody
  split
  · next r hr =>
    rw [hr] at hb
    split
    · exact .refl d s
    · exact hb
  · exact hb

/-- States that differ in what an access has counted and cached keep the frame, whatever memory they are given. -/
theorem SameCrews.bodyFrame (h : SameCrews s t) : BodyFrame d { s with mem := m } { t with mem := m } :=
  .of_crews rfl h.2.1 h.2.2.1

/-! ## Loads -/

/-- The places of an access are found, and lie on this device. -/
def FoundHere (s : State) (a : Word) (n z : Nat) (need : BitVec 3) (s1 : State) (ps : List Place) : Prop :=
  placesOf s a n z need = .ok (s1, ps) ∧ ∀ q ∈ ps, isWindowKey q.1 = false

/-- A load from this device writes its register and no memory. -/
theorem loadBody_keeps {addr : Strand → Word} {n z c : Nat} {sext : Bool} {more : BitVec 16} {ps : List Place}
    (hf : FoundHere s (addr s.me) n z 1#3 s1 ps) :
    ResKeeps d s (fun _ => True) (loadBody d addr n sext z c more s) := by
  obtain ⟨hp, hl⟩ := hf
  refine inClass_keeps ?_
  have hnear : ps.filter (fun q => isWindowKey q.1) = [] := by simpa using hl
  have hs : SameCrews s (countPlaces s1 s1.myCrew.tenant false ps) := (placesOf_keeps hp).trans (countPlaces_keeps ..)
  unfold loadReg
  cases pointerCheck (addr s.me) n z n (addr s.me) with
  | some f => trivial
  | none =>
    simp only [hp, hnear]
    exact ⟨rfl, hs.bodyFrame.trans (setReg_bodyFrame ..), fun a _ => congrArg (memByte · a) hs.1⟩

/-! ## Stores -/

/-- A byte lies in none of the places. -/
def OffPlaces (ps : List Place) (a : Nat) : Prop := ∀ q ∈ ps, a < q.1 ∨ q.1 + q.2 ≤ a

/-- A number has as many bytes as are asked for. -/
theorem leBytes_length (n v : Nat) : (leBytes n v).length = n := by
  induction n generalizing v with
  | zero => rfl
  | succ n ih => simp [leBytes, ih]

/-- A store to places of this device changes memory alone. -/
theorem storePlaces_here (w : Sender) {ps : List Place} (hl : ∀ q ∈ ps, isWindowKey q.1 = false) (bs : List Byte)
    (s : State) : storePlaces w ps bs s = { s with mem := (storePlaces w ps bs s).mem } := by
  induction ps generalizing bs s with
  | nil => rfl
  | cons p r ih =>
    obtain ⟨hp, hr⟩ := List.forall_mem_cons.mp hl
    obtain ⟨k, c⟩ := p
    simp only [storePlaces, show isWindowKey k = false from hp]
    exact ih hr _ _

/-- A store to this device writes the bytes of its places and no register. -/
theorem storeBody_keeps {sb : BitVec 5} {addr : Strand → Word} {n z c : Nat} {ps : List Place}
    (hf : FoundHere s (addr s.me) n z 2#3 s1 ps) : ResKeeps d s (OffPlaces ps) (storeBody sb addr n z c s) := by
  obtain ⟨hp, hl⟩ := hf
  refine inClass_keeps ?_
  have hs : SameCrews s (countPlaces s1 s1.myCrew.tenant true ps) := (placesOf_keeps hp).trans (countPlaces_keeps ..)
  have hready : ps.all (storeReady s1) = true := List.all_eq_true.mpr fun q hq => by simp [storeReady, hl q hq]
  unfold storeBytes
  rw [leBytes_length]
  cases pointerCheck (addr s.me) n z n (addr s.me) with
  | some f => trivial
  | none =>
    simp only [hp, hready, if_true]
    refine ⟨rfl, ?_, fun a ha => ?_⟩
    · rw [storePlaces_here _ hl]
      exact hs.bodyFrame
    · rw [storePlaces_out _ _ _ _ _ hl ha, hs.1]

/-! ## Atomics -/

/-- An atomic writes no byte outside its own. -/
theorem amoAt_out {fn n k b c a : Nat} (h : a < k ∨ k + n ≤ a) : memByte (amoAt m fn n k b c).2 a = memByte m a := by
  unfold amoAt
  dsimp only
  split
  · exact memByte_memWrite_out _ _ _ _ (by rwa [leBytes_length])
  · rfl

/-- An atomic on this device traps before it reads, or writes its place and its register. -/
theorem atomic_here {a : Word} {n k l : Nat} (fn b c cls : Nat) (hp : placesOf s a n 0 3#3 = .ok (s1, [(k, l)]))
    (hk : isWindowKey k = false) :
    (∃ q v, atomic s a fn n b c d cls = .error (.trap q v)) ∨
      ∃ u, atomic s a fn n b c d cls = .ok u ∧ u.mem = (amoAt s.mem fn n k b c).2 ∧ BodyFrame d { s with mem := u.mem } u := by
  unfold atomic
  split
  · exact .inl ⟨_, _, rfl⟩
  · split
    · exact .inl ⟨_, _, rfl⟩
    · cases pointerCheck a n 0 n a with
      | some f => exact .inl ⟨_, _, rfl⟩
      | none =>
        have hs := placesOf_keeps hp
        have hc := (hs.trans (countPlaces_keeps s1 s1.myCrew.tenant false [(k, l)])).trans
          (countPlaces_keeps _ s1.myCrew.tenant true [(k, l)])
        simp only [hp, hk, ← hs.1]
        exact .inr ⟨_, rfl, rfl, hc.bodyFrame.trans (setReg_bodyFrame ..)⟩

/-- The body of an atomic on this device writes its place and its register. -/
theorem amoBody_keeps {fn n k l c : Nat} {sa sb sc : BitVec 5} (hp : placesOf s (s.me.reg sa) n 0 3#3 = .ok (s1, [(k, l)]))
    (hk : isWindowKey k = false) :
    ResKeeps d s (fun a => a < k ∨ k + n ≤ a) (amoBody fn n d sa sb sc c s) := by
  refine inClass_keeps ?_
  dsimp only
  rcases atomic_here (d := d) fn ((s.me.reg sb).toNat % 2 ^ (8 * n)) ((s.me.reg sc).toNat % 2 ^ (8 * n)) c hp hk with
    ⟨q, v, ha⟩ | ⟨u, ha, hm, hu⟩ <;> rw [ha]
  · trivial
  · exact ⟨rfl, hu, fun a h => by rw [hm, amoAt_out h]⟩

/-! ## The obligation -/

/-- Settles O51: each form is a load, a store or an atomic by its body. -/
theorem memoryFrame : Obligations.MemoryFrame := by
  intro s t s1 p sd sa si sc off loff size sext scope z cls mask a4 ps k n
  dsimp only
  intro hn
  have hload {i : Instr} {ks : List StrandKind} {p : BitVec 4} {addr : Strand → Word} {n z c : Nat} {sext : Bool}
      {more : BitVec 16} (h : issue i ks p false (loadBody sd addr n sext z c more) s = .next t)
      (hf : FoundHere s (addr s.me) n z 1#3 s1 ps) : MemFrame sd (fun _ => True) s t :=
    issue_memFrame hn (loadBody_keeps hf) h
  have hstore {i : Instr} {ks : List StrandKind} {p : BitVec 4} {addr : Strand → Word} {n z c : Nat}
      (h : issue i ks p false (storeBody sd addr n z c) s = .next t)
      (hf : FoundHere s (addr s.me) n z 2#3 s1 ps) : MemFrame 0#5 (OffPlaces ps) s t :=
    issue_memFrame hn (storeBody_keeps hf) h
  have hrel {i : Instr} {ks : List StrandKind} {p : BitVec 4} {addr : Strand → Word} {n z c : Nat} {mask : BitVec 16}
      (h : issue i ks p false (releaseBody mask (storeBody sd addr n z c)) s = .next t)
      (hf : FoundHere s (addr s.me) n z 2#3 s1 ps) : MemFrame 0#5 (OffPlaces ps) s t :=
    issue_memFrame hn (releaseBody_keeps (storeBody_keeps hf)) h
  have hamo {i : Instr} {ks : List StrandKind} {p : BitVec 4} {fn w c : Nat} {sb sc : BitVec 5}
      (h : issue i ks p false (amoBody fn w sd sa sb sc c) s = .next t)
      (hp : placesOf s (s.me.reg sa) w 0 3#3 = .ok (s1, [(k, n)])) (hk : isWindowKey k = false) :
      MemFrame sd (fun a => a < k ∨ k + w ≤ a) s t :=
    issue_memFrame hn (amoBody_keeps hp hk) h
  refine ⟨fun f hi hf hx => ?_, fun f hi hf hx => ?_, fun f hi hp hk hx => ?_⟩
  · suffices h : MemFrame sd (fun _ => True) s t from ⟨fun a => h.1 a trivial, h.2⟩
    revert hf
    revert hx
    revert f
    simp only [List.forall_mem_cons]
    exact ⟨hload, hload, hload, hload, hload, hload, hload, hload, hload, by simp⟩
  · suffices h : MemFrame 0#5 (OffPlaces ps) s t from h
    revert hf
    revert hx
    revert f
    simp only [List.forall_mem_cons]
    exact ⟨hstore, hstore, hstore, hstore, hstore, hrel, by simp⟩
  · suffices h : MemFrame sd (fun a => a < k ∨ k + (if f.2 = 1#1 then 8 else 4) ≤ a) s t from h
    revert hp hk
    revert hx
    revert f
    simp only [List.forall_mem_cons]
    exact ⟨hamo, hamo, hamo, hamo, hamo, hamo, hamo, hamo, hamo, hamo, hamo, by simp⟩

end Sys2Proof.Machine
end

section
/-! An arrival at a barrier object (04 R67 to R70). -/
namespace Sys2Proof.Machine

/-! ## Numbers in memory -/

/-- Little-endian bytes give their number back. -/
theorem leNat_leBytes (n v : Nat) (h : v < 256 ^ n) : leNat (leBytes n v) = v := by
  induction n generalizing v with
  | zero =>
    have hv : v = 0 := by simpa using h
    rw [hv]
    rfl
  | succ n ih =>
    have hq : v / 256 < 256 ^ n := by
      rw [Nat.div_lt_iff_lt_mul (by decide)]
      rwa [Nat.pow_succ] at h
    simp only [leBytes, leNat, ih _ hq, BitVec.toNat_ofNat]
    omega

/-- A number of n bytes is below 256 ^ n. -/
theorem memNat_lt (m : List Host.Cell) (k n : Nat) : memNat m k n < 256 ^ n := by
  induction n generalizing k with
  | zero => simp [memNat, memBytes, leNat]
  | succ n ih =>
    have hb := (memByte m k).isLt
    have hr := ih (k + 1)
    rw [Nat.pow_succ]
    simp only [memNat, memBytes, leNat] at hr ⊢
    omega

/-- A number that was written reads as it was written. -/
theorem memNat_memWrite (m : List Host.Cell) (k n v : Nat) (h : v < 256 ^ n) : memNat (memWrite m k (leBytes n v)) k n = v := by
  have hr := memBytes_memWrite m k (leBytes n v)
  rw [leBytes_length] at hr
  rw [memNat, hr, leNat_leBytes n v h]

/-- Numbers whose bytes agree one by one agree. -/
theorem memNat_congr {m m' : List Host.Cell} {k n : Nat} (h : ∀ a, k ≤ a → a < k + n → memByte m a = memByte m' a) :
    memNat m k n = memNat m' k n := by
  rw [memNat, memNat, memBytes_congr m m' k n h]

/-- A number outside the bytes of a write reads as before. -/
theorem memNat_memWrite_out (m : List Host.Cell) (k : Nat) (bs : List Byte) (j n : Nat) (h : j + n ≤ k ∨ k + bs.length ≤ j) :
    memNat (memWrite m k bs) j n = memNat m j n := by
  rw [memNat, memNat, memBytes_memWrite_out m k bs j n h]

/-- A nonnegative number below half of the range reads as signed unchanged. -/
theorem signedNat_toNat {q : Int} (h0 : 0 ≤ q) (h1 : q < 2 ^ 31) : signedNat 4 q.toNat = q := by
  have hv : (BitVec.ofNat 32 q.toNat).toNat = q.toNat := Nat.mod_eq_of_lt (by omega)
  exact (BitVec.toInt_eq_toNat_of_lt (by rw [hv]; omega)).trans (by rw [hv, Int.toNat_of_nonneg h0])

/-! ## The memory that an arrival leaves -/

/-- Memory after the flip of a phase (R68): pending is expected again and the phase bit differs. -/
def phaseFlipped (m : List Host.Cell) (k : Nat) : List Host.Cell :=
  memWrite (memWrite m (k + 4) (memBytes m k 4)) (k + 8) (leBytes 1 (memNat m (k + 8) 1 ^^^ 1))

/-- Memory after the flip of a phase by an arrival of d bytes too many (R70). -/
def overrunCounted (m : List Host.Cell) (k d : Nat) : List Host.Cell :=
  memWrite (memWrite (phaseFlipped m k) (k + 9) (leBytes 1 (memNat m (k + 9) 1 ||| 1))) (k + 12)
    (leBytes 4 (min (memNat m (k + 12) 4 + d) 0xFFFFFFFF))

section
variable (m : List Host.Cell) (k : Nat)

/-- A flip changes pending and the phase byte alone. -/
theorem memByte_phaseFlipped {a : Nat} (h : a < k + 4 ∨ k + 9 ≤ a) : memByte (phaseFlipped m k) a = memByte m a := by
  rw [phaseFlipped, memByte_memWrite_out _ _ _ _ (by rw [leBytes_length]; omega),
    memByte_memWrite_out _ _ _ _ (by rw [memBytes_length]; omega)]

/-- A flip reloads pending from expected. -/
theorem memNat_phaseFlipped_pending : memNat (phaseFlipped m k) (k + 4) 4 = memNat m k 4 := by
  have hr := memBytes_memWrite m (k + 4) (memBytes m k 4)
  rw [memBytes_length] at hr
  rw [phaseFlipped, memNat_memWrite_out _ _ _ _ _ (by omega), memNat, hr, memNat]

/-- A flip changes bit 0 of the phase byte. -/
theorem memNat_phaseFlipped_phase : memNat (phaseFlipped m k) (k + 8) 1 = memNat m (k + 8) 1 ^^^ 1 :=
  memNat_memWrite _ _ _ _ (Nat.xor_lt_two_pow (n := 8) (memNat_lt m (k + 8) 1) (by decide))

variable (d : Nat)

/-- An overrun changes beyond the flip its bit and its count alone. -/
theorem memByte_overrunCounted {a : Nat} (h : a < k + 9 ∨ k + 10 ≤ a ∧ a < k + 12 ∨ k + 16 ≤ a) :
    memByte (overrunCounted m k d) a = memByte (phaseFlipped m k) a := by
  rw [overrunCounted, memByte_memWrite_out _ _ _ _ (by rw [leBytes_length]; omega),
    memByte_memWrite_out _ _ _ _ (by rw [leBytes_length]; omega)]

/-- An overrun sets its bit. -/
theorem memNat_overrunCounted_bit : memNat (overrunCounted m k d) (k + 9) 1 = memNat m (k + 9) 1 ||| 1 := by
  rw [overrunCounted, memNat_memWrite_out _ _ _ _ _ (by omega),
    memNat_memWrite _ _ _ _ (Nat.or_lt_two_pow (n := 8) (memNat_lt m (k + 9) 1) (by decide))]

/-- An overrun adds to overrun_bytes up to its largest value. -/
theorem memNat_overrunCounted_bytes :
    memNat (overrunCounted m k d) (k + 12) 4 = min (memNat m (k + 12) 4 + d) 0xFFFFFFFF :=
  memNat_memWrite _ _ _ _ (by omega)

end

/-- Memory m' reads as memory m whose object at k has flipped, but for the two fields of an overrun. -/
def ReadsFlipped (m m' : List Host.Cell) (k : Nat) : Prop :=
  ∀ a, a < k + 9 ∨ k + 10 ≤ a ∧ a < k + 12 ∨ k + 16 ≤ a → memByte m' a = memByte (phaseFlipped m k) a

section
variable {m m' : List Host.Cell} {k : Nat} (h : ReadsFlipped m m' k)
include h

/-- The bytes before pending, the reserved bytes and the bytes past the object are as they were. -/
theorem ReadsFlipped.byte {a : Nat} (ha : a < k + 4 ∨ k + 10 ≤ a ∧ a < k + 12 ∨ k + 16 ≤ a) : memByte m' a = memByte m a := by
  rw [h a (by omega), memByte_phaseFlipped m k (by omega)]

/-- The phase byte differs in bit 0. -/
theorem ReadsFlipped.phaseByte : memNat m' (k + 8) 1 = memNat m (k + 8) 1 ^^^ 1 := by
  rw [memNat_congr fun a h1 h2 => h a (by omega), memNat_phaseFlipped_phase]

/-- The phase bit differs. -/
theorem ReadsFlipped.phase : barPhase m' k = 1 - barPhase m k := by
  have hb : memNat m' (k + 8) 1 % 2 = memNat m (k + 8) 1 % 2 ^^^ 1 := by
    rw [h.phaseByte]
    exact Nat.xor_mod_two_pow (n := 1)
  rw [barPhase, barPhase, hb]
  rcases Nat.mod_two_eq_zero_or_one (memNat m (k + 8) 1) with h2 | h2 <;> rw [h2] <;> rfl

/-- pending is expected. -/
theorem ReadsFlipped.pending : barPending m' k = signedNat 4 (memNat m k 4) := by
  rw [barPending, memNat_congr fun a h1 h2 => h a (by omega), memNat_phaseFlipped_pending]

end

/-! ## The arrival -/

/-- Notifying a context changes no memory. -/
theorem notifyOverrun_mem (s : State) (crew launch task : Nat) (p : Word) : (notifyOverrun s crew launch task p).mem = s.mem := by
  unfold notifyOverrun mapContext
  exact (apply_ite State.mem _ _ _).trans (ite_self s.mem)

/-- A context that is still on its crew has BARRIER_OVERRUN pending in its scalar strand. -/
theorem notifyOverrun_pends {s : State} {crew launch task : Nat} {x : Ctx} (p : Word) (hx : (s.crew crew).ctx = some x)
    (hl : x.launch = launch) (ht : x.task = task) :
    ((notifyOverrun s crew launch task p).crew crew).ss.pend.overrun = (s.crew crew).ss.pend.overrun ++ [p] := by
  simp [notifyOverrun, mapContext, hx, hl, ht]

/-- The state that an arrival of d bytes too many leaves before it notifies the initialiser. -/
def overrunState (s : State) (k d : Nat) : State := { s with mem := overrunCounted s.mem k d }

section
variable {s : State} {k : Nat} {n : Int} (p : Word)

/-- An arrival that leaves bytes awaited counts pending down. -/
theorem arrive_counts (h : 0 < barPending s.mem k - n) :
    arrive s k p n = ({ s with mem := memWrite s.mem (k + 4) (leBytes 4 (barPending s.mem k - n).toNat) }, false) :=
  if_pos h

/-- An arrival of the bytes awaited flips the phase. -/
theorem arrive_flips (h : barPending s.mem k - n = 0) : arrive s k p n = ({ s with mem := phaseFlipped s.mem k }, true) := by
  unfold arrive
  dsimp only
  rw [if_neg (by omega), if_pos h]
  rfl

/-- An arrival of more bytes flips the phase, counts the overrun and notifies the initialiser. -/
theorem arrive_overruns (h : barPending s.mem k - n < 0) : arrive s k p n =
    ((sget? s.inits k).elim (overrunState s k (-(barPending s.mem k - n)).toNat) fun c =>
      notifyOverrun (overrunState s k (-(barPending s.mem k - n)).toNat) c.1 c.2.1 c.2.2 p, true) := by
  have hd : (-(barPending s.mem k - n)).toNat = (barPending s.mem k - n).natAbs := by omega
  rw [hd]
  unfold arrive
  dsimp only
  rw [if_neg (by omega), if_neg (by omega)]
  cases sget? s.inits k <;> rfl

/-- The memory that an arrival of too many bytes leaves. -/
theorem arrive_overruns_mem (h : barPending s.mem k - n < 0) :
    (arrive s k p n).1.mem = overrunCounted s.mem k (-(barPending s.mem k - n)).toNat := by
  rw [arrive_overruns p h]
  cases sget? s.inits k with
  | none => rfl
  | some c => exact notifyOverrun_mem ..

/-- An arrival that leaves no byte awaited flips the phase. -/
theorem arrive_readsFlipped (h : barPending s.mem k - n ≤ 0) :
    (arrive s k p n).2 = true ∧ ReadsFlipped s.mem (arrive s k p n).1.mem k := by
  rcases Int.lt_or_eq_of_le h with h | h
  · refine ⟨by rw [arrive_overruns p h], fun a ha => ?_⟩
    rw [arrive_overruns_mem p h, memByte_overrunCounted _ _ _ ha]
  · rw [arrive_flips p h]
    exact ⟨rfl, fun a _ => rfl⟩

end

/-! ## The obligation -/

/-- Settles O33: the arrival by its three cases, counting, flipping and overrunning. -/
theorem barrierArrival : Obligations.BarrierArrival := by
  intro s k ptr n
  dsimp only
  refine ⟨fun h hq => ?_, fun h => ?_, fun h a ha => ?_, fun h => ⟨?_, ?_, ?_⟩⟩
  · rw [arrive_counts ptr h]
    refine ⟨rfl, ?_, fun a ha => memByte_memWrite_out _ _ _ _ (by rwa [leBytes_length])⟩
    rw [barPending, memNat_memWrite _ _ _ _ (by omega), signedNat_toNat (by omega) hq]
  · obtain ⟨hflip, hr⟩ := arrive_readsFlipped ptr h
    exact ⟨hflip, hr.phase, hr.pending, memNat_congr fun a _ _ => hr.byte (by omega), hr.phaseByte,
      memNat_congr fun a _ _ => hr.byte (by omega), fun a ha => hr.byte (by omega)⟩
  · rw [arrive_flips ptr h]
    exact memByte_phaseFlipped _ _ (by omega)
  · rw [arrive_overruns_mem ptr h, memNat_overrunCounted_bit]
  · rw [arrive_overruns_mem ptr h, memNat_overrunCounted_bytes]
  · intro crew launch task x hi hx hl ht
    rw [arrive_overruns ptr h, hi]
    exact notifyOverrun_pends (s := overrunState s k _) ptr hx hl ht

end Sys2Proof.Machine
end

section
/-! Barrier and ring instructions (14 R258 to R263): rinit and the fills of its ring. -/
namespace Sys2Proof.Machine

/-- The scalar strand of crew 0 at an rinit: the ring object is at 0x40 of LOCAL, and its 7 slots of 32 bytes are at
0x1000. -/
def rinitStrand : Strand :=
  (((({} : Strand).setReg 2 0x3000000000000040#64).setReg 3 0x3000000000001000#64).setReg 4 32#64).setReg 5 7#64

/-- The device with that strand; the object that it initialises has slot 1 filled and not yet visible (04 R72). -/
def rinitState : State :=
  { ({} : State).setCrew 0 { ss := rinitStrand } with ringFills := [(sliceKey 0 0x40, [1])] }

/-- No predicate, no tokens, class 0. -/
def rinitEng : Eng := { p := 0, wait := 0, post := 0, noknead := 0, cls := 0 }

/-- The object in s2; base, size and count in s3 to s5. -/
def rinitFields : SyFields := { sa := 2, sb := 3, pd := 0 }

/-- The filled slots that the state of an outcome lists. -/
def fillsListed : Outcome → Store (List Nat)
  | .next t => t.ringFills
  | _ => []

/-- rinit forgets the fills of the object that it writes. -/
theorem rinit_forgets_fills : fillsListed (exec (.rinit rinitEng rinitFields) rinitState) = [] := by decide

/-- Refutes O34: its clause about rinit says that nothing but memory changes. The model's rinit also forgets which slots
of the object were filled and not yet visible (04 R72); here slot 1 of the object is, and the end of the instruction
lists it no more. -/
theorem not_barriersAndRings : ¬ Obligations.BarriersAndRings := by
  intro h
  obtain ⟨-, -, -, -, -, hrinit, -⟩ := h rinitState rinitEng rinitFields (sliceKey 0 0x40)
  have hissues : IssuesHeld rinitState (.rinit rinitEng rinitFields) := by unfold IssuesHeld Issues; decide
  have hmay : MayPerform rinitState rinitEng := by unfold MayPerform InOrder Released; decide
  obtain ⟨hends, -⟩ := hrinit ⟨hissues, hmay, rfl⟩ (by decide) (by decide) (by decide) (by decide) (by decide) (by decide)
    (by decide)
  have hforgets := rinit_forgets_fills
  rw [hends (by decide) (.inl rfl)] at hforgets
  revert hforgets
  decide

end Sys2Proof.Machine
end

section
/-! Messages from other devices (06 R101; 10 R162; 13 R250; 14 R273, R276; 22 R355; 26 R383 to R393). -/
namespace Sys2Proof.Machine

/-! ## Counting changes the tenants alone (27 R400) -/

/-- The state with other tenants. -/
def State.withTenants (s : State) (ts : Store Tenant) : State := { s with tenants := ts }

/-- Counting for a tenant changes the tenants alone. -/
theorem countFor_tenants (s : State) (t k n : Nat) : ∃ ts, countFor s t k n = s.withTenants ts := by
  unfold countFor
  dsimp only
  split
  · exact ⟨_, rfl⟩
  · exact ⟨s.tenants, rfl⟩

/-- Counting a payload changes the tenants alone. -/
theorem payload_tenants (k : Nat) (s : State) (group n : Nat) : ∃ ts, payload k s group n = s.withTenants ts := by
  unfold payload
  split
  · exact ⟨s.tenants, rfl⟩
  · split
    · exact ⟨s.tenants, rfl⟩
    · exact countFor_tenants ..

/-- Counting an answer changes the tenants alone. -/
theorem countAnswer_tenants (s : State) (tag n : Nat) : ∃ ts, countAnswer s tag n = s.withTenants ts := by
  unfold countAnswer
  split
  · split
    · exact payload_tenants ..
    · exact ⟨s.tenants, rfl⟩
  · exact ⟨s.tenants, rfl⟩

/-- An answer to a message that is no load counts nothing. -/
theorem countAnswer_of_not_load {s : State} {tag : Nat} {x : RemoteWait} (hf : s.remote.find? (fun r => r.tag = tag) = some x)
    (hl : x.load = false) (n : Nat) : countAnswer s tag n = s := by
  simp [countAnswer, hf, hl]

/-- The tenants are no part of the window table. -/
theorem findWin_tenants (s : State) (ts : Store Tenant) (group : Nat) (ok : Win → Bool) (n w : Nat) :
    findWin (s.withTenants ts) group ok n w = findWin s group ok n w := by
  induction n generalizing w with
  | zero => rfl
  | succ n ih =>
    rw [findWin, findWin, ih]
    rfl

/-- What does not read the tenants is as it was before a payload was counted. -/
theorem payload_keeps {α : Type} (f : State → α) (hf : ∀ (u : State) ts, f (u.withTenants ts) = f u)
    (k : Nat) (s : State) (group n : Nat) : f (payload k s group n) = f s := by
  obtain ⟨ts, h⟩ := payload_tenants k s group n
  rw [h, hf]

/-! The rest of the state and this device's window entries are as before. -/

@[simp] theorem payload_opens (k : Nat) (s : State) (group n : Nat) : (payload k s group n).opens = s.opens :=
  payload_keeps State.opens (fun _ _ => rfl) ..
@[simp] theorem payload_redCtxs (k : Nat) (s : State) (group n : Nat) : (payload k s group n).redCtxs = s.redCtxs :=
  payload_keeps State.redCtxs (fun _ _ => rfl) ..
@[simp] theorem payload_applied (k : Nat) (s : State) (group n : Nat) : (payload k s group n).applied = s.applied :=
  payload_keeps State.applied (fun _ _ => rfl) ..
@[simp] theorem groupEntry_payload (k : Nat) (s : State) (group n g : Nat) :
    groupEntry (payload k s group n) g = groupEntry s g :=
  payload_keeps (groupEntry · g) (fun u ts => findWin_tenants u ts g _ _ _) ..

/-- A payload of a group that this device is no member of counts for nobody. -/
theorem payload_stranger {s : State} {group : Nat} (hg : groupEntry s group = none) (k n : Nat) : payload k s group n = s := by
  simp [payload, hg]

/-- An interrupt does not depend on the tenants. -/
theorem raiseMsi_tenants (s : State) (ts : Store Tenant) (fn v : Nat) :
    raiseMsi (s.withTenants ts) fn v = (raiseMsi s fn v).withTenants ts := by
  unfold raiseMsi
  split <;> rfl

/-- The state once error record e is in the ring, before its interrupt (R365). -/
def errWritten (s : State) (e : ErrRec) (rest : List ErrRec) : State :=
  { s with
    errs := rest
    mem := memWrite s.mem (hostKey (s.er.base + 32 * (s.er.tail.toNat % s.er.size))) e.bytes
    er := { s.er with tail := s.er.tail + 1#32 } }

/-- A ring with room takes the oldest record that waits. -/
theorem drainErrs_writes {s : State} {e : ErrRec} {rest : List ErrRec} (he : s.errs = e :: rest) (hr : s.er.hasRoom = true)
    (n : Nat) : drainErrs (n + 1) s = drainErrs n (raiseMsi (errWritten s e rest) 0 s.er.vector) := by
  rw [drainErrs, he]
  exact if_pos hr

/-- A ring without room leaves the records waiting. -/
theorem drainErrs_waits {s : State} (hr : s.er.hasRoom = false) (n : Nat) : drainErrs n s = s := by
  cases n with
  | zero => rfl
  | succ n =>
    rw [drainErrs]
    split
    · rfl
    · exact if_neg (by simp [hr])

/-- Without waiting records nothing is written. -/
theorem drainErrs_nil {s : State} (he : s.errs = []) (n : Nat) : drainErrs n s = s := by
  cases n with
  | zero => rfl
  | succ n => rw [drainErrs, he]

/-- What is written of the error records does not depend on the tenants. -/
theorem drainErrs_tenants (n : Nat) (s : State) (ts : Store Tenant) :
    drainErrs n (s.withTenants ts) = (drainErrs n s).withTenants ts := by
  induction n generalizing s with
  | zero => rfl
  | succ n ih =>
    cases hr : s.er.hasRoom with
    | false => rw [drainErrs_waits hr, drainErrs_waits (s := s.withTenants ts) hr]
    | true =>
      by_cases he : s.errs = []
      · rw [drainErrs_nil he, drainErrs_nil (s := s.withTenants ts) he]
      · obtain ⟨e, rest, he⟩ := List.exists_cons_of_ne_nil he
        calc drainErrs (n + 1) (s.withTenants ts)
          _ = drainErrs n (raiseMsi (errWritten (s.withTenants ts) e rest) 0 s.er.vector) :=
            drainErrs_writes (s := s.withTenants ts) he hr n
          _ = drainErrs n ((raiseMsi (errWritten s e rest) 0 s.er.vector).withTenants ts) :=
            congrArg (drainErrs n) (raiseMsi_tenants (errWritten s e rest) ts 0 s.er.vector)
          _ = (drainErrs n (raiseMsi (errWritten s e rest) 0 s.er.vector)).withTenants ts := ih _
          _ = (drainErrs (n + 1) s).withTenants ts := by rw [drainErrs_writes he hr]

/-- An error record does not depend on the tenants. -/
theorem pushErr_tenants (s : State) (ts : Store Tenant) (kind unit fn crew pa : Nat) :
    pushErr (s.withTenants ts) kind unit fn crew pa = (pushErr s kind unit fn crew pa).withTenants ts :=
  drainErrs_tenants 1 { s with errs := s.errs ++ [_] } ts

/-- The state once the payload of a message of a group has come in and been counted. -/
abbrev arrived (s : State) (group : Nat) (data : List Byte) : State := payload 10 s group data.length

section
variable {s : State} (hu : linkUp s = true)

section
variable (hb : tableBusy s = false)
include hu hb

/-- A message comes in while a port carries traffic and the window table stands. -/
theorem message_guard : ¬((!linkUp s || tableBusy s) = true) := by simp [hu, hb]

/-! ## Chunks and sends (R273, R386) -/

section
variable {c : Chunk}

/-- A chunk for a group that this device is no member of gives an error record. -/
theorem collectiveChunk_stranger (hg : groupEntry s c.group = none) :
    exec (.collectiveChunk c) s = .next (pushErr s 3 4 0 0x1FF 0) := by
  show execCollectiveChunk c s = _
  simp [execCollectiveChunk, hu, hb, payload_stranger hg, hg]

/-- Data of a send for a group that this device is no member of gives an error record. -/
theorem sendData_stranger (hg : groupEntry s c.group = none) : exec (.sendData c) s = .next (pushErr s 3 4 0 0x1FF 0) := by
  show execSendData c s = _
  simp [execSendData, hu, hb, payload_stranger hg, hg]

/-- The context that a chunk is for has been closed here. -/
def closedHere (s : State) (c : Chunk) : Bool :=
  decide (c.params.headD 0 < sget 0 s.opens c.group) &&
    !(s.redCtxs.any fun p => p.2.group = c.group && p.2.inst = c.params.headD 0)

/-- The state once a chunk has come in: staged, unless its context has been closed here. -/
def chunkStaged (s : State) (c : Chunk) : State :=
  let u := arrived s c.group c.data
  if closedHere s c then u else addChunk u c

/-- The announcement, data or notice has been matched, written or acted on. -/
def takenBefore (s : State) (c : Chunk) : Bool :=
  s.applied.any fun a => a.1 = memberKey c.group c.src && a.2.1 = c.params.getD 3 0

variable {w : Win} (hg : groupEntry s c.group = some w)
include hg

/-- A chunk of a member is staged once and acknowledged each time. -/
theorem collectiveChunk_acks : exec (.collectiveChunk c) s = .next (ackTo (chunkStaged s c) 2
    (memberRank (chunkStaged s c) w c.src) c.group [c.oper, c.number, c.params.headD 0] [0#8]) := by
  refine (if_neg (message_guard hu hb)).trans ?_
  simp only [groupEntry_payload, hg, payload_opens, payload_redCtxs]
  rfl

/-- Data of a send that has been matched or written is acknowledged again. -/
theorem sendData_again (hw : takenBefore s c = true) :
    exec (.sendData c) s = .next (ackChunk (arrived s c.group c.data) w c) := by
  refine (if_neg (message_guard hu hb)).trans ?_
  unfold takenBefore at hw
  simp only [groupEntry_payload, hg, payload_applied, hw, if_true]

/-- New data of a send is staged. -/
theorem sendData_stages (hw : takenBefore s c = false) (hk : c.params.getD 1 0 ≠ 10) :
    exec (.sendData c) s = .next (addChunk (arrived s c.group c.data) c) := by
  refine (if_neg (message_guard hu hb)).trans ?_
  unfold takenBefore at hw
  simp only [groupEntry_payload, hg, payload_applied, hw, if_neg Bool.false_ne_true, if_neg hk]

/-- A new notice of a loss is acted on, and known from then on. -/
theorem sendData_tells (hw : takenBefore s c = false)
    (hk : c.params.getD 1 0 = 10) : exec (.sendData c) s =
      let told := loseGroup (arrived s c.group c.data) c.group
      .next (ackChunk { told with applied := told.applied ++ [(memberKey c.group c.src, c.params.getD 3 0, [])] } w c) := by
  refine (if_neg (message_guard hu hb)).trans ?_
  unfold takenBefore at hw
  simp only [groupEntry_payload, hg, payload_applied, hw, if_neg Bool.false_ne_true, if_pos hk]

end

/-! ## Remote accesses (R250, R389, R393) -/

section
variable {acc : RemoteReq}

/-- An access that has been performed is answered with the same answer. -/
theorem remoteAccess_again {a : Nat × Nat × List Byte}
    (ha : s.applied.find? (fun a => a.1 = acc.srcRank && a.2.1 = accessKey acc) = some a) : exec (.remoteAccess acc) s =
      .next (ackTo (arrived s acc.group acc.data) 1 acc.srcRank acc.group [acc.tag] (0#8 :: a.2.2)) := by
  refine (if_neg (message_guard hu hb)).trans ?_
  simp only [payload_applied, ha]

variable (ha : s.applied.find? (fun a => a.1 = acc.srcRank && a.2.1 = accessKey acc) = none)
include ha

/-- An access that no entry accepts is discarded. -/
theorem remoteAccess_discards (he : accessEntry (arrived s acc.group acc.data) acc = none) :
    exec (.remoteAccess acc) s = .next (discardAccess (arrived s acc.group acc.data) acc) := by
  refine (if_neg (message_guard hu hb)).trans ?_
  simp only [payload_applied, ha, he]

variable {w : Win} (he : accessEntry (arrived s acc.group acc.data) acc = some w)
include he

/-- An access that is no cred unit is performed and answered. -/
theorem remoteAccess_performs (hk : acc.kind ≠ 3)
    (hs : spansBusy (arrived s acc.group acc.data) (accessSpans acc) = false) :
    exec (.remoteAccess acc) s = .next (finishAccess (arrived s acc.group acc.data) acc w) := by
  refine (if_neg (message_guard hu hb)).trans ?_
  simp only [payload_applied, ha, he, if_neg hk, hs, if_neg Bool.false_ne_true]

/-- A cred unit that is in staging stays there. -/
theorem remoteAccess_inStaging (hk : acc.kind = 3) (hs : inStaging (arrived s acc.group acc.data) acc = true) :
    exec (.remoteAccess acc) s = .next (arrived s acc.group acc.data) := by
  refine (if_neg (message_guard hu hb)).trans ?_
  simp only [payload_applied, ha, he, if_pos hk, hs, if_true]

/-- A cred unit that finds room enters staging. -/
theorem remoteAccess_stages (hk : acc.kind = 3) (hs : inStaging (arrived s acc.group acc.data) acc = false)
    (hr : (arrived s acc.group acc.data).stagingUsed + 4096 ≤ poolBytes (arrived s acc.group acc.data)) :
    exec (.remoteAccess acc) s = .next (stageAccess (arrived s acc.group acc.data) acc) := by
  refine (if_neg (message_guard hu hb)).trans ?_
  simp only [payload_applied, ha, he, if_pos hk, hs, if_neg Bool.false_ne_true, if_neg (Nat.not_lt.mpr hr)]

end

/-! ## The journal (R101, R276) -/

section
variable {group src : Nat} {entry : List Byte} (hl : 28 ≤ entry.length)
include hl

/-- An entry comes in whole, over a link, while the window table stands. -/
theorem journalArrival_guard : ¬(entry.length < 28 ∨ linkUp s = false ∨ tableBusy s = true) := by
  simp [hu, hb, hl]

/-- An entry that is applied lets what was held back be tried again. -/
theorem journalArrival_applies {fetched : Bool}
    (ha : (applyArrival (arrived s group entry) { group, src, entry, fetched }).2 = none) :
    exec (.journalArrival group src entry fetched) s =
      .next (retryAll (applyArrival (arrived s group entry) { group, src, entry, fetched }).1) := by
  refine (if_neg (journalArrival_guard hu hb hl)).trans ?_
  generalize applyArrival (arrived s group entry) { group, src, entry, fetched } = r at ha ⊢
  obtain ⟨s1, b⟩ := r
  cases ha
  rfl

/-- An entry is applied or held back. -/
theorem journalArrival_completes (fetched : Bool) : Completes (.journalArrival group src entry fetched) s := by
  show ∃ t, execJournalArrival group src entry fetched s = .next t
  rw [execJournalArrival, if_neg (journalArrival_guard hu hb hl)]
  split <;> exact ⟨_, rfl⟩

end

section
variable {group src first count : Nat} (h0 : 0 < count) (h1 : count ≤ 1024)
include h0 h1

/-- A request for up to 1,024 positions comes in over a link while the window table stands. -/
theorem jfetchRequest_guard : ¬(count = 0 ∨ 1024 < count ∨ linkUp s = false ∨ tableBusy s = true) := by
  simp [hu, hb]
  omega

/-- A request is answered or held back. -/
theorem jfetchRequest_completes : Completes (.jfetchRequest group src first count) s :=
  ⟨_, if_neg (jfetchRequest_guard hu hb h0 h1)⟩

/-- A request that can be answered is. -/
theorem jfetchRequest_answers {t : State} (ha : answerAsk s group src first count = (t, true)) :
    exec (.jfetchRequest group src first count) s = .next t := by
  refine (if_neg (jfetchRequest_guard hu hb h0 h1)).trans ?_
  rw [ha]
  rfl

end
end

/-- A request for a group that this device is no member of gives an error record. -/
theorem answerAsk_stranger {group : Nat} (hg : groupEntry s group = none) (src first n : Nat) :
    answerAsk s group src first n = (pushErr s 3 4 0 0x1FF 0, true) := by
  simp only [answerAsk, hg]

/-- Where no header is bound the answer is status 5 with no entries. -/
theorem answerAsk_unbound {group : Nat} {w : Win} (hg : groupEntry s group = some w) (ha : boundAgent s group = none)
    (src first n : Nat) : answerAsk s group src first n =
      (ackTo s 4 (memberRank s w src) group [first] (5#8 :: leBytes 8 0), true) := by
  simp only [answerAsk, hg, ha]
  rfl

/-- The entries that the journal holds are sent, then their number. -/
theorem answerAsk_bound {group first n st : Nat} {w : Win} {g : JAgent} {s1 : State} {es : List (Nat × List Byte)}
    (hg : groupEntry s group = some w) (ha : boundAgent s group = some g) (hr : answerFrom g first n s = .ok (s1, st, es))
    (src : Nat) : answerAsk s group src first n =
      let u := g.rest s1
      let rank := memberRank u w src
      (ackTo (sendEntries u w rank group es) 4 rank group [first] (BitVec.ofNat 8 st :: leBytes 8 es.length), true) := by
  simp only [answerAsk, hg, ha, hr]

/-! ## Accesses as they are performed -/

/-- The bytes of a write read back. -/
theorem performAccess_write_reads (s : State) {acc : RemoteReq} (hk : acc.kind = 1) (hl : acc.data.length = acc.size) :
    memBytes (performAccess s acc).1.mem acc.off acc.size = acc.data := by
  simp only [performAccess, hk, ← hl, List.take_length]
  exact memBytes_memWrite ..

/-- The state without a unit of staging. -/
def unstaged (s : State) (acc : RemoteReq) : State :=
  { s with staged := s.staged.filter fun x => decide (x ≠ acc), stagingUsed := s.stagingUsed - 4096 }

section
variable {acc : RemoteReq} (hb : tableBusy s = false) (hs : spansBusy s (accessSpans acc) = false)
include hb hs

/-- A staged unit that its entry still accepts is performed. -/
theorem applyStaged_performs {w : Win} (he : accessEntry (unstaged s acc) acc = some w) :
    applyStaged s acc = finishAccess (unstaged s acc) acc w := by
  refine (if_neg (by simp [hb, hs])).trans ?_
  unfold unstaged at he ⊢
  dsimp only
  rw [he]

/-- A staged unit that no entry accepts any more is discarded. -/
theorem applyStaged_discards (he : accessEntry (unstaged s acc) acc = none) :
    applyStaged s acc = discardAccess (unstaged s acc) acc := by
  refine (if_neg (by simp [hb, hs])).trans ?_
  unfold unstaged at he ⊢
  dsimp only
  rw [he]

end

/-! ## Acknowledgements (R162, R386, R389) -/

/-- An acknowledgement is counted and ends a wait. -/
theorem acknowledgement_counts (hu : linkUp s = true) (tag : Nat) (data : List Byte) : exec (.acknowledgement tag data) s =
    .next (acknowledge (countAnswer s tag data.length) tag data) := if_pos hu

/-- An answer to a late load changes no memory and makes no error record. -/
theorem answerLate_keeps (s : State) (x : RemoteWait) (bs : Option (List Byte)) :
    (answerLate s x bs).mem = s.mem ∧ (answerLate s x bs).errs = s.errs := by
  unfold answerLate mapLate
  cases x.by_ <;> exact ⟨rfl, rfl⟩

/-- A strand that has been replaced reads as the new one. -/
@[simp] theorem strand_setStrand (s : State) (n : Nat) (k : StrandKind) (x : Strand) : (s.setStrand n k x).strand n k = x := by
  simp [State.strand, State.setStrand]

/-- The end of a message's wait leaves the strands. -/
@[simp] theorem dropTag_strand (s : State) (tag n : Nat) (k : StrandKind) : (dropTag s tag).strand n k = s.strand n k := rfl

/-- The strand with the bytes that answer message tag in its late loads. -/
def Strand.filled (x : Strand) (tag : Nat) (bs : List Byte) : Strand := { x with late := x.late.map (Late.fill tag bs) }

/-- An answer to a late load reaches its strand. -/
theorem answerLate_strand {x : RemoteWait} {n : Nat} (hn : x.by_ = some n) (bs : List Byte) :
    (answerLate s x (some bs)).strand x.crew (kindOf n) = ((s.strand x.crew (kindOf n)).filled x.tag bs).settle := by
  simp only [answerLate, mapLate, hn, Option.getD_some, Option.elim_some, strand_setStrand, dropTag_strand]
  rfl

/-- The one late load of a strand, answered, writes its register and no other. -/
theorem settle_answered {x : Strand} {l : Late} {tag : Nat} (hl : x.late = [l]) (hp : l.parts = [(tag + 1, [])])
    (hd : l.sd ≠ 0#5) (bs : List Byte) : (x.filled tag bs).settle.late = [] ∧
      ∀ q, (x.filled tag bs).settle.reg q = if q = l.sd then extend l.sext l.size bs else x.reg q := by
  have hs : (x.filled tag bs).settle = { (x.filled tag bs).setReg l.sd (extend l.sext l.size bs) with late := [] } := by
    simp [Strand.settle, Strand.filled, hl, Late.fill, hp, Late.whole, Late.value]
  rw [hs]
  refine ⟨rfl, fun q => ?_⟩
  show ((x.filled tag bs).setReg l.sd (extend l.sext l.size bs)).reg q = _
  split
  · next h => rw [h, reg_setReg _ _ _ hd]
  · next h => exact reg_setReg_ne _ _ _ _ h

section
variable {tag : Nat} {data : List Byte} {x : RemoteWait} (hf : s.remote.find? (fun r => r.tag = tag) = some x)
include hf

/-- An acknowledgement that a message has been performed ends the wait for it. -/
theorem acknowledge_ends (hl : x.load = false) (hk : x.msg.kind ≠ 4) (hd : data.headD 0#8 = 0#8) :
    acknowledge s tag data = dropTag s tag := by
  have hst : (data.headD 0#8).toNat = 0 := congrArg BitVec.toNat hd
  simp [acknowledge, hf, hl, hk, hst, -List.headD_eq_head?_getD]

/-- An access that has been discarded gives an error record here. -/
theorem acknowledge_discarded (hk : x.msg.kind = 1) (hd : data.headD 0#8 ≠ 0#8) :
    (acknowledge s tag data).errs = (pushErr s 3 4 (s.crew x.crew).tenant x.crew 0).errs ∧
      (acknowledge s tag data).mem = (pushErr s 3 4 (s.crew x.crew).tenant x.crew 0).mem := by
  have hst : (data.headD 0#8).toNat ≠ 0 := fun h => hd (BitVec.eq_of_toNat_eq h)
  simp only [acknowledge, hf, if_pos (And.intro hk hst)]
  split
  · exact ⟨(answerLate_keeps ..).2, (answerLate_keeps ..).1⟩
  · split
    · exact ⟨rfl, rfl⟩
    · rw [if_neg (by omega)]
      exact ⟨rfl, rfl⟩

/-- An answer to a load or atomic of a strand goes to that strand. -/
theorem acknowledge_answers {n : Nat} (hl : x.load = true) (hn : x.by_ = some n) :
    acknowledge s tag (0#8 :: data) = answerLate s x (some data) := by
  simp [acknowledge, hf, hl, hn]

end

end

/-! ## The obligation -/

/-- Settles O40: each message by the lemma of its case above. -/
theorem fabricMessages : Obligations.FabricMessages := by
  intro s k acc group src first count tag data w
  dsimp only
  refine fun hu => ⟨fun hb => ⟨fun hg => ⟨collectiveChunk_stranger hu hb hg, sendData_stranger hu hb hg⟩,
    fun hg => ⟨collectiveChunk_acks hu hb hg, sendData_again hu hb hg, sendData_stages hu hb hg,
      sendData_tells hu hb hg⟩,
    fun _ => remoteAccess_again hu hb, remoteAccess_discards hu hb,
    fun ha he => ⟨remoteAccess_performs hu hb ha he, remoteAccess_inStaging hu hb ha he,
      remoteAccess_stages hu hb ha he⟩,
    fun hl => ⟨journalArrival_applies hu hb hl, journalArrival_completes hu hb hl false,
      journalArrival_completes hu hb hl true⟩,
    fun h0 h1 => ⟨jfetchRequest_completes hu hb h0 h1,
      fun hg => jfetchRequest_answers hu hb h0 h1 (answerAsk_stranger hg src first count),
      fun hg ha => jfetchRequest_answers hu hb h0 h1 (answerAsk_unbound hg ha src first count),
      fun _ _ _ _ hg ha hr => jfetchRequest_answers hu hb h0 h1 (answerAsk_bound hg ha hr src)⟩⟩,
    performAccess_write_reads _, fun _ hb hs => ⟨applyStaged_performs hb hs, applyStaged_discards hb hs⟩,
    acknowledgement_counts hu tag data, ?_, ?_, ?_⟩
  · intro x hf hl hk hd
    rw [acknowledgement_counts hu, countAnswer_of_not_load hf hl, acknowledge_ends hf hl hk hd]
    rfl
  · intro x hf hk hd
    refine ⟨_, acknowledgement_counts hu tag data, ?_⟩
    obtain ⟨ts, hc⟩ := countAnswer_tenants s tag data.length
    have h := acknowledge_discarded (s := s.withTenants ts) hf hk hd
    rw [pushErr_tenants] at h
    rw [hc]
    exact h
  · intro x n l hf hl hn hx hp hsd
    obtain ⟨ts, hc⟩ := countAnswer_tenants s tag (data.length + 1)
    refine ⟨_, acknowledgement_counts hu tag (0#8 :: data), ?_⟩
    rw [List.length_cons, hc, acknowledge_answers (s := s.withTenants ts) hf hl hn]
    have ht : x.tag = tag := by simpa using List.find?_some hf
    rw [answerLate_strand hn, ht]
    exact ⟨(answerLate_keeps ..).1, settle_answered hx hp hsd data⟩

end Sys2Proof.Machine
end

section
/-! Links and Glaze cards (06 R102 to R104, R405; 14 R278; 22 R349; 26 R382 to R384). -/
namespace Sys2Proof.Machine

/-! ## Flits and retry requests -/

section
variable {s : State} {port : Nat} {flit : List Byte}

/-- A flit's CRC is right, and its seq is the one after the last that the port accepted (R382, R383). -/
def FlitInOrder (p : Port) (flit : List Byte) : Prop :=
  crc32c (flit.take 252) = leNat (flit.drop 252) ∧ BitVec.ofNat 12 (leNat (flit.take 8)) = p.lastSeq + 1#12

/-- The port after the link word of a flit in order. -/
def Port.taken (p : Port) (link now : Nat) : Port := p.accept (BitVec.ofNat 12 link) (BitVec.ofNat 12 (link / 2 ^ 12)) now

/-- The codes of a flit are assigned and its reserved fields are zero, read from its bytes. -/
def flitLegal (flit : List Byte) : Bool := flitOk (leNat (flit.take 8)) (leNat ((flit.drop 8).take 8))

section
variable (hp : port < 18) (hu : (s.port port).up = true) (hl : flit.length = 256)
include hp hu hl

/-- A port that is up takes a flit of 256 bytes. -/
theorem flitReceive_guard : ¬(18 ≤ port ∨ flit.length ≠ 256 ∨ (s.port port).up = false) := by
  simp only [hu, hl]
  simp
  omega

/-- A legal flit in order that asks for no retry is accepted. -/
theorem flitReceive_accepts (hi : FlitInOrder (s.port port) flit) (hf : flitLegal flit = true)
    (hk : leNat (flit.take 8) / 2 ^ 24 % 16 ≠ 2) : exec (.flitReceive port flit) s =
      .next (flushOut (s.setPort port ((s.port port).taken (leNat (flit.take 8)) s.cycle))) :=
  (if_neg (flitReceive_guard hp hu hl)).trans <| (if_pos hi).trans <|
    (if_neg (by simpa [flitLegal] using hf)).trans (if_neg hk)

/-- A legal flit in order that asks for a retry is accepted and answered. -/
theorem flitReceive_retries (hi : FlitInOrder (s.port port) flit) (hf : flitLegal flit = true)
    (hk : leNat (flit.take 8) / 2 ^ 24 % 16 = 2) : exec (.flitReceive port flit) s =
      .next (flushOut (s.setPort port (((s.port port).taken (leNat (flit.take 8)) s.cycle).retry
        (BitVec.ofNat 12 (leNat ((flit.drop 16).take 2)))))) :=
  (if_neg (flitReceive_guard hp hu hl)).trans <| (if_pos hi).trans <|
    (if_neg (by simpa [flitLegal] using hf)).trans (if_pos hk)

/-- A flit in order with a reserved code or field is accepted and discarded with an error record. -/
theorem flitReceive_discards (hi : FlitInOrder (s.port port) flit) (hf : ¬flitLegal flit = true) :
    exec (.flitReceive port flit) s =
      .next (flushOut (pushErr (s.setPort port ((s.port port).taken (leNat (flit.take 8)) s.cycle)) 3 4 0 0x1FF 0)) :=
  (if_neg (flitReceive_guard hp hu hl)).trans <| (if_pos hi).trans (if_pos (by simpa [flitLegal] using hf))

/-- After a retry request any other flit changes nothing. -/
theorem flitReceive_ignores (hi : ¬FlitInOrder (s.port port) flit) (hs : (s.port port).sentRetry = true) :
    exec (.flitReceive port flit) s = .next s :=
  (if_neg (flitReceive_guard hp hu hl)).trans <| (if_neg hi).trans (if_pos hs)

/-- The first flit out of order gets a retry request. -/
theorem flitReceive_requests (hi : ¬FlitInOrder (s.port port) flit) (hs : (s.port port).sentRetry = false) :
    exec (.flitReceive port flit) s =
      .next (s.setPort port ((s.port port).sendRetry ((s.port port).lastSeq + 1#12) s.cycle)) :=
  (if_neg (flitReceive_guard hp hu hl)).trans <| (if_neg hi).trans (if_neg (by simp [hs]))

end

/-- A retry request on a port that is up is answered. -/
theorem retryRequest_answers (hp : port < 18) (hu : (s.port port).up = true) (seq : Nat) :
    exec (.retryRequest port seq) s = .next (s.setPort port ((s.port port).retry (BitVec.ofNat 12 seq))) :=
  if_neg (by rw [hu]; simp; omega)

/-! ## Retraining -/

/-- The port at an attempt to retrain: one that was not training begins. -/
def Port.retraining (p : Port) : Port := if p.training || !p.up then p else p.train

section
variable (hp : port < 18) (hm : mustTrain s (s.port port) = true)
include hp hm

/-- A port that must retrain may. -/
theorem portRetrain_guard : ¬(18 ≤ port ∨ mustTrain s (s.port port) = false) := by
  rw [hm]
  simp
  omega

/-- A retraining that succeeds brings the port up, and its unacknowledged flits go out again. -/
theorem portRetrain_succeeds : exec (.portRetrain port true) s =
    .next (flushOut (s.setPort port { (s.port port).retraining with
      up := true
      training := false
      attempts := 0
      resend := (s.port port).retraining.unacked
      ackCycle := s.cycle })) :=
  (if_neg (portRetrain_guard hp hm)).trans (if_pos rfl)

/-- A failure before the third is counted. -/
theorem portRetrain_fails (ha : (s.port port).retraining.attempts < 2) : exec (.portRetrain port false) s =
    .next (s.setPort port { (s.port port).retraining with
      attempts := (s.port port).retraining.attempts + 1
      training := (s.port port).retraining.up }) :=
  (if_neg (portRetrain_guard hp hm)).trans <| (if_neg Bool.false_ne_true).trans (if_pos (Nat.succ_lt_succ ha))

/-- The third failure takes the port down. -/
theorem portRetrain_goesDown (ha : 2 ≤ (s.port port).retraining.attempts) : exec (.portRetrain port false) s =
    .next (loseAll (resendFrom (pushErr (s.setPort port { (s.port port).retraining with
      up := false
      training := false
      attempts := 3
      unacked := [] }) 3 4 0 0x1FF 0) port)) :=
  (if_neg (portRetrain_guard hp hm)).trans <|
    (if_neg Bool.false_ne_true).trans (if_neg (Nat.not_lt.mpr (Nat.succ_le_succ ha)))

end
end

/-! ## Glaze cards -/

section
variable {s s1 s2 : State} {crew card code : Nat} {k : Card}
  (hk : s.cards.find? (fun x => decide (x.crew = crew) && decide (x.id = card)) = some k)
include hk

/-- The event of a card's run is the next piece of that card. -/
theorem glazeCardRun_runs (hr : cardRun s k = some (.ok s1)) : exec (.glazeCardRun crew card) s = .next s1 := by
  show execGlazeCardRun crew card s = _
  simp only [execGlazeCardRun, hk, hr]

/-- A card whose turn has come and whose journal's header is malformed ends with status 1. -/
theorem glazeCardRun_malformed (hd : k.doneCode = none) (hs : k.started = false) (ht : cardTurn s k = true)
    (hj : jHeader { header := cardHeader k.bytes, agent := cardAgent k } s = .ok (s1, none)) :
    exec (.glazeCardRun crew card) s = .next (cardEnd s1 k 1 0) := by
  refine glazeCardRun_runs hk ?_
  have hh : cardHdr k { header := cardHeader k.bytes, agent := cardAgent k } s = .ok (s1, none) := by
    simp only [cardHdr, hj]
  simp [cardRun, hd, hs, ht, cardStart, hh]

omit hk in
/-- A chunk whose pages translate and whose accesses are made is counted, and the last one ends the card. -/
theorem cardStep_goes {ts : List Tlb} {n : Nat} (hn : n = min chunkElems (cardElems k.bytes - chunkElems * k.next))
    (hp : cardPages (cardAgent k) k.used (cardElems k.bytes) (cardSpans k.bytes) s = .ok (s1, ts))
    (ha : cardAccess s1 { k with used := ts } (chunkElems * k.next) n = .ok s2) :
    cardStep s k = some (.ok ((dropAsked (countFor s2 k.tenant 11 n) (.card k.id)).setCard { k with
      used := ts
      next := k.next + 1
      written := k.written + (((cardSpans k.bytes).map fun p => p.2.1 * n)).foldl (· + ·) 0
      doneCode := if cardElems k.bytes ≤ chunkElems * k.next + n then some 0 else none })) := by
  subst hn
  unfold cardStep
  dsimp only
  rw [hp]
  dsimp only
  rw [ha]

/-- A card that has started makes the accesses of its next chunk. -/
theorem glazeCardRun_chunk {ts : List Tlb} {n : Nat} (hd : k.doneCode = none) (hs : k.started = true)
    (hn : n = min chunkElems (cardElems k.bytes - chunkElems * k.next))
    (hp : cardPages (cardAgent k) k.used (cardElems k.bytes) (cardSpans k.bytes) s = .ok (s1, ts))
    (ha : cardAccess s1 { k with used := ts } (chunkElems * k.next) n = .ok s2) :
    exec (.glazeCardRun crew card) s =
      .next ((dropAsked (countFor s2 k.tenant 11 n) (.card k.id)).setCard { k with
        used := ts
        next := k.next + 1
        written := k.written + (((cardSpans k.bytes).map fun p => p.2.1 * n)).foldl (· + ·) 0
        doneCode := if cardElems k.bytes ≤ chunkElems * k.next + n then some 0 else none }) :=
  glazeCardRun_runs hk ((if_neg (by simp [hd])).trans ((if_pos hs).trans (cardStep_goes hn hp ha)))

section
variable (hd : k.doneCode = some code) (hq : cardSending s k = false)
include hd hq

/-- A card whose words have been performed leaves. -/
theorem glazeCardCompletion_leaves (hp : k.posted = true) :
    exec (.glazeCardCompletion crew card) s = .next (cardLeave s k) := by
  show execGlazeCardCompletion crew card s = _
  simp [execGlazeCardCompletion, hk, hd, hq, hp]

/-- A done card whose bytes have been performed writes its words, and leaves at once where they are on this device. -/
theorem glazeCardCompletion_posts {u : State} (hp : k.posted = false) (hw : cardPost s k code = some (.ok u))
    (hm : u.cards.any (fun x => x.id == k.id && x.posted) = true) :
    exec (.glazeCardCompletion crew card) s = .next (if cardSending u k then u else cardLeave u k) := by
  show execGlazeCardCompletion crew card s = _
  simp only [execGlazeCardCompletion, hk, hd, hq, hp, hw, hm]
  cases cardSending u k <;> rfl

omit hd hq in
/-- A card of the device is among its cards as posted once it is replaced so. -/
theorem posted_mem (hc : s2.cards = s.cards) :
    (s2.setCard { k with posted := true }).cards.any (fun x => x.id == k.id && x.posted) = true := by
  have hm : k ∈ s2.cards := hc ▸ List.mem_of_find?_eq_some hk
  exact List.any_eq_true.mpr ⟨{ k with posted := true }, List.mem_map.mpr ⟨k, hm, if_pos rfl⟩, by simp⟩

end
end

/-! ## The obligation -/

/-- Settles O41: each event by the lemma of its case above. -/
theorem linksAndCards : Obligations.LinksAndCards := by
  intro s s1 s2 port seq crew card flit k code ts
  dsimp only
  refine ⟨fun hp hu hl => ⟨flitReceive_accepts hp hu hl, flitReceive_retries hp hu hl, flitReceive_discards hp hu hl,
      flitReceive_ignores hp hu hl, flitReceive_requests hp hu hl⟩,
    fun hp hu => retryRequest_answers hp hu seq,
    fun hp hm => ⟨portRetrain_succeeds hp hm, portRetrain_fails hp hm, portRetrain_goesDown hp hm⟩,
    fun hk => ⟨glazeCardRun_malformed hk, fun hd hs => glazeCardRun_chunk hk hd hs rfl,
      fun hd hp hq => glazeCardCompletion_leaves hk hd hq hp, fun hd hp hq h1 h2 hc => ?_⟩⟩
  have hr : cardResult k code s = .ok s2 := by rwa [cardResult, h1]
  have hw : cardPost s k code = some (.ok (s2.setCard { k with posted := true })) := by rw [cardPost, hr]
  have h := glazeCardCompletion_posts hk hd hq hp hw (posted_mem hk hc)
  exact ⟨fun hs => h.trans (congrArg Host.Outcome.next (if_pos hs)),
    fun hs => h.trans (congrArg Host.Outcome.next (if_neg (by simp [hs])))⟩

end Sys2Proof.Machine
end

section
/-! The order of checks of an instruction, and an instruction that has only its posts to make (02 R21; 07 R107; 09 R140 to
R142, R152; 10 R162; 11 R194). -/
namespace Sys2Proof.Machine

/-! ## The cause that a wait is charged to (07 R107) -/

/-- Of two causes none comes before the one that is charged. -/
theorem firstCause_rank_le (q r : Nat) : causeRank (firstCause q r) ≤ causeRank q := by
  unfold firstCause
  split
  · exact Nat.le_refl _
  · omega

/-- One of two causes is charged. -/
theorem firstCause_eq_or (q r : Nat) : firstCause q r = q ∨ firstCause q r = r := by
  unfold firstCause
  split
  · exact .inl rfl
  · exact .inr rfl

variable {α : Type} {i : Instr} {e : Eng} {ks : List StrandKind} {s : State}

/-- A wait for a register is charged to that wait or to a cause that comes before it. -/
theorem holdCause_rank_le (q : Nat) (blind : Bool) (x : Res α) : causeRank (holdCause q blind x) ≤ causeRank q := by
  unfold holdCause
  split
  · split
    · exact Nat.le_refl _
    · exact firstCause_rank_le ..
  · exact Nat.le_refl _

/-- While a register that the instruction reads is missing, only its tiles and tokens are known besides. -/
theorem holdCause_blind (q : Nat) (x : Res α) :
    holdCause q true x = q ∨ holdCause q true x = qTile ∨ holdCause q true x = qToken := by
  unfold holdCause
  split
  next r _ =>
    split
    · exact .inl rfl
    next hknown =>
      have hr : r = qTile ∨ r = qToken := by
        by_cases ht : r = qTile
        · exact .inl ht
        · exact .inr (by simpa [ht] using hknown)
      rcases firstCause_eq_or q r with h | h
      · exact .inl h
      · exact .inr (hr.imp h.trans h.trans)
  · exact .inl rfl

/-! ## The order of checks -/

/-- The checks of an instruction that come before its effect, in their order: the kind of the strand, the predicate's
writers, the predicate, the operands' writers. -/
structure ChecksInOrder (i : Instr) (s : State) : Prop where
  kind : s.cur.2 ∉ strandKinds i → Traps i s cIllegal (wordsOf (encode i))
  predWaits : ∀ q, s.cur.2 ∈ strandKinds i → predWait s (predField i) = some q → Waits i s q s
  skips : s.cur.2 ∈ strandKinds i → predWait s (predField i) = none → s.me.predHolds (predField i) = false →
    EndsIn i s (if strandKinds i = [.v] then s.setMyCrew (pushRing s.myCrew {}) else s)
  operands : ∀ q, s.cur.2 ∈ strandKinds i → predWait s (predField i) = none → s.me.predHolds (predField i) = true →
    interlock s i = some q → ∃ r, Waits i s r s ∧ causeRank r ≤ causeRank q ∧
      (regWait s (regSources i, []) ≠ none → r = q ∨ r = qTile ∨ r = qToken)

/-- An instruction that goes through the common order of checks, and pushes a zero row exactly if only V strands execute
it. -/
theorem issue_checks {b : Body} {n : Nat}
    (hx : exec i s = issue i (strandKinds i) (predField i) (decide (strandKinds i = [.v])) b s n) : ChecksInOrder i s where
  kind hk := hx.trans (issue_wrong_kind hk)
  predWaits _ hk hw := hx.trans (issue_predWait hk hw)
  skips hk hw hp := (hx.trans (issue_skips hk hw hp)).trans (by simp only [decide_eq_true_eq])
  operands q hk hw hp hi := by
    refine ⟨_, hx.trans (issue_interlocked hk hw hp hi), holdCause_rank_le .., fun hmissing => ?_⟩
    rw [Option.isSome_iff_ne_none.mpr hmissing]
    exact holdCause_blind ..

/-- A control instruction of every strand kind, which uses nothing but its predicate: once that is written, no operand
makes it wait. -/
theorem controlIssue_checks {act : State → Outcome} (hx : exec i s = controlIssue i (predField i) act s)
    (hk : strandKinds i = anyKind) (hu : regUse i = ([], predOf (predField i))) : ChecksInOrder i s where
  kind hn := by
    rw [hk] at hn
    cases hc : s.cur.2 <;> simp [hc, anyKind] at hn
  predWaits q _ hw := by
    unfold Waits
    rw [hx, controlIssue, hw]
  skips _ hw hp := by
    unfold EndsIn
    rw [hx, controlIssue, hw, hk]
    simp [hp, anyKind]
  operands q _ hw _ hi := by
    rw [interlock, hu] at hi
    cases hw.symm.trans hi

/-- An instruction that its strand waits at, before its effect, goes through the common order of checks. -/
theorem heldIssue_issues {body : State → Res State} {r : Bool} (ho : s.me.owed = false) :
    heldIssue i e ks body s r = issue i ks e.p false (heldBody e { cls := e.cls.toNat, release := r } body) s :=
  if_neg (by simp [ho])

/-- Every instruction but patch that some strand executes, and that does not stand with only its posts to make, makes
the checks in their order. -/
theorem exec_checks (hk : strandKinds i ≠ []) (hp : ∀ a b v, i ≠ .patch a b v) (ho : s.me.owed = false) :
    ChecksInOrder i s := by
  cases i
  case patch => exact absurd rfl (hp _ _ _)
  case exit | tret | trap | bkpt => apply controlIssue_checks <;> rfl
  case acctflush => exact issue_checks (if_neg (by simp [ho]))
  case binit | bexpect | barrive | bwait | btest | rinit | rwaitf | rrel | collClose | jwait | glzPost | glzWait | alease
      | arelease => exact issue_checks (heldIssue_issues ho)
  case add | sub | and | or | xor | sll | srl | sra | mul | mulh | mulhu | div | divu | rem | remu | min | max | minu
      | maxu | clz | ctz | popc | addi | andi | ori | xori | slli | srli | srai | lui | li32 | lih | cmp | cmpi | pand | por
      | pxor | pandn | porn | lea | tag | space | rng | rngc | br | jmp | call | jr | callr | loop => exact issue_checks rfl
  case ldb | ldbu | ldh | ldhu | ldw | ldwu | ldd | stb | sth | stw | std | ldx | stx | ldxAcq | stxRel | amoAdd | amoMin
      | amoMax | amoMinu | amoMaxu | amoAnd | amoOr | amoXor | amoSwp | cas | amoFadd => exact issue_checks rfl
  case yield | yieldSafe | fence | mfsr | mtsr | waitt | tkpush | tkpop | gsync | qwr | qrd | tload | krules =>
    apply issue_checks
    rfl
  case vadd | vsub | vmul | vfma | vmin | vmax | vabs | vneg | vexp2 | vlog2 | vrcp | vrsqrt | vtanh | vand | vor | vxor
      | vshl | vshr | vsra | vcmpEq | vcmpNe | vcmpLt | vcmpLe | vsel | vcvt | vqblk | vunpk | vdrop | vrsum | vrmax | vrmin
      | vmov | vshuf | viota | vsplat | vld | vst | vldt | vgath | vrng | vtrn => exact issue_checks rfl
  case lds | ldsP | ldsCb | ldsBs | mswap | mmul | mmulBs | mdrain | mzero | mcbt => exact issue_checks rfl
  case cpy | cpyLd | cpySt | cgath | cscat | cred | cpref | cring | collOpen | collAred | collAgath | collBcast | send
      | recv | japp | jfetch => exact issue_checks rfl
  all_goals exact absurd rfl hk

/-! ## An instruction that has only its posts to make -/

/-- What the posts of an instruction that has had its effect wait for, and how it ends. -/
def OwesPosts (i : Instr) (e : Eng) (s : State) : Prop :=
  let v := s.setMyCrew (s.myCrew.post s.cur.2 e.post)
  let can := s.myCrew.canPost s.cur.2 e.post
  (can = true → e.post = 0#3 ∨ Released s → EndsIn i s (v.setMe { v.me with owed := false })) ∧
    (can = true → e.post ≠ 0#3 → ¬Released s → Waits i s qMem s) ∧ (can = false → Waits i s qToken s)

/-- The rest of an instruction that has completed but for its posts. -/
theorem payPosts_owes (hx : exec i s = payPosts i e s) : OwesPosts i e s := by
  refine ⟨fun hc hr => ?_, fun hc hm hr => ?_, fun hc => ?_⟩
  · exact hx.trans (by rw [payPosts, postWait_none hc hr])
  · exact hx.trans (by rw [payPosts, postWait_mem hc hm hr])
  · exact hx.trans (by rw [payPosts, postWait_token (by simp [hc])])

/-- An instruction that its strand waits at, after its effect, has only its posts to make. -/
theorem heldIssue_owes {body : State → Res State} {r : Bool} (ho : s.me.owed = true)
    (hx : exec i s = heldIssue i e ks body s r) : OwesPosts i e s :=
  payPosts_owes (hx.trans (if_pos ho))

/-- Every instruction that can stand with only its posts to make. -/
theorem exec_owes {x : XFields} {f : CpFields} {y : SyFields} (ho : s.me.owed = true) :
    ∀ i ∈ [Instr.binit e y, .bexpect e y, .barrive e y, .bwait e y, .btest e y, .rinit e y, .rwaitf e y, .rrel e y,
      .collClose e f, .jwait e f, .glzPost e f, .glzWait e f, .alease e x, .arelease e x], OwesPosts i e s := by
  have howes {i : Instr} {ks : List StrandKind} {body : State → Res State} {r : Bool} :
      exec i s = heldIssue i e ks body s r → OwesPosts i e s := heldIssue_owes ho
  simp only [List.forall_mem_cons]
  exact ⟨howes rfl, howes rfl, howes rfl, howes rfl, howes rfl, howes rfl, howes rfl, howes rfl, howes rfl, howes rfl,
    howes rfl, howes rfl, howes rfl, howes rfl, by simp⟩

/-- Settles O49: the checks by `exec_checks`, the posts by `exec_owes`. -/
theorem checkOrder : Obligations.CheckOrder := by
  intro i s c hk hp
  refine ⟨fun ho => ?_, fun e x f y ho hi => exec_owes ho i hi⟩
  obtain ⟨hkind, hpred, hskip, hoperands⟩ := exec_checks hk hp ho
  exact ⟨hkind, hpred, hskip, hoperands⟩

end Sys2Proof.Machine
end

section
/-! Decoding gives back what was encoded (09 R139 to R161), and the words of the spec (09 R143 to R149). -/
namespace Sys2Proof.Laws

/-- Every instruction decodes from its encoding: the words by their format, the events because they have none. -/
theorem RoundTrip.statement (i : Instr) : RoundTrip.Statement i :=
  i.casesOn
    exit yield yieldSafe tret trap bkpt acctflush fence mfsr mtsr waitt tkpush tkpop gsync qwr qrd
    add sub and or xor sll srl sra mul mulh mulhu div divu rem remu min max minu maxu clz ctz popc
    addi andi ori xori slli srli srai lui
    cmp cmpi pand por pxor pandn porn lea tag space rng rngc
    br jmp call jr callr loop
    ldb ldbu ldh ldhu ldw ldwu ldd stb sth stw std
    ldx stx ldxAcq stxRel
    amoAdd amoMin amoMax amoMinu amoMaxu amoAnd amoOr amoXor amoSwp cas amoFadd
    li32 lih
    vadd vsub vmul vfma vmin vmax vabs vneg vexp2 vlog2 vrcp vrsqrt vtanh vand vor vxor vshl vshr vsra vcmpEq
    vcmpNe vcmpLt vcmpLe vsel vcvt vqblk vunpk vdrop vrsum vrmax vrmin vmov vshuf viota vsplat vld vst vldt
    vgath vrng vtrn
    alease arelease lds ldsP ldsCb ldsBs mswap mmul mmulBs mdrain mzero mcbt
    cpy cpyLd cpySt cgath cscat cred cpref cring collOpen collAred collAgath collBcast collClose send recv japp
    jwait jfetch glzPost glzWait
    binit bexpect barrive bwait btest rinit rwaitf rrel
    patch tload krules
    kneadGroupIssue engineInstructionCompletion asyncTrapEntry waittWake jwaitDeadline watchdogExpiry leaseGrant
    leaseLimit rampStep copyUnit copyCompletion fabricOpCompletion collectiveChunk sendData remoteAccess
    acknowledgement journalArrival jfetchRequest jappResend flitReceive retryRequest portRetrain glazeCardRun
    glazeCardCompletion translationWalk clockSkewDetection fqrespWrite fqheadWrite xrRootWrite fcmdWrite
    queueConfigWrite tailWrite abortWrite functionLevelReset launchRecordRead tilePreloadComplete taskCompletion
    launchCompletion accountRecordEviction accountCountOverflow preemptWrite contextSave spillcfgWrite
    stagecfgWrite powerControlInterval pwrcfgWrite rowcapWrite uncorrectableError bootStart bootclr bootctl
    fwsvn attctlGo telesnap counterBankWrite recorderConfigWrite registerWrite unassignedEncoding
    instructionFetchFault zeroingComplete clockCopyResync correctedSoftError cxlMemAccess reductionContextClaim
    translationExpiry frameFormatComplete dispatch priorityAging epochBoundary partitionExamination
    attestationReportComplete telesnapComplete

/-- Settles O53: instruction by instruction. -/
theorem roundTrip : Obligations.RoundTrip := RoundTrip.statement

/-- The all-zero word has an unassigned function of format S (09 R153). -/
theorem decode_zero : decode 0#32 0#32 = .error .function := rfl

/-- Settles O55: by running the decoder on each word. -/
theorem specWords : Obligations.SpecWords := by
  refine ⟨rfl, rfl, rfl, rfl, rfl, rfl, rfl, rfl, rfl, fun i h => ?_⟩
  cases decode_zero.symm.trans h

end Sys2Proof.Laws
end

section
/-! The other direction of decoding (09 R139 to R161): what decodes is encoded as it stood. -/
namespace Sys2Proof.Laws

/-! ## Words from their fields -/

/-- Two fields that meet make one. -/
theorem fld_append_fld (w : W32) {hi lo n m : Nat} (h : hi = lo + m) : fld w hi n ++ fld w lo m = fld w lo (n + m) :=
  BitVec.extractLsb'_append_extractLsb'_eq_extractLsb' h

/-- All the bits of a word. -/
theorem fld_all (w : W32) : fld w 0 32 = w := extract_all w

/-- A joined field is zero exactly if both its parts are. -/
theorem append_eq_zero {a b : Nat} (x : BitVec a) (y : BitVec b) : x ++ y = 0#(a + b) ↔ x = 0#a ∧ y = 0#b := by
  rw [← BitVec.zero_append_zero]
  refine ⟨fun h => ⟨?_, ?_⟩, ?_⟩
  · have hx := congrArg (·.extractLsb' b a) h
    simp only [extract_hi _ _ b a (Nat.le_refl b), Nat.sub_self, extract_all] at hx
    exact hx
  · have hy := congrArg (·.extractLsb' 0 b) h
    simp only [extract_lo _ _ 0 b (Nat.le_of_eq (Nat.zero_add b)), extract_all] at hy
    exact hy
  · rintro ⟨rfl, rfl⟩
    rfl

/-! ### The 32-bit formats (R143, R144)

A word with the major opcode and the function code of a format, and with its reserved fields zero, is what the format's
encoder makes of the word's own fields. -/

section
variable {w : W32}

theorem encSys_fields {fn : BitVec 6} {x : BitVec 16} (hm : majorOf w = 0x00) (hf : (fld w 16 6).toNat = fn.toNat)
    (hx : fld w 0 16 = x) : [encSys (fld w 22 4) fn x] = [w] := by
  rw [encSys, ← BitVec.eq_of_toNat_eq (y := 0x00#6) hm, ← BitVec.eq_of_toNat_eq hf, ← hx]
  simp (disch := decide) only [fld_append_fld]
  exact congrArg ([·]) (fld_all w)

theorem encAlu_fields {sb : BitVec 5} {fn : BitVec 7} (hm : majorOf w = 0x01) (hb : fld w 7 5 = sb)
    (hf : (fld w 0 7).toNat = fn.toNat) : [encAlu (fld w 22 4) (fld w 17 5) (fld w 12 5) sb fn] = [w] := by
  rw [encAlu, ← BitVec.eq_of_toNat_eq (y := 0x01#6) hm, ← hb, ← BitVec.eq_of_toNat_eq hf]
  simp (disch := decide) only [fld_append_fld]
  exact congrArg ([·]) (fld_all w)

theorem encImm_fields {m : BitVec 6} {x : BitVec 16} (hm : majorOf w = m.toNat) (hx : fld w 0 16 = x) :
    [encImm m (fld w 21 5) (fld w 16 5) x] = [w] := by
  rw [encImm, ← BitVec.eq_of_toNat_eq hm, ← hx]
  simp (disch := decide) only [fld_append_fld]
  exact congrArg ([·]) (fld_all w)

theorem shift_fields {fn : BitVec 2} (hm : majorOf w = 0x06) (hf : (fld w 6 2).toNat = fn.toNat) (hz : fld w 8 8 = 0#8) :
    [encImm 0x06#6 (fld w 21 5) (fld w 16 5) (0#8 ++ fn ++ fld w 0 6)] = [w] := by
  refine encImm_fields hm ?_
  rw [← hz, ← BitVec.eq_of_toNat_eq hf]
  simp (disch := decide) only [fld_append_fld]

theorem lui_fields (hm : majorOf w = 0x07) : [0x07#6 ++ fld w 21 5 ++ fld w 0 21] = [w] := by
  rw [← BitVec.eq_of_toNat_eq (y := 0x07#6) hm]
  simp (disch := decide) only [fld_append_fld]
  exact congrArg ([·]) (fld_all w)

theorem cmp_fields (hm : majorOf w = 0x08) (hz : fld w 0 5 = 0#5) :
    [0x08#6 ++ fld w 22 4 ++ fld w 19 3 ++ fld w 15 4 ++ fld w 10 5 ++ fld w 5 5 ++ 0#5] = [w] := by
  rw [← BitVec.eq_of_toNat_eq (y := 0x08#6) hm, ← hz]
  simp (disch := decide) only [fld_append_fld]
  exact congrArg ([·]) (fld_all w)

theorem cmpi_fields (hm : majorOf w = 0x09) : [0x09#6 ++ fld w 23 3 ++ fld w 19 4 ++ fld w 14 5 ++ fld w 0 14] = [w] := by
  rw [← BitVec.eq_of_toNat_eq (y := 0x09#6) hm]
  simp (disch := decide) only [fld_append_fld]
  exact congrArg ([·]) (fld_all w)

theorem encPred_fields {fn : BitVec 3} (hm : majorOf w = 0x0A) (hf : (fld w 10 3).toNat = fn.toNat) (hz : fld w 0 10 = 0#10) :
    [encPred (fld w 22 4) (fld w 19 3) (fld w 16 3) (fld w 13 3) fn] = [w] := by
  rw [encPred, ← BitVec.eq_of_toNat_eq (y := 0x0A#6) hm, ← BitVec.eq_of_toNat_eq hf, ← hz]
  simp (disch := decide) only [fld_append_fld]
  exact congrArg ([·]) (fld_all w)

theorem encPtr_fields {sb : BitVec 5} {fn : BitVec 3} {sid : BitVec 4} (hm : majorOf w = 0x0B) (hb : fld w 7 5 = sb)
    (hf : (fld w 4 3).toNat = fn.toNat) (hs : fld w 0 4 = sid) :
    [encPtr (fld w 22 4) (fld w 17 5) (fld w 12 5) sb fn sid] = [w] := by
  rw [encPtr, ← BitVec.eq_of_toNat_eq (y := 0x0B#6) hm, ← hb, ← BitVec.eq_of_toNat_eq hf, ← hs]
  simp (disch := decide) only [fld_append_fld]
  exact congrArg ([·]) (fld_all w)

theorem rng_fields {sn : BitVec 5} {fn : BitVec 2} (hm : majorOf w = 0x0C) (hn : fld w 12 5 = sn)
    (hf : (fld w 10 2).toNat = fn.toNat) (hz : fld w 0 10 = 0#10) :
    [0x0C#6 ++ fld w 22 4 ++ fld w 17 5 ++ sn ++ fn ++ 0#10] = [w] := by
  rw [← BitVec.eq_of_toNat_eq (y := 0x0C#6) hm, ← hn, ← BitVec.eq_of_toNat_eq hf, ← hz]
  simp (disch := decide) only [fld_append_fld]
  exact congrArg ([·]) (fld_all w)

theorem br_fields (hm : majorOf w = 0x10) : [0x10#6 ++ fld w 22 4 ++ fld w 0 22] = [w] := by
  rw [← BitVec.eq_of_toNat_eq (y := 0x10#6) hm]
  simp (disch := decide) only [fld_append_fld]
  exact congrArg ([·]) (fld_all w)

theorem jump_fields {m : BitVec 6} (hm : majorOf w = m.toNat) : [m ++ fld w 0 26] = [w] := by
  rw [← BitVec.eq_of_toNat_eq hm]
  simp (disch := decide) only [fld_append_fld]
  exact congrArg ([·]) (fld_all w)

theorem jr_fields {fn : BitVec 5} (hm : majorOf w = 0x13) (hf : (fld w 17 5).toNat = fn.toNat) (hz : fld w 0 12 = 0#12) :
    [0x13#6 ++ fld w 22 4 ++ fn ++ fld w 12 5 ++ 0#12] = [w] := by
  rw [← BitVec.eq_of_toNat_eq (y := 0x13#6) hm, ← BitVec.eq_of_toNat_eq hf, ← hz]
  simp (disch := decide) only [fld_append_fld]
  exact congrArg ([·]) (fld_all w)

theorem loop_fields (hm : majorOf w = 0x14) : [0x14#6 ++ fld w 24 2 ++ fld w 21 3 ++ fld w 16 5 ++ fld w 0 16] = [w] := by
  rw [← BitVec.eq_of_toNat_eq (y := 0x14#6) hm]
  simp (disch := decide) only [fld_append_fld]
  exact congrArg ([·]) (fld_all w)

theorem patch_fields (hm : majorOf w = 0x30) : [0x30#6 ++ fld w 20 6 ++ fld w 16 4 ++ fld w 0 16] = [w] := by
  rw [← BitVec.eq_of_toNat_eq (y := 0x30#6) hm]
  simp (disch := decide) only [fld_append_fld]
  exact congrArg ([·]) (fld_all w)

theorem table_fields {b : BitVec 1} (hm : majorOf w = 0x31) (hb : fld w 21 1 = b) (hz : fld w 0 16 = 0#16) :
    [0x31#6 ++ fld w 22 4 ++ b ++ fld w 16 5 ++ 0#16] = [w] := by
  rw [← BitVec.eq_of_toNat_eq (y := 0x31#6) hm, ← hb, ← hz]
  simp (disch := decide) only [fld_append_fld]
  exact congrArg ([·]) (fld_all w)

end

/-! ### The 64-bit formats (R145 to R148) -/

section
variable {w0 w1 : W32} {op : BitVec 8}

theorem li_fields {m : BitVec 6} (hm : majorOf w0 = m.toNat) (hz : fld w0 0 17 = 0#17) :
    [m ++ fld w0 22 4 ++ fld w0 17 5 ++ 0#17, w1] = [w0, w1] := by
  rw [← BitVec.eq_of_toNat_eq hm, ← hz]
  simp (disch := decide) only [fld_append_fld]
  exact congrArg ([·, w1]) (fld_all w0)

theorem pair_eq {v0 v1 : W32} (h0 : v0 = w0) (h1 : v1 = w1) : [v0, v1] = [w0, w1] := by
  rw [h0, h1]

theorem encLong_fields {size : BitVec 2} {sext : BitVec 1} {kind scope : BitVec 3} {x : BitVec 21} (hm : majorOf w0 = 0x23)
    (hsize : fld w0 5 2 = size) (hsext : fld w0 4 1 = sext) (hk : (fld w0 1 3).toNat = kind.toNat)
    (hz0 : fld w0 0 1 = 0#1) (hscope : fld w1 29 3 = scope) (hz1 : fld w1 25 1 = 0#1) (hx : fld w1 0 21 = x) :
    encLong (fld w0 22 4) (fld w0 17 5) (fld w0 12 5) (fld w0 7 5) size sext kind scope (fld w1 26 3) (fld w1 21 4) x =
      [w0, w1] := by
  subst hsize hsext hscope hx
  rw [encLong, ← BitVec.eq_of_toNat_eq (y := 0x23#6) hm, ← BitVec.eq_of_toNat_eq hk]
  refine pair_eq ?_ ?_
  · rw [← hz0]
    simp (disch := decide) only [fld_append_fld]
    exact fld_all w0
  · rw [← hz1]
    simp (disch := decide) only [fld_append_fld]
    exact fld_all w1

theorem encAmo_fields {sc : BitVec 5} {size : BitVec 1} {fn : BitVec 5} (hm : majorOf w0 = 0x24) (hc : fld w0 2 5 = sc)
    (hsize : fld w0 1 1 = size) (hf : (fld w1 27 5).toNat = fn.toNat)
    (hz : fld w0 0 1 ++ fld w1 25 2 ++ fld w1 0 21 = 0#(1 + 2 + 21)) :
    encAmo (fld w0 22 4) (fld w0 17 5) (fld w0 12 5) (fld w0 7 5) sc size fn (fld w1 21 4) = [w0, w1] := by
  simp only [append_eq_zero] at hz
  obtain ⟨⟨hz0, hz1⟩, hz2⟩ := hz
  rw [encAmo, ← BitVec.eq_of_toNat_eq (y := 0x24#6) hm, ← hc, ← hsize, ← BitVec.eq_of_toNat_eq hf, ← hz0, ← hz1, ← hz2]
  simp (disch := decide) only [fld_append_fld]
  exact pair_eq (fld_all w0) (fld_all w1)

theorem encEng1_fields {x : BitVec 21} (hx : fld w1 0 21 = x) : encEng1 (engOf w0 w1) x = w1 := by
  rw [encEng1, engOf, ← hx]
  simp (disch := decide) only [fld_append_fld]
  exact fld_all w1

theorem encV_fields (hm : majorOf w0 = 0x28) (hop : (fld w0 14 8).toNat = op.toNat) :
    encV op (engOf w0 w1) (vOf w0 w1) = [w0, w1] := by
  rw [encV, encEng1_fields (by simp (disch := decide) only [vOf, fld_append_fld]),
    ← BitVec.eq_of_toNat_eq (y := 0x28#6) hm, ← BitVec.eq_of_toNat_eq hop]
  simp (disch := decide) only [engOf, vOf, fld_append_fld]
  exact congrArg ([·, w1]) (fld_all w0)

theorem encVM_fields (hm : majorOf w0 = 0x28) (hop : (fld w0 14 8).toNat = op.toNat) (hz : fld w0 0 1 = 0#1) :
    encVM op (engOf w0 w1) (vmOf w0 w1) = [w0, w1] := by
  rw [encVM, encEng1_fields (by simp (disch := decide) only [vmOf, fld_append_fld]),
    ← BitVec.eq_of_toNat_eq (y := 0x28#6) hm, ← BitVec.eq_of_toNat_eq hop, ← hz]
  simp (disch := decide) only [engOf, vmOf, fld_append_fld]
  exact congrArg ([·, w1]) (fld_all w0)

theorem encX_fields (hm : majorOf w0 = 0x2A) (hop : (fld w0 14 8).toNat = op.toNat) (hz : fld w0 0 2 = 0#2) :
    encX op (engOf w0 w1) (xOf w0 w1) = [w0, w1] := by
  rw [encX, encEng1_fields (by simp (disch := decide) only [xOf, fld_append_fld]),
    ← BitVec.eq_of_toNat_eq (y := 0x2A#6) hm, ← BitVec.eq_of_toNat_eq hop, ← hz]
  simp (disch := decide) only [engOf, xOf, fld_append_fld]
  exact congrArg ([·, w1]) (fld_all w0)

theorem encCP_fields (hm : majorOf w0 = 0x2B) (hop : (fld w0 14 8).toNat = op.toNat)
    (hz : fld w0 0 1 ++ fld w1 0 9 = 0#(1 + 9)) : encCP op (engOf w0 w1) (cpOf w0 w1) = [w0, w1] := by
  obtain ⟨hz0, hz1⟩ := (append_eq_zero ..).mp hz
  rw [encCP, ← hz1, encEng1_fields (by simp (disch := decide) only [cpOf, fld_append_fld]),
    ← BitVec.eq_of_toNat_eq (y := 0x2B#6) hm, ← BitVec.eq_of_toNat_eq hop, ← hz0]
  simp (disch := decide) only [engOf, cpOf, fld_append_fld]
  exact congrArg ([·, w1]) (fld_all w0)

theorem encSY_fields (hm : majorOf w0 = 0x2C) (hop : (fld w0 14 8).toNat = op.toNat)
    (hz : fld w0 0 1 ++ fld w1 0 21 = 0#(1 + 21)) : encSY op (engOf w0 w1) (syOf w0) = [w0, w1] := by
  obtain ⟨hz0, hz1⟩ := (append_eq_zero ..).mp hz
  rw [encSY, encEng1_fields hz1, ← BitVec.eq_of_toNat_eq (y := 0x2C#6) hm, ← BitVec.eq_of_toNat_eq hop, ← hz0]
  simp (disch := decide) only [engOf, syOf, fld_append_fld]
  exact congrArg ([·, w1]) (fld_all w0)

end

/-! ## What a decoder answers

The cases of a decoder are numbered as its table lists them. -/

/-- Whatever instruction is answered, its encoding is the given words. -/
def Encodes (ws : List W32) (r : Except Reject Instr) : Prop := ∀ i, r = .ok i → encode i = ws

section
variable {w w0 w1 : W32} {ws : List W32} {i : Instr}

theorem encodes_ok (h : encode i = ws) : Encodes ws (.ok i) := by
  rintro _ ⟨⟩
  exact h

theorem encodes_error {r : Reject} : Encodes ws (.error r) := nofun

theorem encodes_ifZero {n : Nat} {z : BitVec n} (h : z = 0#n → encode i = ws) : Encodes ws (ifZero z i) := by
  unfold ifZero
  split
  · next hz => exact encodes_ok (h hz)
  · exact encodes_error

/-- Format S. -/
theorem decodeSys_encodes (hm : majorOf w = 0x00) : Encodes [w] (decodeSys w) := by
  unfold decodeSys
  dsimp only
  split
  -- no operand but the predicate: bits 15:0 are reserved
  case h_1 hf | h_2 hf | h_3 hf | h_4 hf | h_7 hf => exact encodes_ifZero fun hz => encSys_fields hm hf hz
  -- mfsr and mtsr: a register and a number fill bits 15:0
  case h_14 hf | h_15 hf =>
    exact encodes_ok (encSys_fields hm hf (by simp (disch := decide) only [fld_append_fld]))
  -- operands and reserved bits share bits 15:0
  case h_16 hf | h_17 hf | h_18 hf | h_19 hf | h_20 hf | h_21 hf =>
    exact encodes_ifZero fun hz => encSys_fields hm hf (by
      simp (disch := decide) only [← hz, fld_append_fld])
  case h_22 => exact encodes_error
  all_goals
    next hf => exact encodes_ok (encSys_fields hm hf rfl)

/-- Format A. -/
theorem decodeAlu_encodes (hm : majorOf w = 0x01) : Encodes [w] (decodeAlu w) := by
  unfold decodeAlu
  dsimp only
  split
  -- clz, ctz and popc read no second register
  case h_20 hf | h_21 hf | h_22 hf => exact encodes_ifZero fun hz => encAlu_fields hm hz hf
  case h_23 => exact encodes_error
  all_goals
    next hf => exact encodes_ok (encAlu_fields hm rfl hf)

/-- Shifts by an immediate. -/
theorem decodeShift_encodes (hm : majorOf w = 0x06) : Encodes [w] (decodeShift w) := by
  unfold decodeShift
  dsimp only
  split
  case h_4 => exact encodes_error
  all_goals
    next hf => exact encodes_ifZero fun hz => shift_fields hm hf hz

/-- Format P. -/
theorem decodePred_encodes (hm : majorOf w = 0x0A) : Encodes [w] (decodePred w) := by
  unfold decodePred
  dsimp only
  split
  case h_6 => exact encodes_error
  all_goals
    next hf => exact encodes_ifZero fun hz => encPred_fields hm hf hz

/-- Format G. -/
theorem decodePtr_encodes (hm : majorOf w = 0x0B) : Encodes [w] (decodePtr w) := by
  unfold decodePtr
  dsimp only
  split
  case h_1 hf => exact encodes_ifZero fun hz => encPtr_fields hm rfl hf hz
  case h_2 hf => exact encodes_ifZero fun hz => encPtr_fields hm hz hf rfl
  case h_3 hf =>
    refine encodes_ifZero fun hz => ?_
    obtain ⟨hb, hs⟩ := (append_eq_zero ..).mp hz
    exact encPtr_fields hm hb hf hs
  case h_4 => exact encodes_error

/-- Format N. -/
theorem decodeRng_encodes (hm : majorOf w = 0x0C) : Encodes [w] (decodeRng w) := by
  unfold decodeRng
  dsimp only
  split
  case h_1 hf =>
    refine encodes_ifZero fun hz => ?_
    obtain ⟨hn, hz⟩ := (append_eq_zero ..).mp hz
    exact rng_fields hm hn hf hz
  case h_2 hf => exact encodes_ifZero fun hz => rng_fields hm rfl hf hz
  case h_3 => exact encodes_error

/-- Format JR. -/
theorem decodeJr_encodes (hm : majorOf w = 0x13) : Encodes [w] (decodeJr w) := by
  unfold decodeJr
  split
  case h_3 => exact encodes_error
  all_goals
    next hf => exact encodes_ifZero fun hz => jr_fields hm hf hz

/-- Tables. -/
theorem decodeTable_encodes (hm : majorOf w = 0x31) : Encodes [w] (decodeTable w) := by
  unfold decodeTable
  split
  next hb => exact encodes_ifZero fun hz => table_fields hm hb hz
  next hb =>
    exact encodes_ifZero fun hz => table_fields hm ((BitVec.eq_zero_or_eq_one _).resolve_left hb) hz

/-- The long loads and stores. -/
theorem decodeLong_encodes (hm : majorOf w0 = 0x23) : Encodes [w0, w1] (decodeLong w0 w1) := by
  unfold decodeLong
  dsimp only
  split
  case h_1 hk =>
    refine encodes_ifZero fun hz => ?_
    simp only [append_eq_zero] at hz
    obtain ⟨⟨hz0, hscope⟩, hz1⟩ := hz
    exact encLong_fields hm rfl rfl hk hz0 hscope hz1 rfl
  case h_2 hk =>
    refine encodes_ifZero fun hz => ?_
    simp only [append_eq_zero] at hz
    obtain ⟨⟨⟨hz0, hscope⟩, hz1⟩, hsext⟩ := hz
    exact encLong_fields hm rfl hsext hk hz0 hscope hz1 rfl
  case h_3 hk | h_4 hk =>
    split
    next hsize =>
      refine encodes_ifZero fun hz => ?_
      simp only [append_eq_zero] at hz
      obtain ⟨⟨⟨hz0, hz1⟩, hsext⟩, hx⟩ := hz
      exact encLong_fields hm hsize hsext hk hz0 rfl hz1 (by simp (disch := decide) only [← hx, fld_append_fld])
    next => exact encodes_error
  case h_5 => exact encodes_error

/-- The atomics. -/
theorem decodeAmo_encodes (hm : majorOf w0 = 0x24) : Encodes [w0, w1] (decodeAmo w0 w1) := by
  unfold decodeAmo
  dsimp only
  split
  -- cas reads a third register
  case h_10 hf => exact encodes_ifZero fun hz => encAmo_fields hm rfl rfl hf hz
  -- amo.fadd has one size
  case h_11 hf =>
    refine encodes_ifZero fun hz => ?_
    obtain ⟨hz, hsize⟩ := (append_eq_zero ..).mp hz
    obtain ⟨hz, hc⟩ := (append_eq_zero ..).mp hz
    exact encAmo_fields hm hc hsize hf hz
  case h_12 => exact encodes_error
  all_goals
    next hf =>
      refine encodes_ifZero fun hz => ?_
      obtain ⟨hz, hc⟩ := (append_eq_zero ..).mp hz
      exact encAmo_fields hm hc rfl hf hz

/-- The V and VM groups. -/
theorem decodeVec_encodes (hm : majorOf w0 = 0x28) : Encodes [w0, w1] (decodeVec w0 w1) := by
  unfold decodeVec
  dsimp only
  split
  -- vld, vst and vldt
  case h_36 hop | h_37 hop | h_38 hop => exact encodes_ifZero fun hz => encVM_fields hm hop hz
  case h_42 => exact encodes_error
  all_goals
    next hop => exact encodes_ok (encV_fields hm hop)

/-- The X group. -/
theorem decodeMat_encodes (hm : majorOf w0 = 0x2A) : Encodes [w0, w1] (decodeMat w0 w1) := by
  unfold decodeMat
  dsimp only
  split
  case h_13 => exact encodes_error
  all_goals
    next hop => exact encodes_ifZero fun hz => encX_fields hm hop hz

/-- The CP group. -/
theorem decodeCopy_encodes (hm : majorOf w0 = 0x2B) : Encodes [w0, w1] (decodeCopy w0 w1) := by
  unfold decodeCopy
  dsimp only
  split
  case h_21 => exact encodes_error
  all_goals
    next hop => exact encodes_ifZero fun hz => encCP_fields hm hop hz

/-- The SY group. -/
theorem decodeSync_encodes (hm : majorOf w0 = 0x2C) : Encodes [w0, w1] (decodeSync w0 w1) := by
  unfold decodeSync
  dsimp only
  split
  case h_9 => exact encodes_error
  all_goals
    next hop => exact encodes_ifZero fun hz => encSY_fields hm hop hz

/-! ## Both lengths (R139) -/

/-- The words of an instruction whose word 0 is w0. -/
def wordsRead (w0 w1 : W32) : List W32 := if isLong w0 then [w0, w1] else [w0]

theorem Encodes.short {m : Nat} {r : Except Reject Instr} (hm : majorOf w0 = m) (hs : m < 0x23 ∨ 0x2C < m)
    (h : Encodes [w0] r) : Encodes (wordsRead w0 w1) r := by
  have hl : isLong w0 = false := by
    simp only [isLong, hm, Bool.and_eq_false_iff, decide_eq_false_iff_not]
    omega
  rwa [wordsRead, hl]

theorem Encodes.long {m : Nat} {r : Except Reject Instr} (hm : majorOf w0 = m) (hs : 0x23 ≤ m ∧ m ≤ 0x2C)
    (h : Encodes [w0, w1] r) : Encodes (wordsRead w0 w1) r := by
  have hl : isLong w0 = true := by
    simp only [isLong, hm, Bool.and_eq_true, decide_eq_true_eq]
    exact hs
  rwa [wordsRead, hl]

/-- The decoder before the checks of field values, by the major opcode. -/
theorem decodeFields_encodes (w0 w1 : W32) : Encodes (wordsRead w0 w1) (decodeFields w0 w1) := by
  unfold decodeFields
  split
  case h_1 hm => exact .short hm (by decide) (decodeSys_encodes hm)
  case h_2 hm => exact .short hm (by decide) (decodeAlu_encodes hm)
  case h_7 hm => exact .short hm (by decide) (decodeShift_encodes hm)
  case h_8 hm => exact .short hm (by decide) (encodes_ok (lui_fields hm))
  case h_9 hm => exact .short hm (by decide) (encodes_ifZero fun hz => cmp_fields hm hz)
  case h_10 hm => exact .short hm (by decide) (encodes_ok (cmpi_fields hm))
  case h_11 hm => exact .short hm (by decide) (decodePred_encodes hm)
  case h_12 hm => exact .short hm (by decide) (decodePtr_encodes hm)
  case h_13 hm => exact .short hm (by decide) (decodeRng_encodes hm)
  case h_14 hm => exact .short hm (by decide) (encodes_ok (br_fields hm))
  case h_15 hm | h_16 hm => exact .short hm (by decide) (encodes_ok (jump_fields hm))
  case h_17 hm => exact .short hm (by decide) (decodeJr_encodes hm)
  case h_18 hm => exact .short hm (by decide) (encodes_ok (loop_fields hm))
  case h_30 hm => exact .long hm (by decide) (decodeLong_encodes hm)
  case h_31 hm => exact .long hm (by decide) (decodeAmo_encodes hm)
  case h_32 hm | h_33 hm =>
    exact .long hm (by decide) (encodes_ifZero fun hz => li_fields hm hz)
  case h_34 hm => exact .long hm (by decide) (decodeVec_encodes hm)
  case h_35 hm => exact .long hm (by decide) (decodeMat_encodes hm)
  case h_36 hm => exact .long hm (by decide) (decodeCopy_encodes hm)
  case h_37 hm => exact .long hm (by decide) (decodeSync_encodes hm)
  case h_38 hm => exact .short hm (by decide) (encodes_ok (patch_fields hm))
  case h_39 hm => exact .short hm (by decide) (decodeTable_encodes hm)
  case h_40 => exact encodes_error
  -- formats I, L and SS
  all_goals
    next hm => exact .short hm (by decide) (encodes_ok (encImm_fields hm rfl))

/-- What decodes has passed the checks of field values. -/
theorem decode_ok (h : decode w0 w1 = .ok i) : decodeFields w0 w1 = .ok i ∧ i.wf = true := by
  unfold decode at h
  split at h
  · next hd =>
    split at h
    · next hw =>
      cases h
      exact ⟨hd, hw⟩
    · cases h
  · cases h

/-- An instruction with an encoding is a word. -/
theorem isWord_of_wordsRead (h : encode i = wordsRead w0 w1) : i.isWord = true := by
  rw [Instr.isWord, h, wordsRead]
  split <;> rfl
end

/-- Settles O54: `decodeFields_encodes`, by the decoder of each major opcode, with `decode_ok`. -/
theorem decodeEncode : Obligations.DecodeEncode := by
  intro w0 w1 i h
  obtain ⟨hf, hw⟩ := decode_ok h
  have he := decodeFields_encodes w0 w1 i hf
  exact ⟨isWord_of_wordsRead he, hw, he⟩

end Sys2Proof.Laws
end

section
/-! A step of the device runs the instruction that the strand in focus has fetched (09 R139, R149; 10 R171; 18 R287). -/
namespace Sys2Proof.Machine

/-! ## Fetched words as an instruction -/

/-- Words that decode are their instruction. -/
theorem decodeOr_of_ok {ws : List W32} {i : Instr} (h : decode (ws.headD 0#32) ((ws.drop 1).headD 0#32) = .ok i) :
    decodeOr ws = i := by
  unfold decodeOr
  dsimp only
  rw [h]

/-- Words that decode to nothing are an unassigned encoding. -/
theorem decodeOr_of_not_ok {ws : List W32} (h : ∀ i, decode (ws.headD 0#32) ((ws.drop 1).headD 0#32) ≠ .ok i) :
    decodeOr ws = .unassignedEncoding (ws.headD 0#32) ((ws.drop 1).headD 0#32) := by
  unfold decodeOr
  dsimp only
  split
  · next i hd => exact absurd hd (h i)
  · rfl

theorem issueWords_alone {s : State} {ws : List W32} (h : kneadAt s ws = .alone) : issueWords s ws = exec (decodeOr ws) s := by
  rw [issueWords, h]

theorem issueWords_group {s : State} {ws : List W32} {k : Nat} {ms : List WinItem} (h : kneadAt s ws = .group k ms) :
    issueWords s ws = exec (.kneadGroupIssue k) s := by
  rw [issueWords, h]

/-! ## The turn of the strand in focus -/

/-- The strand in focus has its turn of this cycle, and nothing comes before its fetch. -/
def TakesTurn (s : State) : Prop :=
  dueNow s = none ∧ settleDue s = none ∧ agendaNow s = none ∧ hasTurn s.myCrew s.cur.2 = true ∧ s.me.rest = none ∧
    lostLate s.me = none ∧ lstopAt s.me = none

/-- What the strand in focus does with what its fetch answers. -/
def afterFetch (s : State) : Res (State × List W32) → Outcome
  | .ok (s1, ws) => fetchDone s (codePlaces s1 (codeBytes s1 ws)) (issueWords s1 ws)
  | .error (.trap c v) => exec (.instructionFetchFault c v) s
  | .error (.xtrap c v s1) => exec (.instructionFetchFault c v) s1
  | .error (.wait q s1) => .next (holdMe q s1)
  | .error (.fault f) => .fault f

/-- Such a step goes by the answer of the fetch. -/
theorem step_fetched {s : State} (h : TakesTurn s) : step s = afterFetch s (fetchNow s) := by
  obtain ⟨hdue, hsettled, hagenda, hturn, hrest, hlate, hlstop⟩ := h
  unfold step takeStep
  simp only [hdue, hsettled, hagenda, hturn, if_true]
  unfold strandTurn
  simp only [hrest, hlate, hlstop]
  rfl

/-- The fetch of the words at the PC. -/
theorem fetchNow_memory {s : State} (h : s.me.latch = none) : fetchNow s = fetchWords s s.me.pc := by
  rw [fetchNow, h]

/-- A step that has no words of a patch goes by what the fetch at its PC answers. -/
theorem step_fetchWords {s : State} (h : TakesTurn s) (hl : s.me.latch = none) :
    step s = afterFetch s (fetchWords s s.me.pc) := by
  rw [step_fetched h, fetchNow_memory hl]

/-- The fetch of the words that a patch has amended. -/
theorem fetchNow_latch {s : State} {ws : List W32} (h : s.me.latch = some ws) : fetchNow s = .ok (s, ws) := by
  rw [fetchNow, h]

/-- The end of a fetch depends on the strand in focus and its tenant alone. -/
theorem fetchDone_sameCrews {s s1 : State} (h : SameCrews s s1) (ps : List Place) (o : Outcome) :
    fetchDone s ps o = fetchDone s1 ps o := by
  obtain ⟨-, hcrews, hcur, -⟩ := h
  cases o with
  | next t => simp only [fetchDone, State.myCrew, State.crew, hcrews, hcur]
  | fault f => rfl
  | refused r => rfl

/-- A step that has its words issues them in the state of the fetch. -/
theorem step_issues {s s1 : State} {ws : List W32} (h : TakesTurn s)
    (hf : (s.me.latch = none ∧ fetchWords s s.me.pc = .ok (s1, ws)) ∨ (s.me.latch = some ws ∧ s1 = s)) :
    step s = fetchDone s1 (codePlaces s1 (codeBytes s1 ws)) (issueWords s1 ws) := by
  obtain ⟨hl, hw⟩ | ⟨hl, rfl⟩ := hf
  · rw [step_fetchWords h hl, hw]
    exact fetchDone_sameCrews (fetchWords_keeps hw) ..
  · rw [step_fetched h, fetchNow_latch hl]
    rfl

/-! ## An event that is due -/

/-- Only the counter of the free values tells the state that an event leaves from the state after the step. -/
theorem nextFresh_next (i : Instr) (t : State) : ∃ n, nextFresh i (.next t) = .next { t with fresh := n } := by
  unfold nextFresh
  dsimp only
  split
  · exact ⟨_, rfl⟩
  · exact ⟨t.fresh, rfl⟩

theorem step_due {s : State} {i : Instr} (h : dueNow s = some i) : step s = nextFresh i (exec i s) := by
  unfold step takeStep
  rw [h]

/-! ## The obligation -/

/-- Settles O56: `step_issues` where the words are there, `step_fetchWords` where the fetch stops. -/
theorem stepRunsDecoded : Obligations.StepRunsDecoded := by
  intro s s1 s2 ws ps n i k ms cause v
  dsimp only
  refine ⟨fun ht hf hk hd => ?_, fun ht hf hk hd => ?_, fun ht hf hk => ?_, fun t => rfl, fun hl => ?_,
    fun hl hp => ?_, fun ht hl hf => ?_, fun ht hl hf => ?_, fun ht hl hf => ?_, fun t hd hx => ?_⟩
  · rw [step_issues ht hf, issueWords_alone hk, decodeOr_of_ok hd]
  · rw [step_issues ht hf, issueWords_alone hk, decodeOr_of_not_ok hd]
    rfl
  · rw [step_issues ht hf, issueWords_group hk]
  · exact if_pos hl
  · simp only [codePlaces, hl, hp, Option.isSome_none, Bool.false_eq_true, if_false]
  · refine ⟨_, ?_, rfl⟩
    rw [step_fetchWords ht hl, hf]
    rfl
  · refine ⟨_, ?_, rfl⟩
    rw [step_fetchWords ht hl, hf]
    rfl
  · rw [step_fetchWords ht hl, hf]
    rfl
  · rw [step_due hd, hx]
    exact nextFresh_next i t

end Sys2Proof.Machine
end

section
/-! What a vector instruction that starts changes (02 R16, R21; 11 R194, R195). -/
namespace Sys2Proof.Machine

/-! ## The operand that an instruction fills -/

/-- An operand's state after a write to one: the numbers from 34 on name none. -/
theorem feOf_setFe (c : Crew) (i j : Nat) (f : Fe) :
    (c.setFe j f).feOf i = if i < 34 ∧ j = i then f else c.feOf i := by
  unfold Crew.setFe
  split
  · next hj =>
    by_cases hi : i < 26
    · by_cases h : j = i <;> simp [Crew.feOf, hi, h, show i < 34 by omega]
    · simp [Crew.feOf, hi, show j ≠ i by omega]
  · next hj =>
    split
    · next hj' =>
      by_cases hi : i < 26
      · simp [Crew.feOf, hi, show j ≠ i by omega]
      · by_cases h : j = i
        · subst h
          simp [Crew.feOf, hi, show j < 34 by omega]
        · simp [Crew.feOf, hi, h, Vector.getElem?_set_ne, show j - 26 ≠ i - 26 by omega]
    · simp [show ¬(i < 34 ∧ j = i) by omega]

/-- Tokens leave the operands. -/
@[simp] theorem take_feOf (c : Crew) (k : StrandKind) (m : BitVec 3) (i : Nat) : (c.take k m).feOf i = c.feOf i := by
  simp [Crew.feOf]

/-- The crew whose named operand, if any, is FILLING. -/
def Crew.fill (c : Crew) : Option Nat → Crew
  | some i => c.setFe i .filling
  | none => c

@[simp] theorem fill_tiles (c : Crew) (w : Option Nat) : (c.fill w).tiles = c.tiles := by cases w <;> simp [Crew.fill]
@[simp] theorem fill_ring (c : Crew) (w : Option Nat) : (c.fill w).ring = c.ring := by cases w <;> simp [Crew.fill]
@[simp] theorem fill_tokens (c : Crew) (w : Option Nat) : (c.fill w).tokens = c.tokens := by cases w <;> simp [Crew.fill]
@[simp] theorem fill_qs (c : Crew) (w : Option Nat) : (c.fill w).qs = c.qs := by cases w <;> simp [Crew.fill]
@[simp] theorem fill_seq (c : Crew) (w : Option Nat) : (c.fill w).seq = c.seq := by cases w <;> simp [Crew.fill]
@[simp] theorem fill_inflight (c : Crew) (w : Option Nat) : (c.fill w).inflight = c.inflight := by
  cases w <;> simp [Crew.fill]
@[simp] theorem fill_str (c : Crew) (w : Option Nat) (k : StrandKind) : (c.fill w).str k = c.str k := by
  cases w <;> simp [Crew.fill]

/-- What is filled is FILLING, and no other operand changes. -/
theorem fill_feOf (c : Crew) (w : Option Nat) (i : Nat) :
    (c.fill w).feOf i = if i < 34 ∧ w = some i then .filling else c.feOf i := by
  cases w <;> simp [Crew.fill, feOf_setFe]

/-! ## The crew after a start -/

/-- An operation as it goes into flight under the crew's next number. -/
def startedOp (s : State) (e : Eng) (u : TileUse) (o : EngOp) : EngOp :=
  { o with
    id := s.myCrew.seq
    kind := s.cur.2
    reads := u.reads
    dst := u.ends s.myCrew
    post := e.post
    after := s.remoteSeq }

/-- What an operation that starts leaves of its crew (R16, R21). -/
theorem startOp_myCrew (s : State) (e : Eng) (u : TileUse) (o : EngOp) :
    (startOp s e u o).myCrew = { (s.myCrew.take s.cur.2 e.wait).fill (u.write.map Prod.fst) with
      inflight := s.myCrew.inflight ++ [startedOp s e u o]
      seq := s.myCrew.seq + 1 } := by
  unfold startOp
  cases h : u.write <;> simp [startedOp, TileUse.ends, Crew.fill, h]

/-- A vector instruction puts its row in flight and at the head of the ring (R194). -/
theorem startVector_myCrew (s : State) (e : Eng) (u : TileUse) (d : Option (Nat × Nat)) (row : Row) :
    (startVector s e u d row).myCrew = { (s.myCrew.take s.cur.2 e.wait).fill (u.write.map Prod.fst) with
      inflight := s.myCrew.inflight ++ [startedOp s e u {
        id := s.myCrew.seq, kind := s.cur.2, unit := .vector, rows := d.toList.map fun p => (128 * p.1 + p.2, row) }]
      seq := s.myCrew.seq + 1
      ring := { row, op := some s.myCrew.seq } :: s.myCrew.ring.take 3 } := by
  unfold startVector
  simp [startOp_myCrew, pushRing]

/-- A start changes the crew in focus alone. -/
theorem startVector_crew_ne (s : State) (e : Eng) (u : TileUse) (d : Option (Nat × Nat)) (row : Row) {m : Nat}
    (h : m ≠ s.cur.1) : (startVector s e u d row).crew m = s.crew m :=
  (setMyCrew_crew_ne (startOp s e u _) _ m h).trans (setMyCrew_crew_ne s _ m h)

/-- A started crew keeps its strands: of the crew only what is in flight, its number and the ring are other. -/
theorem str_started (c : Crew) (l : List EngOp) (n : Nat) (r : List RingEnt) (k : StrandKind) :
    ({ c with inflight := l, seq := n, ring := r } : Crew).str k = c.str k := by
  cases k <;> rfl

/-! ## The obligation -/

/-- Settles O21: `startVector_myCrew`, and `fill_feOf` for the destination. -/
theorem vectorStart : Obligations.VectorStart := by
  intro s e u d row
  refine ⟨rfl, rfl, ?_⟩
  rw [startVector_myCrew]
  refine ⟨by simp, by simp, by simp, by simp, by simp, ⟨_, rfl, rfl, rfl, rfl⟩, fun i => ?_, fun k => ?_,
    fun m hm => startVector_crew_ne s e u d row hm⟩
  · exact (fill_feOf _ _ i).trans (by rw [take_feOf])
  · show (startVector s e u d row).myCrew.str k = s.myCrew.str k
    rw [startVector_myCrew, str_started, fill_str, take_str]

end Sys2Proof.Machine
end

section
/-! Vector instructions on rows (11 R193, R199 to R203, R206, R207, R210, R211). -/
namespace Sys2Proof.Machine

variable {i : Instr} {ks : List StrandKind} {p : BitVec 4} {off : Bool} {s u : State} {e : Eng} {v : VFields}
  {reads : List (RowSpec × BitVec 1)} {rows : List Row} {row a b m : Row} {d : Option (Nat × Nat)} {comp : VCalc} {x : Strand}

/-! ## The course of a vector instruction -/

/-- An instruction that executes and whose body goes on completes. -/
theorem issue_endsIn {body : Body} (hi : Issues s i) (hk : strandKinds i = ks) (hp : predField i = p)
    (hx : exec i s = issue i ks p off body s) (hb : body s = .ok (u, none)) : EndsIn i s u := by
  unfold EndsIn
  rw [hx, issue_finishes off hi hk hp, hb, finish_retire]

/-- An open gate lets the instruction start, where none of its reads waits for the ring. -/
theorem engGate_passes {w : TileUse} {specs : List RowSpec} {more : Bool} (h : GateOpen s e w specs) (hm : more = false) :
    engGate s e w more = .ok () := by
  obtain ⟨hz, ht, -, hk⟩ := h
  simp [engGate, hz, ht, hk, hm]

/-- No ring row that an instruction reads is still being produced. -/
theorem ringWaits_any {w : TileUse} (h : GateOpen s e w (reads.map Prod.fst)) :
    (reads.any fun r => ringWaits s.myCrew r.1) = false := by
  obtain ⟨-, -, hr, -⟩ := h
  simpa using hr

/-- Where a V group instruction starts and its computation gives a row, its body starts with that row. -/
theorem vBody_ok (h : VStarts s e v reads rows d) (hc : comp s.me rows = .ok (row, x)) :
    vBody e v reads comp s = .ok (startVector (s.setMe x) e (useOf reads (rowSpec v.dst) v.f) d row, none) := by
  obtain ⟨hg, hr, hd⟩ := h
  simp only [vBody, engGate_passes hg (ringWaits_any hg), hr, hd, hc]

/-- Where its computation stops, so does its body. -/
theorem vBody_error {w : Stop} (h : VStarts s e v reads rows d) (hc : comp s.me rows = .error w) :
    vBody e v reads comp s = .error w := by
  obtain ⟨hg, hr, hd⟩ := h
  simp only [vBody, engGate_passes hg (ringWaits_any hg), hr, hd, hc]

/-- A V group instruction gives the row that it computes. -/
theorem vIssue_gives (hk : strandKinds i = [.v]) (hp : predField i = e.p)
    (hx : exec i s = issue i [.v] e.p true (vBody e v reads comp) s) (hi : Issues s i) (h : VStarts s e v reads rows d)
    (hc : comp s.me rows = .ok (row, x)) : VGives i s e v reads d row x :=
  issue_endsIn hi hk hp hx (vBody_ok h hc)

/-- A V group instruction traps where its computation does. -/
theorem vIssue_traps {c : Nat} {val : Word} (hk : strandKinds i = [.v]) (hp : predField i = e.p)
    (hx : exec i s = issue i [.v] e.p true (vBody e v reads comp) s) (hi : Issues s i) (h : VStarts s e v reads rows d)
    (hc : comp s.me rows = .error (.trap c val)) : Traps i s c val := by
  unfold Traps
  rw [hx, issue_finishes true hi hk hp, vBody_error h hc, finish_trap]

/-- A form with one source, its row computed from that source. -/
theorem calc1_gives {f : Row → Row} (hk : strandKinds i = [.v]) (hp : predField i = e.p)
    (hx : exec i s = issue i [.v] e.p true (vBody e v (srcs1 v) (calc1 f)) s) (hf : f a = row) (hi : Issues s i)
    (h : VStarts s e v (srcs1 v) [a] d) : VGives i s e v (srcs1 v) d row s.me :=
  vIssue_gives hk hp hx hi h (hf ▸ rfl)

/-- A form with two sources, its row computed from both. -/
theorem calc2_gives {f : Row → Row → Row} (hk : strandKinds i = [.v]) (hp : predField i = e.p)
    (hx : exec i s = issue i [.v] e.p true (vBody e v (srcs2 v) (calc2 f)) s) (hf : f a b = row) (hi : Issues s i)
    (h : VStarts s e v (srcs2 v) [a, b] d) : VGives i s e v (srcs2 v) d row s.me :=
  vIssue_gives hk hp hx hi h (hf ▸ rfl)

/-- A form with three sources. -/
theorem calc3_gives {f : Row → Row → Row → Row} (hk : strandKinds i = [.v]) (hp : predField i = e.p)
    (hx : exec i s = issue i [.v] e.p true (vBody e v reads (calc3 f)) s) (hf : f a b m = row) (hi : Issues s i)
    (h : VStarts s e v reads [a, b, m] d) : VGives i s e v reads d row s.me :=
  vIssue_gives hk hp hx hi h (hf ▸ rfl)

/-! ## Rows from two rows -/

variable (ty : Ty) (fv : Val → Val → Val) (fi : Int → Int → Int)

/-- Arithmetic on two rows (R199). -/
theorem map2_arith : map2 ty (arith2 ty fv fi) a b = buildRow ty fun k =>
    if tyIsInt ty then
      (BitVec.ofInt (tyBits ty) (fi (BitVec.ofNat (tyBits ty) (rowElem ty a k)).toInt
        (BitVec.ofNat (tyBits ty) (rowElem ty b k)).toInt)).toNat
    else roundTo ty .rne (fv (valueOf ty (rowElem ty a k)) (valueOf ty (rowElem ty b k))) := rfl

/-- vshl multiplies by a power of two (R201). -/
theorem map2_shl : map2 ty (fun x y => x <<< shiftCount ty y) a b =
    buildRow ty fun k => rowElem ty a k * 2 ^ (rowElem ty b k % tyBits ty) := by
  simp only [map2, shiftCount, Nat.shiftLeft_eq]

/-- vshr divides by a power of two (R201). -/
theorem map2_shr : map2 ty (fun x y => x >>> shiftCount ty y) a b =
    buildRow ty fun k => rowElem ty a k / 2 ^ (rowElem ty b k % tyBits ty) := by
  simp only [map2, shiftCount, Nat.shiftRight_eq_div_pow]

/-- vsra divides the signed value by a power of two (R201). -/
theorem map2_sra : map2 ty (fun x y => wrapElem ty (sElem ty x / 2 ^ shiftCount ty y)) a b = buildRow ty fun k =>
    (BitVec.ofInt (tyBits ty) ((BitVec.ofNat (tyBits ty) (rowElem ty a k)).toInt / 2 ^ (rowElem ty b k % tyBits ty))).toNat :=
  rfl

/-- A compare gives masks (R202). -/
theorem cmpRow_eq (c : Nat) : cmpRow ty c a b = buildRow ty fun k =>
    if valCond c (valueOf ty (rowElem ty a k)) (valueOf ty (rowElem ty b k)) then 2 ^ tyBits ty - 1 else 0 := rfl

/-- Settles O22: each form is `calc2_gives` or `calc3_gives` with its row, the arithmetic and the compares by one
equation each. -/
theorem vectorPairs : Obligations.VectorPairs := by
  intro s e v a b m d
  dsimp only
  refine ⟨?_, calc3_gives rfl rfl rfl rfl, calc3_gives rfl rfl rfl rfl⟩
  have arith {i : Instr} (fv : Val → Val → Val) (fi : Int → Int → Int) (hk : strandKinds i = [.v]) (hp : predField i = e.p)
      (hx : exec i s = issue i [.v] e.p true (vBody e v (srcs2 v) (calc2 (map2 v.ty.toNat (arith2 v.ty.toNat fv fi)))) s) :=
    calc2_gives (a := a) (b := b) (d := d) hk hp hx (map2_arith _ fv fi)
  have cmp {i : Instr} (c : Nat) (hk : strandKinds i = [.v]) (hp : predField i = e.p)
      (hx : exec i s = issue i [.v] e.p true (vBody e v (srcs2 v) (calc2 (cmpRow v.ty.toNat c))) s) :=
    calc2_gives (a := a) (b := b) (d := d) hk hp hx (cmpRow_eq _ c)
  simp only [List.forall_mem_cons]
  exact ⟨arith Val.add (· + ·) rfl rfl rfl, arith (fun x y => Val.add x y.neg) (· - ·) rfl rfl rfl,
    arith Val.mul (· * ·) rfl rfl rfl, arith Val.min' min rfl rfl rfl, arith Val.max' max rfl rfl rfl,
    -- bits (R201)
    calc2_gives rfl rfl rfl rfl, calc2_gives rfl rfl rfl rfl, calc2_gives rfl rfl rfl rfl,
    calc2_gives rfl rfl rfl (map2_shl _), calc2_gives rfl rfl rfl (map2_shr _), calc2_gives rfl rfl rfl (map2_sra _),
    -- compares and vshuf (R202, R211)
    cmp 0 rfl rfl rfl, cmp 1 rfl rfl rfl, cmp 2 rfl rfl rfl, cmp 3 rfl rfl rfl, calc2_gives rfl rfl rfl rfl, by simp⟩

/-! ## Rows from one row -/

/-- Arithmetic on one row (R199). -/
theorem map1_arith (fv : Val → Val) (fi : Int → Int) : map1 ty (arith1 ty fv fi) a = buildRow ty fun k =>
    if tyIsInt ty then (BitVec.ofInt (tyBits ty) (fi (BitVec.ofNat (tyBits ty) (rowElem ty a k)).toInt)).toNat
    else roundTo ty .rne (fv (valueOf ty (rowElem ty a k))) := rfl

/-- A reduction has its result in every element (R210). -/
theorem reduceRow_eq (fv : List Val → Val) (fi : List Int → Int) : reduceRow ty fv fi a = buildRow 7 fun _ =>
    if tyIsInt ty then
      (BitVec.ofInt 32 (fi ((List.range (perRow ty)).map fun k => (BitVec.ofNat (tyBits ty) (rowElem ty a k)).toInt))).toNat
    else rne32 (fv ((List.range (perRow ty)).map fun k => valueOf ty (rowElem ty a k))) := rfl

/-- Settles O23: each form is `calc1_gives` with its row. -/
theorem vectorSingles : Obligations.VectorSingles := by
  intro s e v a d
  dsimp only
  simp only [List.forall_mem_cons]
  exact ⟨calc1_gives rfl rfl rfl (map1_arith ..), calc1_gives rfl rfl rfl (map1_arith ..),
    calc1_gives rfl rfl rfl rfl, calc1_gives rfl rfl rfl rfl, calc1_gives rfl rfl rfl rfl, calc1_gives rfl rfl rfl rfl,
    calc1_gives rfl rfl rfl rfl, calc1_gives rfl rfl rfl rfl, calc1_gives rfl rfl rfl rfl,
    calc1_gives rfl rfl rfl (reduceRow_eq ..), calc1_gives rfl rfl rfl (reduceRow_eq ..),
    calc1_gives rfl rfl rfl (reduceRow_eq ..),
    calc1_gives rfl rfl rfl rfl, calc1_gives rfl rfl rfl rfl, by simp⟩

end Sys2Proof.Machine
end

section
/-! Vector conversions and random rows (11 R204, R205, R208, R209, R211; 06 R95). -/
namespace Sys2Proof.Machine

variable {i : Instr} {v : VFields} {x : Strand} {a : Row} {rows : List Row}

/-! ## Fields -/

/-- The register that the low five bits of the x field name. -/
theorem extractLsb_five (b : BitVec 6) : b.extractLsb' 0 5 = BitVec.ofNat 5 (b.toNat % 32) := by
  apply BitVec.eq_of_toNat_eq
  simp

/-- A threshold of vdrop is below 2^16 exactly where its upper bits are zero. -/
theorem upperBits_eq_zero (t : Word) : t.bits 63 16 = 0 ↔ t.toNat < 2 ^ 16 := by
  rw [Word.bits, Nat.shiftRight_eq_div_pow]
  omega

/-! ## Conversions -/

/-- The row of a narrowing form (R204): part of it is rounded, the rest zero. -/
def narrowRow (ty : Ty) (part : Nat) (r : Nat → Round) (a : Row) : Row := buildRow ty fun j =>
  if j / 256 = part then roundTo ty (r (j % 256)) (fp32 (rowElem 0 a (j % 256))) else 0

/-- How a narrowing form rounds value k in a mode. -/
def roundOf (x : Strand) (mode part k : Nat) : Round :=
  match mode with
  | 0 => .rne
  | 1 => .rz
  | m => .sr (drawOf x (m == 3) dRound (256 * part + k) k) true

/-- Mode 2 takes the draws of the context stream. -/
theorem roundOf_draws (part : Nat) : roundOf x 2 part = fun k => .sr (ctxDraw x k).toNat true := by
  funext k
  simp [roundOf, drawOf]

/-- Mode 3 takes the values of the tensor descriptor. -/
theorem roundOf_descriptor (part : Nat) :
    roundOf x 3 part = fun k => .sr (descDraw x dRound (256 * part + k)).toNat true := by
  funext k
  simp [roundOf, drawOf]

/-- A narrowing form gives its row, and draws in mode 2. -/
theorem cvtCalc_narrow {m : Nat} (hx : v.x.toNat < 32) (hm : v.x.toNat / 8 % 4 = m) (hd : m = 3 → descOk x = true) :
    cvtCalc i v x [a] = .ok (narrowRow v.ty.toNat (v.x.toNat % 4) (roundOf x m (v.x.toNat % 4)) a,
      if m = 2 then x.drew 256 else x) := by
  have h : (decide (m = 3) && !descOk x) = false := by simpa using hd
  unfold cvtCalc
  simp only [hx, hm, h, if_true]
  rfl

/-- Mode 2 rounds by the draws of the context stream. -/
theorem cvtCalc_stochastic (hx : v.x.toNat < 32) (hm : v.x.toNat / 8 % 4 = 2) :
    cvtCalc i v x [a] = .ok (narrowRow v.ty.toNat (v.x.toNat % 4) (fun k => .sr (ctxDraw x k).toNat true) a, x.drew 256) := by
  have h := cvtCalc_narrow (i := i) (x := x) (a := a) hx hm nofun
  rwa [roundOf_draws] at h

/-- Mode 3 rounds by the values of a legal descriptor (R205). -/
theorem cvtCalc_descriptor (hx : v.x.toNat < 32) (hm : v.x.toNat / 8 % 4 = 3) (hd : descOk x = true) :
    cvtCalc i v x [a] = .ok (narrowRow v.ty.toNat (v.x.toNat % 4)
      (fun k => .sr (descDraw x dRound (256 * (v.x.toNat % 4) + k)).toNat true) a, x) := by
  have h := cvtCalc_narrow (i := i) (a := a) hx hm fun _ => hd
  rwa [roundOf_descriptor] at h

/-- A widening form converts one part. -/
theorem cvtCalc_widen (hx : 32 ≤ v.x.toNat) :
    cvtCalc i v x [a] = .ok (buildRow 0 fun k => roundTo 0 (if v.x.toNat / 8 % 4 = 1 then .rz else .rne)
      (valueOf v.ty.toNat (rowElem v.ty.toNat a (256 * (v.x.toNat % 4) + k))), x) :=
  if_neg (Nat.not_lt.mpr hx)

/-! ## Random rows -/

/-- The value that element k of vdrop or vrng takes (R208, R209). -/
def drawn (x : Strand) (desc : Bool) (k : Nat) : Nat := if desc then (descDraw x dDrop k).toNat else (ctxDraw x k).toNat

/-- The strand after such a row: one draw of the context stream for each element. -/
def Strand.drewRow (x : Strand) (desc : Bool) (n : Nat) : Strand := if desc then x else x.drew n

/-- vdrop clears the elements whose draw lies below the threshold. -/
theorem dropCalc_ok (ht : (x.reg (BitVec.ofNat 5 (v.x.toNat % 32))).toNat < 2 ^ 16)
    (hd : v.x.getLsbD 5 = true → descOk x = true) :
    dropCalc i v x [a] = .ok (buildRow v.ty.toNat fun k =>
      if drawn x (v.x.getLsbD 5) k % 2 ^ 16 < (x.reg (BitVec.ofNat 5 (v.x.toNat % 32))).toNat then 0
      else rowElem v.ty.toNat a k, x.drewRow (v.x.getLsbD 5) (perRow v.ty.toNat)) := by
  have h : (v.x.getLsbD 5 && !descOk x) = false := by simpa using hd
  unfold dropCalc
  simp only [extractLsb_five, (upperBits_eq_zero _).mpr ht, h]
  rfl

/-- A threshold of 2^16 or more is ILLEGAL at vdrop. -/
theorem dropCalc_illegal (ht : 2 ^ 16 ≤ (x.reg (BitVec.ofNat 5 (v.x.toNat % 32))).toNat) :
    dropCalc i v x rows = .error (.trap cIllegal (wordsVal i)) := by
  have h : (x.reg (BitVec.ofNat 5 (v.x.toNat % 32))).bits 63 16 ≠ 0 :=
    fun h0 => Nat.not_lt.mpr ht ((upperBits_eq_zero _).mp h0)
  unfold dropCalc
  simp only [extractLsb_five, h, ne_eq, not_false_eq_true, if_true]
  rfl

/-- vrng fills its row from the draws. -/
theorem vrngCalc_ok (hd : v.x.getLsbD 5 = true → descOk x = true) :
    vrngCalc i v x rows = .ok (buildRow v.ty.toNat fun k => rngElem v.ty.toNat (drawn x (v.x.getLsbD 5) k),
      x.drewRow (v.x.getLsbD 5) (perRow v.ty.toNat)) := by
  have h : (v.x.getLsbD 5 && !descOk x) = false := by simpa using hd
  unfold vrngCalc
  simp only [h]
  rfl

/-! ## The obligation -/

/-- Settles O24: each form gives what its computation gives. -/
theorem vectorConversions : Obligations.VectorConversions := by
  refine ⟨fun s e v a d => ?_, fun s e v a d => ?_⟩
  · dsimp only
    intro hi hs
    exact ⟨fun hx hm => vIssue_gives rfl rfl rfl hi hs (cvtCalc_narrow (m := 0) hx hm nofun),
      fun hx hm => vIssue_gives rfl rfl rfl hi hs (cvtCalc_narrow (m := 1) hx hm nofun),
      fun hx hm => vIssue_gives rfl rfl rfl hi hs (cvtCalc_stochastic hx hm),
      fun hx hm hd => vIssue_gives rfl rfl rfl hi hs (cvtCalc_descriptor hx hm hd),
      fun hx => vIssue_gives rfl rfl rfl hi hs (cvtCalc_widen hx)⟩
  · intro ty desc t r x hd
    refine ⟨fun hi hs ht => vIssue_gives rfl rfl rfl hi hs (dropCalc_ok ht hd),
      fun hi hs ht => vIssue_traps rfl rfl rfl hi hs (dropCalc_illegal ht),
      fun hi hs => vIssue_gives rfl rfl rfl hi hs (vrngCalc_ok hd),
      fun hi hs => vIssue_gives rfl rfl rfl hi hs rfl,
      fun hi hs => vIssue_gives rfl rfl rfl hi hs ?_⟩
    rw [extractLsb_five]

end Sys2Proof.Machine
end

section
/-! Vector loads, stores and gathers on bytes of this device (11 R212 to R214). -/
namespace Sys2Proof.Machine

variable {s s1 u : State} {e : Eng} {vm : VmFields} {v : VFields} {a : Word} {n z al c : Nat} {ps : List Place}
  {d : Option (Nat × Nat)} {row : Row} {w : Sender}

/-! ## Accesses to this device -/

/-- Bytes of this device are asked of no other. -/
theorem asksOf_here (p : Word) (bytewise : Bool) (j : Nat) (hl : ∀ q ∈ ps, isWindowKey q.1 = false) :
    asksOf p bytewise ps j = [] := by
  induction ps generalizing j with
  | nil => rfl
  | cons q r ih =>
    obtain ⟨hq, hr⟩ := List.forall_mem_cons.mp hl
    simp only [asksOf, hq, ih _ hr, Bool.false_eq_true, if_false]

/-- A load of bytes of this device reads them and counts them. -/
theorem loadPlaces_here (hl : ∀ q ∈ ps, isWindowKey q.1 = false) : loadPlaces s a ps =
    .ok (dropAsked (countPlaces s s.myCrew.tenant false ps) (.strand s.cur.1 s.cur.2), readPlaces s.mem ps) := by
  simp only [loadPlaces, agentLoad, agentBytes, asksOf_here _ _ _ hl, myAgent]

/-- The memory that a store to this device leaves is that of the store's bytes. -/
theorem storePlaces_mem_congr (bs : List Byte) (hl : ∀ q ∈ ps, isWindowKey q.1 = false) (hm : s.mem = s1.mem) :
    (storePlaces w ps bs s).mem = (storePlaces w ps bs s1).mem := by
  induction ps generalizing bs s s1 with
  | nil => exact hm
  | cons p r ih =>
    obtain ⟨hp, hr⟩ := List.forall_mem_cons.mp hl
    obtain ⟨k, c⟩ := p
    simp only [storePlaces, show isWindowKey k = false from hp, Bool.false_eq_true, if_false]
    exact ih _ hr (by rw [hm])

/-- A store to bytes of this device can be made at once. -/
theorem storeReady_here (hl : ∀ q ∈ ps, isWindowKey q.1 = false) : ps.all (storeReady s) = true :=
  List.all_eq_true.mpr fun q hq => by simp [storeReady, hl q hq]

/-- Nothing earlier holds a body of a class that is in order. -/
theorem inClass_ok {body : Body} {r : State × Option Word} (ho : InOrder s c) (hb : body s = .ok r) :
    inClass c body s = .ok r := by
  unfold InOrder at ho
  simp only [inClass, hb, ho, Bool.and_false, Bool.false_eq_true, if_false]

/-! ## Addresses -/

/-- The address of a VM form (R213). -/
theorem vmAddr_eq (x : Strand) (vm : VmFields) : vmAddr x vm = x.reg vm.sa + BitVec.ofInt 64 (32 * vm.off.toInt) := by
  rw [vmAddr, BitVec.signExtend, Int.mul_comm, BitVec.ofInt_mul]
  rfl

/-- One piece has the places of its access. -/
theorem piecePlaces_one : piecePlaces n z [a] s = placesOf s a n z 1#3 := by
  simp only [piecePlaces]
  cases placesOf s a n z 1#3 with
  | error w => rfl
  | ok r => simp

/-! ## Bodies -/

/-- A vector load starts with the bytes of its places. -/
theorem vLoadBody_ok {pieces : Nat} {arrange : Row → Row} (ho : InOrder s e.cls.toNat)
    (hg : GateOpen s e (useOf [] (rowSpec vm.spec) vm.flag) []) (hd : (rowSpec vm.spec).place s.me = .ok d)
    (hc : pieceCheck n vm.z.toNat (vmAddr s.me vm) (1024 * (pieces - 1)) al = none)
    (hp : piecePlaces n vm.z.toNat ((List.range pieces).map fun r => vmAddr s.me vm + BitVec.ofNat 64 (1024 * r)) s =
      .ok (s1, ps))
    (hl : ∀ q ∈ ps, isWindowKey q.1 = false) :
    vLoadBody e vm n al pieces arrange s =
      .ok (startVector (dropAsked (countPlaces s1 s1.myCrew.tenant false ps) (.strand s1.cur.1 s1.cur.2)) e
        (useOf [] (rowSpec vm.spec) vm.flag) d (arrange (bytesRow (readPlaces s1.mem ps))), none) := by
  refine inClass_ok ho ?_
  simp only [engGate_passes hg rfl, hd, hc, hp, loadPlaces_here hl]

/-- A vector store writes the bytes of its row and starts. -/
theorem vstB_ok (ho : InOrder s e.cls.toNat)
    (hg : GateOpen s e (useOf [(rowSpec vm.spec, vm.flag)] .none 0#1) [rowSpec vm.spec])
    (hr : readRow s.myCrew s.me (rowSpec vm.spec) = .ok row)
    (hc : pieceCheck 1024 vm.z.toNat (vmAddr s.me vm) 0 32 = none)
    (hp : placesOf s (vmAddr s.me vm) 1024 vm.z.toNat 2#3 = .ok (s1, ps)) (hl : ∀ q ∈ ps, isWindowKey q.1 = false) :
    vstB e vm s = .ok (startVector (storePlaces (mySender s1 e.cls.toNat) ps (rowBytes row)
      (countPlaces s1 s1.myCrew.tenant true ps)) e (useOf [(rowSpec vm.spec, vm.flag)] .none 0#1) none row, none) := by
  refine inClass_ok ho ?_
  obtain ⟨-, -, hw, -⟩ := id hg
  simp only [engGate_passes hg (hw _ (List.mem_singleton_self _)), hr, hc, hp, storeReady_here hl, if_true]

/-- A gather starts with the bytes of its elements. -/
theorem vgathB_ok (ho : InOrder s e.cls.toNat)
    (hg : GateOpen s e (useOf [(rowSpec v.src1, v.e)] (rowSpec v.dst) v.f) [rowSpec v.src1])
    (hr : readRow s.myCrew s.me (rowSpec v.src1) = .ok row) (hd : (rowSpec v.dst).place s.me = .ok d)
    (hp : gatherPlaces ((List.range 256).map fun k =>
      s.me.reg (v.x.extractLsb' 0 5) + BitVec.ofInt 64 (4 * sElem 7 (rowElem 7 row k))) s = .ok (s1, ps))
    (hl : ∀ q ∈ ps, isWindowKey q.1 = false) :
    vgathB e v s = .ok (startVector (dropAsked (countPlaces s1 s1.myCrew.tenant false ps) (.strand s1.cur.1 s1.cur.2)) e
      (useOf [(rowSpec v.src1, v.e)] (rowSpec v.dst) v.f) d (bytesRow (readPlaces s1.mem ps)), none) := by
  refine inClass_ok ho ?_
  obtain ⟨-, -, hw, -⟩ := id hg
  simp only [engGate_passes hg (hw _ (List.mem_singleton_self _)), hr, hd, hp, loadPlaces_here hl]

/-! ## The obligation -/

/-- Settles O25: the loads by `vLoadBody_ok`, vst by `vstB_ok` and `storePlaces_out`, vgath by `vgathB_ok`. -/
theorem vectorMemory : Obligations.VectorMemory := by
  intro s s1 e vm v row d ps
  dsimp only
  intro hfar ho
  have hl : ∀ q ∈ ps, isWindowKey q.1 = false := fun q hq => by
    simpa using fun h => hfar ⟨q, hq, h⟩
  simp only [← vmAddr_eq]
  refine ⟨fun hi ⟨hg, hd⟩ hc hp => ?_, fun hi ⟨hg, hd⟩ hc hp => ?_, fun hi ⟨hg, _⟩ hr hc hp => ?_,
    fun hi ⟨hg, hd⟩ hr hp => ?_⟩
  · refine issue_endsIn hi rfl rfl rfl (vLoadBody_ok ho hg hd hc ?_ hl)
    rw [← hp, ← piecePlaces_one]
    simp
  · exact issue_endsIn hi rfl rfl rfl (vLoadBody_ok ho hg hd hc hp hl)
  · have hs : SameCrews s (countPlaces s1 s1.myCrew.tenant true ps) := (placesOf_keeps hp).trans (countPlaces_keeps ..)
    have hs1 : SameCrews s1 (countPlaces s1 s1.myCrew.tenant true ps) := countPlaces_keeps ..
    refine ⟨_, issue_endsIn hi rfl rfl rfl (vstB_ok ho hg hr hc hp hl), ?_, ?_,
      storePlaces_mem_congr _ hl hs1.1, fun k hk => ?_⟩
    · rw [storePlaces_here _ hl]
      exact hs.2.1
    · rw [storePlaces_here _ hl]
      exact hs.2.2.1
    · rw [storePlaces_out _ _ _ _ _ hl hk, hs.1]
  · refine issue_endsIn hi rfl rfl rfl (vgathB_ok ho hg hr hd ?_ hl)
    rw [extractLsb_five]
    exact hp

end Sys2Proof.Machine
end

section
/-! The course of the matrix instructions, and the lease instructions (12 R219 to R221). -/
namespace Sys2Proof.Machine

variable {i : Instr} {p : BitVec 4} {s s1 : State} {e : Eng} {u : TileUse} {array b : Bool} {busy : State → Option Nat}
  {op : State → Res (State × EngOp)} {o : EngOp} {x : XFields} {w : Stop}

/-! ## The course of a matrix instruction -/

/-- The holder of a lease that is not ending passes the check of R220. -/
theorem leaseCheck_ok (hl : holdsLease s s.cur.1 = true) (he : leaseEnding s (cuOf s.cur.1) = false) :
    leaseCheck s = .ok () := by
  simp [leaseCheck, hl, he]

/-- A matrix instruction that starts puts its operation in flight, and counts it on the lease if it is an array
instruction. -/
def startMatrix (s : State) (e : Eng) (u : TileUse) (array : Bool) (o : EngOp) : State :=
  if array then countArray (startOp s e u { o with isArray := array }) else startOp s e u { o with isArray := array }

/-- Where a matrix instruction starts, only its own checks and operation are left of its body. -/
theorem mBody_passes (h : MStarts s e u array b) (hb : b = false → busy s = none) :
    mBody e u array busy op s = (op s).map fun a => (startMatrix a.1 e u array a.2, none) := by
  obtain ⟨hl, hg, hf⟩ := h
  have hlease : (if array then leaseCheck s else .ok ()) = .ok () := by
    cases array
    · rfl
    · exact leaseCheck_ok (hl rfl).1 (hl rfl).2.1
  have hzero : (array && planesZeroing s) = false := by
    cases array
    · rfl
    · exact (hl rfl).2.2
  have hbusy : (if s.myCrew.grouped then none else busy s) = none := by rw [hb hf, ite_self]
  unfold mBody
  simp only [hlease, hbusy, hzero, reduceCtorEq, engGate_passes hg, Option.isSome_none, if_false, Bool.false_eq_true]
  cases op s <;> rfl

/-- A matrix instruction that starts gives the operation that it has computed. -/
theorem mIssue_gives (hk : strandKinds i = [.m]) (hp : predField i = e.p)
    (hx : exec i s = issue i [.m] e.p false (mBody e u array busy op) s) (hi : Issues s i) (h : MStarts s e u array b)
    (hb : b = false → busy s = none) (ho : op s = .ok (s1, o)) (ha : o.isArray = false) : MGives i s e u array s1 o := by
  have hs : startMatrix s1 e u array o =
      if array then countArray (startOp s1 e u { o with isArray := true }) else startOp s1 e u o := by
    cases array
    · show startOp s1 e u { o with isArray := false } = startOp s1 e u o
      rw [← ha]
    · rfl
  refine issue_endsIn hi hk hp hx ?_
  rw [mBody_passes h hb, ho, ← hs]
  rfl

/-- A matrix instruction that could start stops where its own checks do. -/
theorem mIssue_stops (hk : strandKinds i = [.m]) (hp : predField i = e.p)
    (hx : exec i s = issue i [.m] e.p false (mBody e u array busy op) s) (hi : Issues s i) (h : MStarts s e u array b)
    (hb : b = false → busy s = none) (ho : op s = .error w) : exec i s = finish i s 1 (.error w) := by
  rw [hx, issue_finishes false hi hk hp, mBody_passes h hb, ho]
  rfl

/-- An instruction whose unit is free does not wait for it. -/
theorem unitsWait_one {k : Unit'} (h : unitBusy s.myCrew k = false) : unitsWait [k] s = none := by
  simp [unitsWait, h]

/-- A load waits for the load path and for a swap. -/
theorem unitsWait_load (h : (unitBusy s.myCrew .load || unitBusy s.myCrew .swap) = false) :
    unitsWait [.load, .swap] s = none := by
  simpa [unitsWait] using h

/-- A swap waits for the array instructions. -/
theorem arrayWait_none (h : arrayBusy s.myCrew = false) : arrayWait s = none := by
  simp [arrayWait, h]

/-! ## The lease -/

/-- alease of the holder reads the state of the active plane. -/
theorem aleaseBody_holder (h : holdsLease s s.cur.1 = true) (hz : planesZeroing s = false) :
    aleaseBody x s = .ok (s.setMe (s.me.setPred x.pd
      (planeComplete (s.cu (cuOf s.cur.1)).active s.myCrew.tenant s.cur.1))) := by
  simp [aleaseBody, h, hz]

/-- The holder waits while its planes are being zeroed. -/
theorem aleaseBody_zeroing (h : holdsLease s s.cur.1 = true) (hz : planesZeroing s = true) :
    aleaseBody x s = .error (.wait qLease s) := by
  simp [aleaseBody, h, hz]

/-- A crew that has requested the lease waits. -/
theorem aleaseBody_requested (h : holdsLease s s.cur.1 = false) (hr : s.cur.1 % 4 ∈ (s.cu (cuOf s.cur.1)).requests) :
    aleaseBody x s = .error (.wait qLease s) := by
  simp [aleaseBody, h, hr]

/-- Another crew requests the lease and waits. -/
theorem aleaseBody_requests (h : holdsLease s s.cur.1 = false) (hr : s.cur.1 % 4 ∉ (s.cu (cuOf s.cur.1)).requests) :
    let cu := cuOf s.cur.1
    let c := s.cu cu
    let asked := s.setCu cu { c with requests := c.requests ++ [s.cur.1 % 4] }
    aleaseBody x s = .error (.wait qLease (rampTurn asked cu (c.lease.isSome || !c.requests.isEmpty))) := by
  simp [aleaseBody, h, hr]

/-- arelease waits for the started array instructions. -/
theorem areleaseBody_busy (h : arrayBusy s.myCrew = true) : areleaseBody s = .error (.wait (unitCause s) s) := by
  simp [areleaseBody, h]

/-- arelease gives the lease up once none is in flight. -/
theorem areleaseBody_idle (h : arrayBusy s.myCrew = false) :
    let given := if holdsLease s s.cur.1 then endLease s (cuOf s.cur.1) else s
    areleaseBody s = .ok (given.setMyCrew { given.myCrew with leased := false }) := by
  simp [areleaseBody, h]

/-- Settles O26: each case is what the body answers there. -/
theorem leaseInstructions : Obligations.LeaseInstructions := by
  intro s e x
  dsimp only
  refine ⟨fun hi hm => ⟨fun h hz => ?_, fun h hz => ?_, fun h hr => ?_, fun h hr => ?_⟩,
    fun hi hm => ⟨fun h => ?_, fun h => ?_⟩⟩
  · exact heldIssue_performs hi rfl rfl hm (aleaseBody_holder h hz) rfl
  · exact heldIssue_stops hi rfl rfl hm (aleaseBody_zeroing h hz) rfl
  · exact heldIssue_stops hi rfl rfl hm (aleaseBody_requested h hr) rfl
  · exact heldIssue_stops hi rfl rfl hm (aleaseBody_requests h hr) rfl
  · exact heldIssue_stops hi rfl rfl hm (areleaseBody_busy h) rfl
  · exact heldIssue_performs hi rfl rfl hm (areleaseBody_idle h) rfl

end Sys2Proof.Machine
end

section
/-! Elements of numbers, rows and tiles (03 R48, R49; 12 R217). -/
namespace Sys2Proof.Machine

/-! ## Elements of numbers -/

/-- An element as a quotient. -/
theorem elemOf_eq_div (w k v : Nat) : elemOf w k v = v / 2 ^ (w * k) % 2 ^ w := by
  rw [elemOf, Nat.shiftRight_eq_div_pow]

/-- An element lies below 2^w. -/
theorem elemOf_mod_self (w k v : Nat) : elemOf w k v % 2 ^ w = elemOf w k v := Nat.mod_mod ..

/-- An element within the first m bits. -/
theorem elemOf_mod {w k m : Nat} (v : Nat) (h : w * k + w ≤ m) : elemOf w k (v % 2 ^ m) = elemOf w k v := by
  apply Nat.eq_of_testBit_eq
  intro i
  simp only [elemOf, Nat.testBit_mod_two_pow, Nat.testBit_shiftRight]
  by_cases hi : i < w
  · simp [hi, show w * k + i < m by omega]
  · simp [hi]

/-- An element of a word of m bits. -/
theorem elemOf_ofNat {w k m : Nat} (v : Nat) (h : w * k + w ≤ m) : elemOf w k (BitVec.ofNat m v).toNat = elemOf w k v := by
  rw [BitVec.toNat_ofNat, elemOf_mod v h]

/-- An element of a number shifted by whole elements. -/
theorem elemOf_shiftRight (w k m v : Nat) : elemOf w k (v >>> (w * m)) = elemOf w (m + k) v := by
  rw [elemOf, elemOf, ← Nat.shiftRight_add, ← Nat.mul_add]

/-- The first elements of a number whose lowest n are those of a. -/
theorem elemOf_append_low {w k n a : Nat} (b : Nat) (hk : k < n) : elemOf w k (a + 2 ^ (w * n) * b) = elemOf w k a := by
  have h : w * k + w ≤ w * n := by
    calc w * k + w = w * (k + 1) := (Nat.mul_succ w k).symm
      _ ≤ w * n := Nat.mul_le_mul_left w hk
  rw [← elemOf_mod (a + _) h, Nat.add_mul_mod_self_left, elemOf_mod a h]

/-- The elements that follow the lowest n. -/
theorem elemOf_append_high {w k n a : Nat} (b : Nat) (ha : a < 2 ^ (w * n)) :
    elemOf w (n + k) (a + 2 ^ (w * n) * b) = elemOf w k b := by
  rw [← elemOf_shiftRight, Nat.shiftRight_eq_div_pow, Nat.add_mul_div_left _ _ (Nat.two_pow_pos _), Nat.div_eq_of_lt ha,
    Nat.zero_add]

/-- An element of a packed number. -/
theorem elemOf_packFrom (w : Nat) (f : Nat → Nat) {n k : Nat} (s : Nat) (hk : k < n) :
    elemOf w k (packFrom w f n s) = f (s + k) % 2 ^ w := by
  induction n generalizing s k with
  | zero => omega
  | succ n ih =>
    cases k with
    | zero =>
      rw [packFrom, elemOf_eq_div, Nat.mul_zero, Nat.pow_zero, Nat.div_one, Nat.add_mul_mod_self_left, Nat.mod_mod, Nat.add_zero]
    | succ k =>
      have hlow : f s % 2 ^ w < 2 ^ (w * 1) := by
        rw [Nat.mul_one]
        exact Nat.mod_lt _ (Nat.two_pow_pos w)
      have h := elemOf_append_high (k := k) (packFrom w f n (s + 1)) hlow
      rw [Nat.mul_one] at h
      rw [packFrom, Nat.add_comm k 1, h, ih (s + 1) (by omega), Nat.add_assoc]

/-- Two bytes make an element of 16 bits. -/
theorem elemOf_sixteen (k v : Nat) : elemOf 16 k v = elemOf 8 (2 * k) v + 256 * elemOf 8 (2 * k + 1) v := by
  have h0 : elemOf 8 (2 * k) v = v >>> (16 * k) % 2 ^ 8 := by
    rw [elemOf]
    congr 2
    omega
  have h1 : elemOf 8 (2 * k + 1) v = v >>> (16 * k) / 2 ^ 8 % 2 ^ 8 := by
    rw [elemOf, ← Nat.shiftRight_eq_div_pow, ← Nat.shiftRight_add]
    congr 2
    omega
  rw [h0, h1, elemOf]
  omega

/-- A bit of a number lies in one of its bytes. -/
theorem elemOf_bit (b v : Nat) : elemOf 1 b v = elemOf 8 (b / 8) v / 2 ^ (b % 8) % 2 := by
  have hbit (j x : Nat) : elemOf 1 j x = x / 2 ^ j % 2 := by rw [elemOf_eq_div, Nat.one_mul, Nat.pow_one]
  have h := elemOf_shiftRight 1 (b % 8) (8 * (b / 8)) v
  rw [Nat.one_mul, Nat.div_add_mod] at h
  rw [← hbit]
  show elemOf 1 b v = elemOf 1 (b % 8) (v >>> (8 * (b / 8)) % 2 ^ 8)
  rw [elemOf_mod _ (by omega), h]

/-- Three bits make an index. -/
theorem elemOf_three (k v : Nat) :
    elemOf 3 k v = elemOf 1 (3 * k) v + 2 * elemOf 1 (3 * k + 1) v + 4 * elemOf 1 (3 * k + 2) v := by
  have h0 : elemOf 1 (3 * k) v = v >>> (3 * k) % 2 := by rw [elemOf, Nat.one_mul, Nat.pow_one]
  have h1 : elemOf 1 (3 * k + 1) v = v >>> (3 * k) / 2 ^ 1 % 2 := by
    rw [elemOf, Nat.one_mul, Nat.pow_one, Nat.shiftRight_add, Nat.shiftRight_eq_div_pow (v >>> (3 * k))]
  have h2 : elemOf 1 (3 * k + 2) v = v >>> (3 * k) / 2 ^ 2 % 2 := by
    rw [elemOf, Nat.one_mul, Nat.pow_one, Nat.shiftRight_add, Nat.shiftRight_eq_div_pow (v >>> (3 * k))]
  rw [h0, h1, h2, elemOf]
  omega

/-! ## Rows -/

/-- A row holds a whole number of elements. -/
theorem tyBits_mul_perRow (ty : Ty) : tyBits ty * perRow ty = 8192 := by
  unfold perRow tyBits
  split <;> rfl

/-- Element k of a row that is built from its elements. -/
theorem rowElem_buildRow (ty : Ty) (f : Nat → Nat) {k : Nat} (hk : k < perRow ty) :
    rowElem ty (buildRow ty f) k = f k % 2 ^ tyBits ty := by
  have h : tyBits ty * k + tyBits ty ≤ 8192 := by
    rw [← tyBits_mul_perRow ty, ← Nat.mul_succ]
    exact Nat.mul_le_mul_left _ hk
  rw [rowElem, buildRow, elemOf_ofNat _ h, elemOf_packFrom _ _ _ hk, Nat.zero_add]

/-! ## Bytes of a tile -/

/-- Byte b of a tile's byte stream. -/
def tileByte (c : Crew) (sel b : Nat) : Nat := (c.row sel (b / 1024)).toNat / 2 ^ (8 * (b % 1024)) % 256

/-- A byte of a tile is an element of one of its rows. -/
theorem elemOf_row (c : Crew) (sel r : Nat) {b : Nat} (hb : b < 1024) :
    elemOf 8 b (c.row sel r).toNat = tileByte c sel (1024 * r + b) := by
  rw [tileByte, elemOf_eq_div, show (1024 * r + b) / 1024 = r by omega, show (1024 * r + b) % 1024 = b by omega,
    show 256 = 2 ^ 8 from rfl]

/-- A chunk has its bytes' bits. -/
theorem tileChunk_lt (c : Crew) (sel bytes n : Nat) : tileChunk c sel bytes n < 2 ^ (8 * bytes) :=
  Nat.mod_lt _ (Nat.two_pow_pos _)

/-- Byte k of chunk n of a tile, of B bytes: B divides 1,024, so that a chunk lies in one row. -/
theorem elemOf_tileChunk (c : Crew) (sel n : Nat) {bytes k : Nat} (hd : bytes ∣ 1024) (hk : k < bytes) :
    elemOf 8 k (tileChunk c sel bytes n) = tileByte c sel (bytes * n + k) := by
  have hfit : n * bytes % 1024 + k < 1024 := by
    obtain ⟨m, hm⟩ := hd
    have hmod : n * bytes % 1024 = bytes * (n % m) := by
      rw [hm, Nat.mul_comm n, Nat.mul_mod_mul_left]
    have hlt : n % m + 1 ≤ m := Nat.mod_lt _ (Nat.pos_of_ne_zero (by rintro rfl; omega))
    have := Nat.mul_le_mul_left bytes hlt
    rw [Nat.mul_add, Nat.mul_one] at this
    omega
  rw [tileChunk, elemOf_mod _ (by omega), elemOf_shiftRight, elemOf_row _ _ _ hfit]
  congr 1
  rw [Nat.mul_comm bytes]
  omega

end Sys2Proof.Machine
end

section
/-! The products of the array (12 R230, R231; 05 R84, R85). -/
namespace Sys2Proof.Machine

variable {i : Instr} {s : State} {e : Eng} {x : XFields} {bs : Bool} {c : Crew} {p : Plane} {pf n j : Nat}

/-! ## The start -/

/-- The operands of a product. -/
def productUse (x : XFields) : TileUse := { reads := [readTa x], write := some (x.tb.toNat, x.f == 1#1) }

/-- The array cycles of a product. -/
def productCycles (x : XFields) : Nat := (x.row.toNat + 1) * (if x.fmt.toNat = 1 ∨ x.fmt.toNat = 2 then 4 else 1)

/-- The operation of a product: the accumulator rows that it will write. -/
def productOp (c : Crew) (p : Plane) (x : XFields) : EngOp :=
  { id := 0, kind := .m, unit := .array,
    rows := (List.range (x.row.toNat + 1)).map fun n => (128 * x.tb.toNat + n, mmulRow c p (p.fmt.getD 0) x n) }

/-- A product starts where its formats pair and the array is open, waits where the array is withheld, and traps where
its formats do not pair. -/
theorem mmul_paired (hk : strandKinds i = [.m]) (hp : predField i = e.p)
    (hx : exec i s = issue i [.m] e.p false (mmulBody i e x bs) s) (hi : Issues s i)
    (h : MStarts s e (productUse x) true (unitBusy s.myCrew .swap)) :
    let p := (s.cu (cuOf s.cur.1)).active
    (pairOk bs p.fmt x.fmt.toNat = true → arrayOpen s (cuOf s.cur.1) = true →
      MGives i s e (productUse x) true (countFor s s.myCrew.tenant 2 (productCycles x)) (productOp s.myCrew p x)) ∧
    (pairOk bs p.fmt x.fmt.toNat = true → arrayOpen s (cuOf s.cur.1) = false → s.myCrew.grouped = false →
      Waits i s qThrottle s) ∧
    (pairOk bs p.fmt x.fmt.toNat = false → Traps i s cIllegal (wordsOf (encode i))) := by
  refine ⟨fun hf ha => ?_, fun hf ha hg => ?_, fun hf => ?_⟩
  · refine mIssue_gives hk hp hx hi h unitsWait_one ?_ rfl
    simp only [hf, ha, Bool.not_true, Bool.and_false, Bool.false_eq_true, if_false]
    rfl
  · refine mIssue_stops (w := .wait qThrottle s) hk hp hx hi h unitsWait_one ?_
    simp [hf, ha, hg]
  · refine mIssue_stops (w := .trap cIllegal (wordsVal i)) hk hp hx hi h unitsWait_one ?_
    simp only [hf, Bool.not_false, if_true]
    rfl

/-! ## Sums -/

/-- An INT8 column is its old value plus the sum of its products. -/
theorem columnInt_eq_sum (act wt : Nat → Int) (acc : Int) :
    columnInt act wt acc = acc + ((List.range 256).map fun k => act k * wt k).sum := by
  have h (l : List Nat) (a : Int) : l.foldl (fun a k => a + act k * wt k) a = a + (l.map fun k => act k * wt k).sum := by
    induction l generalizing a with
    | nil => simp
    | cons k l ih => simp [ih, Int.add_assoc]
  exact h _ _

/-- An integer modulo 2^w lies below 2^w. -/
theorem wrapElem_lt (ty : Ty) (z : Int) : wrapElem ty z < 2 ^ tyBits ty := BitVec.isLt _

/-- Folds by two steps that agree on the members of the list agree. -/
theorem foldl_congr_mem {α β : Type} {f g : β → α → β} {l : List α} (h : ∀ b, ∀ a ∈ l, f b a = g b a) (b : β) :
    l.foldl f b = l.foldl g b := by
  induction l generalizing b with
  | nil => rfl
  | cons a l ih =>
    rw [List.foldl_cons, List.foldl_cons, h b a List.mem_cons_self]
    exact ih (fun b a ha => h b a (List.mem_cons_of_mem _ ha)) _

/-- A column takes its factors at the places of its groups alone. -/
theorem columnSum_congr {groups : Nat} {act act' wt : Nat → Val} (acc : Val) (h : ∀ k < 32 * groups, act k = act' k) :
    columnSum groups act wt acc = columnSum groups act' wt acc := by
  unfold columnSum
  refine foldl_congr_mem (fun a g hg => ?_) _
  rw [List.map_congr_left fun k hk => ?_]
  rw [List.mem_range] at hg hk
  rw [h _ (by omega)]

/-- An array of computed values gives each of them. -/
theorem getD_toArray_map_range {α : Type} (f : Nat → α) (d : α) {m k : Nat} (h : k < m) :
    ((List.range m).map f).toArray.getD k d = f k := by
  simp [h]

/-! ## Columns -/

/-- Elements of BF16 and FP16 have 16 bits. -/
theorem planeBits_wide {fmt : Nat} (h : fmt = 1 ∨ fmt = 2) : planeBits fmt = 16 := by
  rcases h with rfl | rfl <;> rfl

/-- Elements of E4M3 and E5M2 have 8 bits. -/
theorem planeBits_byte {fmt : Nat} (h : fmt = 3 ∨ fmt = 4) : planeBits fmt = 8 := by
  rcases h with rfl | rfl <;> rfl

/-- An activation vector of BF16 or FP16 is a chunk of 512 bytes. -/
theorem actElem_wide {sel fmt v : Nat} (h : fmt = 1 ∨ fmt = 2) :
    actElem c sel fmt v = fun k => elemOf 16 k (tileChunk c sel 512 v) := by
  rw [actElem, planeBits_wide h, planeRowBytes, if_pos h]

/-- An activation vector of E4M3 or E5M2 is a chunk of 256 bytes. -/
theorem actElem_byte {sel fmt v : Nat} (h : fmt = 3 ∨ fmt = 4) :
    actElem c sel fmt v = fun k => elemOf 8 k (tileChunk c sel 256 v) := by
  rw [actElem, planeBits_byte h, planeRowBytes, if_neg (by omega)]

/-- The signed value of a byte of a number. -/
theorem sElem_byte (v : Nat) : sElem 6 (v % 2 ^ 8) = (BitVec.ofNat 8 v).toInt := by
  show (BitVec.ofNat 8 (v % 2 ^ 8)).toInt = _
  congr 1
  exact BitVec.eq_of_toNat_eq (by simp)

/-- What a product adds to: the accumulator's old value, or zero. -/
def oldAcc (c : Crew) (x : XFields) (n j : Nat) : Nat := if x.acc = 1#1 then rowElem 0 (c.row x.tb.toNat n) j else 0

/-- Column j of an accumulator row of INT8 (R231). -/
theorem mmulRow_int (hf : x.fmt.toNat = 6) (hj : j < 256) :
    rowElem 7 (mmulRow c p pf x n) j = wrapElem 7 (columnInt
      (fun k => sElem 6 (elemOf 8 k (tileChunk c x.ta.toNat 256 n))) (fun k => sElem 6 (elemOf 8 k (p.row j).toNat))
      (sElem 7 (oldAcc c x n j))) := by
  unfold mmulRow oldAcc
  simp only [hf, if_true]
  rw [rowElem_buildRow 7 _ hj, Nat.mod_eq_of_lt (wrapElem_lt ..)]
  simp only [columnInt_eq_sum]
  rw [List.map_congr_left fun k hk => by rw [getD_toArray_map_range _ _ (List.mem_range.mp hk)]]
  rfl

/-- Column j of an accumulator row of a floating format but E2M1 (R231). -/
theorem mmulRow_float (h6 : x.fmt.toNat ≠ 6) (h5 : x.fmt.toNat ≠ 5) (hj : j < 256) :
    rowElem 0 (mmulRow c p pf x n) j = rne32 (columnSum 8
      (fun k => valueOf x.fmt.toNat (actElem c x.ta.toNat x.fmt.toNat n k))
      (fun k => valueOf pf (elemOf (planeBits pf) k (p.row j).toNat)) (fp32 (oldAcc c x n j))) % 2 ^ 32 := by
  unfold mmulRow oldAcc
  simp only [h6, h5, if_false]
  rw [rowElem_buildRow 0 _ hj]
  exact congrArg (rne32 · % 2 ^ 32) (columnSum_congr _ fun k hk => getD_toArray_map_range _ _ hk)

/-- Column j of an accumulator row of E2M1 (R231): activations and weights carry the scales and specials of their
blocks. -/
theorem mmulRow_e2m1 (hf : x.fmt.toNat = 5) (hj : j < 256) :
    let side := (c.row x.ta.toNat (32 + n / 4)).toNat
    let block (k : Nat) := (512 * n + k) / 32 % 64
    rowElem 0 (mmulRow c p pf x n) j = rne32 (columnSum 16
      (fun k => e2m1Value (elemOf 4 k (tileChunk c x.ta.toNat 256 n)) (elemOf 8 (block k) side)
        (elemOf 8 (64 + block k) side))
      (fun k => e2m1Value (elemOf 4 k (p.row j).toNat) (p.scale j (k / 32)) (p.special j (k / 32)))
      (fp32 (oldAcc c x n j))) % 2 ^ 32 := by
  unfold mmulRow oldAcc
  simp only [hf, if_true, Nat.reduceEqDiff, if_false]
  rw [rowElem_buildRow 0 _ hj]
  exact congrArg (rne32 · % 2 ^ 32) (columnSum_congr _ fun k hk => getD_toArray_map_range _ _ hk)

/-- Settles O28: the start by `mmul_paired`, a column by the lemma of its format. -/
theorem productResults : Obligations.ProductResults := by
  intro s e x c
  dsimp only
  refine ⟨mmul_paired rfl rfl rfl, mmul_paired rfl rfl rfl, fun n i hf _ hi => ?_, fun n i hf hp _ hi => ?_,
    fun n i hf hp _ hi => ?_, fun n i hf _ hi => ?_⟩
  · have hacc : sElem 7 (oldAcc c x n i) = if x.acc = 1#1 then sElem 7 (rowElem 0 (c.row x.tb.toNat n) i) else 0 :=
      apply_ite (sElem 7) ..
    rw [mmulRow_int hf hi, columnInt_eq_sum, hacc]
    simp only [elemOf_eq_div, sElem_byte]
    rfl
  · rw [mmulRow_float (by omega) (by omega) hi, hp, actElem_wide hf, planeBits_wide hf]
    simp only [elemOf_eq_div]
    rfl
  · rw [mmulRow_float (by omega) (by omega) hi, actElem_byte hf, planeBits_byte hp]
    simp only [elemOf_eq_div]
    rfl
  · rw [mmulRow_e2m1 hf hi]
    simp only [elemOf_eq_div]
    rfl

end Sys2Proof.Machine
end

section
/-! Loads of the weight planes and their swap (12 R217, R224 to R229; 06 R89 to R93). -/
namespace Sys2Proof.Machine

variable {s : State} {e : Eng} {x : XFields} {c : Crew} {r : List Word} {fmt i j n sel : Nat}

/-! ## The start -/

/-- A load form starts with its part on the load path. -/
theorem lds_gives {i : Instr} {u : TileUse} {part : State → Res PlanePart} {p : PlanePart} (hk : strandKinds i = [.m])
    (hp : predField i = e.p) (hx : exec i s = issue i [.m] e.p false (ldsBody e u part) s) (ho : part s = .ok p)
    (hi : Issues s i) (h : MStarts s e u true (unitBusy s.myCrew .load || unitBusy s.myCrew .swap)) :
    MGives i s e u true s { id := 0, kind := .m, unit := .load, part := some p } := by
  refine mIssue_gives hk hp hx hi h unitsWait_load ?_ rfl
  rw [ho]

/-! ## Elements of tiles -/

/-- The element of 16 bits at byte b of a tile. -/
def tilePair (c : Crew) (sel b : Nat) : Nat := tileByte c sel b + 256 * tileByte c sel (b + 1)

/-- Element j of chunk n of a tile, of BF16 or FP16. -/
theorem elemOf_tileChunk_pair (hj : j < 256) :
    elemOf 16 j (tileChunk c sel 512 n) = tilePair c sel (512 * n + 2 * j) := by
  rw [elemOf_sixteen, elemOf_tileChunk _ _ _ (by decide) (by omega), elemOf_tileChunk _ _ _ (by decide) (by omega)]
  rfl

/-- Element j of the row of a codebook bank, of 16 bits. -/
theorem elemOf_row_pair (hj : j < 512) : elemOf 16 j (c.row sel 0).toNat = tilePair c sel (2 * j) := by
  rw [elemOf_sixteen, elemOf_row _ _ _ (by omega), elemOf_row _ _ _ (by omega), Nat.mul_zero, Nat.zero_add, Nat.zero_add]
  rfl

/-- The element of plane row i and place j that an lds form takes (R217). -/
def ldsElem (c : Crew) (x : XFields) (i j : Nat) : Nat :=
  if x.fmt.toNat = 1 ∨ x.fmt.toNat = 2 then tilePair c x.ta.toNat (512 * (i % 128) + 2 * j)
  else tileByte c x.ta.toNat (256 * i + j)

/-- The bits of an element of whole bytes. -/
def ldsBits (x : XFields) : Nat := if x.fmt.toNat = 1 ∨ x.fmt.toNat = 2 then 16 else 8

/-- The chunk that an lds form takes for plane row i holds the row's elements. -/
theorem elemOf_ldsChunk (hj : j < 256) :
    elemOf (ldsBits x) j (ldsChunk c x.ta.toNat x.fmt.toNat i) = ldsElem c x i j := by
  unfold ldsBits ldsChunk ldsElem planeRowBytes
  split
  · exact elemOf_tileChunk_pair hj
  · exact elemOf_tileChunk _ _ _ (by decide) hj

/-! ## What a part holds -/

/-- A part loads the eighths of its mask and the rows in order, whose first m elements of w bits are given by f. -/
def PlanePart.Holds (p : PlanePart) (mask : BitVec 8) (rows : List Nat) (w m : Nat) (f : Nat → Nat → Nat) : Prop :=
  p.mask = mask ∧ p.rows.map Prod.fst = rows ∧ ∀ q ∈ p.rows, ∀ j < m, elemOf w j q.2.toNat = f q.1 j

/-- A part with one row for each i of a list: row a i, computed as the number g i. -/
theorem PlanePart.Holds.of_map {p : PlanePart} {mask : BitVec 8} {l : List Nat} {w m : Nat} {f : Nat → Nat → Nat}
    {a g : Nat → Nat} (hm : p.mask = mask) (hr : p.rows = l.map fun i => (a i, BitVec.ofNat 4096 (g i)))
    (hw : w * m ≤ 4096) (h : ∀ i ∈ l, ∀ j < m, elemOf w j (g i) = f (a i) j) : p.Holds mask (l.map a) w m f := by
  refine ⟨hm, by simp [hr, Function.comp_def], fun q hq j hj => ?_⟩
  rw [hr, List.mem_map] at hq
  obtain ⟨i, hi, rfl⟩ := hq
  have hfit : w * j + w ≤ 4096 := by
    rw [← Nat.mul_succ]
    exact Nat.le_trans (Nat.mul_le_mul_left w hj) hw
  rw [elemOf_ofNat _ hfit, h i hi j hj]

/-- A part with the rows of a list. -/
theorem PlanePart.Holds.of_rows {p : PlanePart} {mask : BitVec 8} {rows : List Nat} {w m : Nat} {f : Nat → Nat → Nat}
    {g : Nat → Nat} (hm : p.mask = mask) (hr : p.rows = rows.map fun i => (i, BitVec.ofNat 4096 (g i)))
    (hw : w * m ≤ 4096) (h : ∀ i ∈ rows, ∀ j < m, elemOf w j (g i) = f i j) : p.Holds mask rows w m f := by
  rw [← List.map_id rows]
  exact .of_map hm hr hw h

/-- lds holds the elements of its tile (R224). -/
theorem ldsPart_holds (c : Crew) (x : XFields) : (ldsPart c x).Holds (partMask x.fmt.toNat x.row.toNat)
    (partRows x.fmt.toNat x.row.toNat) (ldsBits x) 256 (ldsElem c x) :=
  .of_rows rfl rfl (by unfold ldsBits; split <;> decide) fun _ _ _ hj => elemOf_ldsChunk hj

/-! ## Noise (06 R90 to R93) -/

/-- The magnitudes of NORM16 in sixty-fourths (R90). -/
def normTable : List Nat := [5, 15, 26, 37, 50, 64, 84, 120]

/-- The noise that lds.p adds to element (i, j): mode, tensor, scale exponent and sign are fields of its registers. -/
def ldsNoise (r : List Word) (i j : Nat) : Val :=
  let a := r.getD 1 0#64
  let b := r.getD 2 0#64
  let flat := ((b.bits 21 0 + i) * (r.getD 3 0#64).bits 21 0 + (b.bits 43 22 + j)) % 2 ^ 44
  let nib := (rngOut (r.getD 0 0#64) dPerturb (a.bits 23 0) (flat / 16)).toNat / 2 ^ (4 * (flat % 16)) % 16
  let neg := xor (decide (8 ≤ nib)) (a.bits 36 36 == 1)
  if a.bits 35 32 = 0 then .fin neg (normTable.getD (nib % 8) 0) ((a.bits 31 24 : Int) - 127 - 6)
  else .fin neg 1 ((a.bits 31 24 : Int) - 127)

/-- The model's magnitudes are those of the table. -/
theorem norm16_eq (k : Nat) : norm16 (k % 8) = normTable.getD (k % 8) 0 := by
  have h : ∀ m < 8, norm16 m = normTable.getD m 0 := by decide
  exact h _ (Nat.mod_lt _ (by decide))

/-- The generator takes 40 bits of its counter, so that a nibble of R90 does too. -/
theorem noiseNibble_eq (seed : Word) (tid : Nat) (k : Nat) :
    noiseNibble seed tid k = (rngOut seed dPerturb tid (k / 16)).toNat / 2 ^ (4 * (k % 16)) % 16 := by
  rw [noiseNibble, Nat.shiftRight_eq_div_pow, rngOut, rngOut, Nat.mod_mod]

/-- Scaled noise with its sign flipped or kept. -/
theorem noiseVal_signed (mode nib : Nat) (z : Int) (flip : Nat) (hn : nib < 16) :
    (if flip = 1 then ((noiseVal mode nib).scale z).neg else (noiseVal mode nib).scale z) =
      if mode = 0 then
        .fin (xor (decide (8 ≤ nib)) (flip == 1)) (normTable.getD (nib % 8) 0) (z - 6)
      else .fin (xor (decide (8 ≤ nib)) (flip == 1)) 1 z := by
  have hs : decide (nib / 8 % 2 = 1) = decide (8 ≤ nib) := decide_eq_decide.mpr (by omega)
  have hz : (-6 : Int) + z = z - 6 := by omega
  have hflip : (flip == 1) = decide (flip = 1) := rfl
  unfold noiseVal
  rw [← norm16_eq, hflip]
  by_cases hm : mode = 0 <;> by_cases hf : flip = 1 <;> simp [hm, hf, Val.scale, Val.neg, hs, hz]

/-- A perturbed weight is the weight with its noise added and rounded once (R92, R93). -/
theorem perturbed_eq (w : Nat) :
    perturbed fmt r w i j = roundTo fmt .rne (Val.add (valueOf fmt w) (ldsNoise r i j)) := by
  unfold perturbed ldsNoise
  dsimp only
  rw [noiseNibble_eq, noiseVal_signed _ _ _ _ (Nat.mod_lt _ (by decide))]

/-- lds.p holds each element of its tile with its noise (R225). -/
theorem ldsPPart_holds (c : Crew) (r : List Word) (hb : planeBits x.fmt.toNat = ldsBits x) :
    (ldsPPart c x r).Holds (partMask x.fmt.toNat x.row.toNat) (partRows x.fmt.toNat x.row.toNat) (ldsBits x) 256
      fun i j =>
        roundTo x.fmt.toNat .rne (Val.add (valueOf x.fmt.toNat (ldsElem c x i j)) (ldsNoise r i j)) % 2 ^ ldsBits x := by
  refine .of_rows rfl rfl (by unfold ldsBits; split <;> decide) fun i _ j hj => ?_
  rw [hb, elemOf_packFrom _ _ _ hj, Nat.zero_add, perturbed_eq, elemOf_ldsChunk hj]

/-! ## Codebooks (R226) -/

/-- The stream of indices of one eighth: three rows of a tile. -/
def cbStream (c : Crew) (x : XFields) : Nat :=
  tileChunk c x.ta.toNat 1024 (3 * x.row.toNat) + 2 ^ 8192 * tileChunk c x.ta.toNat 1024 (3 * x.row.toNat + 1) +
    2 ^ 16384 * tileChunk c x.ta.toNat 1024 (3 * x.row.toNat + 2)

/-- Three parts of m bits each, one after another. -/
theorem append_three (m a b d : Nat) : a + 2 ^ m * b + 2 ^ (m + m) * d = a + 2 ^ m * (b + 2 ^ m * d) := by
  rw [Nat.pow_add, Nat.mul_add, Nat.mul_assoc, Nat.add_assoc]

/-- The stream, row after row. -/
theorem cbStream_eq (c : Crew) (x : XFields) :
    let row (m : Nat) := tileChunk c x.ta.toNat 1024 (3 * x.row.toNat + m)
    cbStream c x = row 0 + 2 ^ (8 * 1024) * (row 1 + 2 ^ (8 * 1024) * row 2) := by
  rw [cbStream, show 16384 = 8 * 1024 + 8 * 1024 from rfl, show 8192 = 8 * 1024 from rfl]
  exact append_three ..

/-- Byte b of the stream of indices. -/
theorem elemOf_cbStream {b : Nat} (hb : b < 3072) :
    elemOf 8 b (cbStream c x) = tileByte c x.ta.toNat (3072 * x.row.toNat + b) := by
  have hrow (m k : Nat) (hk : k < 1024) :
      elemOf 8 k (tileChunk c x.ta.toNat 1024 m) = tileByte c x.ta.toNat (1024 * m + k) :=
    elemOf_tileChunk _ _ _ (Nat.dvd_refl _) hk
  rw [cbStream_eq]
  rcases Nat.lt_or_ge b 1024 with h0 | h0
  · rw [elemOf_append_low _ h0, hrow _ _ h0]
    congr 1
    omega
  · obtain ⟨k, rfl⟩ := Nat.exists_eq_add_of_le h0
    rw [elemOf_append_high _ (tileChunk_lt ..)]
    rcases Nat.lt_or_ge k 1024 with h1 | h1
    · rw [elemOf_append_low _ h1, hrow _ _ h1]
      congr 1
      omega
    · obtain ⟨m, rfl⟩ := Nat.exists_eq_add_of_le h1
      rw [elemOf_append_high _ (tileChunk_lt ..), hrow _ _ (by omega)]
      congr 1
      omega

/-- Bit b of the stream of indices. -/
def cbBit (c : Crew) (x : XFields) (b : Nat) : Nat := tileByte c x.ta.toNat (3072 * x.row.toNat + b / 8) / 2 ^ (b % 8) % 2

/-- Index k: three bits of the stream. -/
def cbIndex (c : Crew) (x : XFields) (k : Nat) : Nat :=
  cbBit c x (3 * k) + 2 * cbBit c x (3 * k + 1) + 4 * cbBit c x (3 * k + 2)

/-- An index has three bits. -/
theorem cbIndex_lt (c : Crew) (x : XFields) (k : Nat) : cbIndex c x k < 8 := by
  have h (b : Nat) : cbBit c x b < 2 := Nat.mod_lt _ (by decide)
  have h0 := h (3 * k)
  have h1 := h (3 * k + 1)
  have h2 := h (3 * k + 2)
  unfold cbIndex
  omega

/-- A bit of the stream. -/
theorem elemOf_cbStream_bit {b : Nat} (hb : b < 24576) : elemOf 1 b (cbStream c x) = cbBit c x b := by
  rw [elemOf_bit, elemOf_cbStream (by omega)]
  rfl

/-- An index of the stream. -/
theorem elemOf_cbStream_index {k : Nat} (hk : k < 8192) : elemOf 3 k (cbStream c x) = cbIndex c x k := by
  rw [elemOf_three, elemOf_cbStream_bit (by omega), elemOf_cbStream_bit (by omega), elemOf_cbStream_bit (by omega)]
  rfl

/-- Element j of row i of the eighth: an entry of the table of its 128 elements. -/
def cbElem (c : Crew) (x : XFields) (i j : Nat) : Nat :=
  elemOf 16 (8 * ((256 * i + j) / 128) + elemOf 3 (256 * i + j) (cbStream c x)) (c.row (24 + x.tb.toNat) 0).toNat

/-- lds.cb holds one eighth, expanded through the tables of its bank. -/
theorem ldsCbPart_holds : (ldsCbPart c x).Holds (1#8 <<< x.row.toNat) ((List.range 32).map fun i => 32 * x.row.toNat + i)
    16 256 fun i j =>
      let k := 256 * (i - 32 * x.row.toNat) + j
      tilePair c (24 + x.tb.toNat) (16 * (k / 128) + 2 * cbIndex c x k) := by
  refine .of_map (g := fun i => packFrom 16 (cbElem c x i) 256 0) rfl rfl (by decide) fun i hi j hj => ?_
  rw [List.mem_range] at hi
  have hx : cbIndex c x (256 * i + j) < 8 := cbIndex_lt ..
  rw [elemOf_packFrom _ _ _ hj, Nat.zero_add, cbElem, elemOf_mod_self, elemOf_cbStream_index (by omega),
    elemOf_row_pair (by omega), Nat.add_sub_cancel_left]
  dsimp only
  congr 1
  omega

/-! ## Blocks with scales (R228) -/

/-- lds.bs holds the codes of its tile. -/
theorem ldsBsPart_holds : (ldsBsPart c x).Holds 0xFF#8 (List.range 256) 8 256
    fun i j => tileByte c x.ta.toNat (256 * i + j) :=
  .of_rows rfl rfl (by decide) fun _ _ _ hj => elemOf_tileChunk _ _ _ (by decide) hj

/-- The side bytes of the plane rows, from a base in the rows of the side tile: the rows of four to one of the tile. -/
theorem side_bytes {l : List (Nat × BitVec 128)} {base : Nat} (hb : base + 64 ≤ 1024)
    (hl : l = (List.range 256).map fun i =>
      (i, BitVec.ofNat 128 ((c.row sel (i / 4)).toNat >>> (8 * (base + 16 * (i % 4)))))) :
    l.map Prod.fst = List.range 256 ∧ ∀ q ∈ l, ∀ g < 16,
      elemOf 8 g q.2.toNat = tileByte c sel (1024 * (q.1 / 4) + (base + 16 * (q.1 % 4) + g)) := by
  refine ⟨by simp [hl, Function.comp_def], fun q hq g hg => ?_⟩
  rw [hl, List.mem_map] at hq
  obtain ⟨i, -, rfl⟩ := hq
  rw [elemOf_ofNat _ (by omega), elemOf_shiftRight, elemOf_row _ _ _ (by omega)]

/-- The scales are the first 64 bytes of the side tile's rows. -/
theorem ldsBsPart_scales (c : Crew) (x : XFields) :
    (ldsBsPart c x).scales.map Prod.fst = List.range 256 ∧ ∀ q ∈ (ldsBsPart c x).scales, ∀ g < 16,
      elemOf 8 g q.2.toNat = tileByte c x.tb.toNat (1024 * (q.1 / 4) + (16 * (q.1 % 4) + g)) := by
  have h := side_bytes (c := c) (sel := x.tb.toNat) (l := (ldsBsPart c x).scales) (base := 0) (by decide) rfl
  simp only [Nat.zero_add] at h
  exact h

/-- The specials are the 64 bytes after them. -/
theorem ldsBsPart_specials (c : Crew) (x : XFields) :
    (ldsBsPart c x).specials.map Prod.fst = List.range 256 ∧ ∀ q ∈ (ldsBsPart c x).specials, ∀ g < 16,
      elemOf 8 g q.2.toNat = tileByte c x.tb.toNat (1024 * (q.1 / 4) + (64 + 16 * (q.1 % 4) + g)) :=
  side_bytes (by decide) rfl

/-- Settles O27: the starts by `lds_gives`, the contents by one lemma for each form. -/
theorem weightLoads : Obligations.WeightLoads := by
  intro s e x
  dsimp only
  refine ⟨lds_gives rfl rfl rfl rfl, fun hi h hr => lds_gives rfl rfl rfl (if_pos hr) hi h, lds_gives rfl rfl rfl rfl,
    lds_gives rfl rfl rfl rfl, fun hi h => mIssue_gives rfl rfl rfl hi h arrayWait_none rfl rfl, ⟨rfl, rfl, rfl, rfl⟩,
    fun hw => ?_, fun hw => ?_, fun hf => ?_, ldsCbPart_holds, ldsBsPart_holds, ?_⟩
  · have hl := ldsPart_holds s.myCrew x
    have hp := ldsPPart_holds s.myCrew (s.me.regsFrom x.sn 4) (by rw [planeBits_wide hw, ldsBits, if_pos hw])
    simp only [partMask, partRows, ldsBits, if_pos hw] at hl hp
    exact ⟨hl, hp⟩
  · have hl := ldsPart_holds s.myCrew x
    simp only [partMask, partRows, ldsBits, if_neg hw] at hl
    exact hl
  · have hw : ¬(x.fmt.toNat = 1 ∨ x.fmt.toNat = 2) := by omega
    have hp := ldsPPart_holds s.myCrew (s.me.regsFrom x.sn 4) (by rw [planeBits_byte hf, ldsBits, if_neg hw])
    simp only [partMask, partRows, ldsBits, if_neg hw] at hp
    exact hp
  · obtain ⟨hsr, hsb⟩ := ldsBsPart_scales s.myCrew x
    obtain ⟨hpr, hpb⟩ := ldsBsPart_specials s.myCrew x
    exact ⟨hsr, hpr, hsb, hpb⟩

end Sys2Proof.Machine
end

section
/-! Drains and tile forms (12 R227, R232 to R235). -/
namespace Sys2Proof.Machine

variable {s s1 : State} {e : Eng} {u : TileUse} {x : XFields} {ps : List (List Place)}

/-- The strand's stream after a drain: with sr, 256 draws for each row (R233). -/
def drainDrawn (x : XFields) (s : State) : State :=
  if x.sr = 1#1 then s.setMe (s.me.drew (256 * (x.row.toNat + 1))) else s

/-- The operation of a drain before its rows: a NaN is noted against the accumulator that it was read from. -/
def drainOp (c : Crew) (me : Strand) (x : XFields) : EngOp :=
  { id := 0, kind := .m, unit := .drain,
    nanTile := if (drainRows c me x (me.regsFrom x.sn 5)).2 then some (x.ta.toNat - 16) else none }

/-- The operands of a drain into a tile. -/
theorem drainUse_tile (h : x.tb ≠ 16#5) :
    drainUse x = { reads := [readTa x], write := some (x.tb.toNat, x.f == 1#1) } := by
  rw [drainUse, if_neg h]

/-- The operands of a drain into memory. -/
theorem drainUse_memory (h : x.tb = 16#5) : drainUse x = { reads := [readTa x] } := by
  rw [drainUse, if_pos h]

/-- A drain into a tile starts with the rows of its destination. -/
theorem mdrain_tile (hu : drainUse x = u) (hi : Issues s (.mdrain e x)) (ht : x.tb ≠ 16#5)
    (h : MStarts s e u false (unitBusy s.myCrew .drain))
    (hr : drainOk (s.me.regsFrom x.sn 5) x.fmt.toNat (x.row.toNat + 1) false = true) :
    MGives (.mdrain e x) s e u false (drainDrawn x s) { drainOp s.myCrew s.me x with
      rows := drainTile s.myCrew x.tb.toNat (drainBytes x.fmt.toNat)
        (drainRows s.myCrew s.me x (s.me.regsFrom x.sn 5)).1 } := by
  subst hu
  have hm : (x.tb == 16#5) = false := beq_false_of_ne ht
  refine mIssue_gives rfl rfl rfl hi h unitsWait_one ?_ rfl
  simp only [hm, hr, Bool.not_true, Bool.false_eq_true, if_false]
  rfl

/-- A drain into memory, its bytes and barrier checked, starts with the parts of its rows and their arrivals. -/
theorem mdrain_memory (hu : drainUse x = u) (hi : Issues s (.mdrain e x)) (ht : x.tb = 16#5)
    (h : MStarts s e u false (unitBusy s.myCrew .drain))
    (hr : drainOk (s.me.regsFrom x.sn 5) x.fmt.toNat (x.row.toNat + 1) true = true)
    (hd : drainMem s (s.me.regsFrom x.sn 5) (drainBytes x.fmt.toNat) (x.row.toNat + 1) = .ok (s1, ps)) :
    let r := s.me.regsFrom x.sn 5
    MGives (.mdrain e x) s e u false (drainDrawn x s1) { drainOp s.myCrew s.me x with
      left := drainParts s1 (r.getD 2 0#64) ((r.getD 3 0#64).bits 31 0) (drainBytes x.fmt.toNat) ps
        (drainRows s.myCrew s.me x r).1
      bar := r.getD 4 0#64
      arrive := drainBytes x.fmt.toNat
      arrivals := x.row.toNat + 1 } := by
  subst hu
  have hm : (x.tb == 16#5) = true := beq_iff_eq.mpr ht
  refine mIssue_gives rfl rfl rfl hi h unitsWait_one ?_ rfl
  simp only [hm, hr, hd, Bool.not_true, Bool.false_eq_true, if_false, if_true]
  rfl

/-- Settles O29: drains by `mdrain_tile` and `mdrain_memory`; mzero and mcbt make no check of their own. -/
theorem drainsAndTiles : Obligations.DrainsAndTiles := by
  intro s s1 e x ps
  dsimp only
  exact ⟨fun hi ht h hr => mdrain_tile (drainUse_tile ht) hi ht h hr,
    fun hi ht h hr hd => mdrain_memory (drainUse_memory ht) hi ht h hr hd,
    fun hi h => mIssue_gives rfl rfl rfl hi h (fun _ => rfl) rfl rfl,
    fun hi h => mIssue_gives rfl rfl rfl hi h (fun _ => rfl) rfl rfl⟩

end Sys2Proof.Machine
end

section
/-! The start of a copy (13 R241 to R243, R246 to R252). -/
namespace Sys2Proof.Machine

variable {i : Instr} {opc id : Nat} {s : State} {e : Eng} {c : CpFields} {ring r : List Word} {sd : BitVec 5}

/-! ## The engine -/

/-- What an operation that enters the engine leaves of its crew (R242). -/
theorem enterEngine_myCrew (s : State) (e : Eng) (u : TileUse) (o : AsyncOp) :
    (enterEngine s e u o).myCrew = { (s.myCrew.take s.cur.2 e.wait).fill (u.write.map Prod.fst) with
      ops := s.myCrew.ops ++ [{ o with
        id := s.myCrew.seq
        post := e.post
        level := s.me.level
        dstFe := u.ends s.myCrew
        nonce := s.fresh
        after := s.remoteSeq }]
      seq := s.myCrew.seq + 1 } := by
  unfold enterEngine
  cases h : u.write <;> simp [TileUse.ends, Crew.fill, h]

/-- Filling an operand leaves the promises. -/
@[simp] theorem fill_promises (c : Crew) (w : Option Nat) : (c.fill w).promises = c.promises := by
  cases w <;> simp [Crew.fill]

/-- An operation that enters the engine leaves its strand as it was. -/
theorem enterEngine_me (s : State) (e : Eng) (u : TileUse) (o : AsyncOp) : (enterEngine s e u o).me = s.me := by
  show (enterEngine s e u o).myCrew.str s.cur.2 = s.myCrew.str s.cur.2
  rw [enterEngine_myCrew, str_setOps, fill_str, take_str]

/-! ## The promise (R243, 04 R74) -/

/-- A promise is not before CYCLE, as long as the addition does not wrap. -/
theorem cuCycle_le_promiseOf (s : State) (h : s.cuCycle (cuOf s.cur.1) < 2 ^ 63) :
    s.cuCycle (cuOf s.cur.1) ≤ (promiseOf s).toNat := by
  have hd := (Config.promiseDelay s.fresh).isLt
  rw [promiseOf, BitVec.toNat_ofNat, Nat.mod_eq_of_lt (by omega)]
  exact Nat.le_add_right _ _

/-- cpref leaves sd for its completion. -/
theorem startPromise_pref (s : State) (id : Nat) (sd : BitVec 5) (r : List Word) : startPromise s id sd 6 r = s := rfl

/-- Without a promise sd becomes zero. -/
theorem startPromise_zero (h : opc ≠ 6) (hp : dProm r = false) :
    startPromise s id sd opc r = s.setMe (s.me.setReg sd 0#64) := by
  simp [startPromise, h, hp]

/-- The crew in focus with one more promise. -/
def State.promised (s : State) (id : Nat) (p : Word) : State :=
  { s with fresh := s.fresh + 1 }.setMyCrew { s.myCrew with promises := s.myCrew.promises ++ [({ op := id, cycle := p } : Promise)] }

/-- More promises leave the strand in focus. -/
theorem promised_me (s : State) (id : Nat) (p : Word) : (s.promised id p).me = s.me := by
  rw [State.promised, setMyCrew_me, str_setPromises]
  rfl

/-- With a promise sd becomes the promised cycle, which the crew keeps. -/
theorem startPromise_promised (h : opc ≠ 6) (hp : dProm r = true) :
    startPromise s id sd opc r = (s.promised id (promiseOf s)).setMe (s.me.setReg sd (promiseOf s)) := by
  rw [← promised_me s id (promiseOf s)]
  simp [startPromise, State.promised, h, hp]

/-- Of the crew, sd and the promises alone change with a promise. -/
theorem startPromise_crew (s : State) (id : Nat) (sd : BitVec 5) (opc : Nat) (r : List Word) :
    let t := startPromise s id sd opc r
    t.myCrew.ops = s.myCrew.ops ∧ t.myCrew.tokens = s.myCrew.tokens ∧ ∀ j, t.myCrew.feOf j = s.myCrew.feOf j := by
  by_cases h : opc = 6
  · subst h
    exact ⟨rfl, rfl, fun _ => rfl⟩
  · cases hp : dProm r
    · simp [startPromise_zero h hp, setMe_myCrew, Crew.feOf]
    · simp [startPromise_promised h hp, State.promised, setMe_myCrew, Crew.feOf]

/-! ## The start -/

/-- The state after the start of a copy: its operation has entered the engine, and sd is written (R242, R243). -/
def copyStarted (s : State) (e : Eng) (opc : Nat) (c : CpFields) (ring : List Word) : State :=
  let r := s.me.regsFrom c.sn 8
  startPromise (enterEngine s e (copyUse opc c)
    { id := 0, opc, fields := c, regs := r, total := (dTotal r + 4095) / 4096, ring }) s.myCrew.seq c.sd opc r

/-- A copy that is ready starts. -/
theorem copyBody_starts (h : CopyReady s i opc e c ring) : copyBody i opc e c s = .ok (copyStarted s e opc c ring, none) := by
  obtain ⟨hg, hf, ho, hd, hr⟩ := h
  have hring : (if opc = 7 then ringCheck s i c (s.me.regsFrom c.sn 8) else .ok []) = .ok ring := by
    split <;> simp_all
  unfold EngineOpen at ho
  simp only [copyBody, engGate_passes hg rfl, hf, ho, hd, hring]
  rfl

/-- What the start of a copy leaves, in the terms of the state u in which its operation has entered the engine. -/
theorem copyStarted_leaves (s : State) (e : Eng) (opc : Nat) (c : CpFields) (ring : List Word) :
    let r := s.me.regsFrom c.sn 8
    let u := enterEngine s e (copyUse opc c)
      { id := 0, opc, fields := c, regs := r, total := (dTotal r + 4095) / 4096, ring }
    let t := copyStarted s e opc c ring
    t.mem = s.mem ∧ t.myCrew.ops = u.myCrew.ops ∧ t.myCrew.tokens = u.myCrew.tokens ∧
      (∀ j, t.myCrew.feOf j = u.myCrew.feOf j) ∧ (opc = 6 → t = u) ∧
      (opc ≠ 6 → dProm r = false → t = u.setMe (u.me.setReg c.sd 0#64)) ∧
      (opc ≠ 6 → dProm r = true → ∃ p : Word, t.me = s.me.setReg c.sd p ∧
        (s.cuCycle (cuOf s.cur.1) < 2 ^ 63 → s.cuCycle (cuOf s.cur.1) ≤ p.toNat) ∧
        t.myCrew.promises = s.myCrew.promises ++ [{ op := s.myCrew.seq, cycle := p }]) := by
  intro r u t
  have hmem : t.mem = s.mem := ((enterEngine_bodyFrame e _ _).trans (startPromise_bodyFrame _ c.sd opc r)).mem
  obtain ⟨hops, htok, hfe⟩ := startPromise_crew u s.myCrew.seq c.sd opc r
  refine ⟨hmem, hops, htok, hfe, ?_, startPromise_zero, fun h hp => ⟨promiseOf u, ?_, ?_, ?_⟩⟩
  · rintro rfl
    exact startPromise_pref ..
  · show (startPromise u _ _ _ _).me = _
    rw [startPromise_promised h hp, me_setMe, enterEngine_me]
  · exact cuCycle_le_promiseOf u
  · show (startPromise u _ _ _ _).myCrew.promises = _
    rw [startPromise_promised h hp, setMe_myCrew, setStr_promises, State.promised, myCrew_setMyCrew, enterEngine_myCrew]
    simp

/-- The forms of a copy, with their opcodes (R246 to R252). -/
def copyForms (e : Eng) (c : CpFields) : List (Instr × Nat) :=
  [(.cpy e c, 0), (.cpyLd e c, 1), (.cpySt e c, 2), (.cgath e c, 3), (.cscat e c, 4), (.cred e c, 5), (.cpref e c, 6),
    (.cring e c, 7)]

/-- Each form is `copyBody` with its opcode, on the copy strand. -/
theorem copyForms_course (s : State) (e : Eng) (c : CpFields) : ∀ f ∈ copyForms e c, strandKinds f.1 = [.c] ∧
    predField f.1 = e.p ∧ exec f.1 s = issue f.1 [.c] e.p false (copyBody f.1 f.2 e c) s := by
  simp only [copyForms, List.forall_mem_cons]
  exact ⟨⟨rfl, rfl, rfl⟩, ⟨rfl, rfl, rfl⟩, ⟨rfl, rfl, rfl⟩, ⟨rfl, rfl, rfl⟩, ⟨rfl, rfl, rfl⟩, ⟨rfl, rfl, rfl⟩,
    ⟨rfl, rfl, rfl⟩, ⟨rfl, rfl, rfl⟩, by simp⟩

/-- Settles O30: a form that is ready ends in `copyStarted`. -/
theorem copyStarts : Obligations.CopyStarts := by
  intro s e c ring r f hf opc o u hi h
  obtain ⟨hk, hp, hx⟩ := copyForms_course s e c f hf
  exact ⟨_, issue_endsIn hi hk hp hx (copyBody_starts h), copyStarted_leaves s e f.2 c ring⟩

end Sys2Proof.Machine
end

section
/-! The start of a fabric operation (13 R242; 14 R265, R267, R269, R273 to R276). -/
namespace Sys2Proof.Machine

variable {i : Instr} {s s1 : State} {e : Eng} {o : AsyncOp} {bar v : Word} {w : Stop}
  {check : State → Res (State × AsyncOp)} {after : Nat → State → State}

/-! ## The course of a fabric operation -/

/-- In state s the instruction is a fabric operation of the copy strand with a barrier pointer, its checks and what
else its start does (R265). -/
structure FabricCourse (i : Instr) (s : State) (e : Eng) (bar : Word) (check : State → Res (State × AsyncOp))
    (after : Nat → State → State) : Prop where
  kinds : strandKinds i = [.c]
  pred : predField i = e.p
  course : ∃ body : Body, exec i s = issue i [.c] e.p false body s ∧ body s = fabBody e bar check after s

/-- The instruction executes, its gate is open and the engine may take it. -/
def FabricOpens (i : Instr) (s : State) (e : Eng) (bar : Word) : Prop :=
  Issues s i ∧ GateOpen s e {} [] ∧ EngineOpen s e [bar]

/-- Where the checks pass, the operation enters the engine. -/
theorem FabricCourse.starts (h : FabricCourse i s e bar check after) (ho : FabricOpens i s e bar)
    (hc : check s = .ok (s1, o)) : EndsIn i s (after s1.myCrew.seq (enterEngine s1 e {} o)) := by
  obtain ⟨hi, hg, he⟩ := ho
  obtain ⟨body, hx, hb⟩ := h.course
  exact issue_endsIn hi h.kinds h.pred hx (hb.trans (fabBody_starts hg he hc))

/-- Where a check fails, the start stops so. -/
theorem fabBody_stops (hg : GateOpen s e {} []) (he : EngineOpen s e [bar]) (hc : check s = .error w) :
    fabBody e bar check after s = .error w := by
  unfold EngineOpen at he
  simp only [fabBody, engGate_passes hg rfl, he, hc]

/-- And so does the instruction. -/
theorem FabricCourse.stops (h : FabricCourse i s e bar check after) (ho : FabricOpens i s e bar)
    (hc : check s = .error w) : exec i s = finish i s 1 (.error w) := by
  obtain ⟨hi, hg, he⟩ := ho
  obtain ⟨body, hx, hb⟩ := h.course
  rw [hx, issue_finishes false hi h.kinds h.pred, hb, fabBody_stops hg he hc]

/-- A check that fails traps, in the state that it has reached where it says so. -/
theorem FabricCourse.traps (h : FabricCourse i s e bar check after) (s1 : State) :
    (∀ cause v, FabricOpens i s e bar → check s = .error (.trap cause v) → Traps i s cause v) ∧
      ∀ cause v, FabricOpens i s e bar → check s = .error (.xtrap cause v s1) →
        exec i s = .next (trapMe s1 cause v) :=
  ⟨fun cause v ho hc => (h.stops ho hc).trans (finish_trap i s 1 cause v),
    fun cause v ho hc => (h.stops ho hc).trans (finish_xtrap i s 1 cause v s1)⟩

/-! ## The operations -/

/-- coll.open names no barrier, and asks the arbiter for a context (R267). -/
theorem collOpen_course (s : State) (e : Eng) (c : CpFields) :
    FabricCourse (.collOpen e c) s e 0#64 (openCheck (.collOpen e c) c) claim := ⟨rfl, rfl, _, rfl, rfl⟩

/-- The collectives, with their opcodes (R269 to R271). -/
def collForms (e : Eng) (c : CpFields) : List (Instr × Nat) :=
  [(.collAred e c, 0x11), (.collAgath e c, 0x12), (.collBcast e c, 0x13)]

/-- A collective's barrier is in sN+5, and its handle in sN (R269). -/
theorem collForms_course (s : State) (e : Eng) (c : CpFields) : ∀ f ∈ collForms e c,
    FabricCourse f.1 s e (s.me.regN (c.sn.toNat + 5)) (collCheck f.1 f.2 c) fun _ => countIssue (s.me.reg c.sn) := by
  simp only [collForms, List.forall_mem_cons]
  exact ⟨⟨rfl, rfl, _, rfl, rfl⟩, ⟨rfl, rfl, _, rfl, rfl⟩, ⟨rfl, rfl, _, rfl, rfl⟩, by simp⟩

/-- send and recv, with their opcodes (R273). -/
def sendForms (e : Eng) (c : CpFields) : List (Instr × Nat) := [(.send e c, 0x18), (.recv e c, 0x19)]

/-- The barrier of send and recv is in sN+5, and they take a place in the device's order (R273). -/
theorem sendForms_course (s : State) (e : Eng) (c : CpFields) : ∀ f ∈ sendForms e c,
    FabricCourse f.1 s e (s.me.regN (c.sn.toNat + 5)) (sendCheck f.1 f.2 c) nextSeq := by
  simp only [sendForms, List.forall_mem_cons]
  exact ⟨⟨rfl, rfl, _, rfl, rfl⟩, ⟨rfl, rfl, _, rfl, rfl⟩, by simp⟩

/-- japp names no barrier, and binds its header to the window of sN+5 (R274). -/
theorem japp_course (s : State) (e : Eng) (c : CpFields) :
    FabricCourse (.japp e c) s e 0#64 (jappCheck (.japp e c) c)
      fun _ => bindNow (s.me.reg c.sn) (s.me.regN (c.sn.toNat + 5)) := ⟨rfl, rfl, _, rfl, rfl⟩

/-- jfetch names no barrier, and binds its header to the window of sN+3 (R276). -/
theorem jfetch_course (s : State) (e : Eng) (c : CpFields) :
    FabricCourse (.jfetch e c) s e 0#64 (jfetchCheck (.jfetch e c) c)
      fun _ => bindNow (s.me.reg c.sn) (s.me.regN (c.sn.toNat + 3)) := ⟨rfl, rfl, _, rfl, rfl⟩

/-- Counting on a handle that is held adds to its operations (R269). -/
theorem countIssue_held {u : State} {x : RedCtx} (h : sget? u.redCtxs (v.toNat % 64) = some x) :
    countIssue v u = { u with redCtxs := sput u.redCtxs (v.toNat % 64) { x with issued := x.issued + 1 } } := by
  simp [countIssue, h]

/-- A collective that starts counts on its handle. -/
theorem FabricCourse.starts_counted {x : RedCtx} (h : FabricCourse i s e bar check fun _ => countIssue v)
    (hx : sget? (enterEngine s1 e {} o).redCtxs (v.toNat % 64) = some x) (ho : FabricOpens i s e bar)
    (hc : check s = .ok (s1, o)) :
    let u := enterEngine s1 e {} o
    EndsIn i s { u with redCtxs := sput u.redCtxs (v.toNat % 64) { x with issued := x.issued + 1 } } := by
  have ht := h.starts ho hc
  rwa [countIssue_held hx] at ht

/-- Settles O31: each operation has its course, which starts or traps as its checks answer. -/
theorem fabricStarts : Obligations.FabricStarts := by
  intro s s1 e c o
  dsimp only
  exact ⟨(collOpen_course s e c).starts,
    fun f hf => ⟨fun _ => (collForms_course s e c f hf).starts_counted, (collForms_course s e c f hf).traps s1⟩,
    fun f hf => ⟨(sendForms_course s e c f hf).starts, (sendForms_course s e c f hf).traps s1⟩,
    (japp_course s e c).starts, (japp_course s e c).traps s1,
    (jfetch_course s e c).starts, (jfetch_course s e c).traps s1,
    (collOpen_course s e c).traps s1⟩

end Sys2Proof.Machine
end

section
/-! Writes of the host (21 R318 to R321, R329; 25 R371, R375; 27 R397 to R402): the guard that they share, queues,
recorders, CXL.mem, power, counters and snapshots. -/
namespace Sys2Proof.Machine

/-! ## The guard of a host write -/

section
variable {s : State} (row : String) (act : State → Outcome)

/-- In operational mode the write is performed. -/
theorem barWrite_operational (h : s.boot.mode = 1) : barWrite row s act = act s := if_pos h

/-- In management-only mode the write does nothing. -/
theorem barWrite_managed (h : s.boot.mode = 2) : barWrite row s act = .next s := by
  simp [barWrite, h]

/-- Before the link is up the write is not possible. -/
theorem barWrite_early (h1 : s.boot.mode ≠ 1) (h2 : s.boot.mode ≠ 2) : barWrite row s act = notEnabled row := by
  simp [barWrite, h1, h2]

end

/-! ## Queues (21 R319 to R321, R329) -/

/-- The high half of a configuration, as far as it does not depend on the enable bit. -/
def queueFields (x : Queue) (v : Word) : Queue :=
  { x with
    err := x.err && !v.getLsbD 62
    vector := v.bits 47 32
    owner := if x.en then x.owner else if v.bits 56 48 ≤ 384 then v.bits 56 48 else 0
    lsize := if x.en then x.lsize else if 1 ≤ v.bits 4 0 ∧ v.bits 4 0 ≤ 16 then v.bits 4 0 else 1 }

/-- The queues that a function has enabled, as a length. -/
theorem enabledOf_eq_length (s : State) (owner : Nat) :
    enabledOf s owner = (s.queues.filter fun p => p.2.en && p.2.owner == owner).length :=
  List.countP_eq_length_filter

/-- The high half of a configuration by its enable bit, the queue's, and the queues of its owner. -/
theorem queueHigh_eq (s : State) (q : Nat) (v : Word) :
    queueHigh s q v =
      let y := queueFields (s.queue q) v
      if v.getLsbD 63 = false then { y with en := false }
      else if (s.queue q).en = true then y
      else if y.owner ≠ 0 ∧ 64 ≤ enabledOf s y.owner then { y with err := true }
      else { y with en := true, head := 0#32, tail := 0#32, aborted := false } := by
  simp [queueHigh, queueFields]

section
variable {s : State} (hm : s.boot.mode = 1) {q : Nat} (hq : q < 2048)
include hm hq

theorem queueConfigWrite_low (v : Word) : exec (.queueConfigWrite q false v) s =
    .next (if (s.queue q).en then s else s.setQueue q { s.queue q with base := v &&& 0x01FFFFFFFFFFFFC0#64 }) := by
  show execQueueConfigWrite q false v s = _
  rw [execQueueConfigWrite, barWrite_operational _ _ hm]
  exact if_neg (by omega)

theorem queueConfigWrite_high (v : Word) :
    exec (.queueConfigWrite q true v) s = .next (s.setQueue q (queueHigh s q v)) := by
  show execQueueConfigWrite q true v s = _
  rw [execQueueConfigWrite, barWrite_operational _ _ hm]
  exact if_neg (by omega)

/-- A doorbell, by what the queue's ring has room for. -/
theorem tailWrite_eq (d : BitVec 32) : exec (.tailWrite q d) s =
    let x := s.queue q
    .next (if !x.en || x.aborted || x.err then s
      else if (2 ^ x.lsize : Int) - (x.tail - x.head).toNat < (d - x.tail).toNat ∨ 2 ^ 31 ≤ (d - x.tail).toNat then
        s.setQueue q { x with err := true, ecode := 1 }
      else s.setQueue q { x with tail := d }) := by
  show execTailWrite q d s = _
  rw [execTailWrite, barWrite_operational _ _ hm]
  dsimp only
  rw [if_neg (by omega)]
  split
  · rfl
  · split <;> rfl

theorem abortWrite_eq (d : BitVec 32) :
    exec (.abortWrite q d) s = .next (if d = 1#32 then abortQueue s q else s) := by
  show execAbortWrite q d s = _
  rw [execAbortWrite, barWrite_operational _ _ hm]
  exact if_neg (by omega)

/-- The recorder after a write of its low half (R402). -/
theorem recorderConfigWrite_low (v : Word) :
    exec (.recorderConfigWrite q false v) s =
      let r := s.recorder q
      .next { s with recorders := sput s.recorders q {
        en := v.getLsbD 63
        lsize := if r.en then r.lsize else if 1 ≤ v.bits 56 52 ∧ v.bits 56 52 ≤ 16 then v.bits 56 52 else 1
        base := if r.en then r.base else v.bits 51 8 * 256
        written := if v.getLsbD 63 && !r.en then 0#32 else r.written } } := by
  show execRecorderConfigWrite q false v s = _
  rw [execRecorderConfigWrite, barWrite_operational _ _ hm]
  exact if_neg (by omega)

theorem recorderConfigWrite_high (v : Word) : exec (.recorderConfigWrite q true v) s = .next s := by
  show execRecorderConfigWrite q true v s = _
  rw [execRecorderConfigWrite, barWrite_operational _ _ hm]
  exact if_neg (by omega)

end

theorem functionLevelReset_eq {s : State} (hm : s.boot.mode = 1) {vf : Nat} (h0 : 0 < vf) (h1 : vf ≤ 384) :
    exec (.functionLevelReset vf) s = .next ((s.queues.filter fun p => p.2.owner == vf).foldl
      (fun s p => (abortQueue s p.1).setQueue p.1 { (abortQueue s p.1).queue p.1 with en := false }) s) := by
  show execFunctionLevelReset vf s = _
  rw [execFunctionLevelReset, barWrite_operational _ _ hm]
  exact if_neg (by omega)

theorem cxlMemAccess_eq {s : State} (hm : s.boot.mode = 1) {pa : Nat} {data : List Byte} (hd : data ≠ [])
    (hc : hdmCovers s pa data.length = true) (write : Bool) :
    exec (.cxlMemAccess write pa data) s = .next (if write then { s with mem := memWrite s.mem pa data } else s) := by
  refine (if_neg (by simp [hm, hd, hc])).trans ?_
  cases write <;> rfl

/-- Settles O43: each write by its equation above, the high half of a configuration by `queueHigh_eq`. -/
theorem queueWrites : Obligations.QueueWrites := by
  intro s q vf pa v d data
  dsimp only
  intro hm
  refine ⟨fun hq => ⟨fun he => ?_, fun he => ?_, fun hv => ?_, fun hv he => ?_, fun hv he ho hn => ?_,
    fun hv he hn => ?_, fun hl hr hd => ?_, fun hl hr => ?_, fun hl => ?_, ?_, fun hd => ?_, ?_, recorderConfigWrite_high hm hq v⟩,
    functionLevelReset_eq hm, fun hd hc => ⟨cxlMemAccess_eq hm hd hc true, cxlMemAccess_eq hm hd hc false⟩⟩
  · rw [queueConfigWrite_low hm hq, if_neg (by simp [he])]
  · rw [queueConfigWrite_low hm hq, if_pos he]
  · rw [queueConfigWrite_high hm hq, queueHigh_eq]
    simp only [hv, if_true]
    rfl
  · rw [queueConfigWrite_high hm hq, queueHigh_eq]
    simp only [hv, he, reduceCtorEq, if_true, if_false]
    simp [queueFields, he]
  · rw [queueConfigWrite_high hm hq, queueHigh_eq]
    rw [← enabledOf_eq_length] at hn
    dsimp only
    rw [if_neg (by simp [hv]), if_neg (by simp [he]), if_pos ⟨ho, hn⟩]
    rfl
  · rw [queueConfigWrite_high hm hq, queueHigh_eq]
    rw [← enabledOf_eq_length] at hn
    dsimp only
    rw [if_neg (by simp [hv]), if_neg (by simp [he]), if_neg]
    · rfl
    · rintro ⟨h0, h64⟩
      rcases hn with h | h
      · exact h0 h
      · exact absurd h64 (Nat.not_le.mpr h)
  · obtain ⟨hen, hab, her⟩ := hl
    rw [tailWrite_eq hm hq]
    dsimp only
    rw [if_neg (by simp [hen, hab, her]), if_neg (by push_cast at hr; omega)]
  · obtain ⟨hen, hab, her⟩ := hl
    rw [tailWrite_eq hm hq]
    dsimp only
    rw [if_neg (by simp [hen, hab, her]), if_pos (by push_cast at hr; exact hr)]
  · rw [tailWrite_eq hm hq]
    dsimp only
    rw [if_pos]
    simpa only [Bool.or_eq_true, Bool.not_eq_true', not_and_or, Bool.not_eq_true, Bool.not_eq_false, or_assoc] using hl
  · rw [abortWrite_eq hm hq]
    rfl
  · rw [abortWrite_eq hm hq, if_neg hd]
  · exact recorderConfigWrite_low hm hq v

end Sys2Proof.Machine
end

section
/-! Power control, counters and snapshots (27 R397 to R401). -/
namespace Sys2Proof.Machine

/-! ## The control interval (R398) -/

/-- A die's step and trip after an interval, by its temperature and its thresholds. -/
theorem nextTherm_cases (temp trips warns th : Nat) (trip : Bool) :
    (trip = true ∨ 16 * trips ≤ temp →
        (nextTherm temp trips warns th trip).1 = 15 ∧ (nextTherm temp trips warns th trip).2 = true) ∧
      (trip = false → temp < 16 * trips → (nextTherm temp trips warns th trip).2 = false ∧
        (16 * warns ≤ temp → (nextTherm temp trips warns th trip).1 = min 15 (th + 1)) ∧
        (temp < 16 * warns → 16 * warns ≤ temp + 80 → (nextTherm temp trips warns th trip).1 = th) ∧
        (temp + 80 < 16 * warns → (nextTherm temp trips warns th trip).1 = th - 1)) := by
  refine ⟨fun h => ?_, fun ht hc => ?_⟩
  · by_cases hc : 16 * trips ≤ temp
    · simp [nextTherm, hc]
    · simp [nextTherm, hc, h.resolve_right hc]
  · have hcool : ¬16 * trips ≤ temp := by omega
    refine ⟨?_, fun hw => ?_, fun hw hk => ?_, fun hk => ?_⟩
    · rw [nextTherm, if_neg hcool, if_neg (by simp [ht])]
      split
      · rfl
      · split <;> rfl
    · simp [nextTherm, hcool, ht, hw, Nat.min_comm]
    · simp [nextTherm, hcool, ht, show ¬16 * warns ≤ temp by omega, show ¬temp + 80 < 16 * warns by omega]
    · simp [nextTherm, hcool, ht, show ¬16 * warns ≤ temp by omega, hk]

/-- The row step after an interval: up above the cap, down below it by more than the hysteresis, else kept. -/
theorem nextRow_cases (p cap hyst row : Nat) :
    (cap < p → nextRow p cap hyst row = min 15 (row + 1)) ∧
      (p ≤ cap → cap - hyst ≤ p → nextRow p cap hyst row = row) ∧
      (p ≤ cap → p < cap - hyst → nextRow p cap hyst row = row - 1) := by
  refine ⟨fun h => ?_, fun h hh => ?_, fun h hh => ?_⟩
  · rw [nextRow, if_pos h, Nat.min_comm]
  · rw [nextRow, if_neg (by omega), if_neg (by omega)]
  · rw [nextRow, if_neg (by omega), if_pos hh]

/-- An interval that is over is evaluated. -/
theorem powerControlInterval_runs {s : State} (h : s.nextPower ≤ s.cycle) (p t0 t1 : Nat) :
    exec (.powerControlInterval p t0 t1) s = .next (raiseNew
      { s with power := s.power.next s.cycle p t0 t1, nextPower := s.nextPower + controlCycles }
      (s.power.next s.cycle p t0 t1).vector
      [(s.power.overCap, (s.power.next s.cycle p t0 t1).overCap), (s.power.trip0, (s.power.next s.cycle p t0 t1).trip0),
        (s.power.trip1, (s.power.next s.cycle p t0 t1).trip1)]) :=
  if_neg (by omega)

/-! ## Counters and snapshots (R400, R401) -/

section
variable {s : State} (hm : s.boot.mode = 1)
include hm

/-- The limits as written, clamped, and the ramp length for the next multiple of 16 (R397). -/
theorem pwrcfgWrite_clamps (v : Word) :
    exec (.pwrcfgWrite v) s = .next { s with power := { s.power with
      vector := v.bits 63 48
      hyst := v.bits 39 32
      rampwNew := some (min (v.bits 28 12) 65536)
      rampwAt := s.cycle / 16 * 16 + 16
      cap := min (max (v.bits 11 0) 800) 2000 } } := by
  show execPwrcfgWrite v s = _
  rw [execPwrcfgWrite, barWrite_operational _ _ hm]
  rfl

theorem counterBankWrite_sets {tenant k : Nat} (hk : k < 16) (ht : tenant ≤ 384) (v : Word) :
    exec (.counterBankWrite tenant k v) s =
      .next (s.setTenant tenant { s.tenant tenant with counters := (s.tenant tenant).counters.set k v hk }) := by
  show execCounterBankWrite tenant k v s = _
  rw [execCounterBankWrite, barWrite_operational _ _ hm]
  exact dif_pos ⟨ht, hk⟩

/-- A write of TELESNAP that starts no snapshot, because one runs or none is asked for. -/
theorem telesnap_idle {v : Word} (h : s.regs.snapGo = true ∨ v.getLsbD 63 = false) :
    exec (.telesnap v) s = .next { s with
      regs := { s.regs with snapErr := s.regs.snapErr && !v.getLsbD 62, snapAddr := v.bits 51 6 * 64 } } := by
  show execTelesnap v s = _
  rw [execTelesnap, barWrite_operational _ _ hm]
  have hgo : (v.getLsbD 63 && !s.regs.snapGo) = false := by
    rcases h with h | h <;> rw [h] <;> simp
  simp only [hgo, Bool.false_and, Bool.or_false, Bool.false_eq_true, if_false]

/-- A snapshot whose place is good starts with every bank latched. -/
theorem telesnap_starts {v : Word} (hg : s.regs.snapGo = false) (hv : v.getLsbD 63 = true)
    (hp : v.bits 51 6 * 64 + snapSize ≤ 2 ^ 52) :
    exec (.telesnap v) s = .next { s with regs := { s.regs with
      snapGo := true
      snapErr := s.regs.snapErr && !v.getLsbD 62
      snapAddr := v.bits 51 6 * 64
      snapTo := v.bits 51 6 * 64
      snapCycle := s.cycle
      snapBanks := (List.range 385).map fun n => (s.tenant n).counters.toList } } := by
  show execTelesnap v s = _
  rw [execTelesnap, barWrite_operational _ _ hm]
  have hbad : decide (2 ^ 52 < v.bits 51 6 * 64 + snapSize) = false := decide_eq_false (by omega)
  simp only [hbad, hg, hv, Bool.not_false, Bool.and_true, Bool.and_false, Bool.or_true, Bool.or_false, if_true]

/-- A snapshot whose place is bad sets err and does not start. -/
theorem telesnap_rejects {v : Word} (hg : s.regs.snapGo = false) (hv : v.getLsbD 63 = true)
    (hp : ¬v.bits 51 6 * 64 + snapSize ≤ 2 ^ 52) :
    ∃ t, exec (.telesnap v) s = .next t ∧ t.regs.snapErr = true ∧ t.regs.snapGo = false := by
  show ∃ t, execTelesnap v s = .next t ∧ _
  have hbad : decide (2 ^ 52 < v.bits 51 6 * 64 + snapSize) = true := decide_eq_true (by omega)
  rw [execTelesnap, barWrite_operational _ _ hm]
  refine ⟨_, rfl, ?_, ?_⟩
  · simp only [hbad, hg, hv, Bool.not_false, Bool.and_true, Bool.or_true]
  · simp only [hbad, hg, Bool.not_true, Bool.and_false, Bool.or_false]

end

/-- The bytes of a snapshot's head that the spec gives no value. -/
def snapFree (s : State) : List Byte :=
  (List.range 56).map fun i => Config.freeByte s.fresh (hostKey s.regs.snapTo + 8 + i)

/-- A snapshot that runs completes in memory. -/
theorem telesnapComplete_writes {s : State} (hg : s.regs.snapGo = true) :
    exec .telesnapComplete s = .next { s with
      mem := memWrite s.mem (hostKey s.regs.snapTo) (leBytes 8 s.regs.snapCycle ++ snapFree s ++
        s.regs.snapBanks.flatMap fun b => b.flatMap fun x => leBytes 8 x.toNat)
      fresh := s.fresh + 1
      regs := { s.regs with snapGo := false } } :=
  if_neg (by simp [hg])

/-- Settles O45: the interval by `nextRow_cases` and `nextTherm_cases`, each write by its equation above. -/
theorem powerAndCounters : Obligations.PowerAndCounters := by
  intro s v w p t0 t1 tenant k
  dsimp only
  refine ⟨fun h => powerControlInterval_runs h p t0 t1, ?_, rfl, fun hm => ⟨pwrcfgWrite_clamps hm v,
    fun hk ht => counterBankWrite_sets hm hk ht v, telesnap_idle hm,
    fun hg hv hp => telesnap_starts hm hg hv (by simpa using hp),
    fun hg hv hp => telesnap_rejects hm hg hv (by simpa using hp)⟩,
    fun hg => ⟨snapFree s, by rw [snapFree, List.length_map, List.length_range], telesnapComplete_writes hg⟩⟩
  obtain ⟨hup, hkeep, hdown⟩ := nextRow_cases p (min s.power.cap s.power.rowcap) s.power.hyst s.power.row
  refine ⟨hup, hkeep, hdown, nextTherm_cases .., nextTherm_cases .., rfl, rfl, rfl, rfl, rfl, rfl, ?_, rfl, rfl, rfl, rfl,
    rfl, rfl, rfl⟩
  simp [Power.next]

end Sys2Proof.Machine
end

section
/-! Boot, attestation and the registers of the host (21 R318; 25 R371 to R381). -/
namespace Sys2Proof.Machine

/-! ## A start that passes (25 R371 to R373) -/

/-- A start from step k on that no earlier attempt has marked: the entries still to come are blank, no step has failed,
and the firmware in bank 0 is the image img, for the fused version svn. -/
structure Unmarked (b : Boot) (k svn : Nat) (img : List Byte) : Prop where
  entry : ∀ j, k ≤ j → b.entry j = {}
  failed : b.failed = 0#10
  svn : b.svnFused = svn
  img : b.flash0 = img

theorem load_keeps (b : Boot) : b.load.svnFused = b.svnFused ∧ b.load.flash0 = b.flash0 := by
  unfold Boot.load
  dsimp only
  split
  · split <;> exact ⟨rfl, rfl⟩
  all_goals exact ⟨rfl, rfl⟩

theorem load_starts (b : Boot) : b.load.starts = b.starts := by
  unfold Boot.load
  dsimp only
  split
  · split <;> rfl
  all_goals rfl

theorem commit_keeps (b : Boot) : b.commit.entries = b.entries ∧ b.commit.failed = b.failed ∧
    b.commit.svnFused = b.svnFused ∧ b.commit.flash0 = b.flash0 := by
  unfold Boot.commit
  dsimp only
  split <;> exact ⟨rfl, rfl, rfl, rfl⟩

/-- The entry of another step stays. -/
theorem entry_setEntry_ne (b : Boot) {k j : Nat} (e : BootEntry) (h : k < j) : (b.setEntry k e).entry j = b.entry j := by
  have hne : j - 1 + 1 ≠ k := by omega
  simp only [Boot.entry, Boot.setEntry, List.getD_eq_getElem?_getD, List.getElem?_mapIdx, if_neg hne, Option.map_id']

section
variable {b : Boot} {k n svn : Nat} {img : List Byte}

theorem Unmarked.commit (h : Unmarked b n svn img) : Unmarked b.commit n svn img := by
  obtain ⟨he, hf, hs, hi⟩ := commit_keeps b
  exact ⟨fun j hj => by rw [Boot.entry, he]; exact h.entry j hj, hf.trans h.failed, hs.trans h.svn, hi.trans h.img⟩

/-- An entry of an earlier step marks none of the steps still to come. -/
theorem Unmarked.setEntry (h : Unmarked b n svn img) (hk : k < n) (e : BootEntry) : Unmarked (b.setEntry k e) n svn img :=
  ⟨fun j hj => (entry_setEntry_ne b e (by omega)).trans (h.entry j hj), h.failed, h.svn, h.img⟩

theorem Unmarked.next (h : Unmarked b k svn img) : Unmarked b (k + 1) svn img :=
  ⟨fun j hj => h.entry j (by omega), h.failed, h.svn, h.img⟩

end

/-- What a start finds where every step passes. -/
def allPass : List (Nat × Bool) := (List.range 10).map fun k => (k + 1, true)

/-- With the image in bank 0 good and every other step passing, step k ends as passed. -/
theorem stepEnd_pass {b : Boot} {k : Nat} (hk : 1 ≤ k ∧ k ≤ 10) (hi : imageOk b.flash0 b.svnFused = true) :
    stepEnd allPass b k false = .pass := by
  have hf : (allPass.find? fun p => p.1 = k).map Prod.snd = some true := by
    obtain ⟨h1, h10⟩ := hk
    interval_cases k <;> rfl
  unfold stepEnd
  rw [hf]
  dsimp only
  split
  · exact if_pos hi
  · rfl

theorem setPorts_boot (s : State) (f : Port → Port) : (setPorts s f).boot = s.boot := by
  unfold setPorts
  exact foldl_inv (fun t : State => t.boot = s.boot) _ (fun t p h => (setPort_boot t p _).trans h) (List.range 18) rfl

section
variable {k svn : Nat} {img : List Byte} (hk : 1 ≤ k ∧ k ≤ 10) (hi : imageOk img svn = true)
include hk hi

/-- A step that passes on an unmarked start leaves it unmarked. -/
theorem runStep_pass {b : Boot} (h : Unmarked b k svn img) :
    ∃ u, runStep allPass b k false = (u, true) ∧ Unmarked u (k + 1) svn img := by
  have htry (e : BootEntry) : Unmarked ({ b.setEntry k e with step := k }).commit (k + 1) svn img := by
    obtain ⟨he, hf, hs, hm⟩ := h.next.setEntry k.lt_succ_self e
    exact Unmarked.commit ⟨he, hf, hs, hm⟩
  unfold runStep
  dsimp only
  generalize hb : Boot.commit { b.setEntry k _ with step := k } = u
  have hu : Unmarked u (k + 1) svn img := hb ▸ htry _
  have hend : stepEnd allPass u k false = .pass := stepEnd_pass hk (by rw [hu.img, hu.svn]; exact hi)
  rw [hend]
  refine ⟨_, rfl, ?_⟩
  obtain ⟨he, hf, hs, hm⟩ := (hu.setEntry k.lt_succ_self _).commit
  split
  · exact ⟨he, hf, hs, hm⟩
  · exact ⟨he, hf, hs, hm⟩

omit hk hi in
/-- What a passed step does to the device leaves its start unmarked. -/
theorem stepDone_unmarked {s : State} {n : Nat} (h : Unmarked s.boot n svn img) : Unmarked (stepDone k s).boot n svn img := by
  obtain ⟨he, hf, hs, hm⟩ := h
  unfold stepDone
  split
  · exact ⟨he, hf, hs, hm⟩
  · split
    · exact ⟨he, hf, hs, hm⟩
    · split
      · rw [setPorts_boot]
        exact ⟨he, hf, hs, hm⟩
      · split
        · exact ⟨he, hf, hs, hm⟩
        · exact ⟨he, hf, hs, hm⟩

/-- Step k passes, and the start goes on. -/
theorem bootStep_pass {s : State} (h : Unmarked s.boot k svn img) :
    ∃ t, bootStep allPass k false s = (t, true) ∧ Unmarked t.boot (k + 1) svn img := by
  obtain ⟨u, hu, hun⟩ := runStep_pass hk hi h
  exact ⟨stepDone k { s with boot := u }, by rw [bootStep, hu], stepDone_unmarked hun⟩

end

/-- The steps from k to 10 of an unmarked start pass, and the module is operational. -/
theorem runSteps_pass {svn : Nat} {img : List Byte} (hi : imageOk img svn = true) (n : Nat) {k : Nat} {s : State}
    (hk : 1 ≤ k) (hn : k + n = 11) (h : Unmarked s.boot k svn img) :
    (runSteps allPass n k s).boot.mode = 1 ∧ (runSteps allPass n k s).boot.failed = 0#10 := by
  induction n generalizing k s with
  | zero => exact ⟨rfl, h.failed⟩
  | succ n ih =>
    obtain ⟨t, ht, hu⟩ := bootStep_pass ⟨hk, by omega⟩ hi h
    have hpath : pathOf k (s.boot.entry k) = .main := by
      rw [h.entry k (Nat.le_refl k)]
      rfl
    rw [runSteps, hpath]
    dsimp only
    rw [ht]
    exact ih (by omega) (by omega) hu

/-- The beginning of a start whose record shows no earlier attempt. -/
theorem begin_unmarked {b : Boot} (h : b.load.entries = List.replicate 10 {}) :
    Unmarked b.begin 1 b.svnFused b.flash0 := by
  refine ⟨fun j _ => ?_, rfl, (load_keeps b).1, (load_keeps b).2⟩
  have he : b.begin.entries = List.replicate 10 {} := by
    show b.load.entries.map _ = _
    rw [h, List.map_replicate]
  rw [Boot.entry, he, List.getD_eq_getElem?_getD, List.getElem?_replicate]
  split <;> rfl

/-! ## The registers of the host (21 R318; 25 R371, R375) -/

/-- An event is a write of the host. -/
def IsHostWrite (i : Instr) (s : State) : Prop := ∃ row act, exec i s = barWrite row s act

/-- A write of the host does nothing in management-only mode. -/
theorem IsHostWrite.managed {i : Instr} {s : State} (h : IsHostWrite i s) (hm : s.boot.mode = 2) : exec i s = .next s := by
  obtain ⟨row, act, h⟩ := h
  rw [h, barWrite_managed row act hm]

/-- A write of the host is not possible before the link is up. -/
theorem IsHostWrite.early {i : Instr} {s : State} (h : IsHostWrite i s) (h1 : s.boot.mode ≠ 1) (h2 : s.boot.mode ≠ 2) :
    ∃ row, exec i s = .refused (.notEnabled row) := by
  obtain ⟨row, act, h⟩ := h
  exact ⟨row, h.trans (barWrite_early row act h1 h2)⟩

/-- The writes of registers with a row of their own. -/
theorem rows_isHostWrite (s : State) (q : Nat) (hi : Bool) (v : Word) (d : BitVec 32) (fn k : Nat) :
    ∀ i ∈ [Instr.queueConfigWrite q hi v, .tailWrite q d, .abortWrite q d, .functionLevelReset fn,
      .recorderConfigWrite q hi v, .fqrespWrite v, .fqheadWrite v, .xrRootWrite fn hi v, .fcmdWrite v, .stagecfgWrite v,
      .spillcfgWrite v, .preemptWrite v, .pwrcfgWrite v, .counterBankWrite fn k v, .telesnap v, .fwsvn v],
      IsHostWrite i s := by
  intro i hi
  unfold IsHostWrite
  simp only [List.mem_cons, List.not_mem_nil, or_false] at hi
  rcases hi with rfl | rfl | rfl | rfl | rfl | rfl | rfl | rfl | rfl | rfl | rfl | rfl | rfl | rfl | rfl | rfl <;>
    simp only [exec, execQueueConfigWrite, execTailWrite, execAbortWrite, execFunctionLevelReset, execRecorderConfigWrite,
      execFqrespWrite, execFqheadWrite, execXrRootWrite, execFcmdWrite, execStagecfgWrite, execSpillcfgWrite,
      execPreemptWrite, execPwrcfgWrite, execCounterBankWrite, execTelesnap, execFwsvn] <;>
    exact ⟨_, _, rfl⟩

section
variable {reg : HostReg} (ha : reg ≠ .attaddr) (hn : ∀ j, reg ≠ .attnonce j)
include ha hn

/-- Every register but the attestation ones is written as any register of the host. -/
theorem registerWrite_eq (v : Word) (s : State) :
    exec (.registerWrite reg v) s = barWrite "REGISTER_WRITE" s fun s => .next (regWrite reg v s) := by
  cases reg with
  | attaddr => exact absurd rfl ha
  | attnonce j => exact absurd rfl (hn j)
  | _ => rfl

theorem registerWrite_operational {s : State} (hm : s.boot.mode = 1) (v : Word) :
    exec (.registerWrite reg v) s = .next (regWrite reg v s) := by
  rw [registerWrite_eq ha hn, barWrite_operational _ _ hm]

end

/-! ## Attestation (25 R379 to R381) -/

section
variable {s : State} {i3c : Bool} (hg : s.boot.attGo = false)

/-- The place of a report: aligned, and inside the host's memory. -/
def attPlace (b : Boot) : Prop := b.attAddr.toNat % 2048 = 0 ∧ b.attAddr.toNat + 2048 ≤ 2 ^ 52

/-- The check of the place fails where the request comes over BAR0 and the place is bad. -/
theorem attPlace_guard (b : Boot) (i3c : Bool) :
    (!i3c && (b.attAddr.toNat % 2048 != 0 || decide (2 ^ 52 < b.attAddr.toNat + 2048))) = true ↔ i3c = false ∧ ¬attPlace b := by
  simp only [attPlace, Bool.and_eq_true, Bool.not_eq_true', Bool.or_eq_true, bne_iff_ne, decide_eq_true_eq]
  rw [not_and_or, Nat.not_le]

include hg

theorem attctlGo_badPlace (hi : i3c = false) (hp : ¬attPlace s.boot) :
    exec (.attctlGo i3c) s = .next { s with boot := { s.boot with attStatus := 2 } } := by
  show execAttctlGo i3c s = _
  unfold execAttctlGo
  dsimp only
  rw [if_neg (by simp [hg]), if_pos ((attPlace_guard _ _).mpr ⟨hi, hp⟩)]

variable (hp : i3c = true ∨ attPlace s.boot)
include hp

omit hg in
theorem attPlace_passes : ¬(!i3c && (s.boot.attAddr.toNat % 2048 != 0 || decide (2 ^ 52 < s.boot.attAddr.toNat + 2048))) = true := by
  rw [attPlace_guard]
  rintro ⟨hi, hn⟩
  rcases hp with h | h
  · simp [hi] at h
  · exact hn h

theorem attctlGo_noLeaf (hl : lmsLeaves ≤ s.boot.leaf) :
    exec (.attctlGo i3c) s = .next { s with boot := { s.boot with attStatus := 3 } } := by
  show execAttctlGo i3c s = _
  unfold execAttctlGo
  dsimp only
  rw [if_neg (by simp [hg]), if_neg (attPlace_passes hp), if_pos hl]

theorem attctlGo_takes (hl : s.boot.leaf < lmsLeaves) :
    exec (.attctlGo i3c) s = .next { s with boot := { s.boot with
      attGo := true
      attStatus := 0
      attI3c := i3c
      reqAddr := s.boot.attAddr
      reqNonce := s.boot.attNonce
      attLeaf := s.boot.leaf
      leaf := s.boot.leaf + 1 } } := by
  show execAttctlGo i3c s = _
  unfold execAttctlGo
  dsimp only
  rw [if_neg (by simp [hg]), if_neg (attPlace_passes hp), if_neg (by omega)]

end

/-- A report that has been asked for is written to its place, or to the buffer of I3C. -/
theorem attestationReportComplete_eq {s : State} (hg : s.boot.attGo = true) :
    exec .attestationReportComplete s =
      let report := reportBytes s.boot s.fresh s.cycle
      let done := { s with fresh := s.fresh + 1, boot := { s.boot with attGo := false, attStatus := 0 } }
      .next (if s.boot.attI3c then { done with boot := { done.boot with attBuf := report } }
        else { done with mem := memWrite done.mem (hostKey s.boot.reqAddr.toNat) report }) :=
  if_neg (by simp [hg])

/-- The fused version after a write of FWSVN (R377). -/
theorem fwsvn_eq {s : State} (hm : s.boot.mode = 1) (v : Word) : exec (.fwsvn v) s = .next
    (if v = 0xA5#64 then { s with boot := { s.boot with svnFused := max s.boot.svnFused s.boot.svnRun } } else s) := by
  show execFwsvn v s = _
  rw [execFwsvn, barWrite_operational _ _ hm]

/-- Settles O46: the start that passes by `runSteps_pass`, the writes of registers by `IsHostWrite`. -/
theorem bootAndAttestation : Obligations.BootAndAttestation := by
  intro s v i3c k reg passes q hi d fn
  dsimp only
  refine ⟨fun h => if_neg (by simp [h]), ⟨rfl, rfl, rfl, ?_, fun e he => ?_⟩, fun h he hp => ?_, rfl, fun hv => ?_, fun hv => ?_,
    fun hv => ?_, fun hm => ?_, fun hm hv => ?_, fun hg => if_pos hg, attctlGo_badPlace, attctlGo_noLeaf, attctlGo_takes,
    fun hg h3 => ?_, fun hg h3 => ?_, rfl, rfl, fun hm ha hn => registerWrite_operational ha hn hm v, fun i hmem => ?_,
    fun ha hn => ?_⟩
  · show min _ (s.boot.load.starts + 1) = _
    rw [load_starts]
  · obtain ⟨x, -, rfl⟩ := List.mem_map.mp he
    rfl
  · subst hp
    exact ⟨_, if_neg (by simp [h]), fun hi => runSteps_pass hi 10 (Nat.le_refl 1) rfl (begin_unmarked he)⟩
  · exact congrArg Host.Outcome.next (if_neg hv)
  · exact ⟨_, congrArg Host.Outcome.next (if_pos hv), rfl, rfl, rfl, rfl, rfl, rfl, rfl⟩
  · exact congrArg Host.Outcome.next (if_neg (by rw [hv]; exact Bool.false_ne_true))
  · rw [fwsvn_eq hm]
    rfl
  · rw [fwsvn_eq hm, if_neg hv]
  · rw [attestationReportComplete_eq hg]
    simp only [h3, if_true]
  · rw [attestationReportComplete_eq hg]
    simp [h3]
  · have hw := rows_isHostWrite s q hi v d fn k i hmem
    exact ⟨hw.managed, hw.early⟩
  · have hw : IsHostWrite (.registerWrite reg v) s := ⟨_, _, registerWrite_eq ha hn v s⟩
    refine ⟨fun hm => ?_, hw.managed, hw.early⟩
    rcases hm with h | h
    · exact ⟨_, registerWrite_operational ha hn h v⟩
    · exact ⟨s, hw.managed h⟩

end Sys2Proof.Machine
end

section
/-! Trap entry and kills (23 R357, R359, R364). -/
namespace Sys2Proof.Machine

/-- States with the same crews have the same crew n. -/
theorem crew_of_crews {s t : State} (h : t.crews = s.crews) (n : Nat) : t.crew n = s.crew n := by
  rw [State.crew, h, State.crew]

/-! ## Trap entry -/

section
variable {s : State} {crew : Nat} {k : StrandKind} (cause flags : Nat) (val epc : Word) (m : Option Nat)

/-- The registers that a trap of strand k of a crew saves for its new level. -/
def savedRegs (c : Crew) (k : StrandKind) (cause flags : Nat) (val epc : Word) (m : Option Nat) : TrapRegs :=
  let t := (c.str k).trapRegs ((c.str k).level + 1)
  { t with
    epc := epc
    cause := BitVec.ofNat 64 (flags + cause)
    val := val
    members := m.getD t.members
    ring := if k = .v then c.ring else t.ring }

/-- A strand at the handler of the next trap level, with registers t saved. -/
def Strand.entered (x : Strand) (t : TrapRegs) : Strand :=
  { x.setTrapRegs (x.level + 1) t with
    level := x.level + 1
    pc := handlerPc x.tvec
    latch := none
    waited := false
    cond := qFetch
    condPc := handlerPc x.tvec }

/-- A crew whose strand k has entered a trap level. -/
def Crew.entered (c : Crew) (k : StrandKind) (t : TrapRegs) : Crew :=
  let c1 := c.setStr k ((c.str k).entered t)
  if k = .v then { c1 with ring := zeroRing } else c1

/-- Below level 2 with TVEC.en 1 a trap changes the crew of the strand to one that has entered the next level. -/
theorem takeTrap_crews (hl : (s.strand crew k).level < 2) (hv : (s.strand crew k).tvec.getLsbD 0 = true) :
    (takeTrap s crew k cause flags val epc m).crews =
      (s.setCrew crew ((s.crew crew).entered k (savedRegs (s.crew crew) k cause flags val epc m))).crews := by
  unfold State.strand at hl hv
  unfold takeTrap
  dsimp only
  rw [if_neg (by rw [hv]; simp; omega)]
  split <;> rfl

end

/-- The handler's address: TVEC's low 57 bits without the lowest two. -/
theorem handlerPc_eq (v : Word) : handlerPc v = BitVec.ofNat 64 (v.toNat % 2 ^ 57 / 4 * 4) := by
  have hmask : v.toNat &&& (2 ^ 55 - 1) * 2 ^ 2 = v.toNat % 2 ^ 57 / 2 ^ 2 * 2 ^ 2 := by
    refine Nat.eq_of_testBit_eq fun i => ?_
    rw [Nat.testBit_and, Nat.testBit_mul_two_pow, Nat.testBit_two_pow_sub_one, Nat.testBit_mul_two_pow,
      Nat.testBit_div_two_pow, Nat.testBit_mod_two_pow]
    by_cases h : 2 ≤ i
    · have hi : i - 2 < 55 ↔ i < 57 := by omega
      simp only [Nat.sub_add_cancel h, hi, h, decide_true, Bool.true_and, Bool.and_comm]
    · simp [h]
  refine BitVec.eq_of_toNat_eq ?_
  have hlt : v.toNat % 2 ^ 57 / 4 * 4 < 2 ^ 64 := by omega
  rw [handlerPc, BitVec.toNat_and, BitVec.toNat_ofNat (x := v.toNat % 2 ^ 57 / 4 * 4), Nat.mod_eq_of_lt hlt]
  exact hmask

section
variable (x : Strand) (t : TrapRegs)

theorem trapRegs_setTrapRegs (n : Nat) : (x.setTrapRegs n t).trapRegs n = t := by
  unfold Strand.setTrapRegs Strand.trapRegs
  split <;> rfl

/-- Entering a level keeps everything but its registers, the level and the place. -/
theorem entered_keeps : (x.entered t).preds = x.preds ∧ (x.entered t).regs = x.regs ∧ (x.entered t).tsave = x.tsave ∧
    (x.entered t).tvec = x.tvec ∧ (x.entered t).div0 = x.div0 ∧ (x.entered t).loops = x.loops := by
  unfold Strand.entered Strand.setTrapRegs
  split <;> exact ⟨rfl, rfl, rfl, rfl, rfl, rfl⟩

/-- The registers of the new level are those saved. -/
theorem entered_trapRegs : (x.entered t).trapRegs (x.level + 1) = t := trapRegs_setTrapRegs x t (x.level + 1)

/-- The registers of the other level stay. -/
theorem entered_trapRegs_other (h : x.level < 2) : (x.entered t).trapRegs (2 - x.level) = x.trapRegs (2 - x.level) := by
  have hl : x.level = 0 ∨ x.level = 1 := by omega
  rcases hl with hl | hl <;> simp [Strand.entered, Strand.setTrapRegs, Strand.trapRegs, hl]

end

theorem entered_str_eq (c : Crew) (k j : StrandKind) (t : TrapRegs) :
    (c.entered k t).str j = (c.setStr k ((c.str k).entered t)).str j := by
  unfold Crew.entered
  dsimp only
  split
  · cases j <;> rfl
  · rfl

theorem entered_ring (c : Crew) (t : TrapRegs) : (c.entered .v t).ring = List.replicate 4 {} := rfl

/-! ## Kills -/

/-- A kill changes the crew alone. -/
theorem killContext_crews (s : State) (crew cause : Nat) :
    (killContext s crew cause).crews = (s.setCrew crew (killCrew (s.crew crew) cause)).crews := rfl

/-- A kill of a context that has not been killed leaves its cause and stops every strand. -/
theorem killCrew_stops {c : Crew} (hx : c.ctx.isSome = true) (hk : c.killed = none) (cause : Nat) :
    (killCrew c cause).killed = some cause ∧ ∀ j, (killCrew c cause).str j = (c.str j).stopped := by
  obtain ⟨x, hx⟩ := Option.isSome_iff_exists.mp hx
  unfold killCrew
  rw [hx, hk]
  exact ⟨rfl, fun j => by cases j <;> rfl⟩

/-- A stopped strand has exited or is charged IDLE. -/
theorem stopped_idle (x : Strand) : x.stopped.exited = true ∨ x.stopped.cond = qIdle := by
  unfold Strand.stopped
  split
  · next h => exact .inl h
  · exact .inr rfl

/-- A trap at level 2 or with TVEC.en 0 kills the context. -/
theorem takeTrap_kills {s : State} {crew : Nat} {k : StrandKind}
    (h : (s.strand crew k).level = 2 ∨ (s.strand crew k).tvec.getLsbD 0 = false) (cause flags : Nat) (val epc : Word) (m : Option Nat) :
    takeTrap s crew k cause flags val epc m = killContext s crew cause :=
  h.elim (takeTrap_third s crew k cause flags val epc m) (takeTrap_disabled s crew k cause flags val epc m)

/-- Settles O19: the entry by `takeTrap_crews`, the kill by `killCrew_stops`. -/
theorem trapEntry : Obligations.TrapEntry := by
  refine ⟨fun s crew k cause flags val epc m => ?_, fun s crew k cause flags val epc m => ?_⟩
  · intro x t y hl hv
    have hc : ∀ n, t.crew n = (s.setCrew crew ((s.crew crew).entered k (savedRegs (s.crew crew) k cause flags val epc m))).crew n :=
      crew_of_crews (takeTrap_crews cause flags val epc m hl hv)
    have hcrew : t.crew crew = (s.crew crew).entered k (savedRegs (s.crew crew) k cause flags val epc m) := by
      rw [hc, crew_setCrew]
    have hy : y = x.entered (savedRegs (s.crew crew) k cause flags val epc m) := by
      show (t.crew crew).str k = _
      rw [hcrew, entered_str_eq, str_setStr]
      rfl
    obtain ⟨hpreds, hregs, htsave, htvec, hdiv, hloops⟩ := entered_keeps x (savedRegs (s.crew crew) k cause flags val epc m)
    rw [hy, entered_trapRegs, entered_trapRegs_other x _ hl]
    refine ⟨rfl, handlerPc_eq _, rfl, rfl, rfl, rfl, rfl, fun r => ?_, hpreds, htsave, htvec, hdiv, hloops, fun j hj => ?_,
      fun n hn => ?_, takeTrap_mem .., ?_⟩
    · rw [Strand.reg, Strand.reg, hregs]
    · show (t.crew crew).str j = (s.crew crew).str j
      rw [hcrew, entered_str_eq, str_setStr_ne _ _ _ _ hj]
    · rw [hc, crew_setCrew_ne _ _ _ _ hn]
    · rintro rfl
      rw [hcrew, entered_ring]
  · intro x t h hx hk
    have ht : t = killContext s crew cause := takeTrap_kills h ..
    have hc : ∀ n, t.crew n = (s.setCrew crew (killCrew (s.crew crew) cause)).crew n := by
      rw [ht]
      exact crew_of_crews (killContext_crews s crew cause)
    obtain ⟨hcause, hstr⟩ := killCrew_stops hx hk cause
    have hcrew : t.crew crew = killCrew (s.crew crew) cause := by rw [hc, crew_setCrew]
    refine ⟨by rw [hcrew, hcause], fun j => ?_, takeTrap_mem .., fun n hn => ?_⟩
    · rw [State.strand, hcrew, hstr]
      exact stopped_idle _
    · rw [hc, crew_setCrew_ne _ _ _ _ hn]

end Sys2Proof.Machine
end

section
/-! The issue of a Knead group (18 R287, R299, R300, R302). -/
namespace Sys2Proof.Machine

/-! ## A group that opens -/

/-- The replacements of entry n for the members ms, as words. -/
def groupWords (s : State) (n : Nat) (ms : List WinItem) : List (W32 × W32) :=
  (List.range (ruleRepls (ruleEntry s.me.ruleA n))).map fun j =>
    replWords (s.cur.2 == .m) (ruleEntry s.me.ruleA n) ms j

/-- The predicate of a group is its head's. -/
theorem head_pred {ms : List WinItem} {head : WinItem} (h : ms.head? = some head) :
    (ms.head?).elim 0#4 WinItem.p = head.p := by
  rw [h, Option.elim_some]

section
variable {s : State} {n : Nat} {ws : List W32} {ms : List WinItem} {head last : WinItem} {bodies : List Body}

/-- The event issues the group that the words at the PC open. -/
theorem kneadGroupIssue_opens (hr : s.me.rest = none) (hw : headWords s = some ws) (hk : kneadAt s ws = .group n ms) :
    exec (.kneadGroupIssue n) s = issueGroup s n ms := by
  show execKneadGroupIssue n s = _
  unfold execKneadGroupIssue
  rw [hr]
  dsimp only
  rw [hw]
  dsimp only
  rw [hk]
  exact if_pos rfl

/-- A replacement that is no instruction traps for the group. -/
theorem issueGroup_illegal {v : Word} (hd : decodeRepls (groupWords s n ms) = .error v) :
    issueGroup s n ms = .next (trapGroup s ms.length (max 1 (ruleRepls (ruleEntry s.me.ruleA n))) cIllegal v) := by
  unfold groupWords at hd
  unfold issueGroup
  dsimp only
  rw [hd]

variable (hd : decodeRepls (groupWords s n ms) = .ok bodies) (hh : ms.head? = some head) (hl : ms.getLast? = some last)
include hd hh hl

/-- Where the head's predicate is false, V pushes zero rows and the strand goes on. -/
theorem issueGroup_skips (hp : s.me.predHolds head.p = false) :
    issueGroup s n ms = .next (retireGroup last.pc last.len (max 1 (ruleRepls (ruleEntry s.me.ruleA n)))
      (if s.cur.2 = .m then s
       else s.setMyCrew { s.myCrew with ring := (List.replicate ms.length ({} : RingEnt) ++ s.myCrew.ring).take 4 })) := by
  unfold groupWords at hd
  unfold issueGroup
  dsimp only
  have hoff : (!s.me.predHolds head.p) = true := by rw [hp]; rfl
  rw [hd, head_pred hh, List.getLastD_eq_getLast?, hl]
  dsimp only
  rw [if_pos hoff]
  simp only [beq_iff_eq, Option.getD_some]

/-- Where it holds, the group ends as the effect of its replacements says. -/
theorem issueGroup_performs (hp : s.me.predHolds head.p = true) :
    issueGroup s n ms =
      let slots := max 1 (ruleRepls (ruleEntry s.me.ruleA n))
      let second := (groupWords s n ms).getD 1 (0#32, 0#32)
      match groupEffect s (ruleEntry s.me.ruleA n) ms (groupWords s n ms) bodies with
      | .ok (s1, false) => .next (retireGroup last.pc last.len slots s1)
      | .ok (s1, true) => .next (holdMe qMem (s1.setMe { s1.me with rest := some {
          entry := n, w0 := second.1, w1 := second.2, members := ms.length, slots, pc := last.pc, len := last.len,
          ring := s.myCrew.ring } }))
      | .error (.trap c v) => .next (trapGroup s ms.length slots c v)
      | .error (.xtrap c v s1) => .next (trapGroup s1 ms.length slots c v)
      | .error (.wait q s1) => .next (holdMe q (keepWait s s1))
      | .error (.fault f) => .fault f := by
  unfold groupWords at hd ⊢
  unfold issueGroup
  dsimp only
  have hon : ¬(!s.me.predHolds head.p) = true := by rw [hp]; simp
  rw [hd, head_pred hh, List.getLastD_eq_getLast?, hl]
  exact if_neg hon

end

/-! ## A group that goes on -/

/-- The event carries out the last replacement of a group that has issued. -/
theorem kneadGroupIssue_goesOn {s s1 : State} {r : GroupRest} {b : Body} {o : Option Word} (hr : s.me.rest = some r)
    (hd : decodeRepls [(r.w0, r.w1)] = .ok [b]) (hb : b (excuse s false allOperands) = .ok (s1, o)) :
    exec (.kneadGroupIssue r.entry) s =
      .next (retireGroup r.pc r.len r.slots (noRest (endRing (excuse s1 false []) r.ring r.members))) := by
  show execKneadGroupIssue r.entry s = _
  unfold execKneadGroupIssue
  rw [hr]
  dsimp only
  rw [if_pos rfl]
  unfold finishGroup
  rw [hd]
  dsimp only [List.headD]
  rw [hb]

/-- Settles O37: a group that opens by its replacements, its predicate and its effect, and one that goes on. -/
theorem groupIssues : Obligations.GroupIssues := by
  refine ⟨fun s s1 n ws ms head last bodies cause v => ?_, fun s s1 r b o => kneadGroupIssue_goesOn⟩
  intro e slots rs c second rest hr hw hk hh hl
  rw [kneadGroupIssue_opens hr hw hk]
  refine ⟨issueGroup_illegal, fun hd hp => issueGroup_skips hd hh hl hp, fun hd hp he => ?_, fun hd hp he => ?_,
    fun hd hp he => ?_, fun hd hp he => ?_⟩ <;>
  · have hg := issueGroup_performs hd hh hl hp
    rw [show groupEffect s (ruleEntry s.me.ruleA n) ms (groupWords s n ms) bodies = _ from he] at hg
    exact hg

end Sys2Proof.Machine
end

section
/-! Fabric instructions that their strand waits at (14 R265, R272, R275, R278, R279; 06 R102). -/
namespace Sys2Proof.Machine

section
variable {s s1 s2 : State} {e : Eng} {c : CpFields}

/-! ## coll.close -/

theorem closeBody_closes {i : Instr} {h : Nat} {x : RedCtx} (ho : ownHandle s (s.me.reg c.sn) = some (h, x))
    (hb : handleBusy s.myCrew h = false) :
    closeBody i c s = .ok ((closeContext s h).setMe ((closeContext s h).me.setReg c.sd 0#64)) := by
  unfold closeBody
  rw [ho]
  exact if_neg (by simp [hb])

theorem closeBody_waits {i : Instr} {h : Nat} {x : RedCtx} (ho : ownHandle s (s.me.reg c.sn) = some (h, x))
    (hb : handleBusy s.myCrew h = true) : closeBody i c s = .error (.wait qColl s) := by
  unfold closeBody
  rw [ho]
  exact if_pos hb

theorem closeBody_illegal {i : Instr} (ho : ownHandle s (s.me.reg c.sn) = none) : closeBody i c s = illegalWords i := by
  unfold closeBody
  rw [ho]

/-! ## jwait -/

/-- What jwait comes to once its header has been read and chained: the count, or a wait. -/
theorem jwaitBody_reads {h h2 : Hdr} (hr : readHeader (retryAll s) (s.me.reg c.sn) = .ok (s1, h))
    (hc : if (s.me.regN (c.sn.toNat + 1)).toNat < h.chained then s2 = s1 ∧ h2 = h
      else chainOn (strandJournal s1 (s.me.reg c.sn)) (h.capacity + 1) h s1 = .ok (s2, h2)) :
    jwaitBody c s =
      let n := (s.me.regN (c.sn.toNat + 1)).toNat
      let deadline := (s.me.regN (c.sn.toNat + 2)).toNat
      let u := dropAsked s2 (.strand s1.cur.1 s1.cur.2)
      if n < h2.chained ∨ deadline ≠ 2 ^ 64 - 1 ∧ deadline ≤ u.cuCycle (cuOf u.cur.1) then
        .ok (u.setMe ((u.me.setReg c.sd (BitVec.ofNat 64 h2.chained)).setPred c.pd (decide (n < h2.chained))))
      else .error (.wait qColl u) := by
  have hm : (if (s.me.regN (c.sn.toNat + 1)).toNat < h.chained then .ok (s1, h)
      else chainOn (strandJournal s1 (s.me.reg c.sn)) (h.capacity + 1) h s1 : Res (State × Hdr)) = .ok (s2, h2) := by
    split at hc
    · next hn =>
      obtain ⟨rfl, rfl⟩ := hc
      exact if_pos hn
    · next hn => exact (if_neg hn).trans hc
  unfold jwaitBody
  dsimp only
  rw [hr]
  dsimp only
  rw [hm]
  rfl

/-! ## glz.post and glz.wait -/

/-- The card that glz.post puts behind those of its crew. -/
def postedCard (s : State) (p : Word) (b : List Byte) (cls : BitVec 4) : Card :=
  { id := s.cardSeq
    crew := s.cur.1
    launch := (ownerOf s.myCrew).1
    task := (ownerOf s.myCrew).2
    ptr := p
    bytes := b
    cls
    tenant := s.myCrew.tenant }

theorem glzPostBody_posts {b : List Byte} (ha : (crewCards s s.cur.1).length < 16) (hk : cardCheck (s.me.reg c.sn) = none)
    (hr : loadBytes s (s.me.reg c.sn) 256 0 64 = .ok (s1, b)) (hb : cardBad b = false) (hp : cardPointers b = none)
    (hf : fabPointers s1 [] (cardBar b) = .ok ()) (hz : barZeroing s1 (cuOf s1.cur.1) (cardBar b) = false)
    (hw : storeBytes s1 (s.me.reg c.sn + 192#64) (leBytes 4 0) 0 4 e.cls.toNat = .ok s2) :
    glzPostBody e c s = .ok
      ({ s2 with cards := s2.cards ++ [postedCard s2 (s.me.reg c.sn) b e.cls], cardSeq := s2.cardSeq + 1 }.setMe
        (s2.me.setReg c.sd (BitVec.ofNat 64 (crewCards s s.cur.1).length))) := by
  unfold glzPostBody
  dsimp only
  rw [if_neg (by omega), hk]
  dsimp only
  rw [hr]
  dsimp only
  rw [if_neg (by simp [hb]), hp]
  dsimp only
  rw [hf]
  dsimp only
  rw [if_neg (by simp [hz]), hw]
  rfl

theorem glzWaitBody_reads {bs : List Byte} (hk : cardCheck (s.me.reg c.sn) = none)
    (hr : loadBytes s (s.me.reg c.sn + 192#64) 4 0 4 = .ok (s1, bs)) :
    glzWaitBody c s = if (leNat bs).testBit 31 then .ok (s1.setMe (s1.me.setReg c.sd (BitVec.ofNat 64 (leNat bs))))
      else .error (.wait (if cardWaits s1 (s.me.reg c.sn) then qColl else qMem) s1) := by
  unfold glzWaitBody
  dsimp only
  rw [hk]
  dsimp only
  rw [hr]

/-! ## The course that they share -/

/-- An instruction that its strand waits at, and that needs room in the engine. -/
structure HeldCourse (i : Instr) (s : State) (e : Eng) (body : State → Res State) : Prop where
  kinds : strandKinds i = [.c]
  pred : predField i = e.p
  runs : exec i s = heldIssue i e [.c] (roomBody body) s

variable {i : Instr} {body : State → Res State}

theorem roomBody_of_room (hroom : s.myCrew.ops.length < 16) : roomBody body s = body s := by
  rw [roomBody, engineFull_of_lt hroom]
  rfl

section
variable (h : HeldCourse i s e body) (hi : IssuesHeld s i) (hroom : MayPerform s e ∧ s.myCrew.ops.length < 16)
include h hi hroom

theorem HeldCourse.performs {u : State} (hb : body s = .ok u) : Performs i e s u :=
  heldIssue_performs hi h.kinds h.pred hroom.1 ((roomBody_of_room hroom.2).trans hb) h.runs

theorem HeldCourse.stops {w : Stop} (hb : body s = .error w) : exec i s = finish i s 1 (.error w) :=
  heldIssue_stops hi h.kinds h.pred hroom.1 ((roomBody_of_room hroom.2).trans hb) h.runs

end

end

/-- Settles O32: each instruction is a `HeldCourse`, whose body goes or stops as its lemma above says. -/
theorem heldFabric : Obligations.HeldFabric := by
  intro s e c
  have hclose : HeldCourse (.collClose e c) s e (closeBody (.collClose e c) c) := ⟨rfl, rfl, rfl⟩
  have hjwait : HeldCourse (.jwait e c) s e (jwaitBody c) := ⟨rfl, rfl, rfl⟩
  have hpost : HeldCourse (.glzPost e c) s e (glzPostBody e c) := ⟨rfl, rfl, rfl⟩
  have hwait : HeldCourse (.glzWait e c) s e (glzWaitBody c) := ⟨rfl, rfl, rfl⟩
  dsimp only
  refine ⟨fun h x hi hroom ho => ⟨fun hb => hclose.performs hi hroom (closeBody_closes ho hb),
      fun hb => hclose.stops hi hroom (closeBody_waits ho hb)⟩,
    fun hi hroom ho => hclose.stops hi hroom (closeBody_illegal ho), fun s1 s2 h h2 hi hroom hr hc => ?_,
    fun s1 s2 b hi hroom ha hk hr hb hp hf hz hw => hpost.performs hi hroom (glzPostBody_posts ha hk hr hb hp hf hz hw),
    fun s1 bs hi hroom hk hr => ?_⟩
  · have hbody := jwaitBody_reads hr hc
    refine ⟨fun hgo => hjwait.performs hi hroom (hbody.trans (if_pos hgo)), fun hn hd => ?_⟩
    exact hjwait.stops hi hroom (hbody.trans (if_neg (by rw [not_or]; exact ⟨by omega, hd⟩)))
  · have hbody := glzWaitBody_reads (c := c) hk hr
    exact ⟨fun hb => hwait.performs hi hroom (hbody.trans (if_pos hb)),
      fun hb => hwait.stops hi hroom (hbody.trans (if_neg (by simp [hb])))⟩

end Sys2Proof.Machine
end

section
/-! Writes of memory management, and frames that are formatted (21 R335, R336; 22 R341, R351, R353, R355; 26 R393). -/
namespace Sys2Proof.Machine

section
variable {s : State} (hm : s.boot.mode = 1)
include hm

/-! ## The fault queue and the roots (22 R341, R351, R353) -/

/-- The record that an answer names: written, and not answered before. -/
def namedFault (s : State) (v : Word) : Option FaultRec :=
  s.faults.find? fun f => f.id == v.bits 31 0 && f.written && !f.unres

theorem fqrespWrite_ignored {v : Word} (h : namedFault s v = none) : exec (.fqrespWrite v) s = .next s := by
  unfold namedFault at h
  show execFqrespWrite v s = _
  rw [execFqrespWrite, barWrite_operational _ _ hm]
  dsimp only
  rw [h]

theorem fqrespWrite_answers {v : Word} {f : FaultRec} (h : namedFault s v = some f) : exec (.fqrespWrite v) s =
    .next (if v.getLsbD 32 then releaseWalk (markUnres s (v.bits 31 0)) else answerWalk s f) := by
  unfold namedFault at h
  show execFqrespWrite v s = _
  rw [execFqrespWrite, barWrite_operational _ _ hm]
  dsimp only
  rw [h]

theorem fqheadWrite_takes (v : Word) : exec (.fqheadWrite v) s = .next (drainAllFaults
    { s with fq := { s.fq with head := v.extractLsb' 0 32, vector := v.bits 63 48 } }) := by
  show execFqheadWrite v s = _
  rw [execFqheadWrite, barWrite_operational _ _ hm]

/-- A write of a root register of a function that is there. -/
theorem xrRootWrite_eq {fn : Nat} (hf : fn ≤ 384) (stage2 : Bool) (v : Word) : exec (.xrRootWrite fn stage2 v) s =
    .next (if stage2 then (if fn = 0 then s else s.setTenant fn { s.tenant fn with xr2 := v &&& rootMask })
      else s.setTenant fn { s.tenant fn with xr1 := v &&& rootMask }) := by
  show execXrRootWrite fn stage2 v s = _
  rw [execXrRootWrite, barWrite_operational _ _ hm, if_neg (by omega)]
  cases stage2
  · rfl
  · exact (apply_ite Host.Outcome.next _ _ _).symm

/-! ## Frame commands (22 R355) -/

theorem fcmdWrite_ignored (hg : s.regs.fcmdGo = true) (v : Word) : exec (.fcmdWrite v) s = .next s := by
  show execFcmdWrite v s = _
  rw [execFcmdWrite, barWrite_operational _ _ hm]
  exact if_pos hg

/-- A command that is bad: op 2 or 3, or a frame outside HBM. -/
def badCommand (v : Word) : Bool :=
  decide (2 ≤ v.bits 62 61) || decide (hbmSize < (v.bits 51 12 + v.bits 11 4 + 1) * 4096)

/-- A command that starts, or sets err when it is bad. -/
theorem fcmdWrite_starts (hg : s.regs.fcmdGo = false) (v : Word) : exec (.fcmdWrite v) s =
    .next { s with regs := { s.regs with
      fcmdGo := v.getLsbD 63 && !badCommand v
      fcmdOp := v.bits 62 61
      fcmdFrame := v.bits 51 12
      fcmdCount := v.bits 11 4
      fcmdErr := if v.getLsbD 63 && badCommand v then true else s.regs.fcmdErr && !v.getLsbD 0 } } := by
  show execFcmdWrite v s = _
  rw [execFcmdWrite, barWrite_operational _ _ hm]
  exact if_neg (by simp [hg])

/-! ## The staging pool, the spill area and pre-emption (21 R335, R336; 26 R393) -/

theorem stagecfgWrite_eq (v : Word) : exec (.stagecfgWrite v) s = .next (if s.stagingUsed ≠ 0 then s
    else { s with regs := { s.regs with stageBlocks := v.bits 63 52, stageBase := v.bits 51 21 * 2 ^ 21 } }) := by
  show execStagecfgWrite v s = _
  rw [execStagecfgWrite, barWrite_operational _ _ hm]

theorem spillcfgWrite_eq (v : Word) :
    exec (.spillcfgWrite v) s =
      let keep := s.regs.spillEn || decide (0 < poolSpilled s)
      .next (poolFill (2 * s.pool.length) (noteFull { s with regs := { s.regs with
        spillBlocks := if keep then s.regs.spillBlocks else v.bits 63 52
        spillBase := if keep then s.regs.spillBase else v.bits 51 16 * 65536
        spillFull := s.regs.spillFull && !v.getLsbD 1
        spillEn := v.getLsbD 0 } })) := by
  show execSpillcfgWrite v s = _
  rw [execSpillcfgWrite, barWrite_operational _ _ hm]

theorem preemptWrite_marks {v : Word} (hv : v.getLsbD 63 = true) (hn : v.bits 8 0 < 384) (ha : (freeArea s).isSome = true)
    (hp : poolFull s = false) : exec (.preemptWrite v) s = .next (s.setCrew (v.bits 8 0) { s.crew (v.bits 8 0) with
      mark := some ((s.crew (v.bits 8 0)).mark.getD false), markKept := true }) := by
  show execPreemptWrite v s = _
  rw [execPreemptWrite, barWrite_operational _ _ hm]
  refine if_neg ?_
  rw [hv, hp, Option.isNone_eq_false_iff.mpr ha, decide_eq_false (by omega)]
  exact Bool.false_ne_true

end

/-! ## Formatting completes (22 R355; 03 R52) -/

/-- Memory without the listed cells from key k to key m. -/
def withoutCells (mem : List Host.Cell) (k m : Nat) : List Host.Cell :=
  mem.filter fun c => !(decide (k ≤ c.1) && decide (c.1 < m))

/-- Bytes whose cells are not listed read zero. -/
theorem memByte_withoutCells_in (mem : List Host.Cell) {k m a : Nat} (hk : k ≤ a) (hm : a < m) :
    memByte (withoutCells mem k m) a = 0#8 := by
  refine sget_append_left memDefault [] (withoutCells mem k m) a fun c hc he => ?_
  have h := (List.mem_filter.mp hc).2
  simp [he, hk, hm] at h

/-- Every other byte reads as before. -/
theorem memByte_withoutCells_out (mem : List Host.Cell) {k m a : Nat} (h : a < k ∨ m ≤ a) :
    memByte (withoutCells mem k m) a = memByte mem a := by
  refine sget_filter _ mem (fun j => !(decide (k ≤ j) && decide (j < m))) a ?_
  simp only [Bool.not_eq_true', Bool.and_eq_false_iff, decide_eq_false_iff_not]
  omega

/-- Settles O44: each write by its equation above, the formatted frames by `withoutCells`. -/
theorem managementWrites : Obligations.ManagementWrites := by
  intro s fn v f
  dsimp only
  refine ⟨fun hm => ⟨fqrespWrite_ignored hm, fun hf hv => ?_, fun hf hv => ⟨?_, fun a => rfl⟩, fqheadWrite_takes hm v,
    fun hf => xrRootWrite_eq hm hf false v, fun h0 hf => ?_, xrRootWrite_eq hm (Nat.zero_le _) true v,
    fun hg => fcmdWrite_ignored hm hg v,
    fun hg => ⟨_, fcmdWrite_starts hm hg v, rfl, rfl, rfl, rfl, rfl, fun hv hb => ?_⟩, fun hs => ?_, fun hs => ?_,
    spillcfgWrite_eq hm v, preemptWrite_marks hm⟩, fun hg => ⟨_, if_neg (by simp [hg]), rfl, fun a hk hn => ?_, fun a ha => ?_⟩⟩
  · rw [fqrespWrite_answers hm hf, if_pos hv]
  · rw [fqrespWrite_answers hm hf, if_neg (by rw [hv]; exact Bool.false_ne_true)]
  · rw [xrRootWrite_eq hm hf true v, if_pos rfl, if_neg (by omega)]
  · exact if_pos (by rw [hv, badCommand, hb]; rfl)
  · rw [stagecfgWrite_eq hm, if_neg (by simp [hs])]
  · rw [stagecfgWrite_eq hm, if_pos hs]
  · exact memByte_withoutCells_in s.mem hk hn
  · exact memByte_withoutCells_out s.mem (by omega)

end Sys2Proof.Machine
end

section
/-! Translation walks, expiry and clock copies (22 R340, R343, R348, R350). -/
namespace Sys2Proof.Machine

/-! ## Walks (22 R340, R350) -/

section
variable {s : State} {cu fn : Nat} {va : Word} {need : BitVec 3}

/-- A unit that translates for the function: the walk's answer decides. -/
theorem translationWalk_serves (hu : unitServes s cu fn = true) (hc : clockOk s cu = true) (hn : need ≠ 0#3)
    (hv : va.bits 63 57 = 0) :
    exec (.translationWalk cu fn va need) s = match walkIn s cu fn va.toNat need with
      | (s1, .stall l k pa ent frame) =>
        .next (joinFault s1 fn va need l k pa ent frame (s.cuCycle (walkerOf cu)) .other)
      | (s1, _) => .next s1 := by
  show execTranslationWalk cu fn va need s = _
  unfold execTranslationWalk
  exact if_neg (by simp [hu, hc, hn, hv])

end

/-! ## Expiry (22 R343) -/

/-- An entry of a table that mapping its values changes makes the mapped table another one. -/
theorem mapValues_ne {β : Type} {l : List (Nat × β)} {f : Nat × β → β} {p : Nat × β} (hp : p ∈ l) (h : f p ≠ p.2) :
    (l.map fun p => (p.1, f p)) ≠ l := fun he =>
  h (congrArg Prod.snd (List.map_inj_left.mp (he.trans (List.map_id l).symm) p hp))

/-- Dropping what is expired changes a list that holds an expired entry. -/
theorem filter_unexpired_ne {β : Type} {l : List β} {e : β → Nat} {now : Nat} {t : β} (ht : t ∈ l) (h : e t ≤ now) :
    (l.filter fun t => decide (now < e t)) ≠ l := fun he =>
  absurd (of_decide_eq_true (List.filter_eq_self.mp he t ht)) (by omega)

/-- The state without the entries whose expiry their unit's copy of CYCLE has reached. -/
def dropExpired (s : State) : State :=
  { s with
    cus := s.cus.map fun p => (p.1, { p.2 with tlb := unexpired (s.cuCycle p.1) p.2.tlb })
    clusterTlb := s.clusterTlb.map fun p => (p.1, unexpired (s.cuCycle (walkerOf (8 * p.1))) p.2)
    walkCache := s.walkCache.map fun p => (p.1, unexpiredEnts (s.cuCycle p.1) p.2) }

theorem translationExpiry_drops {s : State} (h : dropExpired s ≠ s) : exec .translationExpiry s = .next (dropExpired s) :=
  if_neg h

section
variable {s : State}

theorem dropExpired_ne_of_cu {p : Nat × Cu} (hp : p ∈ s.cus) {t : Tlb} (ht : t ∈ p.2.tlb)
    (h : t.expiry ≤ s.cuCycle p.1) : dropExpired s ≠ s := fun he =>
  mapValues_ne hp (fun hc => filter_unexpired_ne ht h (congrArg Cu.tlb hc)) (congrArg State.cus he)

theorem dropExpired_ne_of_cluster {p : Nat × List Tlb} (hp : p ∈ s.clusterTlb) {t : Tlb} (ht : t ∈ p.2)
    (h : t.expiry ≤ s.cuCycle (walkerOf (8 * p.1))) : dropExpired s ≠ s := fun he =>
  mapValues_ne hp (filter_unexpired_ne ht h) (congrArg State.clusterTlb he)

theorem dropExpired_ne_of_walker {p : Nat × List WalkEnt} (hp : p ∈ s.walkCache) {t : WalkEnt} (ht : t ∈ p.2)
    (h : t.expiry ≤ s.cuCycle p.1) : dropExpired s ≠ s := fun he =>
  mapValues_ne hp (filter_unexpired_ne ht h) (congrArg State.walkCache he)

end

/-! ## What an error record leaves (23 R365) -/

/-- The state with other crews, CUs and caches of walkers. -/
def State.withUnits (s : State) (crews : Store Crew) (cus : Store Cu) (tlbs : Store (List Tlb))
    (ents : Store (List WalkEnt)) : State :=
  { s with crews := crews, cus := cus, clusterTlb := tlbs, walkCache := ents }

section
variable (s : State) (crews : Store Crew) (cus : Store Cu) (tlbs : Store (List Tlb)) (ents : Store (List WalkEnt))

theorem raiseMsi_units (fn v : Nat) :
    raiseMsi (s.withUnits crews cus tlbs ents) fn v = (raiseMsi s fn v).withUnits crews cus tlbs ents := by
  unfold raiseMsi
  split <;> rfl

/-- What is written of the error records does not depend on the units. -/
theorem drainErrs_units (n : Nat) :
    drainErrs n (s.withUnits crews cus tlbs ents) = (drainErrs n s).withUnits crews cus tlbs ents := by
  induction n generalizing s with
  | zero => rfl
  | succ n ih =>
    cases hr : s.er.hasRoom with
    | false => rw [drainErrs_waits hr, drainErrs_waits (s := s.withUnits crews cus tlbs ents) hr]
    | true =>
      match he : s.errs with
      | [] => rw [drainErrs_nil he, drainErrs_nil (s := s.withUnits crews cus tlbs ents) he]
      | e :: rest =>
        have hu := raiseMsi_units (errWritten s e rest) crews cus tlbs ents 0 s.er.vector
        rw [drainErrs_writes he hr, ← ih, ← hu]
        exact drainErrs_writes (s := s.withUnits crews cus tlbs ents) he hr n

end

/-! ## Clock skew (22 R348) -/

/-- The error record of a clock that drifted. -/
def skewRecord (s : State) : ErrRec :=
  { pa := 0, cycle := s.cycle, crew := 0x1FF, fn := 0, unit := 4, kind := 4, tag := BitVec.allOnes 64 }

/-- The record of a skew waits, and is written if the ring has room. -/
def skewTold (s : State) : State := drainErrs 1 { s with errs := s.errs ++ [skewRecord s] }

theorem pushErr_skew (s : State) : pushErr s 4 4 0 0x1FF 0 = skewTold s := by
  unfold pushErr skewTold skewRecord
  dsimp only
  split <;> rfl

/-- The record does not depend on the units, and leaves them. -/
theorem skewTold_units (s : State) (crews : Store Crew) (cus : Store Cu) (tlbs : Store (List Tlb))
    (ents : Store (List WalkEnt)) :
    skewTold (s.withUnits crews cus tlbs ents) = (skewTold s).withUnits crews cus tlbs ents :=
  drainErrs_units { s with errs := s.errs ++ [skewRecord s] } crews cus tlbs ents 1

/-- A context's scalar strand is left CLOCK_SKEW with the drift as its value; a slot without one is left alone. -/
def skewSlot (s : State) (drift : Int) (n : Nat) : State :=
  if (s.crew n).ctx.isSome then
    s.setCrew n { s.crew n with ss := { (s.crew n).ss with
      pend := { (s.crew n).ss.pend with skew := (s.crew n).ss.pend.skew ++ [BitVec.ofInt 64 drift] } } }
  else s

theorem skewSlot_self (s : State) (drift : Int) (n : Nat) :
    ((skewSlot s drift n).crew n).ss.pend.skew =
      (s.crew n).ss.pend.skew ++ (if (s.crew n).ctx.isSome then [BitVec.ofInt 64 drift] else []) := by
  unfold skewSlot
  split
  · rw [crew_setCrew]
  · rw [List.append_nil]

theorem skewSlot_other (s : State) (drift : Int) {n m : Nat} (h : m ≠ n) : (skewSlot s drift n).crew m = s.crew m := by
  unfold skewSlot
  split
  · exact crew_setCrew_ne s n m _ h
  · rfl

theorem skewSlot_crews (s : State) (drift : Int) (n : Nat) :
    ∃ crews, skewSlot s drift n = { s with crews := crews } := by
  unfold skewSlot
  split
  · exact ⟨_, rfl⟩
  · exact ⟨s.crews, rfl⟩

theorem skewTraps_slots (s : State) (cu : Nat) (drift : Int) :
    skewTraps s cu drift = (List.range 4).foldl (fun s j => skewSlot s drift (4 * cu + j)) s := rfl

/-- The slots of a list change nothing but crews. -/
theorem skewSlots_crews (drift : Int) (cu : Nat) (l : List Nat) (s : State) :
    ∃ crews, l.foldl (fun s j => skewSlot s drift (4 * cu + j)) s = { s with crews := crews } := by
  induction l generalizing s with
  | nil => exact ⟨s.crews, rfl⟩
  | cons j l ih =>
    obtain ⟨c1, h1⟩ := skewSlot_crews s drift (4 * cu + j)
    obtain ⟨c2, h2⟩ := ih (skewSlot s drift (4 * cu + j))
    exact ⟨c2, by rw [List.foldl_cons, h2, h1]⟩

/-- A slot that the list does not name keeps its crew. -/
theorem skewSlots_other (drift : Int) (cu : Nat) (l : List Nat) (s : State) {j : Nat} (h : j ∉ l) :
    (l.foldl (fun s j => skewSlot s drift (4 * cu + j)) s).crew (4 * cu + j) = s.crew (4 * cu + j) := by
  induction l generalizing s with
  | nil => rfl
  | cons i l ih =>
    obtain ⟨hi, hl⟩ := List.ne_and_not_mem_of_not_mem_cons h
    rw [List.foldl_cons, ih _ hl, skewSlot_other s drift (by omega)]

/-- A slot that the list names once is told once. -/
theorem skewSlots_named (drift : Int) (cu : Nat) {l : List Nat} (hl : l.Nodup) (s : State) {j : Nat} (h : j ∈ l) :
    ((l.foldl (fun s j => skewSlot s drift (4 * cu + j)) s).crew (4 * cu + j)).ss.pend.skew =
      (s.crew (4 * cu + j)).ss.pend.skew ++
        (if (s.crew (4 * cu + j)).ctx.isSome then [BitVec.ofInt 64 drift] else []) := by
  induction l generalizing s with
  | nil => exact absurd h List.not_mem_nil
  | cons i l ih =>
    obtain ⟨hi, hn⟩ := List.nodup_cons.mp hl
    rw [List.foldl_cons]
    rcases List.mem_cons.mp h with rfl | hm
    · rw [skewSlots_other drift cu l _ hi, skewSlot_self]
    · have hne : j ≠ i := fun he => hi (he ▸ hm)
      rw [ih hn _ hm, skewSlot_other s drift (by omega)]

/-- A unit's CYCLE is at least the floor it was set to. -/
theorem floor_le_cuCycle_setCu (s : State) (cu : Nat) (c : Cu) : c.floor ≤ (s.setCu cu c).cuCycle cu := by
  rw [State.cuCycle, cu_setCu]
  exact Nat.le_max_left ..

section
variable {s : State} {cu : Nat} {drift : Int}

/-- A drift of at most 16 is only kept. -/
theorem clockSkewDetection_kept (hu : clockUnit cu = true) (hd : 0 ≤ (s.cycle : Int) + drift) (h : drift.natAbs ≤ 16) :
    exec (.clockSkewDetection cu drift) s = .next (s.setCu cu { s.cu cu with drift := drift, floor := s.cuCycle cu }) := by
  show execClockSkewDetection cu drift s = _
  unfold execClockSkewDetection
  rw [if_neg (by simp [hu]; omega)]
  exact if_pos h

/-- A unit whose copy drifted too far: held until its copy is set, CYCLE not decreasing. -/
def skewHeld (s : State) (cu : Nat) (drift : Int) : Cu :=
  { s.cu cu with
    drift := if 0 < drift then 0 else drift
    floor := if 0 < drift then max (s.cuCycle cu) ((s.cycle : Int) + drift).toNat else s.cuCycle cu
    resync := true }

theorem skewHeld_floor (s : State) (cu : Nat) (drift : Int) : s.cuCycle cu ≤ (skewHeld s cu drift).floor := by
  unfold skewHeld
  dsimp only
  split
  · exact Nat.le_max_left ..
  · exact Nat.le_refl _

theorem clockSkewDetection_skewed (hu : clockUnit cu = true) (hd : 0 ≤ (s.cycle : Int) + drift)
    (h : 16 < drift.natAbs) : exec (.clockSkewDetection cu drift) s =
      let s2 := skewTold (dropEntries (s.setCu cu (skewHeld s cu drift)) cu)
      .next (if cu < 96 then skewTraps s2 cu drift else s2) := by
  show execClockSkewDetection cu drift s = _
  unfold execClockSkewDetection
  rw [if_neg (by simp [hu]; omega)]
  dsimp only
  rw [if_neg (by omega), pushErr_skew]
  rfl

end

section
variable (s : State) {cu : Nat} (drift : Int)

/-- A CU whose copy drifted too far is held without entries; its contexts are told, and nothing else of the units
moves. -/
theorem skewed_cu (h : cu < 96) :
    let u := skewTraps (skewTold (dropEntries (s.setCu cu (skewHeld s cu drift)) cu)) cu drift
    u.cu cu = { skewHeld s cu drift with tlb := [] } ∧ u.errs = (skewTold s).errs ∧ u.er = (skewTold s).er ∧
      u.mem = (skewTold s).mem ∧ u.clusterTlb = s.clusterTlb ∧ u.walkCache = s.walkCache ∧
      ∀ j < 4, (u.crew (4 * cu + j)).ss.pend.skew = (s.crew (4 * cu + j)).ss.pend.skew ++
        (if (s.crew (4 * cu + j)).ctx.isSome then [BitVec.ofInt 64 drift] else []) := by
  have hdrop : dropEntries (s.setCu cu (skewHeld s cu drift)) cu =
      s.withUnits s.crews (((s.setCu cu (skewHeld s cu drift)).setCu cu { skewHeld s cu drift with tlb := [] }).cus)
        s.clusterTlb s.walkCache := by
    rw [dropEntries, if_pos h, cu_setCu]
    rfl
  dsimp only
  rw [hdrop, skewTold_units, skewTraps_slots]
  obtain ⟨crews, hcrews⟩ := skewSlots_crews drift cu (List.range 4) ((skewTold s).withUnits s.crews
    (((s.setCu cu (skewHeld s cu drift)).setCu cu { skewHeld s cu drift with tlb := [] }).cus) s.clusterTlb s.walkCache)
  refine ⟨?_, by rw [hcrews]; rfl, by rw [hcrews]; rfl, by rw [hcrews]; rfl, by rw [hcrews]; rfl, by rw [hcrews]; rfl,
    fun j hj => skewSlots_named drift cu List.nodup_range _ (List.mem_range.mpr hj)⟩
  rw [hcrews]
  exact cu_setCu (s.setCu cu (skewHeld s cu drift)) cu _

/-- A cluster walker whose copy drifted too far is held without entries, and no crew is told. -/
theorem skewed_walker (h : ¬ cu < 96) :
    let u := skewTold (dropEntries (s.setCu cu (skewHeld s cu drift)) cu)
    u.cu cu = skewHeld s cu drift ∧ u.errs = (skewTold s).errs ∧ u.er = (skewTold s).er ∧ u.mem = (skewTold s).mem ∧
      u.clusterTlb = sput s.clusterTlb (cu - 97) [] ∧ u.walkCache = sput s.walkCache cu [] ∧ u.crews = s.crews := by
  have hdrop : dropEntries (s.setCu cu (skewHeld s cu drift)) cu =
      s.withUnits s.crews (s.setCu cu (skewHeld s cu drift)).cus (sput s.clusterTlb (cu - 97) [])
        (sput s.walkCache cu []) := by
    rw [dropEntries, if_neg h]
    rfl
  dsimp only
  rw [hdrop, skewTold_units]
  exact ⟨cu_setCu s cu _, rfl, rfl, rfl, rfl, rfl, rfl⟩

end

/-- Settles O42: a walk by its answer, expiry by `dropExpired`, a small drift by `clockSkewDetection_kept`, a great one
by what the record and the traps leave of the units. -/
theorem translationAndClock : Obligations.TranslationAndClock := by
  intro s s1 cu fn va need drift t cause l k pa ent frame err
  dsimp only
  refine ⟨fun ⟨hu, hc, hn, hv⟩ => ?_, fun ⟨hu, hc, hn, hv⟩ hw => ?_, fun ⟨hu, hc, hn, hv⟩ hw => ?_, fun h => ?_,
    fun hu hd h => ⟨clockSkewDetection_kept hu hd h, ?_⟩, fun hu hd h => ⟨_, clockSkewDetection_skewed hu hd h, ?_⟩,
    fun h hn => if_pos (by simpa using ⟨h, hn⟩)⟩
  · unfold Completes
    rw [translationWalk_serves hu hc hn hv]
    split <;> exact ⟨_, rfl⟩
  · rw [translationWalk_serves hu hc hn hv]
    rcases hw with hw | hw <;> rw [hw]
  · rw [translationWalk_serves hu hc hn hv, hw]
  · refine translationExpiry_drops ?_
    rcases h with ⟨p, hp, t, ht, h⟩ | ⟨p, hp, t, ht, h⟩ | ⟨p, hp, t, ht, h⟩
    · exact dropExpired_ne_of_cu hp ht h
    · exact dropExpired_ne_of_cluster hp ht h
    · exact dropExpired_ne_of_walker hp ht h
  · exact floor_le_cuCycle_setCu s cu { s.cu cu with drift := drift, floor := s.cuCycle cu }
  · by_cases hc : cu < 96
    · rw [if_pos hc]
      obtain ⟨hcu, herrs, her, hmem, htlb, hents, hskew⟩ := skewed_cu s drift hc
      refine ⟨by rw [hcu]; rfl, by rw [hcu]; exact skewHeld_floor s cu drift, herrs, her, hmem,
        fun _ => ⟨by rw [hcu], htlb, hents, hskew⟩, fun h96 => absurd hc (by omega)⟩
    · rw [if_neg hc]
      obtain ⟨hcu, herrs, her, hmem, htlb, hents, hcrews⟩ := skewed_walker s drift hc
      exact ⟨by rw [hcu]; rfl, by rw [hcu]; exact skewHeld_floor s cu drift, herrs, her, hmem,
        fun h96 => absurd h96 hc, fun _ => ⟨htlb, hents, hcrews⟩⟩

end Sys2Proof.Machine
end

section
/-! Completions of the fabric, japp resends and context claims (14 R265 to R267, R273, R274, R276; 26 R387, R392, R393). -/
namespace Sys2Proof.Machine

/-! ## Stores and predicates -/

theorem sget?_sinsert_self {β : Type} {st : Store β} {k : Nat} (v : β) (h : sget? st k = none) :
    sget? (sinsert k v st) k = some v := by
  induction st with
  | nil => exact if_pos rfl
  | cons c r ih =>
    obtain ⟨a, b⟩ := c
    unfold sget? at h
    split at h
    · cases h
    · next hak =>
      unfold sinsert
      split
      · exact if_pos rfl
      · exact (if_neg hak).trans (ih h)

/-- A key has what was put there last. -/
theorem sget?_sput_self {β : Type} (st : Store β) (k : Nat) (v : β) : sget? (sput st k v) k = some v :=
  sget?_sinsert_self v (sget?_sdel_self st k)

/-- A predicate other than p0 reads what was written. -/
theorem pred_setPred_self (x : Strand) {p : BitVec 3} (b : Bool) (h : p ≠ 0#3) : (x.setPred p b).pred p = b := by
  have hp : p.toNat < 8 := p.isLt
  rw [Strand.setPred, if_neg h, Strand.pred, beq_false_of_ne h, Bool.false_or]
  cases b <;> simp [hp]

/-! ## An operation leaves the engine (R244, R266) -/

@[simp] theorem leaveEngine_ops (c : Crew) (o : AsyncOp) :
    (leaveEngine c o).ops = c.ops.filter fun x => decide (x.id ≠ o.id) := by
  unfold leaveEngine
  rw [post_ops]
  cases o.dstFe with
  | none => rfl
  | some p => exact congrArg (List.filter _) (setFe_ops ..)

@[simp] theorem leaveEngine_sc (c : Crew) (o : AsyncOp) : (leaveEngine c o).sc = c.sc := by
  unfold leaveEngine
  rw [post_sc]
  cases o.dstFe with
  | none => rfl
  | some p => exact setFe_sc ..

/-- A change of a crew's state that leaves its operations leaves every crew's. -/
theorem mapContext_ops {f : Crew → Crew} (hf : ∀ c, (f c).ops = c.ops) (s : State) (crew launch task n : Nat) :
    ((mapContext s crew launch task f).crew n).ops = (s.crew n).ops := by
  have hset : ((s.setCrew crew (f (s.crew crew))).crew n).ops = (s.crew n).ops := by
    by_cases h : n = crew
    · rw [h, crew_setCrew, hf]
    · rw [crew_setCrew_ne _ _ _ _ h]
  unfold mapContext
  cases (s.crew crew).ctx with
  | none => rfl
  | some x =>
    dsimp only
    split
    · exact hset
    · rfl

/-- BARRIER_OVERRUN leaves every crew's operations. -/
theorem notifyOverrun_ops (s : State) (crew launch task : Nat) (p : Word) (n : Nat) :
    ((notifyOverrun s crew launch task p).crew n).ops = (s.crew n).ops := by
  unfold notifyOverrun
  refine mapContext_ops (fun c => ?_) s crew launch task n
  rfl

/-- An arrival leaves every crew's operations. -/
theorem arriveAt_ops (s : State) (cu : Nat) (p : Word) (m n : Nat) :
    ((arriveAt s cu p m).crew n).ops = (s.crew n).ops := by
  unfold arriveAt arrive
  dsimp only
  split
  · rfl
  · split
    · rfl
    · split
      · rfl
      · split
        · exact notifyOverrun_ops ..
        · rfl

section
variable (s : State) (crew : Nat) (o : AsyncOp) (sd bar : Word) (n : Nat)

/-- An operation that ends leaves its crew's engine, and nothing else does. -/
theorem fabEnd_ops : ((fabEnd s crew o sd bar n).crew crew).ops = (s.crew crew).ops.filter fun x => decide (x.id ≠ o.id) := by
  unfold fabEnd
  dsimp only
  rw [crew_setCrew]
  refine (leaveEngine_ops ..).trans (congrArg (List.filter _) ?_)
  split
  · rfl
  · exact arriveAt_ops (dropWaiter (dropReads s crew o.id) (.op crew o.id)) (cuOf crew) bar n crew

/-- An operation that ends gives its value. -/
theorem fabEnd_sd (h : o.fields.sd ≠ 0#5) : ((fabEnd s crew o sd bar n).crew crew).sc.reg o.fields.sd = sd := by
  unfold fabEnd
  dsimp only
  rw [crew_setCrew, reg_setReg _ _ _ h]

end

/-! ## The steps of fabric operations (R265, R266) -/

section
variable {s : State} {crew op : Nat} {o : AsyncOp}

/-- A fabric operation that may take its next step. -/
def FabricRuns (s : State) (crew : Nat) (o : AsyncOp) : Prop :=
  o.held = none ∧ clockOk s (cuOf crew) = true ∧ faultOpen s crew o.id = false ∧ stopped (s.crew crew) o = false ∧
    8 ≤ o.opc ∧ entryBusy s o.window = false

variable (hf : (s.crew crew).ops.find? (fun x => x.id = op) = some o) (hr : FabricRuns s crew o)
include hf hr

/-- A step that its post does not hold back is performed. -/
theorem fabricOpCompletion_steps {s1 : State} (hs : fabricStep s crew o = .ok s1)
    (hp : postHeld s crew .c o.post o.after = false ∨ ∃ x ∈ (s1.crew crew).ops, x.id = o.id) :
    exec (.fabricOpCompletion crew op) s = .next s1 := by
  obtain ⟨hheld, hclock, hfault, hstop, hopc, hbusy⟩ := hr
  have hgate : postGate s crew o (.ok s1) = .ok s1 := by
    refine if_neg ?_
    rcases hp with hp | ⟨x, hx, hid⟩
    · simp [hp]
    · simp only [Bool.and_eq_true, Bool.not_eq_true', not_and, Bool.not_eq_false]
      exact fun _ => List.any_eq_true.mpr ⟨x, hx, beq_iff_eq.mpr hid⟩
  have hunit : fabricUnit s crew o = some (.ok s1) := by
    unfold fabricUnit
    rw [if_neg (by simp [hheld, hclock, hfault, hstop, hbusy]; omega), hs, hgate]
    rfl
  show execFabricOpCompletion crew op s = _
  unfold execFabricOpCompletion
  rw [hf]
  dsimp only
  rw [hunit]

/-- A step that ends the operation gives its value, and the operation leaves the engine. -/
theorem fabricOpCompletion_ends {u : State} {v bar : Word} {n : Nat} (hu : u.crews = s.crews)
    (hs : fabricStep s crew o = .ok (fabEnd u crew o v bar n)) (hp : postHeld s crew .c o.post o.after = false) :
    ∃ t, exec (.fabricOpCompletion crew op) s = .next t ∧
      (t.crew crew).ops = ((s.crew crew).ops.filter fun x => decide (x.id ≠ o.id)) ∧
      (o.fields.sd ≠ 0#5 → (t.crew crew).sc.reg o.fields.sd = v) :=
  ⟨_, fabricOpCompletion_steps hf hr hs (.inl hp), by rw [fabEnd_ops, crew_of_crews hu], fabEnd_sd u crew o v bar n⟩

end

section
variable {s : State} {crew : Nat} {o : AsyncOp}

theorem fabricStep_openEnds (ho : o.opc = 0x10) (hd : o.finished = true) : fabricStep s crew o = .ok (openLeave s crew o) := by
  rw [fabricStep, if_pos ho, if_pos hd]

theorem fabricStep_send (ho : o.opc = 0x18) : fabricStep s crew o = sendStep s crew o := by
  simp [fabricStep, ho]

theorem fabricStep_japp (ho : o.opc = 0x20) : fabricStep s crew o = jappStep s crew o := by
  simp [fabricStep, ho]

theorem fabricStep_jfetch (ho : o.opc = 0x22) : fabricStep s crew o = jfetchStep s crew o := by
  simp [fabricStep, ho]

/-- A japp that every member has answered ends. -/
theorem jappStep_ends (hs : o.sent = true) (hp : 2 ≤ o.phase) (hw : opSending s crew o.id = false) :
    jappStep s crew o = .ok (fabEnd s crew o (BitVec.ofNat 64 o.pos) 0#64 0) := by
  rw [jappStep, if_neg (by simp [hs]), if_neg (by omega), if_neg (by omega), if_neg (by simp [hw])]

/-- A send whose data is acknowledged ends with status 0. -/
theorem sendStep_ends {w : Win} (hl : sendLost s o = some w) (hp : 3 ≤ o.phase) (hw : opSending s crew o.id = false) :
    sendStep s crew o = .ok (fabEnd s crew o (fabWord 0 0) (dReg o.regs 5) (dReg o.regs 4).toNat) := by
  rw [sendStep, hl]
  dsimp only
  rw [if_neg (by omega), if_neg (by omega), if_neg (by omega), if_neg (by simp [hw])]

/-- A jfetch whose entries have been applied ends with its status and their number. -/
theorem jfetchStep_ends {w : Win} (he : winEntry s o.window = some w) (hp : o.phase = 2) :
    jfetchStep s crew o = .ok (fabEnd s crew o (fabWord o.status o.count) 0#64 0) := by
  rw [jfetchStep, he]
  exact if_pos hp

/-- A jfetch whose window entry is gone ends with status 2. -/
theorem jfetchStep_gone (he : winEntry s o.window = none) :
    jfetchStep s crew o = .ok (fabEnd s crew o (fabWord 2 0) 0#64 0) := by
  rw [jfetchStep, he]

end

/-! ## What sending leaves (26 R386, R387) -/

/-- Error records, ports, counters, the outbox, the inbox and waits for answers are all that differ: the crews, the
contexts and the arbiter are as before, and so is what every post covers. -/
structure SendsOnly (s t : State) : Prop where
  crews : t.crews = s.crews
  redCtxs : t.redCtxs = s.redCtxs
  stagingUsed : t.stagingUsed = s.stagingUsed
  arbLast : t.arbLast = s.arbLast
  arbNext : t.arbNext = s.arbNext
  posts : ∀ crew k post after, postHeld t crew k post after = postHeld s crew k post after

theorem SendsOnly.refl (s : State) : SendsOnly s s := ⟨rfl, rfl, rfl, rfl, rfl, fun _ _ _ _ => rfl⟩

theorem SendsOnly.trans {s t u : State} (h : SendsOnly s t) (g : SendsOnly t u) : SendsOnly s u :=
  ⟨g.crews.trans h.crews, g.redCtxs.trans h.redCtxs, g.stagingUsed.trans h.stagingUsed, g.arbLast.trans h.arbLast,
    g.arbNext.trans h.arbNext, fun _ _ _ _ => (g.posts ..).trans (h.posts ..)⟩

/-- Steps that only send, one after the other. -/
theorem SendsOnly.foldl {α : Type} {f : State → α → State} (h : ∀ s a, SendsOnly s (f s a)) (l : List α) (s : State) :
    SendsOnly s (l.foldl f s) := by
  induction l generalizing s with
  | nil => exact .refl s
  | cons a l ih => exact (h s a).trans (ih (f s a))

theorem raiseMsi_sends (s : State) (fn v : Nat) : SendsOnly s (raiseMsi s fn v) := by
  unfold raiseMsi
  split
  · exact ⟨rfl, rfl, rfl, rfl, rfl, fun _ _ _ _ => rfl⟩
  · exact .refl s

theorem errWritten_sends (s : State) (e : ErrRec) (rest : List ErrRec) : SendsOnly s (errWritten s e rest) :=
  ⟨rfl, rfl, rfl, rfl, rfl, fun _ _ _ _ => rfl⟩

theorem drainErrs_sends (n : Nat) (s : State) : SendsOnly s (drainErrs n s) := by
  induction n generalizing s with
  | zero => exact .refl s
  | succ n ih =>
    match he : s.errs, hr : s.er.hasRoom with
    | _, false => rw [drainErrs_waits hr]; exact .refl s
    | [], true => rw [drainErrs_nil he]; exact .refl s
    | e :: rest, true =>
      rw [drainErrs_writes he hr]
      exact ((errWritten_sends s e rest).trans (raiseMsi_sends ..)).trans (ih _)

theorem pushErr_sends (s : State) (kind unit fn crew pa : Nat) : SendsOnly s (pushErr s kind unit fn crew pa) :=
  SendsOnly.trans (t := { s with errs := s.errs ++ [_] }) ⟨rfl, rfl, rfl, rfl, rfl, fun _ _ _ _ => rfl⟩
    (drainErrs_sends 1 _)

theorem countFor_sends (s : State) (tn k n : Nat) : SendsOnly s (countFor s tn k n) := by
  obtain ⟨ts, h⟩ := countFor_tenants s tn k n
  rw [h]
  exact ⟨rfl, rfl, rfl, rfl, rfl, fun _ _ _ _ => rfl⟩

theorem putOut_sends (s : State) (m : Msg) : SendsOnly s (putOut s m).1 := by
  unfold putOut
  split <;> exact ⟨rfl, rfl, rfl, rfl, rfl, fun _ _ _ _ => rfl⟩

/-- A wait that is no strand's own access is covered by no post. -/
theorem sendMsg_sends (s : State) {w : RemoteWait} (h : w.by_ = none) : SendsOnly s (sendMsg s w) := by
  obtain ⟨hcrews, hctxs, hstaging, hlast, hnext, hposts⟩ :=
    putOut_sends { s with remoteSeq := s.remoteSeq + 1 } { w.msg with tag := s.remoteSeq }
  refine ⟨hcrews, hctxs, hstaging, hlast, hnext, fun crew k post after => ?_⟩
  refine Eq.trans ?_ (hposts crew k post after)
  simp [sendMsg, postHeld, h]

theorem addChunk_sends (s : State) (c : Chunk) : SendsOnly s (addChunk s c) := by
  unfold addChunk
  split
  · exact .refl s
  · exact ⟨rfl, rfl, rfl, rfl, rfl, fun _ _ _ _ => rfl⟩

theorem chunkTo_sends (crew : Nat) (op : Option Nat) (w : Win) (kind : Nat) (c : Chunk) (s : State) (x : Nat) :
    SendsOnly s (chunkTo crew op w kind c s x) := by
  unfold chunkTo
  split
  · exact pushErr_sends ..
  · exact (countFor_sends ..).trans (sendMsg_sends _ rfl)

theorem chunkToAll_sends (crew : Nat) (op : Option Nat) (w : Win) (c : Chunk) (s : State) :
    SendsOnly s (chunkToAll crew op w c s) := by
  refine SendsOnly.foldl (fun s x => ?_) (List.range w.members) s
  split
  · exact addChunk_sends s c
  · exact chunkTo_sends ..

/-! ## JAPP_RESEND (26 R387) -/

section
variable (crew : Nat) (o : AsyncOp) (ranks : List Nat)

/-- A message of an operation that waits for its answer. -/
def isWaitOf (r : RemoteWait) : Bool := r.crew == crew && r.op == some o.id

theorem isWaitOf_iff (r : RemoteWait) : isWaitOf crew o r = true ↔ r.crew = crew ∧ r.op = some o.id := by
  simp [isWaitOf]

/-- What a resend does with one message that waits: ranks are the members that the driver has left in the window. -/
def resendOne (s : State) (r : RemoteWait) : State :=
  if !isWaitOf crew o r then s
  else if !ranks.contains r.msg.dst then dropTag s r.tag
  else if rankLost s r.msg.dst then pushErr s 3 4 (s.crew crew).tenant crew 0
  else
    let q := putOut s r.msg
    { q.1 with
      outbox := q.1.outbox ++ [q.2]
      remote := q.1.remote.map fun x => if x.tag = r.tag then { x with msg := q.2 } else x }

theorem resendOne_crews (s : State) (r : RemoteWait) : (resendOne crew o ranks s r).crews = s.crews := by
  unfold resendOne
  split
  · rfl
  · split
    · rfl
    · split
      · exact (pushErr_sends ..).crews
      · exact (putOut_sends s r.msg).crews

theorem resendOnes_crews (l : List RemoteWait) (s : State) : (l.foldl (resendOne crew o ranks) s).crews = s.crews :=
  foldl_keeps _ State.crews (resendOne_crews crew o ranks) l s

/-- Where no member that an operation waits for is left, its messages of the list are dropped. -/
theorem resendOnes_drop {l : List RemoteWait} (h : ∀ r ∈ l, isWaitOf crew o r = true → r.msg.dst ∉ ranks) (s : State)
    {x : RemoteWait} (hx : x ∈ (l.foldl (resendOne crew o ranks) s).remote) :
    x ∈ s.remote ∧ ∀ r ∈ l, isWaitOf crew o r = true → x.tag ≠ r.tag := by
  induction l generalizing s with
  | nil => exact ⟨hx, fun r hr => absurd hr List.not_mem_nil⟩
  | cons a l ih =>
    obtain ⟨hm, ht⟩ := ih (fun r hr => h r (List.mem_cons_of_mem a hr)) _ hx
    by_cases ha : isWaitOf crew o a = true
    · have hone : resendOne crew o ranks s a = dropTag s a.tag := by
        rw [resendOne, if_neg (by simp [ha]), if_pos (by simp [h a List.mem_cons_self ha])]
      rw [hone] at hm
      obtain ⟨hin, hne⟩ := List.mem_filter.mp hm
      exact ⟨hin, List.forall_mem_cons.mpr ⟨fun _ => of_decide_eq_true hne, ht⟩⟩
    · have hone : resendOne crew o ranks s a = s := if_pos (by simp [ha])
      rw [hone] at hm
      exact ⟨hm, List.forall_mem_cons.mpr ⟨fun hw => absurd hw ha, ht⟩⟩

end

section
variable {s : State} {crew op : Nat} {o : AsyncOp}

theorem jappResend_sends (hf : (s.crew crew).ops.find? (fun x => decide (x.id = op) && decide (x.opc = 0x20)) = some o)
    (hs : o.sent = true) (hat : o.sentAt + 2 ^ 20 ≤ s.cycle) (hw : ∃ r ∈ s.remote, r.crew = crew ∧ r.op = some o.id) :
    exec (.jappResend crew op) s = .next ((s.remote.foldl
      (resendOne crew o ((winEntry s o.window).elim [] (winRanks s))) s).setOp crew { o with sentAt := s.cycle }) := by
  obtain ⟨r, hr, hm⟩ := hw
  have hany : s.remote.any (isWaitOf crew o) = true := List.any_eq_true.mpr ⟨r, hr, (isWaitOf_iff crew o r).mpr hm⟩
  show execJappResend crew op s = _
  unfold execJappResend
  rw [hf]
  refine if_neg ?_
  change ¬ (!o.sent || decide (s.cycle < o.sentAt + 2 ^ 20) || !s.remote.any (isWaitOf crew o)) = true
  rw [hany, hs, decide_eq_false (by omega)]
  exact Bool.false_ne_true

end

end Sys2Proof.Machine
end

section
/-! Context claims and the fabric's completions settled (14 R267, R273, R274, R276; 26 R387, R392, R393). -/
namespace Sys2Proof.Machine

/-! ## A claim is decided (14 R267) -/

/-- An operation that has been replaced leaves as it would have left before. -/
theorem setOp_leaves (l : List AsyncOp) (o : AsyncOp) :
    (l.map fun x => if x.id = o.id then o else x).filter (fun x => decide (x.id ≠ o.id)) =
      l.filter fun x => decide (x.id ≠ o.id) := by
  induction l with
  | nil => rfl
  | cons x l ih =>
    by_cases h : x.id = o.id
    · simpa [h] using ih
    · simpa [h] using ih

section
variable (u : State) (crew : Nat) (o : AsyncOp) (pd : Bool) (v : Word)

/-- A decision changes nothing but the claiming crew. -/
theorem openEnd_crews : ∃ crews, openEnd u crew o pd v = { u with crews := crews } := by
  unfold openEnd
  dsimp only
  split
  · exact ⟨_, rfl⟩
  · exact ⟨_, rfl⟩

/-- The decided coll.open stays while its post covers something, and leaves the engine otherwise. -/
theorem openEnd_ops : ((openEnd u crew o pd v).crew crew).ops =
    if postHeld u crew .c o.post o.after then
      (u.crew crew).ops.map fun x => if x.id = o.id then { o with finished := true } else x
    else (u.crew crew).ops.filter fun x => decide (x.id ≠ o.id) := by
  unfold openEnd
  dsimp only
  split
  · rw [crew_setCrew]
    rfl
  · rw [openLeave, crew_setCrew, crew_setCrew, leaveEngine_ops]
    exact setOp_leaves (u.crew crew).ops { o with finished := true }

/-- The decision's strand: sd and pd are written. -/
theorem openEnd_sc : ((openEnd u crew o pd v).crew crew).sc =
    ((u.crew crew).sc.setReg o.fields.sd v).setPred o.fields.pd pd := by
  unfold openEnd
  dsimp only
  split
  · rw [crew_setCrew]
    rfl
  · rw [openLeave, crew_setCrew, crew_setCrew, leaveEngine_sc]
    rfl

end

section
variable {s : State} {k : Claim} {o : AsyncOp}

/-- The state without a claim, once the arbiter has served it. -/
def claimed (s : State) (k : Claim) : State :=
  { s with
    claims := s.claims.filter fun x => !(x.crew == k.crew && x.op == k.op)
    arbNext := s.cycle + 1 }

/-- The outcome of a claim: its coll.open, sd and pd, the arbiter's next cycle, and nothing taken where it is refused. -/
def Opened (s : State) (k : Claim) (o : AsyncOp) (pd : Bool) (v : Word) (t : State) : Prop :=
  t.arbNext = s.cycle + 1 ∧
    (t.crew k.crew).ops = (if postHeld s k.crew .c o.post o.after then
        (s.crew k.crew).ops.map fun x => if x.id = o.id then { o with finished := true } else x
      else (s.crew k.crew).ops.filter fun x => decide (x.id ≠ o.id)) ∧
    (o.fields.sd ≠ 0#5 → (t.crew k.crew).sc.reg o.fields.sd = v) ∧
    (o.fields.pd ≠ 0#3 → (t.crew k.crew).sc.pred o.fields.pd = pd) ∧
    (pd = false → t.redCtxs = s.redCtxs ∧ t.stagingUsed = s.stagingUsed)

/-- A decision taken in a state whose crews and posts are those of the claim. -/
theorem openEnd_opened {u : State} {pd : Bool} (hn : u.arbNext = s.cycle + 1) (hc : u.crews = s.crews)
    (hp : postHeld u k.crew .c o.post o.after = postHeld s k.crew .c o.post o.after)
    (hr : pd = false → u.redCtxs = s.redCtxs ∧ u.stagingUsed = s.stagingUsed) (v : Word) :
    Opened s k o pd v (openEnd u k.crew o pd v) := by
  obtain ⟨crews, he⟩ := openEnd_crews u k.crew o pd v
  refine ⟨by rw [he]; exact hn, ?_, fun h => ?_, fun h => ?_, fun h => by rw [he]; exact hr h⟩
  · rw [openEnd_ops, crew_of_crews hc, hp]
  · rw [openEnd_sc, reg_setPred, reg_setReg _ _ _ h]
  · rw [openEnd_sc, pred_setPred_self _ _ h]

/-- A request that is refused leaves the contexts and the staging pool. -/
theorem openEnd_refuses (s : State) (k : Claim) (o : AsyncOp) (v : Word) :
    Opened s k o false v (openEnd (claimed s k) k.crew o false v) :=
  openEnd_opened rfl rfl rfl (fun _ => ⟨rfl, rfl⟩) v

/-- The context that a granted claim takes. -/
def grantedCtx (s : State) (crew : Nat) (o : AsyncOp) (staging tenant : Nat) : RedCtx :=
  let own := ownerOf (s.crew crew)
  { crew
    launch := own.1
    task := own.2
    tenant
    window := o.window
    group := o.group
    inst := sget 0 s.opens o.group
    alg := (dReg o.regs 1).bits 35 32
    maxBytes := (dReg o.regs 1).bits 31 0
    staging
    ranks := (winEntry s o.window).elim [] (winRanks s) }

/-- The state with a context at handle h, before the notice to the members. -/
def withContext (s : State) (crew : Nat) (o : AsyncOp) (h staging tenant : Nat) : State :=
  { s with
    redCtxs := sput s.redCtxs h (grantedCtx s crew o staging tenant)
    stagingUsed := s.stagingUsed + staging
    arbLast := tenant
    opens := sput s.opens o.group (sget 0 s.opens o.group + 1) }

/-- The notice to the members only sends. -/
theorem grantContext_sends (s : State) (crew : Nat) (o : AsyncOp) (h staging tenant : Nat) :
    SendsOnly (withContext s crew o h staging tenant) (grantContext s crew o h staging tenant) := by
  unfold grantContext
  dsimp only
  split
  · exact chunkToAll_sends ..
  · exact addChunk_sends ..

/-- A request that is granted: a context at the handle, its staging, and the rotation. -/
theorem openEnd_grants (s : State) (k : Claim) (o : AsyncOp) (h staging : Nat) :
    let t := openEnd (grantContext (claimed s k) k.crew o h staging k.tenant) k.crew o true (BitVec.ofNat 64 h)
    Opened s k o true (BitVec.ofNat 64 h) t ∧
      sget? t.redCtxs h = some (grantedCtx (claimed s k) k.crew o staging k.tenant) ∧
      t.stagingUsed = s.stagingUsed + staging ∧ t.arbLast = k.tenant := by
  obtain ⟨hcrews, hctxs, hstaging, hlast, hnext, hposts⟩ := grantContext_sends (claimed s k) k.crew o h staging k.tenant
  obtain ⟨crews, he⟩ := openEnd_crews (grantContext (claimed s k) k.crew o h staging k.tenant) k.crew o true
    (BitVec.ofNat 64 h)
  refine ⟨openEnd_opened (pd := true) hnext hcrews (hposts ..) (fun h => nomatch h) _, ?_,
    by rw [he]; exact hstaging, by rw [he]; exact hlast⟩
  rw [he]
  exact (congrArg (sget? · h) hctxs).trans (sget?_sput_self ..)

end

section
variable {s : State} {k : Claim} {o : AsyncOp} (hk : nextClaim s = some k)
include hk

/-- A claim whose operation is gone is dropped. -/
theorem reductionContextClaim_drops (hf : (s.crew k.crew).ops.find? (fun x => x.id = k.op) = none) :
    exec .reductionContextClaim s =
      .next { s with claims := s.claims.filter fun x => !(x.crew == k.crew && x.op == k.op) } := by
  show execReductionContextClaim s = _
  unfold execReductionContextClaim
  rw [hk]
  dsimp only
  rw [hf]

variable (hf : (s.crew k.crew).ops.find? (fun x => x.id = k.op) = some o) (hn : s.arbNext ≤ s.cycle)
include hf hn

/-- In a cycle in which it has not answered yet the arbiter decides the next claim. -/
theorem reductionContextClaim_decides : exec .reductionContextClaim s = .next (decideClaim (claimed s k) k o) := by
  show execReductionContextClaim s = _
  unfold execReductionContextClaim
  rw [hk]
  dsimp only
  rw [hf]
  exact if_neg (by omega)

/-- Without a free handle the answer is status 8. -/
theorem reductionContextClaim_noHandle (hh : freeHandle s = none) :
    exec .reductionContextClaim s = .next (openEnd (claimed s k) k.crew o false (fabWord 8 0)) := by
  have hh : freeHandle (claimed s k) = none := hh
  rw [reductionContextClaim_decides hk hf hn, decideClaim, hh]

variable {h : Nat} (hh : freeHandle s = some h)
include hh

/-- A tenant that holds as many contexts as it may is answered status 8. -/
theorem reductionContextClaim_capped (hm : min 64 (s.tenant k.tenant).cap ≤ heldContexts s k.tenant) :
    exec .reductionContextClaim s = .next (openEnd (claimed s k) k.crew o false (fabWord 8 0)) := by
  have hh : freeHandle (claimed s k) = some h := hh
  rw [reductionContextClaim_decides hk hf hn, decideClaim, hh]
  exact congrArg _ (if_pos hm)

/-- The staging that the claim asks for. -/
def askedStaging (o : AsyncOp) : Nat := stagingOf o.members o.self ((dReg o.regs 1).bits 35 32) ((dReg o.regs 1).bits 31 0)

variable (hm : heldContexts s k.tenant < min 64 (s.tenant k.tenant).cap)
include hm

/-- Without room in the staging pool the answer is status 9. -/
theorem reductionContextClaim_noRoom (hp : poolBytes s < s.stagingUsed + askedStaging o) :
    exec .reductionContextClaim s = .next (openEnd (claimed s k) k.crew o false (fabWord 9 0)) := by
  have hh : freeHandle (claimed s k) = some h := hh
  rw [reductionContextClaim_decides hk hf hn, decideClaim, hh]
  exact congrArg _ ((if_neg (Nat.not_le.mpr hm)).trans (if_pos hp))

/-- Otherwise the claim is granted. -/
theorem reductionContextClaim_grants (hp : s.stagingUsed + askedStaging o ≤ poolBytes s) :
    exec .reductionContextClaim s = .next (openEnd (grantContext (claimed s k) k.crew o h (askedStaging o) k.tenant)
      k.crew o true (BitVec.ofNat 64 h)) := by
  have hh : freeHandle (claimed s k) = some h := hh
  rw [reductionContextClaim_decides hk hf hn, decideClaim, hh]
  exact congrArg _ ((if_neg (Nat.not_le.mpr hm)).trans (if_neg (Nat.not_lt.mpr hp)))

end

/-! ## The obligation -/

/-- Settles O60: completions by the step that ends each operation, resends by `resendOnes_drop`, claims by what a
decision leaves (`openEnd_opened`). -/
theorem fabricCompletions : Obligations.FabricCompletions := by
  intro s s1 crew op o k
  dsimp only
  refine ⟨fun hf hr hs hp => fabricOpCompletion_steps hf hr hs hp, fun hf hr hp ho hd => ?_, fun hf hr hp ho hs hph hw => ?_,
    fun w hf hr hp ho hph hl hw => ?_, fun w hf hr hp ho hph he => ?_, fun hf hr hp ho he => ?_, fun hf hs hat hw => ?_,
    fun hk hf => reductionContextClaim_drops hk hf, fun hk hf hn => ⟨fun hh => ?_, fun h hh hm => ?_, fun h hh hm =>
      ⟨fun hp => ?_, fun hp => ?_⟩⟩⟩
  · refine ⟨_, fabricOpCompletion_steps hf hr (fabricStep_openEnds ho hd) (.inl hp), ?_, rfl⟩
    rw [openLeave, crew_setCrew, leaveEngine_ops]
  · exact fabricOpCompletion_ends hf hr rfl ((fabricStep_japp ho).trans (jappStep_ends hs hph hw)) hp
  · exact fabricOpCompletion_ends hf hr rfl ((fabricStep_send ho).trans (sendStep_ends hl hph hw)) hp
  · exact fabricOpCompletion_ends hf hr rfl ((fabricStep_jfetch ho).trans (jfetchStep_ends he hph)) hp
  · exact fabricOpCompletion_ends hf hr rfl ((fabricStep_jfetch ho).trans (jfetchStep_gone he)) hp
  · refine ⟨_, jappResend_sends hf hs hat hw, ?_, fun hgone r hr hmine => ?_⟩
    · rw [State.setOp, crew_setCrew, crew_of_crews (resendOnes_crews crew o _ s.remote s)]
      rfl
    · obtain ⟨hin, hne⟩ := resendOnes_drop crew o _ (fun r hr hw => hgone r hr ((isWaitOf_iff crew o r).mp hw)) s hr
      exact hne r hin ((isWaitOf_iff crew o r).mpr hmine) rfl
  · exact ⟨_, reductionContextClaim_noHandle hk hf hn hh, openEnd_refuses s k o (fabWord 8 0)⟩
  · exact ⟨_, reductionContextClaim_capped hk hf hn hh hm, openEnd_refuses s k o (fabWord 8 0)⟩
  · exact ⟨_, reductionContextClaim_noRoom hk hf hn hh hm hp, openEnd_refuses s k o (fabWord 9 0)⟩
  · obtain ⟨hopened, hctx, hstaging, hlast⟩ := openEnd_grants s k o h (askedStaging o)
    have hx := reductionContextClaim_grants hk hf hn hh hm hp
    exact ⟨⟨_, hx, hopened⟩, _, _, hx, hctx, rfl, rfl, rfl, hstaging, hlast⟩

end Sys2Proof.Machine
end

section
/-! Scalar arithmetic: register-register forms, division, immediates and bit counts (10 R163 to R165). -/
namespace Sys2Proof.Machine

variable {i : Instr} {ks : List StrandKind} {p : BitVec 4} {off : Bool} {s u : State} {n : Nat} {body : Body}

/-! ## How an instruction that executes ends -/

/-- An instruction that executes and whose body goes on completes, with the issue slots that it takes. -/
theorem issue_endsIn_slots (hi : Issues s i) (hk : strandKinds i = ks) (hp : predField i = p)
    (hx : exec i s = issue i ks p off body s n) (hb : body s = .ok (u, none)) : EndsIn i s u n := by
  unfold EndsIn
  rw [hx, issue_finishes off hi hk hp, hb, finish_retire]

/-- An instruction that executes and whose body transfers control does so. -/
theorem issue_transfers {t : Word} (hi : Issues s i) (hk : strandKinds i = ks) (hp : predField i = p)
    (hx : exec i s = issue i ks p off body s n) (hb : body s = .ok (u, some t)) : exec i s = .next (transfer t u) := by
  rw [hx, issue_finishes off hi hk hp, hb, finish_transfer]

/-- An instruction that executes traps where its body does. -/
theorem issue_traps {c : Nat} {v : Word} (hi : Issues s i) (hk : strandKinds i = ks) (hp : predField i = p)
    (hx : exec i s = issue i ks p off body s n) (hb : body s = .error (.trap c v)) : Traps i s c v := by
  unfold Traps
  rw [hx, issue_finishes off hi hk hp, hb, finish_trap]

/-- An instruction that executes waits where its body does. -/
theorem issue_waits {q : Nat} (hi : Issues s i) (hk : strandKinds i = ks) (hp : predField i = p)
    (hx : exec i s = issue i ks p off body s n) (hb : body s = .error (.wait q u)) : Waits i s q u := by
  unfold Waits
  rw [hx, issue_finishes off hi hk hp, hb, finish_wait]

/-! ## Values of the register-register forms (R163) -/

section
variable (a b : Word) (k : Nat)

theorem sub_eq_ofInt : a - b = BitVec.ofInt 64 (a.toInt - b.toInt) := by
  rw [Int.sub_eq_add_neg, BitVec.ofInt_add, BitVec.ofInt_neg, BitVec.ofInt_toInt, BitVec.ofInt_toInt, BitVec.sub_eq_add_neg]

theorem shiftLeft_eq_ofNat : a <<< k = BitVec.ofNat 64 (a.toNat * 2 ^ k) := by
  apply BitVec.eq_of_toNat_eq
  rw [BitVec.toNat_shiftLeft, BitVec.toNat_ofNat, Nat.shiftLeft_eq]

theorem shiftRight_eq_ofNat : a >>> k = BitVec.ofNat 64 (a.toNat / 2 ^ k) := by
  rw [← Nat.shiftRight_eq_div_pow, ← BitVec.toNat_ushiftRight, BitVec.ofNat_toNat, BitVec.setWidth_eq]

theorem sraWord_eq_ofInt : sraWord a k = BitVec.ofInt 64 (a.toInt / 2 ^ k) := by
  have h : a.toInt / 2 ^ k = (a.sshiftRight k).toInt := by
    rw [BitVec.toInt_sshiftRight, Int.shiftRight_eq_div_pow]
    push_cast
    rfl
  rw [h, BitVec.ofInt_toInt, sraWord]

theorem mul_eq_ofNat : a * b = BitVec.ofNat 64 (a.toNat * b.toNat) := by
  rw [BitVec.ofNat_mul]
  simp

theorem signedMin_eq_ofInt : (if b.slt a then b else a) = BitVec.ofInt 64 (min a.toInt b.toInt) := by
  rw [BitVec.slt_eq_decide, min_comm, min_def_lt]
  simp only [decide_eq_true_eq, apply_ite (BitVec.ofInt 64), BitVec.ofInt_toInt]

theorem signedMax_eq_ofInt : (if a.slt b then b else a) = BitVec.ofInt 64 (max a.toInt b.toInt) := by
  rw [BitVec.slt_eq_decide, max_def_lt]
  simp only [decide_eq_true_eq, apply_ite (BitVec.ofInt 64), BitVec.ofInt_toInt]

theorem unsignedMin_eq_ofNat : (if b.ult a then b else a) = BitVec.ofNat 64 (min a.toNat b.toNat) := by
  rw [BitVec.ult_eq_decide, min_comm, min_def_lt]
  simp only [decide_eq_true_eq, apply_ite (BitVec.ofNat 64), BitVec.ofNat_toNat, BitVec.setWidth_eq]

theorem unsignedMax_eq_ofNat : (if a.ult b then b else a) = BitVec.ofNat 64 (max a.toNat b.toNat) := by
  rw [BitVec.ult_eq_decide, max_def_lt]
  simp only [decide_eq_true_eq, apply_ite (BitVec.ofNat 64), BitVec.ofNat_toNat, BitVec.setWidth_eq]

end

/-! ## Register-register forms -/

/-- A body that changes the strand alone sets what it computes. -/
theorem pure_sets {f : Strand → Strand} {x : Strand} (hk : strandKinds i = ks) (hp : predField i = p)
    (hx : exec i s = issue i ks p off (pureBody f) s) (hf : f s.me = x) (hi : Issues s i) : EndsIn i s (s.setMe x) :=
  issue_endsIn_slots hi hk hp hx (by rw [pureBody, hf])

/-- A form that writes a value computed from its strand sets that value. -/
theorem value_sets {f : Strand → Word} {sd : BitVec 5} {w : Word} (hk : strandKinds i = ks) (hp : predField i = p)
    (hx : exec i s = issue i ks p off (pureBody fun x => x.setReg sd (f x)) s) (hf : f s.me = w) (hi : Issues s i) :
    SetsReg i s sd w :=
  pure_sets hk hp hx (by rw [hf]) hi

/-- Settles O1: each form sets what its function gives, which is the value of the table by its lemma above. -/
theorem aluResults : Obligations.AluResults := by
  intro s p sd sa sb
  have sets {i : Instr} {f : Word → Word → Word} {w : Word} (hk : strandKinds i = anyKind) (hp : predField i = p)
      (hx : exec i s = issue i anyKind p false (aluBody f sd sa sb) s) (hf : f (s.me.reg sa) (s.me.reg sb) = w)
      (hi : Issues s i) : SetsReg i s sd w :=
    value_sets (f := fun x => f (x.reg sa) (x.reg sb)) hk hp hx hf hi
  simp only [List.forall_mem_cons]
  exact ⟨sets rfl rfl rfl (by rw [BitVec.ofInt_add, BitVec.ofInt_toInt, BitVec.ofInt_toInt]),
    sets rfl rfl rfl (sub_eq_ofInt ..), sets rfl rfl rfl rfl, sets rfl rfl rfl rfl, sets rfl rfl rfl rfl,
    sets rfl rfl rfl (shiftLeft_eq_ofNat ..), sets rfl rfl rfl (shiftRight_eq_ofNat ..),
    sets rfl rfl rfl (sraWord_eq_ofInt ..), sets rfl rfl rfl (mul_eq_ofNat ..), sets rfl rfl rfl rfl,
    sets rfl rfl rfl rfl, sets rfl rfl rfl (signedMin_eq_ofInt ..), sets rfl rfl rfl (signedMax_eq_ofInt ..),
    sets rfl rfl rfl (unsignedMin_eq_ofNat ..), sets rfl rfl rfl (unsignedMax_eq_ofNat ..), List.forall_mem_nil _⟩

/-! ## Division (R164) -/

/-- A division form by its three cases: the quotient or remainder, the value for a zero divisor, and DIV0. -/
theorem div_results {f : Word → Word → Word} {sd sa sb : BitVec 5} {q z : Word} (hk : strandKinds i = anyKind)
    (hp : predField i = p) (hx : exec i s = issue i anyKind p false (divBody f sd sa sb) s divSlots)
    (hq : s.me.reg sb ≠ 0#64 → f (s.me.reg sa) (s.me.reg sb) = q)
    (hz : s.me.reg sb = 0#64 → f (s.me.reg sa) (s.me.reg sb) = z) (hi : Issues s i) :
    (s.me.reg sb ≠ 0#64 → SetsReg i s sd q 20) ∧ (s.me.reg sb = 0#64 → s.me.div0 = false → SetsReg i s sd z 20) ∧
      (s.me.reg sb = 0#64 → s.me.div0 = true → Traps i s cDiv0 (s.me.reg sa)) := by
  refine ⟨fun hb => ?_, fun hb hd => ?_, fun hb hd => issue_traps hi hk hp hx (if_pos ⟨hb, hd⟩)⟩
  · exact issue_endsIn_slots hi hk hp hx ((if_neg fun h => hb h.1).trans (by rw [hq hb]))
  · exact issue_endsIn_slots hi hk hp hx ((if_neg (by simp [hd])).trans (by rw [hz hb]))

theorem div_eq_ofNat (a b : Word) : a / b = BitVec.ofNat 64 (a.toNat / b.toNat) := by
  rw [← BitVec.toNat_udiv, BitVec.ofNat_toNat, BitVec.setWidth_eq]

theorem mod_eq_ofNat (a b : Word) : a % b = BitVec.ofNat 64 (a.toNat % b.toNat) := by
  rw [← BitVec.toNat_umod, BitVec.ofNat_toNat, BitVec.setWidth_eq]

theorem divSigned_zero (a : Word) : divSigned a 0#64 = (BitVec.allOnes 64, a) := if_pos rfl

theorem divUnsigned_zero (a : Word) : divUnsigned a 0#64 = (BitVec.allOnes 64, a) := if_pos rfl

theorem divSigned_ne {a b : Word} (h : b ≠ 0#64) :
    divSigned a b = (BitVec.ofInt 64 (a.toInt.tdiv b.toInt), BitVec.ofInt 64 (a.toInt.tmod b.toInt)) := if_neg h

theorem divUnsigned_ne {a b : Word} (h : b ≠ 0#64) :
    divUnsigned a b = (BitVec.ofNat 64 (a.toNat / b.toNat), BitVec.ofNat 64 (a.toNat % b.toNat)) :=
  (if_neg h).trans (by rw [div_eq_ofNat, mod_eq_ofNat])

/-- Settles O2: each form by its three cases. -/
theorem divisionResults : Obligations.DivisionResults := by
  intro s p sd sa sb
  simp only [List.forall_mem_cons]
  exact ⟨div_results rfl rfl rfl (fun h => by rw [divSigned_ne h]) (fun h => by rw [h, divSigned_zero]),
    div_results rfl rfl rfl (fun h => by rw [divUnsigned_ne h]) (fun h => by rw [h, divUnsigned_zero]),
    div_results rfl rfl rfl (fun h => by rw [divSigned_ne h]) (fun h => by rw [h, divSigned_zero]),
    div_results rfl rfl rfl (fun h => by rw [divUnsigned_ne h]) (fun h => by rw [h, divUnsigned_zero]),
    List.forall_mem_nil _⟩

end Sys2Proof.Machine
end

section
/-! Immediates, wide constants, bit counts, compares and predicate logic (10 R163, R165, R167, R168). -/
namespace Sys2Proof.Machine

/-! ## Bit counts (R163) -/

/-- The leading zeros of a word: the bits from the top down to its highest one. -/
theorem clzWord_leads (a : Word) : clzWord a ≤ 64 ∧ (∀ k < clzWord a, a.getLsbD (63 - k) = false) ∧
    (clzWord a < 64 → a.getLsbD (63 - clzWord a) = true) := by
  unfold clzWord
  split
  · next h => simp [h]
  · next h =>
    have h0 : a.toNat ≠ 0 := fun h' => h (BitVec.eq_of_toNat_eq h')
    have hlog : a.toNat.log2 < 64 := (Nat.log2_lt h0).mpr a.isLt
    refine ⟨by omega, fun k hk => ?_, fun _ => ?_⟩
    · have hle : a.toNat.log2 + 1 ≤ 63 - k := by omega
      exact Nat.testBit_lt_two_pow (Nat.lt_of_lt_of_le Nat.lt_log2_self (Nat.pow_le_pow_right (by decide) hle))
    · rw [show 63 - (63 - a.toNat.log2) = a.toNat.log2 by omega]
      exact Nat.testBit_log2 h0

/-- The trailing zeros of a positive number below 2 ^ fuel: the bits from the lowest up to its lowest one. -/
theorem ctzNat_trails (fuel m : Nat) (h0 : m ≠ 0) (hm : m < 2 ^ fuel) :
    ctzNat fuel m < fuel ∧ (∀ k < ctzNat fuel m, m.testBit k = false) ∧ m.testBit (ctzNat fuel m) = true := by
  induction fuel generalizing m with
  | zero => omega
  | succ f ih =>
    unfold ctzNat
    split
    · next h => exact ⟨by omega, by simp, by simp [Nat.testBit_zero, h]⟩
    · next h =>
      rw [Nat.pow_succ] at hm
      obtain ⟨hlt, hz, ho⟩ := ih (m / 2) (by omega) (by omega)
      refine ⟨by omega, fun k hk => ?_, by rwa [Nat.add_comm, Nat.testBit_succ]⟩
      cases k with
      | zero => simp [Nat.testBit_zero, h]
      | succ j => rw [Nat.testBit_succ]; exact hz j (by omega)

/-- The trailing zeros of a word. -/
theorem ctzWord_trails (a : Word) : ctzWord a ≤ 64 ∧ (∀ k < ctzWord a, a.getLsbD k = false) ∧
    (ctzWord a < 64 → a.getLsbD (ctzWord a) = true) := by
  unfold ctzWord
  split
  · next h => simp [h]
  · next h =>
    obtain ⟨hlt, hz, ho⟩ := ctzNat_trails 64 a.toNat (fun h' => h (BitVec.eq_of_toNat_eq h')) a.isLt
    exact ⟨Nat.le_of_lt hlt, hz, fun _ => ho⟩

/-- The number of elements that pass is the sum of their truth values. -/
theorem length_filter_eq_sum {α : Type} (f : α → Bool) (l : List α) : (l.filter f).length = (l.map fun x => (f x).toNat).sum := by
  induction l with
  | nil => rfl
  | cons x r ih =>
    rw [List.filter_cons, List.map_cons, List.sum_cons, ← ih]
    cases f x <;> simp [Nat.add_comm]

/-- The one bits of a word, counted bit by bit. -/
theorem popWord_eq_sum (a : Word) : popWord a = ((List.range 64).map fun k => a.toNat / 2 ^ k % 2).sum := by
  rw [popWord, length_filter_eq_sum]
  congr 2
  funext k
  exact Nat.toNat_testBit a.toNat k

/-! ## Immediates (R165) -/

theorem lui_eq_ofInt (up : BitVec 21) : up.signExtend 64 <<< 16 = BitVec.ofInt 64 (up.toInt * 2 ^ 16) := by
  rw [BitVec.ofInt_mul, BitVec.shiftLeft_eq_mul_twoPow]
  rfl

/-- A high part above the low bits of a word. -/
theorem toNat_append_low {m k : Nat} (x : BitVec m) (a : Word) :
    (x ++ a.extractLsb' 0 k).toNat = x.toNat * 2 ^ k + a.toNat % 2 ^ k := by
  rw [BitVec.toNat_append, BitVec.extractLsb'_toNat, Nat.shiftRight_zero,
    ← Nat.shiftLeft_add_eq_or_of_lt (Nat.mod_lt _ (Nat.two_pow_pos k)), Nat.shiftLeft_eq]

theorem lih_eq_ofNat (w : BitVec 32) (a : Word) :
    w ++ a.extractLsb' 0 32 = BitVec.ofNat 64 (w.toNat * 2 ^ 32 + a.toNat % 2 ^ 32) := by
  rw [← toNat_append_low]
  exact (BitVec.ofNat_toNat 64 _).trans (BitVec.setWidth_eq _) |>.symm

/-- Settles O3: each immediate form sets what its function gives, each count what its lemma above says. -/
theorem immediatesAndCounts : Obligations.ImmediatesAndCounts := by
  refine ⟨fun s p sd sa imm n up w => ?_, fun s p sd sa => ⟨fun hi => ?_, fun hi => ?_, fun hi => ?_⟩⟩
  · have sets {i : Instr} {f : Word → Word} {v : Word} (hk : strandKinds i = anyKind) (hp : predField i = always)
        (hx : exec i s = issue i anyKind always false (immBody f sd sa) s) (hf : f (s.me.reg sa) = v)
        (hi : Issues s i) : SetsReg i s sd v :=
      value_sets (f := fun x => f (x.reg sa)) hk hp hx hf hi
    simp only [List.forall_mem_cons]
    exact ⟨sets rfl rfl rfl (by rw [BitVec.ofInt_add, BitVec.ofInt_toInt]; rfl), sets rfl rfl rfl rfl, sets rfl rfl rfl rfl,
      sets rfl rfl rfl rfl, sets rfl rfl rfl (shiftLeft_eq_ofNat ..), sets rfl rfl rfl (shiftRight_eq_ofNat ..),
      sets rfl rfl rfl (sraWord_eq_ofInt ..), value_sets rfl rfl rfl (lui_eq_ofInt up), value_sets rfl rfl rfl rfl,
      value_sets (f := fun x => w ++ (x.reg sd).extractLsb' 0 32) rfl rfl rfl (lih_eq_ofNat ..), List.forall_mem_nil _⟩
  · obtain ⟨hle, hz, ho⟩ := clzWord_leads (s.me.reg sa)
    exact ⟨clzWord (s.me.reg sa), hle, hz, ho, value_sets rfl rfl rfl rfl hi⟩
  · obtain ⟨hle, hz, ho⟩ := ctzWord_trails (s.me.reg sa)
    exact ⟨ctzWord (s.me.reg sa), hle, hz, ho, value_sets rfl rfl rfl rfl hi⟩
  · exact value_sets rfl rfl rfl (congrArg (BitVec.ofNat 64) (popWord_eq_sum (s.me.reg sa))) hi

/-! ## Compares (R167) -/

/-- The condition that a code of R155 names holds of two operands. -/
def CondTruth (cond : Nat) (a b : Word) : Prop :=
  match cond with
  | 0 => a = b
  | 1 => a ≠ b
  | 2 => a.toInt < b.toInt
  | 3 => b.toInt ≤ a.toInt
  | 4 => a.toNat < b.toNat
  | _ => b.toNat ≤ a.toNat

/-- A compare gives the truth of its condition. -/
theorem condHolds_iff (cond : Nat) (a b : Word) : condHolds cond a b = true ↔ CondTruth cond a b := by
  match cond with
  | 0 => exact beq_iff_eq
  | 1 => exact bne_iff_ne
  | 2 => exact BitVec.slt_iff_toInt_lt
  | 3 => simp [condHolds, CondTruth, BitVec.slt_eq_decide]
  | 4 => exact BitVec.ult_iff_toNat_lt
  | _ + 5 => simp [condHolds, CondTruth, BitVec.ult_eq_decide]

open Sys2Proof.Laws in
/-- A well-formed cmp decodes from its word, whatever word follows. -/
theorem decode_cmp (p : BitVec 4) (pd : BitVec 3) {cond : BitVec 4} (sa sb : BitVec 5) (hc : cond.toNat < 6) (w : W32) :
    decode (0x08#6 ++ p ++ pd ++ cond ++ sa ++ sb ++ 0#5) w = .ok (.cmp p pd cond sa sb) := by
  have hwf : (Instr.cmp p pd cond sa sb).wf = true := decide_eq_true (by omega)
  have hm : majorOf (0x08#6 ++ p ++ pd ++ cond ++ sa ++ sb ++ 0#5) = 0x08 := by
    simp (disch := decide) only [majorOf, fld, extract_hi, extract_all, Nat.reduceSub]
    rfl
  have hf : decodeFields (0x08#6 ++ p ++ pd ++ cond ++ sa ++ sb ++ 0#5) w = .ok (.cmp p pd cond sa sb) := by
    simp only [decodeFields, hm]
    simp (disch := decide) only [fld, extract_hi, extract_lo, extract_all, Nat.reduceSub]
    rfl
  simp only [decode, hf, hwf, if_true]

open Sys2Proof.Laws in
/-- A well-formed cmpi decodes from its word, whatever word follows. -/
theorem decode_cmpi (pd : BitVec 3) {cond : BitVec 4} (sa : BitVec 5) (imm : BitVec 14) (hc : cond.toNat < 6) (w : W32) :
    decode (0x09#6 ++ pd ++ cond ++ sa ++ imm) w = .ok (.cmpi pd cond sa imm) := by
  have hwf : (Instr.cmpi pd cond sa imm).wf = true := decide_eq_true (by omega)
  have hm : majorOf (0x09#6 ++ pd ++ cond ++ sa ++ imm) = 0x09 := by
    simp (disch := decide) only [majorOf, fld, extract_hi, extract_all, Nat.reduceSub]
    rfl
  have hf : decodeFields (0x09#6 ++ pd ++ cond ++ sa ++ imm) w = .ok (.cmpi pd cond sa imm) := by
    simp only [decodeFields, hm]
    simp (disch := decide) only [fld, extract_hi, extract_lo, extract_all, Nat.reduceSub]
  simp only [decode, hf, hwf, if_true]

/-- Settles O4: the words by the decoder, the predicate by `condHolds_iff`. -/
theorem compareResults : Obligations.CompareResults := by
  intro s p pd cond sa sb imm truth a hc
  exact ⟨fun w => ⟨decode_cmp p pd sa sb hc w, decode_cmpi pd sa imm hc w⟩,
    fun hi => ⟨_, condHolds_iff .., pure_sets rfl rfl rfl rfl hi⟩, fun hi => ⟨_, condHolds_iff .., pure_sets rfl rfl rfl rfl hi⟩⟩

/-- Settles O5: each form sets what its function code gives. -/
theorem predicateLogic : Obligations.PredicateLogic := by
  intro s p pd pa pb
  have sets {i : Instr} {fn : Nat} {b : Bool} (hk : strandKinds i = anyKind) (hp : predField i = p)
      (hx : exec i s = issue i anyKind p false (predBody fn pd pa pb) s) (hf : predLogic fn (s.me.pred pa) (s.me.pred pb) = b)
      (hi : Issues s i) : SetsPred i s pd b :=
    pure_sets hk hp hx (by rw [hf]) hi
  simp only [List.forall_mem_cons]
  exact ⟨sets rfl rfl rfl rfl, sets rfl rfl rfl rfl, sets rfl rfl rfl rfl, sets rfl rfl rfl rfl, sets rfl rfl rfl rfl,
    List.forall_mem_nil _⟩

end Sys2Proof.Machine
end

section
/-! Bank snapshots leave every strand as it is (07 R110 to R112): the accesses of the account change no crew, and the
account itself only what its crew counts. -/
namespace Sys2Proof.Machine

/-- Two states agree in the strand in focus and in every strand. -/
def SameStrands (s t : State) : Prop := t.cur = s.cur ∧ ∀ n k, t.strand n k = s.strand n k

/-- The state in which an access waits, or that its trap keeps, has the same strands. -/
def StopStrands (s : State) : Stop → Prop
  | .wait _ t => SameStrands s t
  | .xtrap _ _ t => SameStrands s t
  | _ => True

/-- Every state that an access answers has the same strands. -/
def ResStrands {α : Type} (s : State) : Res (State × α) → Prop
  | .ok r => SameStrands s r.1
  | .error e => StopStrands s e

variable {s t u : State}

theorem SameStrands.refl (s : State) : SameStrands s s := ⟨rfl, fun _ _ => rfl⟩

theorem SameStrands.trans (h : SameStrands s t) (g : SameStrands t u) : SameStrands s u :=
  ⟨g.1.trans h.1, fun n k => (g.2 n k).trans (h.2 n k)⟩

theorem SameStrands.me (h : SameStrands s t) : t.me = s.me := by
  have hm := h.2 s.cur.1 s.cur.2
  rw [State.me, State.myCrew, h.1]
  exact hm

/-- States with the same crews have the same strands. -/
theorem SameStrands.of_crews (hc : t.crews = s.crews) (hf : t.cur = s.cur) : SameStrands s t :=
  ⟨hf, fun n k => by rw [State.strand, State.strand, crew_of_crews hc]⟩

theorem SameCrews.sameStrands (h : SameCrews s t) : SameStrands s t := .of_crews h.2.1 h.2.2.1

/-- Another crew that keeps its four strands. -/
theorem SameStrands.setCrew {n : Nat} {c : Crew} (h : ∀ k, c.str k = s.strand n k) : SameStrands s (s.setCrew n c) := by
  refine ⟨rfl, fun m k => ?_⟩
  by_cases hm : m = n
  · subst hm
    rw [State.strand, crew_setCrew, h k]
  · rw [State.strand, State.strand, crew_setCrew_ne _ _ _ _ hm]

theorem SameStrands.foldl {α : Type} {f : State → α → State} (h : ∀ s a, SameStrands s (f s a)) (l : List α) (s : State) :
    SameStrands s (l.foldl f s) := by
  induction l generalizing s with
  | nil => exact .refl s
  | cons a l ih => exact (h s a).trans (ih (f s a))

theorem SameStrands.stop {e : Stop} (h : SameStrands s t) (g : StopStrands t e) : StopStrands s e := by
  cases e with
  | wait q u => exact h.trans g
  | xtrap c v u => exact h.trans g
  | trap c v => trivial
  | fault f => trivial

theorem ResStrands.trans {α : Type} {r : Res (State × α)} (h : SameStrands s t) (g : ResStrands t r) : ResStrands s r := by
  cases r with
  | ok r => exact SameStrands.trans h g
  | error e => exact SameStrands.stop h g

theorem ResStrands.of_ok {α : Type} {r : Res (State × α)} {x : α} (h : r = .ok (t, x)) (hr : ResStrands s r) :
    SameStrands s t := by
  rw [h] at hr
  exact hr

theorem ResStrands.of_error {α : Type} {r : Res (State × α)} {e : Stop} (h : r = .error e) (hr : ResStrands s r) :
    StopStrands s e := by
  rw [h] at hr
  exact hr

/-! ## Records and counters -/

theorem raiseMsi_strands (s : State) (fn v : Nat) : SameStrands s (raiseMsi s fn v) := by
  unfold raiseMsi
  split <;> exact .of_crews rfl rfl

theorem drainErrs_strands (n : Nat) (s : State) : SameStrands s (drainErrs n s) := by
  induction n generalizing s with
  | zero => exact .refl s
  | succ n ih =>
    match he : s.errs, hr : s.er.hasRoom with
    | _, false => rw [drainErrs_waits hr]; exact .refl s
    | [], true => rw [drainErrs_nil he]; exact .refl s
    | e :: rest, true =>
      rw [drainErrs_writes he hr]
      exact SameStrands.trans (t := errWritten s e rest) (.of_crews rfl rfl) ((raiseMsi_strands ..).trans (ih _))

theorem pushErr_strands (s : State) (kind unit fn crew pa : Nat) : SameStrands s (pushErr s kind unit fn crew pa) :=
  SameStrands.trans (t := { s with errs := s.errs ++ [_] }) (.of_crews rfl rfl) (drainErrs_strands 1 _)

theorem countFor_strands (s : State) (tn k n : Nat) : SameStrands s (countFor s tn k n) := (countFor_keeps ..).sameStrands

theorem countPlaces_strands (s : State) (tn : Nat) (st : Bool) (ps : List Place) : SameStrands s (countPlaces s tn st ps) :=
  (countPlaces_keeps ..).sameStrands

theorem drainFaults_strands (n : Nat) (s : State) : SameStrands s (drainFaults n s) := by
  induction n generalizing s with
  | zero => exact .refl s
  | succ n ih =>
    unfold drainFaults
    split
    · exact .refl s
    · split
      · refine SameStrands.trans ?_ (ih _)
        refine SameStrands.trans ?_ (countFor_strands ..)
        exact SameStrands.trans (.of_crews rfl rfl) (raiseMsi_strands ..)
      · exact .refl s

theorem joinFault_strands (s : State) (fn : Nat) (va : Word) (need : BitVec 3) (level kind pa ent frame start : Nat)
    (w : Waiter) : SameStrands s (joinFault s fn va need level kind pa ent frame start w) := by
  unfold joinFault
  split
  · exact .of_crews rfl rfl
  · dsimp only
    split
    · exact .of_crews rfl rfl
    · split
      · exact .of_crews rfl rfl
      · exact SameStrands.trans (.of_crews rfl rfl) (drainFaults_strands 1 _)

/-! ## Translation -/

theorem walked_strands (cu fn : Nat) (r : State × XAns) : SameStrands r.1 (walked cu fn r).1 := by
  unfold walked
  split
  · exact (cacheIn_keeps ..).sameStrands
  · exact pushErr_strands ..
  · exact .refl _

theorem walkIn_strands (s : State) (cu fn va : Nat) (need : BitVec 3) : SameStrands s (walkIn s cu fn va need).1 := by
  unfold walkIn
  split
  · exact .refl s
  · split
    · exact .refl s
    · dsimp only
      split
      · exact .refl s
      · exact ((countFor_strands ..).trans (cacheEnts_keeps ..).sameStrands).trans (walked_strands _ _ (_, _))

theorem xlate_strands (s : State) (cu fn va : Nat) (need : BitVec 3) (m : Nat) : SameStrands s (xlate s cu fn va need m).1 := by
  unfold xlate
  split
  · exact .refl s
  · split
    · exact (cacheIn_keeps ..).sameStrands
    · exact walkIn_strands ..

theorem agentAnswer_strands (a : Agent) (va : Word) (need : BitVec 3) (q : Nat) (r : State × XAns) :
    ResStrands r.1 (agentAnswer a va need q r) := by
  unfold agentAnswer
  split
  · split
    · trivial
    · exact .refl _
  · exact SameStrands.refl _
  · exact SameStrands.refl _
  · exact SameStrands.refl _
  · split
    · split
      · exact .refl _
      · trivial
    · exact joinFault_strands ..

theorem agentXlate_strands (a : Agent) (s : State) (va : Word) (need : BitVec 3) (q m : Nat) :
    ResStrands s (agentXlate a s va need q m) := by
  unfold agentXlate
  dsimp only
  split
  · next e he =>
    unfold agentHeld at he
    split at he
    · cases he
      split
      · trivial
      · exact .refl s
    · split at he <;> cases he
      exact .refl s
  · exact .trans (xlate_strands ..) (agentAnswer_strands a va need q _)

theorem pagePlaces_strands {a : Agent} {s : State} {t : Tlb} {va : Word} {c : Nat} {st : Bool} {e : Stop}
    (h : pagePlaces a s t va c st = .error e) : StopStrands s e := by
  unfold pagePlaces at h
  dsimp only at h
  split at h
  · cases h
    exact .refl s
  · split at h
    · cases h
      exact .refl s
    · split at h <;> cases h
      exact .refl s

theorem agentPlaces_strands (a : Agent) (need : BitVec 3) (q m fuel : Nat) (va : Word) (n : Nat) (s : State) :
    ResStrands s (agentPlaces a need q m fuel va n s) := by
  induction fuel generalizing va n s with
  | zero => exact SameStrands.refl s
  | succ f ih =>
    unfold agentPlaces
    split
    · exact SameStrands.refl s
    · split
      · exact SameStrands.refl s
      · dsimp only
        have hx := agentXlate_strands a s va need q m
        split
        · next he => exact hx.of_error he
        · next s1 t he =>
          have h1 := hx.of_ok he
          split
          · next hp => exact h1.stop (pagePlaces_strands hp)
          · split
            · next he => exact (ResStrands.trans h1 (ih _ _ _)).of_error he
            · next he => exact (ResStrands.trans h1 (ih _ _ _)).of_ok he

/-! ## Messages -/

theorem putOut_strands (s : State) (m : Msg) : SameStrands s (putOut s m).1 := by
  unfold putOut
  split <;> exact .of_crews rfl rfl

theorem sendMsg_strands (s : State) (w : RemoteWait) : SameStrands s (sendMsg s w) := by
  unfold sendMsg
  refine SameStrands.trans (t := (putOut { s with remoteSeq := s.remoteSeq + 1 } { w.msg with tag := s.remoteSeq }).1) ?_
    (.of_crews rfl rfl)
  exact SameStrands.trans (.of_crews rfl rfl) (putOut_strands ..)

theorem sendRemote_strands (s : State) (a : Sender) (w : Win) (dst : Nat) (nums : List Nat) (data : List Byte)
    (p : Option Place) : SameStrands s (sendRemote s a w dst nums data p) := by
  unfold sendRemote
  split
  · exact pushErr_strands ..
  · exact (countFor_strands s w.tenant 9 data.length).trans (sendMsg_strands ..)

theorem sendAsk_strands (a : Sender) (s : State) (r : Ask) : SameStrands s (sendAsk a s r) := by
  unfold sendAsk
  split
  · exact .refl s
  · exact sendRemote_strands ..

theorem storeWindow_strands (s : State) (a : Sender) (k : Nat) (bs : List Byte) : SameStrands s (storeWindow s a k bs) := by
  unfold storeWindow
  split
  · exact .refl s
  · refine SameStrands.foldl (fun s x => ?_) _ s
    split
    · split
      · exact SameStrands.trans (.of_crews rfl rfl) (countPlaces_strands ..)
      · exact pushErr_strands ..
    · exact sendRemote_strands ..

theorem storePlaces_strands (a : Sender) (ps : List Place) (bs : List Byte) (s : State) :
    SameStrands s (storePlaces a ps bs s) := by
  induction ps generalizing bs s with
  | nil => exact .refl s
  | cons p r ih =>
    refine SameStrands.trans ?_ (ih _ _)
    split
    · exact storeWindow_strands ..
    · exact .of_crews rfl rfl

theorem askFault_strands {s : State} {crew : Nat} {r : Ask} {f : Nat × State} (h : askFault s crew r = some f) :
    SameStrands s f.2 := by
  unfold askFault at h
  split at h
  · cases h
    exact .refl s
  · split at h <;> cases h
    exact pushErr_strands ..

theorem askRemote_strands (a : Agent) (s : State) (reqs : List (Ask × Word)) : ResStrands s (askRemote a s reqs) := by
  unfold askRemote
  dsimp only
  split
  · next h =>
    obtain ⟨r, -, hr⟩ := List.exists_of_findSome?_eq_some h
    obtain ⟨f, hf, hg⟩ := Option.map_eq_some_iff.1 hr
    cases hg
    exact askFault_strands hf
  · split
    · trivial
    · split
      · split
        · exact SameStrands.foldl (fun s (r : Ask × Word) => sendAsk_strands _ s r.1) _ s
        · exact SameStrands.refl s
      · split <;> exact SameStrands.refl s

/-! ## Accesses of the account -/

theorem agentBytes_strands (a : Agent) (s : State) (p : Word) (ps : List Place) (w : Bool) :
    ResStrands s (agentBytes a s p ps w) := by
  unfold agentBytes
  split
  · exact SameStrands.refl s
  · have h := askRemote_strands a s (asksOf p w ps 0)
    split
    · next he => exact h.of_error he
    · next he => exact h.of_ok he

theorem agentLoad_strands (a : Agent) (s : State) (p : Word) (ps : List Place) (w : Bool) :
    ResStrands s (agentLoad a s p ps w) := by
  unfold agentLoad
  have h := agentBytes_strands a s p ps w
  split
  · next he => exact h.of_error he
  · next he => exact (h.of_ok he).trans (countPlaces_strands ..)

theorem agentRead_strands (a : Agent) (va n : Nat) (s : State) : ResStrands s (agentRead a va n s) := by
  unfold agentRead
  dsimp only
  have h := agentPlaces_strands a 1#3 qXlate 0 (pagesOf n) (BitVec.ofNat 64 va) n s
  split
  · next he => exact h.of_error he
  · next he => exact .trans (h.of_ok he) (agentLoad_strands ..)

theorem agentProbe_strands (a : Agent) (va n : Nat) (s : State) : ResStrands s (agentProbe a va n s) := by
  unfold agentProbe
  have h := agentPlaces_strands a 2#3 qXlate 0 (pagesOf n) (BitVec.ofNat 64 va) n s
  split
  · next he => exact h.of_error he
  · next he => split <;> exact h.of_ok he

theorem agentWrite_strands {a : Agent} {va : Nat} {bs : List Byte} {s t : State} (h : agentWrite a va bs s = .ok t) :
    SameStrands s t := by
  unfold agentWrite at h
  split at h
  · cases h
  · next s1 ps he =>
    obtain rfl := Except.ok.inj h
    have h1 : SameStrands s s1 := (agentProbe_strands a va bs.length s).of_ok he
    exact h1.trans ((countPlaces_strands ..).trans (storePlaces_strands ..))

theorem agentWrite_stops {a : Agent} {va : Nat} {bs : List Byte} {s : State} {e : Stop} (h : agentWrite a va bs s = .error e) :
    StopStrands s e := by
  unfold agentWrite at h
  split at h
  · next he =>
    obtain rfl := Except.error.inj h
    exact (agentProbe_strands a va bs.length s).of_error he
  · cases h

theorem acctField_strands (s : State) (crew off : Nat) : ResStrands s (acctField s crew off) := by
  have h := agentRead_strands (acctAgent s crew) (acctAddr s crew off) 4 s
  unfold acctField
  split
  · next he => exact h.of_ok he
  · next he => exact h.of_error he

theorem left_strands (who : Waiter) {e : Stop} (h : StopStrands s e) : SameStrands s (e.left s who) := by
  unfold Stop.left
  split
  · exact SameStrands.trans h (.of_crews rfl rfl)
  · exact .of_crews rfl rfl

theorem acctSet_strands (s : State) (crew bit : Nat) : SameStrands s (acctSet s crew bit) :=
  .setCrew fun k => by cases k <;> rfl

theorem acctFault_strands (s : State) (crew : Nat) : SameStrands s (acctFault s crew) :=
  (acctSet_strands ..).trans (pushErr_strands ..)

theorem snapDone_strands (s : State) (crew : Nat) : SameStrands s (snapDone s crew) :=
  SameStrands.trans (.setCrew fun k => by cases k <;> rfl) (SameStrands.of_crews rfl rfl)

/-! ## Snapshots -/

/-- The state after a snapshot that has not been written: it waits, or it is dropped. -/
def snapFailed (s : State) (crew : Nat) (e : Stop) : State :=
  match e with
  | .wait _ s1 => s1
  | e => acctFault (snapDone (e.left s (.acct crew)) crew) crew

theorem snapFailed_strands (crew : Nat) {e : Stop} (h : StopStrands s e) : SameStrands s (snapFailed s crew e) := by
  unfold snapFailed
  split
  · exact h
  · exact ((left_strands _ h).trans (snapDone_strands ..)).trans (acctFault_strands ..)

theorem writeSnap_strands (s : State) (crew : Nat) : SameStrands s (writeSnap s crew) := by
  have fails : ∀ e : Stop, StopStrands s e → SameStrands s (match e with
      | .wait _ s1 => s1
      | e => acctFault (snapDone (e.left s (.acct crew)) crew) crew) := fun _ => snapFailed_strands crew
  unfold writeSnap
  split
  · exact .refl s
  · dsimp only
    split
    · next he => exact fails _ ((acctField_strands s crew 28).of_error he)
    · next s1 cap he =>
      have h1 := (acctField_strands s crew 28).of_ok he
      split
      · next he => exact fails _ (h1.stop ((acctField_strands s1 crew 20).of_error he))
      · next s2 rcap he =>
        have h2 := h1.trans ((acctField_strands s1 crew 20).of_ok he)
        split
        · exact (h2.trans (snapDone_strands ..)).trans (acctSet_strands ..)
        · split
          · next hw => exact (h2.trans (agentWrite_strands hw)).trans (snapDone_strands ..)
          · next hw => exact fails _ (h2.stop (agentWrite_stops hw))

/-- A snapshot leaves every strand as it is. -/
theorem takeSnapshot_strands (s : State) (crew strand : Nat) (triple pc : Word) :
    SameStrands s (takeSnapshot s crew strand triple pc) :=
  SameStrands.trans (.setCrew fun k => by cases k <;> rfl) (writeSnap_strands ..)

/-- The snapshots of loop exits leave every strand as it is. -/
theorem snapshots_strands (s : State) (ex : Exits) : SameStrands s (snapshots s ex) :=
  .foldl (fun _ _ => takeSnapshot_strands ..) ex s

/-- Without an exit there is no snapshot. -/
@[simp] theorem snapshots_nil (s : State) : snapshots s [] = s := rfl

end Sys2Proof.Machine
end

section
/-! Control transfer, hardware loops and the end of an instruction (02 R38 to R40; 10 R169 to R174). -/
namespace Sys2Proof.Machine

variable {s u v : State} {x : Strand} {t pc next : Word} {i : Instr} {p : BitVec 4} {n : Nat}

/-! ## Fields of words -/

/-- The bits of a word from lo up. -/
theorem bits_top (t : Word) {lo : Nat} (h : lo ≤ 64) : t.bits 63 lo = t.toNat / 2 ^ lo := by
  rw [Word.bits, Nat.shiftRight_eq_div_pow]
  refine Nat.mod_eq_of_lt (Nat.div_lt_of_lt_mul ?_)
  rw [← Nat.pow_add, show lo + (63 + 1 - lo) = 64 by omega]
  exact t.isLt

/-- No bit from lo up is set. -/
theorem bits_top_eq_zero (t : Word) {lo : Nat} (h : lo ≤ 64) : t.bits 63 lo = 0 ↔ t.toNat < 2 ^ lo := by
  rw [bits_top t h, Nat.div_eq_zero_iff]
  exact ⟨fun h => h.resolve_left (Nat.two_pow_pos lo).ne', .inr⟩

/-- Two strands with the same registers read the same. -/
theorem reg_of_regs {x y : Strand} (h : y.regs = x.regs) (r : BitVec 5) : y.reg r = x.reg r := by
  rw [Strand.reg, Strand.reg, h]

/-! ## Targets (R171) -/

theorem bits_word (t : Word) : t.bits 1 0 = t.toNat % 4 := rfl

theorem targetTrap_none (h : t.toNat % 4 = 0) (hl : t.toNat < 2 ^ 57) : targetTrap t = none := by
  have hs := (bits_top_eq_zero t (lo := 57) (by decide)).mpr hl
  rw [targetTrap, bits_word, if_neg (not_not.mpr h), if_neg (not_not.mpr hs)]

theorem targetTrap_misaligned (h : t.toNat % 4 ≠ 0) : targetTrap t = some cMisalign := if_pos h

theorem targetTrap_space (h : t.toNat % 4 = 0) (hl : 2 ^ 57 ≤ t.toNat) : targetTrap t = some cSpace := by
  have hs := mt (bits_top_eq_zero t (lo := 57) (by decide)).mp (Nat.not_lt.mpr hl)
  rw [targetTrap, bits_word, if_neg (not_not.mpr h), if_pos hs]

/-! ## Transfers (R169 to R171, R174) -/

/-- Steps that change one loop level each change the loops alone. -/
theorem foldl_setLoop {f : Strand × Exits → Fin 4 → Strand × Exits}
    (h : ∀ r id, (f r id).1 = r.1 ∨ ∃ l, (f r id).1 = r.1.setLoop id l) (l : List (Fin 4)) (r : Strand × Exits) :
    ∃ ls, (l.foldl f r).1 = { r.1 with loops := ls } := by
  induction l generalizing r with
  | nil => exact ⟨_, rfl⟩
  | cons id l ih =>
    obtain ⟨ls, hls⟩ := ih (f r id)
    rw [List.foldl_cons, hls]
    rcases h r id with h | ⟨l, h⟩ <;> rw [h]
    · exact ⟨ls, rfl⟩
    · exact ⟨ls, rfl⟩

/-- Leaving loops changes the loops alone. -/
theorem leaveLoops_loops (x : Strand) (pc t : Word) : ∃ ls, (leaveLoops x pc t).1 = { x with loops := ls } := by
  unfold leaveLoops
  refine foldl_setLoop (fun r id => ?_) _ (x, [])
  dsimp only
  split
  · exact .inr ⟨_, rfl⟩
  · exact .inl rfl

/-- What a transfer to t leaves, where the strand was x before it. -/
theorem transfer_arrives (h : SameStrands (s.setMe x) v) (t : Word) : (transfer t v).cur = s.cur ∧ (transfer t v).me.pc = t ∧
    (transfer t v).me.preds = x.preds ∧ (transfer t v).me.level = x.level ∧ ∀ r, (transfer t v).me.reg r = x.reg r := by
  have hme : v.me = x := h.me.trans (me_setMe s x)
  rw [transfer, me_setMe]
  subst hme
  exact ⟨h.1, rfl, rfl, rfl, fun r => reg_of_regs rfl r⟩

section
variable {leaves : Bool} {target : Strand → Word} {upd : Strand → Strand}

theorem jumpBody_traps {c : Nat} (h : targetTrap (target s.me) = some c) :
    jumpBody leaves target upd s = .error (.trap c (target s.me)) := by
  simp only [jumpBody, h]

theorem jumpBody_leaves (h : targetTrap (target s.me) = none) : jumpBody true target id s =
    .ok (snapshots (s.setMe (leaveLoops s.me s.me.pc (target s.me)).1) (leaveLoops s.me s.me.pc (target s.me)).2,
      some (target s.me)) := by
  simp only [jumpBody, h, if_true, id]

theorem jumpBody_stays (h : targetTrap (target s.me) = none) :
    jumpBody false target upd s = .ok (s.setMe (upd s.me), some (target s.me)) := by
  simp [jumpBody, h]

/-- A transfer traps at a target that is misaligned, or outside GLOBAL. -/
theorem jump_traps (hk : strandKinds i = anyKind) (hp : predField i = p)
    (hx : exec i s = issue i anyKind p false (jumpBody leaves target upd) s) (ht : target s.me = t) (hi : Issues s i) :
    (t.toNat % 4 ≠ 0 → Traps i s cMisalign t) ∧ (t.toNat % 4 = 0 → 2 ^ 57 ≤ t.toNat → Traps i s cSpace t) := by
  subst ht
  exact ⟨fun h => issue_traps hi hk hp hx (jumpBody_traps (targetTrap_misaligned h)),
    fun h hl => issue_traps hi hk hp hx (jumpBody_traps (targetTrap_space h hl))⟩

end

/-- What a transfer to t answers: the strand stands there with its registers, but s1 where the transfer links, and with
its predicates and its level; where no loop is left, memory stays. -/
def TransfersTo (i : Instr) (s : State) (t : Word) (links : Bool) : Prop :=
  ∃ u, exec i s = .next u ∧ u.cur = s.cur ∧ u.me.pc = t ∧ u.me.preds = s.me.preds ∧ u.me.level = s.me.level ∧
    (∀ r, u.me.reg r = if links = true ∧ r = 1#5 then s.me.pc + 4#64 else s.me.reg r) ∧
    (links = true ∨ (leaveLoops s.me s.me.pc t).2 = [] → u.mem = s.mem)

section
variable {target : Strand → Word}

/-- A branch or jump to a legal target. -/
theorem jump_leaves (hk : strandKinds i = anyKind) (hp : predField i = p)
    (hx : exec i s = issue i anyKind p false (jumpBody true target id) s) (ht : target s.me = t) (hi : Issues s i)
    (h4 : t.toNat % 4 = 0) (hl : t.toNat < 2 ^ 57) : TransfersTo i s t false := by
  subst ht
  obtain ⟨ls, hls⟩ := leaveLoops_loops s.me s.me.pc (target s.me)
  obtain ⟨hcur, hpc, hpreds, hlevel, hregs⟩ :=
    transfer_arrives (snapshots_strands (s.setMe (leaveLoops s.me s.me.pc (target s.me)).1) (leaveLoops s.me s.me.pc (target s.me)).2)
      (target s.me)
  refine ⟨_, issue_transfers hi hk hp hx (jumpBody_leaves (targetTrap_none h4 hl)), hcur, hpc, hpreds.trans (by rw [hls]),
    hlevel.trans (by rw [hls]), fun r => ?_, fun h => ?_⟩
  · rw [if_neg (by simp), hregs r, hls]
    refine reg_of_regs ?_ r
    rfl
  · rw [transfer_mem, h.resolve_left (by decide), snapshots_nil]
    rfl

/-- A call to a legal target: sa has been read when s1 is written. -/
theorem call_links (hk : strandKinds i = anyKind) (hp : predField i = p)
    (hx : exec i s = issue i anyKind p false (jumpBody false target fun x => x.setReg 1#5 (x.pc + 4#64)) s)
    (ht : target s.me = t) (hi : Issues s i) (h4 : t.toNat % 4 = 0) (hl : t.toNat < 2 ^ 57) : TransfersTo i s t true := by
  subst ht
  obtain ⟨hcur, hpc, hpreds, hlevel, hregs⟩ :=
    transfer_arrives (.refl (s.setMe (s.me.setReg 1#5 (s.me.pc + 4#64)))) (target s.me)
  refine ⟨_, issue_transfers hi hk hp hx (jumpBody_stays (targetTrap_none h4 hl)), hcur, hpc, hpreds, hlevel, fun r => ?_,
    fun _ => rfl⟩
  rw [hregs r]
  by_cases hr : r = 1#5
  · rw [if_pos ⟨rfl, hr⟩, hr, reg_setReg _ _ _ (by decide)]
  · rw [if_neg fun h => hr h.2, reg_setReg_ne _ _ _ _ hr]

end

/-- A displacement counts words. -/
theorem displacement_eq {m : Nat} (d : BitVec m) : d.signExtend 64 <<< 2 = BitVec.ofInt 64 (4 * d.toInt) := by
  rw [Int.mul_comm, BitVec.ofInt_mul, BitVec.shiftLeft_eq_mul_twoPow]
  rfl

/-- The course of a transfer to t. -/
def TransferCourse (i : Instr) (s : State) (t : Word) (links : Bool) : Prop :=
  Issues s i → (t.toNat % 4 = 0 → t.toNat < 2 ^ 57 → TransfersTo i s t links) ∧ (t.toNat % 4 ≠ 0 → Traps i s cMisalign t) ∧
    (t.toNat % 4 = 0 → 2 ^ 57 ≤ t.toNat → Traps i s cSpace t)

/-- Settles O7: jumps by `jump_leaves`, calls by `call_links`, bad targets by `jump_traps`. -/
theorem transferResults : Obligations.TransferResults := by
  intro s p sa d22 d26 pc f hf
  have jumps {i : Instr} {p : BitVec 4} {target : Strand → Word} {t : Word} (hk : strandKinds i = anyKind)
      (hp : predField i = p) (hx : exec i s = issue i anyKind p false (jumpBody true target id) s) (ht : target s.me = t) :
      TransferCourse i s t false :=
    fun hi => ⟨jump_leaves hk hp hx ht hi, jump_traps hk hp hx ht hi⟩
  have calls {i : Instr} {p : BitVec 4} {target : Strand → Word} {t : Word} (hk : strandKinds i = anyKind)
      (hp : predField i = p)
      (hx : exec i s = issue i anyKind p false (jumpBody false target fun x => x.setReg 1#5 (x.pc + 4#64)) s)
      (ht : target s.me = t) : TransferCourse i s t true :=
    fun hi => ⟨call_links hk hp hx ht hi, jump_traps hk hp hx ht hi⟩
  have near {m : Nat} (d : BitVec m) : s.me.pc + d.signExtend 64 <<< 2 = s.me.pc + BitVec.ofInt 64 (4 * d.toInt) := by
    rw [displacement_eq]
  suffices h : TransferCourse f.1 s f.2.1 f.2.2 from h
  revert f
  simp only [List.forall_mem_cons]
  exact ⟨jumps rfl rfl rfl (near d22), jumps rfl rfl rfl (near d26), calls rfl rfl rfl (near d26), jumps rfl rfl rfl rfl,
    calls rfl rfl rfl rfl, List.forall_mem_nil _⟩

/-! ## The start of a loop (R172, R173) -/

section
variable {s1 : State} {id : BitVec 2} {stages : BitVec 3} {sa : BitVec 5} {off : BitVec 16} {w : W32} {k : Fin 4}

/-- The instruction after a loop instruction. -/
def loopStart (x : Strand) : Word := x.pc + 4#64

/-- The end address of a loop instruction's body. -/
def loopLast (x : Strand) (off : BitVec 16) : Word := x.pc + BitVec.ofNat 64 (4 * off.toNat)

/-- Why a loop instruction at level k is ILLEGAL before its end word is fetched (R172). -/
def LoopBad (x : Strand) (k : Fin 4) (stages : BitVec 3) (sa : BitVec 5) (off : BitVec 16) : Prop :=
  2 ^ 32 ≤ (x.reg sa).toNat ∨ (x.loop k).active = true ∨
    (stages ≠ 0#3 ∧ ∃ j, (x.loop j).active = true ∧ 0 < (x.loop j).stages) ∨ overlaps x (loopStart x) (loopLast x off) = true

/-- The loop that a loop instruction starts. -/
def startedLoop (x : Strand) (stages : BitVec 3) (sa : BitVec 5) (off : BitVec 16) : Loop :=
  { active := true
    stages := stages.toNat
    trips := (x.reg sa).toNat
    i := 0
    start := loopStart x
    last := loopLast x off
    level := x.level
    fresh := true }

/-- A loop with stages is active. -/
theorem staged_iff (x : Strand) : (([0, 1, 2, 3] : List (Fin 4)).any fun j => (x.loop j).active && 0 < (x.loop j).stages) = true ↔
    ∃ j, (x.loop j).active = true ∧ 0 < (x.loop j).stages := by
  rw [List.any_eq_true]
  refine ⟨fun ⟨j, _, h⟩ => ⟨j, by simpa using h⟩, fun ⟨j, h⟩ => ⟨j, ?_, by simpa using h⟩⟩
  fin_cases j <;> simp

theorem loopBody_bad (hk : k.val = id.toNat) (h : LoopBad s.me k stages sa off) :
    loopBody i id stages sa off s = illegalWords i := by
  have hid : (⟨id.toNat, by omega⟩ : Fin 4) = k := Fin.ext hk.symm
  unfold loopBody
  dsimp only
  rw [hid, if_pos]
  simp only [staged_iff]
  exact h

theorem loopBody_fetched (hk : k.val = id.toNat) (h : ¬LoopBad s.me k stages sa off)
    (hf : fetchWord s (loopLast s.me off) = .ok (s1, w)) : loopBody i id stages sa off s =
      if 0x10 ≤ majorOf w ∧ majorOf w ≤ 0x14 then illegalWords i
      else if s.me.reg sa = 0#64 then .ok (s1, some (loopLast s.me off + (if isLong w then 8#64 else 4#64)))
      else .ok (s1.setMe (stagePreds (s.me.setLoop k (startedLoop s.me stages sa off)) stages.toNat (s.me.reg sa).toNat 0), none) := by
  have hid : (⟨id.toNat, by omega⟩ : Fin 4) = k := Fin.ext hk.symm
  unfold loopBody
  dsimp only
  unfold loopLast at hf
  rw [hid, if_neg, hf]
  · rfl
  · simp only [staged_iff]
    exact h

end

/-- Settles O8: a bad loop by `loopBody_bad`, the others by the word at their end. -/
theorem loopStarts : Obligations.LoopStarts := by
  intro s s1 id stages sa off w k i x n start last bad hk hi
  have zero : x.reg sa = 0#64 ↔ n = 0 := (BitVec.toNat_inj (x := x.reg sa) (y := 0#64)).symm
  refine ⟨fun h => issue_traps hi rfl rfl rfl (loopBody_bad hk h), fun h hf => ⟨fun hm => ?_, fun hm => ⟨fun hn => ?_, fun hn => ?_⟩⟩⟩
  · exact issue_traps hi rfl rfl rfl ((loopBody_fetched hk h hf).trans (if_pos hm))
  · have hb := (loopBody_fetched (i := i) hk h hf).trans (if_neg (by omega))
    rw [if_pos (zero.mpr hn)] at hb
    exact issue_transfers hi rfl rfl rfl hb
  · have hb := (loopBody_fetched (i := i) hk h hf).trans (if_neg (by omega))
    rw [if_neg (mt zero.mp (by omega))] at hb
    exact issue_endsIn_slots hi rfl rfl rfl hb

/-! ## The end of an instruction (R173) -/

/-- Loop id is active at the strand's level and ends at an address. -/
def EndsAt (x : Strand) (id : Fin 4) (pc : Word) : Prop :=
  (x.loop id).active = true ∧ (x.loop id).level = x.level ∧ (x.loop id).last = pc

theorem innermostAt_none (h : ∀ id, ¬EndsAt x id pc) : innermostAt x pc = none := by
  have hf (id : Fin 4) : ((x.loop id).active && (x.loop id).level == x.level && (x.loop id).last == pc) = false := by
    simpa [EndsAt] using h id
  simp [innermostAt, hf]

theorem loop_setLoop (x : Strand) (id j : Fin 4) (l : Loop) : (x.setLoop id l).loop j = if j = id then l else x.loop j := by
  show (x.loops.set id.val l id.isLt)[j.val] = if j = id then l else x.loops[j.val]
  rw [Vector.getElem_set]
  simp only [Fin.ext_iff, eq_comm]

/-- Stage predicates change the predicates alone. -/
theorem stagePreds_preds (x : Strand) (a b c : Nat) : ∃ ps, stagePreds x a b c = { x with preds := ps } := by
  unfold stagePreds
  generalize List.range a = l
  induction l generalizing x with
  | nil => exact ⟨_, rfl⟩
  | cons k r ih =>
    obtain ⟨ps, h⟩ := ih (x.setPred (BitVec.ofNat 3 (4 + k)) (decide (k ≤ c ∧ c - k < b)))
    rw [List.foldl_cons, h, Strand.setPred]
    split <;> exact ⟨_, rfl⟩

/-- What an issued strand knows of its loops. -/
theorem issued_loop (x : Strand) (n : Nat) (id : Fin 4) : ∃ b, (x.useSlot n).issued.loop id = { x.loop id with fresh := b } := by
  have h : (x.useSlot n).issued.loop id =
      if (x.loop id).level == x.level && (x.loop id).within x.pc then { x.loop id with fresh := false } else x.loop id :=
    mapLoops_loop (x.useSlot n) (fun l => if l.level == x.level && l.within x.pc then { l with fresh := false } else l) id
  rw [h]
  split <;> exact ⟨_, rfl⟩

section
variable {ex : Exits} {id : Fin 4}

theorem loopEnd_none (h : innermostAt x pc = none) : loopEnd n x pc next ex = ({ x with pc := next }, ex) := by
  cases n with
  | zero => rfl
  | succ n => simp only [loopEnd, h]

theorem loopEnd_iterates (h : innermostAt x pc = some id) (hi : (x.loop id).i + 1 < (x.loop id).total) :
    loopEnd (n + 1) x pc next ex = ({ stagePreds (x.setLoop id { x.loop id with i := (x.loop id).i + 1, fresh := true })
      (x.loop id).stages (x.loop id).trips ((x.loop id).i + 1) with pc := (x.loop id).start }, ex) := by
  simp only [loopEnd, h, hi, if_true]

theorem loopEnd_leaves (h : innermostAt x pc = some id) (hi : (x.loop id).total ≤ (x.loop id).i + 1) :
    loopEnd (n + 1) x pc next ex = loopEnd n (x.setLoop id { x.loop id with active := false, fresh := false }) pc next
      (ex ++ [((x.loop id).triple id.val, (x.loop id).pc)]) := by
  simp only [loopEnd, h, if_neg (Nat.not_lt.mpr hi)]

end

/-- The strand after the end of its instruction. -/
theorem retire_me {ex : Exits} {y : Strand}
    (h : loopEnd 4 (s.me.useSlot n).issued s.me.pc (s.me.pc + BitVec.ofNat 64 (s.me.lenOf i)) [] = (y, ex)) :
    (retire i s n).me = y.fetching := by
  simp only [retire, h]
  exact (snapshots_strands _ ex).me.trans (me_setMe ..)

/-- Where a loop that ends at the PC goes on, the strand stands at the start of its body. -/
theorem loopEnd_goes_on {id : Fin 4} {ex : Exits} (h : innermostAt x pc = some id) (hi : (x.loop id).i + 1 < (x.loop id).total) :
    ∃ y, loopEnd (n + 1) x pc next ex = (y, ex) ∧ y.pc = (x.loop id).start ∧ (y.loop id).i = (x.loop id).i + 1 ∧
      y.regs = x.regs := by
  rw [loopEnd_iterates h hi]
  generalize hl : { x.loop id with i := (x.loop id).i + 1, fresh := true } = l
  obtain ⟨ps, hps⟩ := stagePreds_preds (x.setLoop id l) (x.loop id).stages (x.loop id).trips ((x.loop id).i + 1)
  rw [hps]
  have hx : (x.setLoop id l).loop id = l := (loop_setLoop x id id l).trans (if_pos rfl)
  exact ⟨_, rfl, rfl, (congrArg Loop.i hx).trans (by rw [← hl]), rfl⟩

/-- Where the only loop that ends at the PC has no iteration left, it becomes inactive and the strand goes on. -/
theorem loopEnd_lasts {id : Fin 4} {ex : Exits} (h : innermostAt x pc = some id) (hi : (x.loop id).total ≤ (x.loop id).i + 1)
    (ho : ∀ j, j ≠ id → ¬EndsAt x j pc) :
    ∃ y ex', loopEnd (n + 1) x pc next ex = (y, ex') ∧ y.pc = next ∧ (y.loop id).active = false ∧ y.regs = x.regs := by
  have hloop (j : Fin 4) := loop_setLoop x id j { x.loop id with active := false, fresh := false }
  have hrest (j : Fin 4) : ¬EndsAt (x.setLoop id { x.loop id with active := false, fresh := false }) j pc := by
    rintro ⟨ha, hl, he⟩
    rw [hloop j] at ha hl he
    split at ha
    · cases ha
    · next hne =>
      rw [if_neg hne] at hl he
      exact ho j hne ⟨ha, hl, he⟩
  rw [loopEnd_leaves h hi, loopEnd_none (innermostAt_none hrest)]
  exact ⟨_, _, rfl, rfl, congrArg Loop.active ((hloop id).trans (if_pos rfl)), rfl⟩

/-- An issued strand reads its loops as before, but for the mark of a first iteration. -/
theorem issued_ends {id : Fin 4} : EndsAt (x.useSlot n).issued id pc ↔ EndsAt x id pc := by
  obtain ⟨b, hb⟩ := issued_loop x n id
  rw [EndsAt, EndsAt, hb]
  rfl

/-- Where a loop that ends at the PC goes on, its strand stands at the start of its body. -/
theorem retire_iterates {id : Fin 4} (i : Instr) (n : Nat) (h : innermostAt s.me s.me.pc = some id)
    (hi : (s.me.loop id).i + 1 < (s.me.loop id).total) :
    (retire i s n).me.pc = (s.me.loop id).start ∧ ((retire i s n).me.loop id).i = (s.me.loop id).i + 1 ∧
      (retire i s n).mem = s.mem ∧ ∀ r, (retire i s n).me.reg r = s.me.reg r := by
  obtain ⟨b, hb⟩ := issued_loop s.me n id
  have hlast : ((s.me.useSlot n).issued.loop id).i + 1 < ((s.me.useSlot n).issued.loop id).total := by rw [hb]; exact hi
  obtain ⟨y, he, hpc, hloop, hregs⟩ := loopEnd_goes_on (n := 3) (next := s.me.pc + BitVec.ofNat 64 (s.me.lenOf i)) (ex := [])
    ((innermostAt_issued ..).trans h) hlast
  rw [hb] at hpc hloop
  rw [retire_me he]
  refine ⟨hpc, hloop, ?_, reg_of_regs hregs⟩
  simp only [retire, he]
  rfl

/-- Where the only loop that ends at the PC has no iteration left, it becomes inactive and the strand goes on. -/
theorem retire_leaves {id : Fin 4} (i : Instr) (h : innermostAt s.me s.me.pc = some id)
    (hi : (s.me.loop id).total ≤ (s.me.loop id).i + 1) (ho : ∀ j, j ≠ id → ¬EndsAt s.me j s.me.pc) :
    (retire i s).me.pc = s.me.pc + BitVec.ofNat 64 (s.me.lenOf i) ∧ ((retire i s).me.loop id).active = false ∧
      ∀ r, (retire i s).me.reg r = s.me.reg r := by
  obtain ⟨b, hb⟩ := issued_loop s.me 1 id
  have hlast : ((s.me.useSlot 1).issued.loop id).total ≤ ((s.me.useSlot 1).issued.loop id).i + 1 := by rw [hb]; exact hi
  obtain ⟨y, ex, he, hpc, hloop, hregs⟩ := loopEnd_lasts (n := 3) (next := s.me.pc + BitVec.ofNat 64 (s.me.lenOf i)) (ex := [])
    ((innermostAt_issued ..).trans h) hlast fun j hj => mt issued_ends.mp (ho j hj)
  rw [retire_me he]
  exact ⟨hpc, hloop, reg_of_regs hregs⟩

/-- The strand after an instruction at which no loop ends. -/
def passed (x : Strand) (n : Nat) (next : Word) : Strand := { (x.useSlot n).issued with pc := next }.fetching

/-- An instruction at which no loop ends changes the strand's PC, its loops and its accounting alone. -/
theorem passed_keeps (x : Strand) (n : Nat) (next : Word) : (passed x n next).regs = x.regs ∧
    (passed x n next).preds = x.preds ∧ (passed x n next).level = x.level ∧ (passed x n next).div0 = x.div0 ∧
    (passed x n next).tvec = x.tvec ∧ (passed x n next).tsave = x.tsave ∧ (passed x n next).t1 = x.t1 ∧
    (passed x n next).t2 = x.t2 ∧ (passed x n next).rngkey = x.rngkey ∧ (passed x n next).rngctr = x.rngctr ∧
    (passed x n next).lstop = x.lstop :=
  ⟨rfl, rfl, rfl, rfl, rfl, rfl, rfl, rfl, rfl, rfl, rfl⟩

/-- Settles O9: no loop end by `retire_plain`, the next iteration by `retire_iterates`, the last by `retire_leaves`. -/
theorem instructionEnds : Obligations.InstructionEnds := by
  refine ⟨fun i s n => ⟨fun h => ?_, fun id h hi => retire_iterates i n h hi⟩, fun i s id h hi ho => retire_leaves i h hi ho⟩
  obtain ⟨hr, hp, hl, hd, hv, hs, h1, h2, hk, hc, ho⟩ := passed_keeps s.me n (s.me.pc + BitVec.ofNat 64 (s.me.lenOf i))
  have ht : retire i s n = s.setMe (passed s.me n (s.me.pc + BitVec.ofNat 64 (s.me.lenOf i))) := retire_plain i s n h
  have hpc : (passed s.me n (s.me.pc + BitVec.ofNat 64 (s.me.lenOf i))).pc = s.me.pc + BitVec.ofNat 64 (s.me.lenOf i) := rfl
  generalize passed s.me n (s.me.pc + BitVec.ofNat 64 (s.me.lenOf i)) = y at *
  dsimp only
  rw [ht, me_setMe]
  refine ⟨rfl, hpc, reg_of_regs hr, hp, hl, hd, hv, hs, h1, h2, hk, hc, ho, rfl, fun m hm => setMe_crew_ne _ _ _ hm, fun k hk => ?_⟩
  exact (congrArg (Crew.str · k) (setMe_myCrew ..)).trans (str_setStr_ne _ _ _ _ hk)

end Sys2Proof.Machine
end

section
/-! Addresses, tags and random words (10 R166, R179, R180). -/
namespace Sys2Proof.Machine

variable {s : State} {p sid : BitVec 4} {sd sa sb sn : BitVec 5} {i : Instr}

/-- The space of a pointer is its top four bits (R41). -/
theorem spaceOf_eq (a : Word) : spaceOf a = a.toNat / 2 ^ 60 := bits_top a (by decide)

theorem leaBody_sets (hs : spaceOf (s.me.reg sa + s.me.reg sb) = spaceOf (s.me.reg sa))
    (hk : ptrOk (s.me.reg sa + s.me.reg sb) = true) :
    leaBody sd sa sb s = .ok (s.setMe (s.me.setReg sd (s.me.reg sa + s.me.reg sb)), none) := if_pos ⟨hs, hk⟩

theorem leaBody_traps (h : spaceOf (s.me.reg sa + s.me.reg sb) ≠ spaceOf (s.me.reg sa) ∨
    ptrOk (s.me.reg sa + s.me.reg sb) = false) : leaBody sd sa sb s = .error (.trap cSpace (s.me.reg sa + s.me.reg sb)) :=
  if_neg fun ⟨hs, hk⟩ => h.elim (· hs) fun hf => Bool.false_ne_true (hf.symm.trans hk)

theorem tag_eq_ofNat (a : Word) :
    sid ++ a.extractLsb' 0 60 = BitVec.ofNat 64 (sid.toNat * 2 ^ 60 + a.toNat % 2 ^ 60) := by
  rw [← toNat_append_low]
  exact (BitVec.ofNat_toNat 64 _).trans (BitVec.setWidth_eq _) |>.symm

theorem next_counter (c : BitVec 40) : c + 1#40 = BitVec.ofNat 40 (c.toNat + 1) := by
  rw [BitVec.ofNat_add, BitVec.ofNat_toNat, BitVec.setWidth_eq]

/-- A register counted from another one. -/
theorem regN_add (x : Strand) (k : Nat) : x.regN (sn.toNat + k) = x.reg (sn + BitVec.ofNat 5 k) := by
  rw [Strand.regN, BitVec.ofNat_add, BitVec.ofNat_toNat, BitVec.setWidth_eq]

theorem rngcBody_draws (h2 : (s.me.reg (sn + 2#5)).toNat < 2 ^ 24) (h3 : (s.me.reg (sn + 3#5)).toNat < 2 ^ 40) :
    rngcBody i sd sn s = .ok (s.setMe (s.me.setReg sd (rngOut (s.me.reg (sn + 0#5)) (s.me.reg (sn + 1#5))
      (s.me.reg (sn + 2#5)).toNat (s.me.reg (sn + 3#5)).toNat)), none) := by
  unfold rngcBody
  simp only [regN_add]
  exact if_neg fun h => h.elim (· ((bits_top_eq_zero _ (by decide)).mpr h2)) (· ((bits_top_eq_zero _ (by decide)).mpr h3))

theorem rngcBody_illegal (h : 2 ^ 24 ≤ (s.me.reg (sn + 2#5)).toNat ∨ 2 ^ 40 ≤ (s.me.reg (sn + 3#5)).toNat) :
    rngcBody i sd sn s = illegalWords i := by
  unfold rngcBody
  simp only [regN_add]
  exact if_pos (h.imp (fun h => mt (bits_top_eq_zero _ (by decide)).mp (Nat.not_lt.mpr h))
    fun h => mt (bits_top_eq_zero _ (by decide)).mp (Nat.not_lt.mpr h))

/-- Settles O6: each form by the lemmas about its body above. -/
theorem addressesAndRandom : Obligations.AddressesAndRandom := by
  refine ⟨fun s p sd sa sb sid => ⟨fun hi => ⟨fun hs hk => ?_, fun h => ?_⟩, fun hi => ?_, fun hi => ?_⟩,
    fun s p sd sn => ⟨fun hi => ?_, fun hi h2 h3 => ?_, fun hi h => ?_⟩⟩
  · rw [← spaceOf_eq, ← spaceOf_eq] at hs
    exact issue_endsIn_slots hi rfl rfl rfl (leaBody_sets hs hk)
  · rw [← spaceOf_eq, ← spaceOf_eq] at h
    exact issue_traps hi rfl rfl rfl (leaBody_traps h)
  · exact value_sets (f := fun x => sid ++ (x.reg sa).extractLsb' 0 60) rfl rfl rfl (tag_eq_ofNat _) hi
  · exact value_sets (f := fun x => BitVec.ofNat 64 (spaceOf (x.reg sa))) rfl rfl rfl (by rw [spaceOf_eq]) hi
  · exact pure_sets rfl rfl rfl (by rw [drawCtx, next_counter]) hi
  · exact issue_endsIn_slots hi rfl rfl rfl (rngcBody_draws h2 h3)
  · exact issue_traps hi rfl rfl rfl (rngcBody_illegal h)

end Sys2Proof.Machine
end

section
/-! Scalar loads, stores and atomics on bytes of this device (10 R175 to R178). -/
namespace Sys2Proof.Machine

variable {s s1 u : State} {i : Instr} {a : Word} {n z c k j m v : Nat} {sd sb sa sc : BitVec 5} {p : BitVec 4}
  {addr : Strand → Word} {mem : List Host.Cell}

/-! ## Numbers and their bytes -/

/-- The low bytes of a number, one by one. -/
theorem leBytes_getD (d : Byte) (hj : j < n) : (leBytes n v).getD j d = BitVec.ofNat 8 (v / 2 ^ (8 * j)) := by
  induction n generalizing v j with
  | zero => omega
  | succ n ih =>
    cases j with
    | zero => simp [leBytes]
    | succ j =>
      rw [leBytes, List.getD_cons_succ, ih (Nat.lt_of_succ_lt_succ hj), Nat.div_div_eq_div_mul, Nat.mul_succ, Nat.pow_add,
        Nat.mul_comm (2 ^ (8 * j))]

/-- The bytes of a number in memory. -/
theorem memByte_of_leNat (hj : j < n) : memByte mem (k + j) = BitVec.ofNat 8 (leNat (memBytes mem k n) / 2 ^ (8 * j)) := by
  induction n generalizing k j with
  | zero => omega
  | succ n ih =>
    have hb := (memByte mem k).isLt
    cases j with
    | zero => simp [memBytes, leNat, BitVec.ofNat_add, BitVec.ofNat_mul]
    | succ j =>
      have hd : (memByte mem k).toNat + 256 * leNat (memBytes mem (k + 1) n) = 256 * leNat (memBytes mem (k + 1) n) +
        (memByte mem k).toNat := Nat.add_comm ..
      rw [memBytes, leNat, Nat.mul_succ, Nat.pow_add, Nat.mul_comm (2 ^ (8 * j)), ← Nat.div_div_eq_div_mul, hd,
        Nat.mul_add_div (by decide), Nat.div_eq_of_lt hb, Nat.add_zero, show k + (j + 1) = k + 1 + j by omega]
      exact ih (Nat.lt_of_succ_lt_succ hj)

/-- The bytes of a number that has been written. -/
theorem memByte_written (hj : j < n) : memByte (memWrite mem k (leBytes n v)) (k + j) = BitVec.ofNat 8 (v / 2 ^ (8 * j)) := by
  rw [memByte_memWrite_in _ _ _ _ ⟨Nat.le_add_right .., by rw [leBytes_length]; omega⟩, Nat.add_sub_cancel_left,
    leBytes_getD _ hj]

/-! ## Addresses (R175, R176) -/

/-- An access without an offset. -/
theorem longAddr_zero (sa si : BitVec 5) (x : Strand) : longAddr sa si 0#21 x = x.reg sa + x.reg si + BitVec.ofInt 64 0 := rfl

/-! ## Loads -/

/-- A number of n bytes, as signed, in 64 bits. -/
theorem signed_eq (hn : n ∈ [1, 2, 4, 8]) (hv : v < 2 ^ (8 * n)) : BitVec.ofInt 64 (BitVec.ofNat (8 * n) v).toInt =
    if v / 2 ^ (8 * n - 1) % 2 = 1 then BitVec.ofNat 64 (v + (2 ^ 64 - 2 ^ (8 * n))) else BitVec.ofNat 64 v := by
  apply BitVec.eq_of_toNat_eq
  simp only [List.mem_cons, List.not_mem_nil, or_false] at hn
  rw [BitVec.toInt_eq_toNat_cond, BitVec.toNat_ofInt, BitVec.toNat_ofNat, Nat.mod_eq_of_lt hv]
  rcases hn with rfl | rfl | rfl | rfl <;> split <;> split <;> rw [BitVec.toNat_ofNat] <;> omega

/-- The value of a load (R175). -/
theorem extend_eq (sext : Bool) (hn : n ∈ [1, 2, 4, 8]) : extend sext n (memBytes mem k n) =
    if sext then BitVec.ofInt 64 (BitVec.ofNat (8 * n) (leNat (memBytes mem k n))).toInt
    else BitVec.ofNat 64 (leNat (memBytes mem k n)) := by
  cases sext with
  | false => rfl
  | true =>
    have hv : leNat (memBytes mem k n) < 2 ^ (8 * n) := by
      rw [Nat.pow_mul]
      exact memNat_lt mem k n
    rw [if_pos rfl, signed_eq hn hv]
    simp only [extend, Bool.true_and, decide_eq_true_eq]

/-- What a load of n bytes at a answers. -/
def LoadCourse (s s1 : State) (sd : BitVec 5) (k : Nat) (i : Instr) (a : Word) (n : Nat) (sext : Bool) (z c : Nat) : Prop :=
  Issues s i → InOrder s c → Reaches s a n z 1#3 s1 k →
    EndsIn i s ((countPlaces s1 s.myCrew.tenant false [(k, n)]).setMe (s.me.setReg sd
      (if sext then BitVec.ofInt 64 (BitVec.ofNat (8 * n) (leNat (memBytes s.mem k n))).toInt
        else BitVec.ofNat 64 (leNat (memBytes s.mem k n)))))

theorem readPlaces_one : readPlaces mem [(k, n)] = memBytes mem k n := by simp [readPlaces]

/-- A load from this device writes its register with the bytes at its place. -/
theorem loadBody_reads {more : BitVec 16} (sext : Bool) (hn : n ∈ [1, 2, 4, 8]) (ho : InOrder s c)
    (hr : Reaches s (addr s.me) n z 1#3 s1 k) : loadBody sd addr n sext z c more s =
      .ok ((countPlaces s1 s.myCrew.tenant false [(k, n)]).setMe (s.me.setReg sd
        (if sext then BitVec.ofInt 64 (BitVec.ofNat (8 * n) (leNat (memBytes s.mem k n))).toInt
          else BitVec.ofNat 64 (leNat (memBytes s.mem k n)))), none) := by
  obtain ⟨hc, hp, hk⟩ := hr
  have hs := placesOf_keeps hp
  have hme := (hs.trans (countPlaces_keeps s1 s.myCrew.tenant false [(k, n)])).me
  refine inClass_ok ho ?_
  simp only [loadReg, hc, hp, hs.myCrew, hs.1, List.filter_cons, hk, Bool.false_eq_true, if_false, List.filter_nil, hme,
    readPlaces_one, extend_eq sext hn]

/-- A load form by its body. -/
theorem load_ends {ks : List StrandKind} {sext : Bool} {more : BitVec 16} (hk : strandKinds i = ks) (hp : predField i = p)
    (hx : exec i s = issue i ks p false (loadBody sd addr n sext z c more) s) (ha : addr s.me = a)
    (hn : n ∈ [1, 2, 4, 8]) : LoadCourse s s1 sd k i a n sext z c := by
  subst ha
  exact fun hi ho hr => issue_endsIn hi hk hp hx (loadBody_reads sext hn ho hr)

/-- The sizes of a long form. -/
theorem two_pow_size (size : BitVec 2) : 2 ^ size.toNat ∈ [1, 2, 4, 8] := by
  revert size
  decide

/-- Settles O10: each form is a load by its body. -/
theorem loadResults : Obligations.LoadResults := by
  intro s s1 p sd sa si off loff size sext scope z cls mask k short long f hf
  suffices h : LoadCourse s s1 sd k f.1 f.2.1 f.2.2.1 f.2.2.2.1 f.2.2.2.2.1 f.2.2.2.2.2 from h
  revert f
  simp only [List.forall_mem_cons]
  exact ⟨load_ends rfl rfl rfl rfl (by decide), load_ends rfl rfl rfl rfl (by decide), load_ends rfl rfl rfl rfl (by decide),
    load_ends rfl rfl rfl rfl (by decide), load_ends rfl rfl rfl rfl (by decide), load_ends rfl rfl rfl rfl (by decide),
    load_ends rfl rfl rfl rfl (by decide), load_ends rfl rfl rfl rfl (two_pow_size size),
    load_ends rfl rfl rfl (longAddr_zero ..) (by decide), List.forall_mem_nil _⟩

/-! ## Stores -/

/-- The state whose bytes at k are those of a number, and which is otherwise as before. -/
def Written (s u : State) (k n v : Nat) : Prop :=
  u.cur = s.cur ∧ u.crews = s.crews ∧ SameMemoryOff k n s u ∧
    ∀ j < n, memByte u.mem (k + j) = BitVec.ofNat 8 (v / 2 ^ (8 * j))

/-- What a store of n bytes at a answers. -/
def StoreCourse (s s1 : State) (sb : BitVec 5) (k : Nat) (i : Instr) (a : Word) (n z c : Nat) (mask : BitVec 16) : Prop :=
  Issues s i → InOrder s c → maskHeld s mask = false → Reaches s a n z 2#3 s1 k →
    ∃ u, EndsIn i s u ∧ Written s u k n (s.me.reg sb).toNat

theorem storePlaces_one (w : Sender) (bs : List Byte) (hk : isWindowKey k = false) (hb : bs.length = n) :
    storePlaces w [(k, n)] bs s = { s with mem := memWrite s.mem k bs } := by
  simp only [storePlaces, hk, Bool.false_eq_true, if_false, List.take_of_length_le (Nat.le_of_eq hb)]

/-- A store to this device writes the bytes of its place. -/
theorem storeBody_writes (ho : InOrder s c) (hr : Reaches s (addr s.me) n z 2#3 s1 k) :
    ∃ u, storeBody sb addr n z c s = .ok (u, none) ∧ Written s u k n (s.me.reg sb).toNat := by
  obtain ⟨hc, hp, hk⟩ := hr
  have hs := (placesOf_keeps hp).trans (countPlaces_keeps s1 s1.myCrew.tenant true [(k, n)])
  have hl : ∀ q ∈ [(k, n)], isWindowKey q.1 = false := by simpa using hk
  refine ⟨{ countPlaces s1 s1.myCrew.tenant true [(k, n)] with mem := memWrite s.mem k (leBytes n (s.me.reg sb).toNat) },
    inClass_ok ho ?_, hs.2.2.1, hs.2.1, fun b hb => ?_, fun j hj => memByte_written hj⟩
  · simp only [storeBytes, leBytes_length, hc, hp, storeReady_here hl, if_true, storePlaces_one _ _ hk (leBytes_length ..)]
    rw [hs.1]
  · exact memByte_memWrite_out _ _ _ _ (by rwa [leBytes_length])

/-- A store form by its body. -/
theorem store_ends {ks : List StrandKind} {mask : BitVec 16} (hk : strandKinds i = ks) (hp : predField i = p)
    (hx : exec i s = issue i ks p false (storeBody sb addr n z c) s) (ha : addr s.me = a) :
    StoreCourse s s1 sb k i a n z c mask := by
  subst ha
  intro hi ho _ hr
  obtain ⟨u, hb, hu⟩ := storeBody_writes ho hr
  exact ⟨u, issue_endsIn hi hk hp hx hb, hu⟩

/-- A release that nothing holds goes on as its body does. -/
theorem releaseBody_ok {mask : BitVec 16} {b : Body} {r : State × Option Word} (hm : maskHeld s mask = false)
    (hb : b s = .ok r) : releaseBody mask b s = .ok r := by
  simp only [releaseBody, hb, hm, Bool.false_eq_true, if_false]

/-- A store with release by its body. -/
theorem release_ends {ks : List StrandKind} {mask : BitVec 16} (hk : strandKinds i = ks) (hp : predField i = p)
    (hx : exec i s = issue i ks p false (releaseBody mask (storeBody sb addr n z c)) s) (ha : addr s.me = a) :
    StoreCourse s s1 sb k i a n z c mask := by
  subst ha
  intro hi ho hm hr
  obtain ⟨u, hb, hu⟩ := storeBody_writes ho hr
  exact ⟨u, issue_endsIn hi hk hp hx (releaseBody_ok hm hb), hu⟩

/-- Settles O11: each form is a store by its body. -/
theorem storeResults : Obligations.StoreResults := by
  intro s s1 p sb sa si off loff size scope z cls mask k short long f hf
  suffices h : StoreCourse s s1 sb k f.1 f.2.1 f.2.2.1 f.2.2.2.1 f.2.2.2.2.1 f.2.2.2.2.2 from h
  revert f
  simp only [List.forall_mem_cons]
  exact ⟨store_ends rfl rfl rfl rfl, store_ends rfl rfl rfl rfl, store_ends rfl rfl rfl rfl, store_ends rfl rfl rfl rfl,
    store_ends rfl rfl rfl rfl, release_ends rfl rfl rfl (longAddr_zero ..), List.forall_mem_nil _⟩

/-! ## Atomics -/

/-- What an atomic stores: the function's value, or the old one where it writes none. -/
theorem amoAt_in {fn b e : Nat} (hj : j < n) : memByte (amoAt mem fn n k b e).2 (k + j) =
    BitVec.ofNat 8 ((amoNew fn n (leNat (memBytes mem k n)) b e).getD (leNat (memBytes mem k n)) / 2 ^ (8 * j)) := by
  unfold amoAt
  dsimp only
  cases amoNew fn n (leNat (memBytes mem k n)) b e with
  | some v => exact memByte_written hj
  | none => exact memByte_of_leNat hj

theorem amoAt_old {fn b e : Nat} : (amoAt mem fn n k b e).1 = leNat (memBytes mem k n) := by
  unfold amoAt
  dsimp only
  split <;> rfl

/-- What an atomic on m bytes that stores v answers. -/
def AtomicCourse (s s1 : State) (sd sa : BitVec 5) (c k : Nat) (i : Instr) (m v : Nat) : Prop :=
  (Issues s i → InOrder s c → spaceOf (s.me.reg sa) ≠ 2 → spaceOf (s.me.reg sa) ≠ 3 → Reaches s (s.me.reg sa) m 0 3#3 s1 k →
    ∃ u, EndsIn i s (u.setMe (s.me.setReg sd (BitVec.ofNat 64 (leNat (memBytes s.mem k m))))) ∧ Written s u k m v) ∧
  (Issues s i → spaceOf (s.me.reg sa) = 2 ∨ spaceOf (s.me.reg sa) = 3 → Traps i s cSpace (s.me.reg sa))

/-- A check that passes finds a legal pointer. -/
theorem ptrOk_of_check {al : Nat} {w : Word} (h : pointerCheck a n z al w = none) : ptrOk a = true := by
  cases hk : ptrOk a with
  | true => rfl
  | false =>
    simp only [pointerCheck, hk, Bool.not_false, if_true] at h
    split at h <;> cases h

/-- An atomic on this device writes its place, and its register with the old value. -/
theorem amoBody_writes (fn : Nat) (ho : InOrder s c) (h2 : spaceOf (s.me.reg sa) ≠ 2) (h3 : spaceOf (s.me.reg sa) ≠ 3)
    (hr : Reaches s (s.me.reg sa) m 0 3#3 s1 k) :
    ∃ u, amoBody fn m sd sa sb sc c s = .ok (u.setMe (s.me.setReg sd (BitVec.ofNat 64 (leNat (memBytes s.mem k m)))), none) ∧
      Written s u k m ((amoNew fn m (leNat (memBytes s.mem k m)) ((s.me.reg sb).toNat % 2 ^ (8 * m))
        ((s.me.reg sc).toNat % 2 ^ (8 * m))).getD (leNat (memBytes s.mem k m))) := by
  obtain ⟨hc, hp, hk⟩ := hr
  have hs := placesOf_keeps hp
  have ht := (hs.trans (countPlaces_keeps s1 s1.myCrew.tenant false [(k, m)])).trans
    (countPlaces_keeps _ s1.myCrew.tenant true [(k, m)])
  refine ⟨{ countPlaces (countPlaces s1 s1.myCrew.tenant false [(k, m)]) s1.myCrew.tenant true [(k, m)] with
    mem := (amoAt s.mem fn m k ((s.me.reg sb).toNat % 2 ^ (8 * m)) ((s.me.reg sc).toNat % 2 ^ (8 * m))).2 },
    inClass_ok ho ?_, ht.2.2.1, ht.2.1, fun b hb => amoAt_out hb, fun j hj => amoAt_in hj⟩
  simp only [atomic, ptrOk_of_check hc, h2, h3, or_self, hc, hp, hk, Bool.not_true, Bool.false_eq_true, if_false, hs.1, ht.me,
    amoAt_old]

/-- An atomic in CLUSTER or LOCAL space raises SPACE_INVALID. -/
theorem amoBody_traps (fn : Nat) (h : spaceOf (s.me.reg sa) = 2 ∨ spaceOf (s.me.reg sa) = 3) :
    amoBody fn m sd sa sb sc c s = .error (.trap cSpace (s.me.reg sa)) := by
  unfold amoBody inClass atomic
  cases hk : ptrOk (s.me.reg sa) <;> simp only [hk, h, Bool.not_true, Bool.not_false, Bool.false_eq_true, if_false, if_true]

/-- An atomic form by its function. -/
theorem atomic_ends {ks : List StrandKind} {fn : Nat} (hk : strandKinds i = ks) (hp : predField i = p)
    (hx : exec i s = issue i ks p false (amoBody fn m sd sa sb sc c) s)
    (hv : (amoNew fn m (leNat (memBytes s.mem k m)) ((s.me.reg sb).toNat % 2 ^ (8 * m))
      ((s.me.reg sc).toNat % 2 ^ (8 * m))).getD (leNat (memBytes s.mem k m)) = v) : AtomicCourse s s1 sd sa c k i m v := by
  subst hv
  refine ⟨fun hi ho h2 h3 hr => ?_, fun hi h => issue_traps hi hk hp hx (amoBody_traps fn h)⟩
  obtain ⟨u, hb, hu⟩ := amoBody_writes fn ho h2 h3 hr
  exact ⟨u, issue_endsIn hi hk hp hx hb, hu⟩

/-- What cas stores. -/
theorem amoNew_cas (o b e : Nat) : (amoNew 9 n o b e).getD o = if o = b then e else o := by
  simp only [amoNew]
  split <;> rfl

/-- Settles O12: each form is an atomic by its function. -/
theorem atomicResults : Obligations.AtomicResults := by
  intro s s1 p sd sa sb sc size cls k a n w int old y o b f hf
  suffices h : AtomicCourse s s1 sd sa cls.toNat k f.1 f.2.1 f.2.2 from h
  revert f
  simp only [List.forall_mem_cons]
  exact ⟨atomic_ends rfl rfl rfl rfl, atomic_ends rfl rfl rfl rfl, atomic_ends rfl rfl rfl rfl, atomic_ends rfl rfl rfl rfl,
    atomic_ends rfl rfl rfl rfl, atomic_ends rfl rfl rfl rfl, atomic_ends rfl rfl rfl rfl, atomic_ends rfl rfl rfl rfl,
    atomic_ends rfl rfl rfl rfl, atomic_ends rfl rfl rfl (amoNew_cas ..), atomic_ends rfl rfl rfl rfl, List.forall_mem_nil _⟩

end Sys2Proof.Machine
end

section
/-! The checks of a scalar access, and the bytes that it reaches (03 R41 to R47; 10 R176; 22 R340, R343). -/
namespace Sys2Proof.Machine

variable {s : State} {i : Instr} {a val : Word} {n z c k al : Nat} {sd sb : BitVec 5} {p : BitVec 4} {q : Nat} {v : Word}
  {addr : Strand → Word} {need : BitVec 3}

/-! ## The order of the checks (R176) -/

theorem pointerCheck_swizzled (h : z ≠ 0 ∧ spaceOf a = 0) : pointerCheck a n z al val = some (cIllegal, a) := if_pos h

theorem pointerCheck_space (h : ¬(z ≠ 0 ∧ spaceOf a = 0)) (hs : ptrOk a = false ∨ fieldSize a < ptrOff a + n) :
    pointerCheck a n z al a = some (cSpace, a) := by
  rw [pointerCheck, if_neg h]
  cases hk : ptrOk a with
  | false => rfl
  | true =>
    have he : endOk a n = false := by
      simpa [endOk] using hs.resolve_left (by simp [hk])
    simp [he]

theorem pointerCheck_legal (h : ¬(z ≠ 0 ∧ spaceOf a = 0)) (hk : ptrOk a = true) (he : ptrOff a + n ≤ fieldSize a) :
    pointerCheck a n z al val = if a.toNat % al ≠ 0 then some (cMisalign, a) else none := by
  have he' : endOk a n = true := by simpa [endOk] using he
  rw [pointerCheck, if_neg h, hk, he']
  rfl

/-- What an access of n bytes at a answers where its pointer is bad. -/
def CheckCourse (s : State) (i : Instr) (a : Word) (n z : Nat) : Prop :=
  Issues s i → (z ≠ 0 ∧ spaceOf a = 0 → Traps i s cIllegal a) ∧
    (¬(z ≠ 0 ∧ spaceOf a = 0) → ptrOk a = false ∨ fieldSize a < ptrOff a + n → Traps i s cSpace a) ∧
    (¬(z ≠ 0 ∧ spaceOf a = 0) → ¬(ptrOk a = false ∨ fieldSize a < ptrOff a + n) → a.toNat % n ≠ 0 → Traps i s cMisalign a) ∧
    ∀ c, SameMemory s (trapMe s c a)

/-- A form whose body traps where the check of its pointer does. -/
theorem check_traps {ks : List StrandKind} {b : Body} (hk : strandKinds i = ks) (hp : predField i = p)
    (hx : exec i s = issue i ks p false b s)
    (hb : ∀ q v, pointerCheck a n z n a = some (q, v) → b s = .error (.trap q v)) : CheckCourse s i a n z := by
  intro hi
  refine ⟨fun h => ?_, fun h hs => ?_, fun h hs hm => ?_, fun c m => by rw [trapMe_mem]⟩
  · exact issue_traps hi hk hp hx (hb _ _ (pointerCheck_swizzled h))
  · exact issue_traps hi hk hp hx (hb _ _ (pointerCheck_space h hs))
  · obtain ⟨hok, he⟩ := not_or.mp hs
    exact issue_traps hi hk hp hx
      (hb _ _ ((pointerCheck_legal h (by simpa using hok) (Nat.not_lt.mp he)).trans (if_pos hm)))

/-- The order of a class puts no trap off. -/
theorem inClass_traps {b : Body} (hb : b s = .error (.trap q v)) : inClass c b s = .error (.trap q v) := by
  simp only [inClass, hb]

theorem loadBody_traps {sext : Bool} {more : BitVec 16} (h : pointerCheck (addr s.me) n z n (addr s.me) = some (q, v)) :
    loadBody sd addr n sext z c more s = .error (.trap q v) :=
  inClass_traps (by simp only [loadReg, h])

theorem storeBody_traps (h : pointerCheck (addr s.me) n z n (addr s.me) = some (q, v)) :
    storeBody sb addr n z c s = .error (.trap q v) :=
  inClass_traps (by simp only [storeBytes, leBytes_length, h])

theorem releaseBody_traps {mask : BitVec 16} {b : Body} (hb : b s = .error (.trap q v)) :
    releaseBody mask b s = .error (.trap q v) := by
  simp only [releaseBody, hb]

/-! ## Scratchpads (R44 to R47) -/

/-- A scratchpad pointer is in space 1, 2 or 3. -/
theorem isPad_iff : isPad a = true ↔ spaceOf a = 1 ∨ spaceOf a = 2 ∨ spaceOf a = 3 := by
  simp only [isPad, Bool.and_eq_true, decide_eq_true_eq]
  omega

/-- The field of an offset holds whole units of 32 bytes. -/
theorem dvd_fieldSize (a : Word) : 32 ∣ fieldSize a := by
  unfold fieldSize
  split <;> decide

/-- An aligned access lies in one unit of 32 bytes. -/
theorem aligned_unit (hn : n ∈ [1, 2, 4, 8]) (ha : a.toNat % n = 0) : ptrOff a % 32 + n ≤ 32 := by
  have h : ptrOff a % 32 = a.toNat % 32 := Nat.mod_mod_of_dvd _ (dvd_fieldSize a)
  rw [h]
  simp only [List.mem_cons, List.not_mem_nil, or_false] at hn
  rcases hn with rfl | rfl | rfl | rfl <;> omega

/-- The key of the first byte of a scratchpad access: the slice that the pointer names, at the offset after the swizzle. -/
def padStart (s : State) (a : Word) (z : Nat) : Nat :=
  sliceKey (padByte (cuOf s.cur.1) a (ptrOff a)).1 (swizzle z (padByte (cuOf s.cur.1) a (ptrOff a)).2)

/-- An access within one unit of 32 bytes has one place. -/
theorem padPlaces_one {fuel : Nat} (h0 : n ≠ 0) (h : ptrOff a % 32 + n ≤ 32) :
    padPlaces (cuOf s.cur.1) a z (fuel + 1) (ptrOff a) n = [(padStart s a z, n)] := by
  have hr : ∀ fuel off, padPlaces (cuOf s.cur.1) a z fuel off 0 = [] := fun fuel off => by cases fuel <;> rfl
  rw [padPlaces, if_neg h0, show min n (32 - ptrOff a % 32) = n by omega]
  dsimp only
  rw [Nat.sub_self, hr]
  rfl

/-- The swizzle moves units of 32 bytes within their 1,024 bytes. -/
theorem swizzle_lt (z off : Nat) : swizzle z off < off / 1024 * 1024 + 1024 := by
  have hb : ∀ x y : Nat, x < 32 → y < 32 → x ^^^ y < 32 := fun x y hx hy => Nat.xor_lt_two_pow (n := 5) hx hy
  have hbank : off / 32 % 32 < 32 := Nat.mod_lt _ (by decide)
  have hrow : off / 1024 % 32 % 2 ^ z < 32 := Nat.lt_of_le_of_lt (Nat.mod_le ..) (Nat.mod_lt _ (by decide))
  have hoff : off % 32 < 32 := Nat.mod_lt _ (by decide)
  unfold swizzle
  dsimp only
  split
  · omega
  · split
    · have := hb _ _ hbank (Nat.mod_lt (3 * (off / 1024 % 32)) (by decide : 0 < 32))
      omega
    · have := hb _ _ hbank hrow
      omega

/-- A legal scratchpad pointer names a slice, and an offset in it. -/
theorem padByte_lt {off : Nat} (hc : s.cur.1 < 384) (hp : isPad a = true) (hk : ptrOk a = true) (ho : off < fieldSize a) :
    (padByte (cuOf s.cur.1) a off).1 < 96 ∧ (padByte (cuOf s.cur.1) a off).2 < 2 ^ 24 := by
  have hcu : cuOf s.cur.1 < 96 := by
    unfold cuOf
    omega
  rcases isPad_iff.mp hp with h | h | h <;> simp only [ptrOk, fieldSize, padByte, h] at hk ho ⊢
  · simp only [Bool.and_eq_true, decide_eq_true_eq] at hk
    have h53 : a.bits 55 53 < 8 := Nat.mod_lt _ (by decide)
    omega
  · unfold clusterOf
    omega
  · exact ⟨hcu, ho⟩

/-- The key of a legal scratchpad access is in a slice. -/
theorem padStart_near (z : Nat) (hc : s.cur.1 < 384) (hp : isPad a = true) (hk : ptrOk a = true) : isWindowKey (padStart s a z) = false := by
  have hf : 0 < fieldSize a := Nat.pos_of_ne_zero fun h => by
    unfold fieldSize at h
    split at h <;> omega
  obtain ⟨h1, h2⟩ := padByte_lt hc hp hk (Nat.mod_lt a.toNat hf)
  have hz := swizzle_lt z (padByte (cuOf s.cur.1) a (ptrOff a)).2
  unfold ptrOff at hz
  simp only [isWindowKey, decide_eq_false_iff_not]
  unfold padStart sliceKey ptrOff
  omega

/-- An access to GLOBAL is none to a scratchpad. -/
theorem space_ne_of_isPad (hp : isPad a = true) : spaceOf a ≠ 0 := by
  rcases isPad_iff.mp hp with h | h | h <;> omega

/-- An aligned access to a scratchpad that owns its segment reaches its bytes. -/
theorem pad_reaches (hc : s.cur.1 < 384) (hp : isPad a = true) (hk : ptrOk a = true) (hn : n ∈ [1, 2, 4, 8])
    (he : ptrOff a + n ≤ fieldSize a) (ha : a.toNat % n = 0) (ho : segOwner s (segOf (padStart s a z)) = s.myCrew.tenant)
    (hz : segOf (padStart s a z) % 16 ∉ (s.cu (segOf (padStart s a z) / 16)).zeroSegs) : Reaches s a n z need s (padStart s a z) := by
  have h0 : n ≠ 0 := by
    rintro rfl
    simp at hn
  have hs := space_ne_of_isPad hp
  refine ⟨(pointerCheck_legal (fun h => hs h.2) hk he).trans (if_neg (not_not.mpr ha)), ?_, padStart_near z hc hp hk⟩
  simp [placesOf, hs, padPlaces_one h0 (aligned_unit hn ha), firstForeign, ho, zeroingHit, hz]

/-- An access to another tenant's segment traps. -/
theorem pad_foreign (hp : isPad a = true) (hn : n ∈ [1, 2, 4, 8]) (ha : a.toNat % n = 0)
    (ho : segOwner s (segOf (padStart s a z)) ≠ s.myCrew.tenant) : placesOf s a n z need = .error (.trap cPerm a) := by
  have h0 : n ≠ 0 := by
    rintro rfl
    simp at hn
  simp [placesOf, space_ne_of_isPad hp, padPlaces_one h0 (aligned_unit hn ha), firstForeign, ho]

/-! ## GLOBAL (22 R340, R343) -/

/-- A legal pointer to GLOBAL is an address below 2 ^ 57. -/
theorem global_lt (hs : spaceOf a = 0) (hk : ptrOk a = true) : a.toNat < 2 ^ 57 := by
  rw [ptrOk, hs] at hk
  have h57 : a.bits 59 57 = 0 := by simpa using hk
  rw [spaceOf_eq] at hs
  rw [Word.bits, Nat.shiftRight_eq_div_pow] at h57
  omega

/-- A CU with a cached translation that has not expired uses it as it stands. -/
theorem agentXlate_cached {t : Tlb} (ha : a.toNat < 2 ^ 57) (hf : faultOf s (.strand s.cur.1 s.cur.2) = none)
    (hu : unitOk s (cuOf s.cur.1) = true)
    (hc : cached (s.cu (cuOf s.cur.1)).tlb s.myCrew.tenant (a.toNat / 4096) (s.cuCycle (cuOf s.cur.1)) 0 = some t)
    (ht : tlbCheck s t need a.toNat = .ok t) (hh : s.has t.frame = true) : agentXlate (myAgent s) s a need = .ok (s, t) := by
  have hheld : agentHeld (myAgent s) s (clockOkFor s (cuOf s.cur.1) s.myCrew.tenant (a.toNat / 4096) 0) qXlate = none := by
    simp only [agentHeld, myAgent, hf, clockOkFor, hu, hc, Option.isSome_some, Bool.or_true, Bool.and_true, if_true]
  unfold agentXlate
  rw [Nat.mod_eq_of_lt ha]
  simp only [myAgent] at hheld ⊢
  simp only [hheld, xlate, hc, ht, agentAnswer, hh, Bool.not_true, Bool.and_false, Bool.false_eq_true, if_false]

/-- A frame that a page of the device or the host has is none of a group window. -/
theorem frame_near {t : Tlb} (hh : s.has t.frame = true) : isWindowKey (t.frame + a.toNat % 4096) = false := by
  have hk : keyExists t.frame = true := (Bool.and_eq_true_iff.mp hh).1
  simp only [keyExists, Bool.or_eq_true, Bool.and_eq_true, decide_eq_true_eq] at hk
  unfold hbmSize tier1Size at hk
  simp only [isWindowKey, decide_eq_false_iff_not]
  omega

/-- An aligned access lies in its page. -/
theorem aligned_page (hn : n ∈ [1, 2, 4, 8]) (ha : a.toNat % n = 0) : a.toNat % 4096 + n ≤ 4096 ∧ n ≠ 0 ∧
    (a.toNat < 2 ^ 57 → a.toNat + n ≤ 2 ^ 57) := by
  simp only [List.mem_cons, List.not_mem_nil, or_false] at hn
  rcases hn with rfl | rfl | rfl | rfl <;> omega

/-- An aligned access through a cached translation reaches its bytes and caches nothing. -/
theorem global_reaches {t : Tlb} (hs : spaceOf a = 0) (hk : ptrOk a = true) (hn : n ∈ [1, 2, 4, 8]) (ha : a.toNat % n = 0)
    (hx : agentXlate (myAgent s) s a need = .ok (s, t)) (hg : t.gw = false) (hh : s.has t.frame = true) :
    Reaches s a n 0 need s (t.frame + a.toNat % 4096) := by
  have hlt := global_lt hs hk
  obtain ⟨hpage, h0, hend⟩ := aligned_page hn ha
  have hfield : fieldSize a = 2 ^ 57 := by simp only [fieldSize, hs]
  have hoff : ptrOff a + n ≤ fieldSize a := by
    rw [ptrOff, hfield, Nat.mod_eq_of_lt hlt]
    exact hend hlt
  have hrest : ∀ fuel (va : Word), agentPlaces (myAgent s) need qXlate 0 fuel va 0 s = .ok (s, []) :=
    fun fuel va => by cases fuel <;> rfl
  have hplaces : pagePlaces (myAgent s) s t a n (need.getLsbD 1) = .ok [(t.frame + a.toNat % 4096, n)] := by
    simp [pagePlaces, hg, Tlb.key]
  refine ⟨(pointerCheck_legal (fun h => h.1 rfl) hk hoff).trans (if_neg (not_not.mpr ha)), ?_, frame_near hh⟩
  rw [placesOf, if_pos hs, pagesOf, agentPlaces, if_neg h0, if_neg (Nat.not_le.mpr hlt),
    show min n (4096 - a.toNat % 4096) = n by omega]
  simp only [hx, hplaces, Nat.sub_self, hrest, List.append_nil]

/-- Settles O13: the traps by `check_traps`, the bytes by `pad_reaches`, `pad_foreign` and `global_reaches`. -/
theorem accessChecks : Obligations.AccessChecks := by
  refine ⟨?_, fun s a n z need => ?_, fun s a n need t => ?_⟩
  · intro s p sd sa si off loff size sext scope z cls mask short long f hf
    have loads {i : Instr} {ks : List StrandKind} {p : BitVec 4} {addr : Strand → Word} {a : Word} {n z c : Nat} {sext : Bool}
        {more : BitVec 16} (hk : strandKinds i = ks) (hp : predField i = p)
        (hx : exec i s = issue i ks p false (loadBody sd addr n sext z c more) s) (ha : addr s.me = a) : CheckCourse s i a n z := by
      subst ha
      exact check_traps hk hp hx fun q v h => loadBody_traps h
    have stores {i : Instr} {ks : List StrandKind} {p : BitVec 4} {addr : Strand → Word} {a : Word} {n z c : Nat}
        (hk : strandKinds i = ks) (hp : predField i = p)
        (hx : exec i s = issue i ks p false (storeBody sd addr n z c) s) (ha : addr s.me = a) : CheckCourse s i a n z := by
      subst ha
      exact check_traps hk hp hx fun q v h => storeBody_traps h
    suffices h : CheckCourse s f.1 f.2.1 f.2.2.1 f.2.2.2 from h
    revert f
    simp only [List.forall_mem_cons]
    exact ⟨loads rfl rfl rfl rfl, loads rfl rfl rfl rfl, loads rfl rfl rfl rfl, loads rfl rfl rfl rfl, loads rfl rfl rfl rfl,
      loads rfl rfl rfl rfl, loads rfl rfl rfl rfl, stores rfl rfl rfl rfl, stores rfl rfl rfl rfl, stores rfl rfl rfl rfl,
      stores rfl rfl rfl rfl, loads rfl rfl rfl rfl, stores rfl rfl rfl rfl, loads rfl rfl rfl (longAddr_zero ..),
      check_traps rfl rfl rfl fun q v h => releaseBody_traps (storeBody_traps h), List.forall_mem_nil _⟩
  · intro b k hc hp hk hn he ha _
    exact ⟨pad_reaches hc hp hk hn he ha, pad_foreign hp hn ha⟩
  · intro cu hs hk hn ha hf hu hc ht hg hh _
    exact global_reaches hs hk hn ha (agentXlate_cached (global_lt hs hk) hf hu hc ht hh) hg hh

end Sys2Proof.Machine
end

section
/-! exit, yield, yield.safe and fence (10 R181, R182, R186); waitt and acctflush (10 R185, R191). -/
namespace Sys2Proof.Machine

variable {s s1 u : State} {i : Instr} {p : BitVec 4} {mask : BitVec 16} {v : Word}

/-! ## exit -/

/-- What a control instruction that executes does. -/
theorem controlIssue_acts {act : State → Outcome} (hi : Issues s i) (hp : predField i = p) :
    controlIssue i p act s = act s := by
  subst hp
  obtain ⟨-, hw, -, hh⟩ := hi
  rw [controlIssue, hw, hh]
  rfl

/-- A copy strand whose engine still works. -/
def Unchecked (s : State) : Prop := s.cur.2 = .c ∧ exitHeld s.myCrew = true

/-- A matrix strand that holds the lease. -/
def Holder (s : State) : Prop := s.cur.2 = .m ∧ holdsLease s s.cur.1 = true

theorem exitBody_held (h : Unchecked s ∨ s.me.late ≠ []) : exitBody s = .error (.wait qMem s) := by
  refine if_pos (h.imp id fun h => ?_)
  rw [List.isEmpty_eq_false_iff]
  exact h

/-- Once every access has passed its checks, only the lease is left of an exit. -/
theorem exitBody_passed (hu : ¬Unchecked s) (hl : s.me.late = []) : exitBody s =
    if s.cur.2 = .m ∧ holdsLease s s.cur.1 = true ∧ arrayBusy s.myCrew = true then .error (.wait (unitCause s) s)
    else .ok (if s.cur.2 = .m ∧ holdsLease s s.cur.1 = true then endLease s (cuOf s.cur.1) else s, none) := by
  refine if_neg fun h => h.elim hu fun h => ?_
  rw [hl] at h
  cases h

/-- The strand exits in u. -/
def ExitsIn (s : State) (p : BitVec 4) (u : State) : Prop :=
  exec (.exit p) s = .next (u.setMe (exitStrand u.me)) ∧ (u.setMe (exitStrand u.me)).me.exited = true

/-- An exit that executes does what its body says. -/
theorem exec_exit (hi : Issues s (.exit p)) : exec (.exit p) s = match exitBody s with
    | .ok (u, _) => .next (u.setMe (exitStrand u.me))
    | .error e => finish (.exit p) s 1 (.error e) := by
  show execExit p s = _
  rw [execExit, controlIssue_acts (p := p) hi rfl]
  cases exitBody s <;> rfl

theorem exit_exits {o : Option Word} (hi : Issues s (.exit p)) (hb : exitBody s = .ok (u, o)) : ExitsIn s p u := by
  refine ⟨by rw [exec_exit hi, hb], ?_⟩
  rw [me_setMe]
  rfl

theorem exit_waits {q : Nat} (hi : Issues s (.exit p)) (hb : exitBody s = .error (.wait q s)) : Waits (.exit p) s q s := by
  rw [Waits, exec_exit hi, hb]
  exact finish_wait ..

/-- The course of an exit. -/
theorem exit_course (hi : Issues s (.exit p)) : (Unchecked s ∨ s.me.late ≠ [] → Waits (.exit p) s qMem s) ∧
    (¬Unchecked s → s.me.late = [] → (¬Holder s → ExitsIn s p s) ∧
      (Holder s → arrayBusy s.myCrew = true → Waits (.exit p) s (unitCause s) s) ∧
      (Holder s → arrayBusy s.myCrew = false → ExitsIn s p (endLease s (cuOf s.cur.1)))) := by
  refine ⟨fun h => exit_waits hi (exitBody_held h), fun hu hl => ⟨fun h => ?_, fun h hb => ?_, fun h hb => ?_⟩⟩
  · have hb := exitBody_passed hu hl
    rw [if_neg fun hm => h ⟨hm.1, hm.2.1⟩, if_neg (show ¬(s.cur.2 = .m ∧ holdsLease s s.cur.1 = true) from h)] at hb
    exact exit_exits hi hb
  · exact exit_waits hi ((exitBody_passed hu hl).trans (if_pos ⟨h.1, h.2, hb⟩))
  · have hb' := exitBody_passed hu hl
    rw [if_neg fun hm => Bool.false_ne_true (hb.symm.trans hm.2.2), if_pos (show s.cur.2 = .m ∧ holdsLease s s.cur.1 = true from h)] at hb'
    exact exit_exits hi hb'

/-! ## yield.safe -/

/-- The conditions of a safe point at a marked crew, as the statement has them. -/
theorem safe_iff : (s.myCrew.mark.isSome = true ∧ safeHere s s.cur.1 = true) ↔ s.myCrew.mark.isSome = true ∧
    s.myCrew.ops = [] ∧ holdsLease s s.cur.1 = false ∧ ∀ k, (s.myCrew.str k).level = 0 := by
  have hk : ∀ k, k ∈ allKinds := fun k => by cases k <;> decide
  simp only [safeHere, quietHere, Bool.and_eq_true, List.isEmpty_iff, Bool.not_eq_true', List.all_eq_true, beq_iff_eq, hk,
    true_implies, State.myCrew, and_assoc]

theorem reachSafe_safe (h : s.myCrew.mark.isSome = true ∧ safeHere s s.cur.1 = true) :
    reachSafe s = withdraw (s.setMyCrew { s.myCrew with mark := some true }) s.cur.1 := if_pos h

theorem reachSafe_other (h : ¬(s.myCrew.mark.isSome = true ∧ safeHere s s.cur.1 = true)) : reachSafe s = s := if_neg h

/-! ## fence -/

theorem maskHeld_iff : maskHeld s mask = false ↔ ∀ r ∈ mine s, mask.getLsbD r.cls = false := by
  simp [maskHeld]

/-- A release that an earlier access holds waits. -/
theorem releaseBody_waits {b : Body} {r : State × Option Word} (hm : maskHeld s mask ≠ false) (hb : b s = .ok r) :
    releaseBody mask b s = .error (.wait qMem s) := by
  have hm' : maskHeld s mask = true := by simpa using hm
  simp only [releaseBody, hb, hm', if_true]

/-- Settles O14: exit by `exit_course`, yield.safe by `safe_iff`, fence as a release. -/
theorem strandControl : Obligations.StrandControl := by
  refine ⟨fun s p => exit_course, fun s p scope mask => ?_⟩
  intro x u safe i
  refine ⟨pure_sets rfl rfl rfl rfl, fun hi => ⟨fun hk hs => ?_, fun h => ?_⟩, fun hi => ⟨fun h => ?_, fun h => ?_⟩⟩
  · refine issue_endsIn hi rfl rfl rfl (congrArg (fun t => Except.ok (t, none)) ?_)
    exact (if_pos hk).trans (reachSafe_safe (safe_iff.mpr hs))
  · refine issue_endsIn hi rfl rfl rfl (congrArg (fun t => Except.ok (t, none)) ?_)
    by_cases hk : s.cur.2 = .s
    · exact (if_pos hk).trans (reachSafe_other (mt safe_iff.mp (h.resolve_left (not_not.mpr hk))))
    · exact if_neg hk
  · exact issue_endsIn hi rfl rfl rfl (releaseBody_ok (maskHeld_iff.mpr h) rfl)
  · exact issue_waits hi rfl rfl rfl (releaseBody_waits (mt maskHeld_iff.mp h) rfl)

/-! ## waitt and acctflush -/

theorem waittBody_sleeps (h : s.cuCycle (cuOf s.cur.1) < v.toNat) : waittBody v s = .error (.wait qSleep s) := if_pos h

/-- A promise that is neither kept nor acquired is missed. -/
theorem waittBody_misses (hv : v.toNat ≤ s.cuCycle (cuOf s.cur.1))
    (hp : ¬∀ q ∈ s.myCrew.promises, q.cycle.toNat ≤ v.toNat → q.acquired = true ∨ q.done = true) :
    waittBody v s = .error (.trap cPromise v) := by
  refine (if_neg (Nat.not_lt.mpr hv)).trans (if_neg fun hk => hp fun q hq hc => ?_)
  have h := List.all_eq_true.mp hk q hq
  simpa [hc] using h

/-- Settles O16: waitt by its three courses, acctflush by its body. -/
theorem sleepAndFlush : Obligations.SleepAndFlush := by
  refine ⟨fun s p sa => ?_, fun s s1 p ⟨hi, howed⟩ hf ha => ?_⟩
  · intro v c acquired kept hi
    exact ⟨fun h => issue_waits hi rfl rfl rfl (waittBody_sleeps h),
      fun h hk => issue_endsIn hi rfl rfl rfl (waittBody_goes h hk),
      fun h hk => issue_traps hi rfl rfl rfl (waittBody_misses h hk)⟩
  · have hx : exec (.acctflush p) s = issue (.acctflush p) anyKind p false acctflushBody s := if_neg (by simp [howed])
    have hb : acctflushBody s = .ok (acctFlush s1 s1.cur.1, none) := by simp [acctflushBody, hf, ha]
    exact issue_endsIn hi rfl rfl hx hb

end Sys2Proof.Machine
end

section
/-! Tokens and mailboxes (10 R188, R189; 02 R16, R20 to R22). -/
namespace Sys2Proof.Machine

variable {s : State} {c : Crew} {i j m : Nat} {l : List Nat} {p : BitVec 4} {mask q : BitVec 3} {b : BitVec 1} {sa sd : BitVec 5}

/-! ## Counters -/

theorem tok_setTok {n : Nat} (hi : i < 12) : (c.setTok i n).tok j = if j = i then n else c.tok j := by
  simp only [Crew.setTok, dif_pos hi, Crew.tok, List.getD_eq_getElem?_getD, Vector.toList_set, List.getElem?_set]
  by_cases h : i = j
  · simp [h, show j < 12 by omega]
  · simp [h, show j ≠ i from fun e => h e.symm]

theorem pendOf_setPend {n : Nat} (hi : i < 12) : (c.setPend i n).pendOf j = if j = i then n else c.pendOf j := by
  simp only [Crew.setPend, dif_pos hi, Crew.pendOf, List.getD_eq_getElem?_getD, Vector.toList_set, List.getElem?_set]
  by_cases h : i = j
  · simp [h, show j < 12 by omega]
  · simp [h, show j ≠ i from fun e => h e.symm]

/-- A counter that is set changes the crew's counters alone. -/
theorem setTok_tokens (c : Crew) (i n : Nat) : ∃ ts, c.setTok i n = { c with tokens := ts } := by
  unfold Crew.setTok
  split <;> exact ⟨_, rfl⟩

/-- Posts to counters below 15 add one to each. -/
theorem foldl_postOne (hn : l.Nodup) (h12 : ∀ j ∈ l, j < 12) (h15 : ∀ j ∈ l, c.tok j < 15) :
    (∀ j, (l.foldl Crew.postOne c).tok j = if j ∈ l then c.tok j + 1 else c.tok j) ∧
      ∃ ts, l.foldl Crew.postOne c = { c with tokens := ts } := by
  induction l generalizing c with
  | nil => exact ⟨fun j => rfl, _, rfl⟩
  | cons i l ih =>
    obtain ⟨hil, hn⟩ := List.nodup_cons.mp hn
    obtain ⟨hi12, h12⟩ := List.forall_mem_cons.mp h12
    obtain ⟨hi15, h15⟩ := List.forall_mem_cons.mp h15
    have hset (j : Nat) := tok_setTok (c := c) (j := j) (n := c.tok i + 1) hi12
    obtain ⟨htok, ts, hts⟩ := ih (c := c.setTok i (c.tok i + 1)) hn h12 fun j hj => by
      have hne : j ≠ i := fun h => hil (h ▸ hj)
      rw [hset, if_neg hne]
      exact h15 j hj
    obtain ⟨ts', hts'⟩ := setTok_tokens c i (c.tok i + 1)
    rw [List.foldl_cons, Crew.postOne, if_pos hi15]
    refine ⟨fun j => ?_, ts, by rw [hts, hts']⟩
    rw [htok, hset]
    by_cases h : j = i
    · simp [h, hil]
    · simp [h]

theorem pendOf_setTok (n : Nat) : (c.setTok i n).pendOf j = c.pendOf j := by
  unfold Crew.setTok
  split <;> rfl

theorem tok_setPend (n : Nat) : (c.setPend i n).tok j = c.tok j := by
  unfold Crew.setPend
  split <;> rfl

/-- One token that is taken: a pending increment is made in its place. -/
theorem takeOne_counts (c : Crew) (hi : i < 12) (j : Nat) :
    (c.takeOne i).tok j = (if j = i ∧ c.pendOf i = 0 then c.tok j - 1 else c.tok j) ∧
      (c.takeOne i).pendOf j = if j = i then c.pendOf j - 1 else c.pendOf j := by
  unfold Crew.takeOne
  by_cases h0 : c.pendOf i = 0
  · rw [if_neg (by omega), tok_setTok hi, pendOf_setTok]
    by_cases h : j = i <;> simp [h, h0]
  · rw [if_pos (by omega), tok_setPend, pendOf_setPend hi]
    by_cases h : j = i <;> simp [h, h0]

theorem takeOne_tokens (c : Crew) (i : Nat) : ∃ ts ps, c.takeOne i = { c with tokens := ts, pendTok := ps } := by
  unfold Crew.takeOne Crew.setTok Crew.setPend
  split <;> split <;> exact ⟨_, _, rfl⟩

/-- Tokens taken from counters: each pending increment is made in place of one. -/
theorem foldl_takeOne (hn : l.Nodup) (h12 : ∀ j ∈ l, j < 12) :
    (∀ j, (l.foldl Crew.takeOne c).tok j = if j ∈ l ∧ c.pendOf j = 0 then c.tok j - 1 else c.tok j) ∧
      (∀ j, (l.foldl Crew.takeOne c).pendOf j = if j ∈ l then c.pendOf j - 1 else c.pendOf j) ∧
      ∃ ts ps, l.foldl Crew.takeOne c = { c with tokens := ts, pendTok := ps } := by
  induction l generalizing c with
  | nil => exact ⟨fun j => by simp, fun j => by simp, _, _, rfl⟩
  | cons i l ih =>
    obtain ⟨hil, hn⟩ := List.nodup_cons.mp hn
    obtain ⟨hi12, h12⟩ := List.forall_mem_cons.mp h12
    obtain ⟨htok, hpend, ts, ps, hts⟩ := ih (c := c.takeOne i) hn h12
    obtain ⟨ts', ps', hts'⟩ := takeOne_tokens c i
    rw [List.foldl_cons]
    refine ⟨fun j => ?_, fun j => ?_, ts, ps, by rw [hts, hts']⟩ <;> obtain ⟨ht, hp⟩ := takeOne_counts c hi12 j
    · rw [htok, ht, hp]
      by_cases h : j = i
      · simp [h, hil]
      · simp [h]
    · rw [hpend, hp]
      by_cases h : j = i
      · simp [h, hil]
      · simp [h]

/-! ## Masks -/

/-- The counters that the scalar strand posts to. -/
def posts (mask : BitVec 3) : List Nat := (maskStrands .s mask).map fun y => tokIdx .s y

/-- The counters that the scalar strand takes from. -/
def takes (mask : BitVec 3) : List Nat := (maskStrands .s mask).map fun y => tokIdx y .s

theorem posts_counters (mask : BitVec 3) : (posts mask).Nodup ∧ ∀ j ∈ posts mask, j < 12 := by
  revert mask
  decide

theorem takes_counters (mask : BitVec 3) : (takes mask).Nodup ∧ ∀ j ∈ takes mask, j < 12 := by
  revert mask
  decide

theorem post_eq_foldl (c : Crew) (mask : BitVec 3) : c.post .s mask = (posts mask).foldl Crew.postOne c :=
  List.foldl_map.symm

theorem take_eq_foldl (c : Crew) (mask : BitVec 3) : c.take .s mask = (takes mask).foldl Crew.takeOne c :=
  List.foldl_map.symm

theorem canPost_iff : c.canPost .s mask = true ↔ ∀ j ∈ posts mask, c.tok j < 15 := by
  simp [Crew.canPost, posts]

theorem canTake_iff : c.canTake .s mask = true ↔ ∀ j ∈ takes mask, 0 < c.tok j := by
  simp [Crew.canTake, takes]

/-! ## Releases (02 R22) -/

section
variable {body : Body} {r : State × Option Word} {w : Stop}

theorem releaseAll_ok (hr : Released s) (hb : body s = .ok r) : releaseAll body s = .ok r := by
  unfold Released at hr
  simp [releaseAll, hb, hr]

theorem releaseAll_waits (hr : ¬Released s) (hb : body s = .ok r) : releaseAll body s = .error (.wait qMem s) := by
  unfold Released at hr
  simp [releaseAll, hb, hr]

theorem releaseAll_error (hb : body s = .error w) : releaseAll body s = .error w := by
  simp only [releaseAll, hb]

end

/-! ## Tokens (R188) -/

/-- What tkpush does before it is a release. -/
def pushBody (i : Instr) (mask : BitVec 3) : Body := fun s =>
  if mask = 0#3 then illegalWords i
  else if s.myCrew.canPost .s mask then .ok (s.setMyCrew (s.myCrew.post .s mask), none)
  else .error (.wait qToken s)

/-- What tkpop does. -/
def popBody (i : Instr) (mask : BitVec 3) : Body := fun s =>
  if mask = 0#3 then illegalWords i
  else if s.myCrew.canTake .s mask then .ok (s.setMyCrew (s.myCrew.take .s mask), none)
  else .error (.wait qToken s)

theorem exec_tkpush (s : State) (p : BitVec 4) (mask : BitVec 3) : exec (.tkpush p mask) s =
    issue (.tkpush p mask) [.s] p false (releaseAll (pushBody (.tkpush p mask) mask)) s := rfl

theorem exec_tkpop (s : State) (p : BitVec 4) (mask : BitVec 3) :
    exec (.tkpop p mask) s = issue (.tkpop p mask) [.s] p false (popBody (.tkpop p mask) mask) s := rfl

section
variable {n : Instr}

theorem pushBody_posts (hm : mask ≠ 0#3) (h : ∀ j ∈ posts mask, s.myCrew.tok j < 15) :
    pushBody n mask s = .ok (s.setMyCrew (s.myCrew.post .s mask), none) :=
  (if_neg hm).trans (if_pos (canPost_iff.mpr h))

theorem pushBody_waits (hm : mask ≠ 0#3) (h : ¬∀ j ∈ posts mask, s.myCrew.tok j < 15) :
    pushBody n mask s = .error (.wait qToken s) :=
  (if_neg hm).trans (if_neg (mt canPost_iff.mp h))

theorem popBody_takes (hm : mask ≠ 0#3) (h : ∀ j ∈ takes mask, 0 < s.myCrew.tok j) :
    popBody n mask s = .ok (s.setMyCrew (s.myCrew.take .s mask), none) :=
  (if_neg hm).trans (if_pos (canTake_iff.mpr h))

theorem popBody_waits (hm : mask ≠ 0#3) (h : ¬∀ j ∈ takes mask, 0 < s.myCrew.tok j) :
    popBody n mask s = .error (.wait qToken s) :=
  (if_neg hm).trans (if_neg (mt canTake_iff.mp h))

end

/-- The course of a tkpush. -/
theorem tkpush_course (hi : Issues s (.tkpush p mask)) (hm : mask ≠ 0#3) :
    ((∀ j ∈ posts mask, s.myCrew.tok j < 15) → Released s → ∃ d : Crew, EndsIn (.tkpush p mask) s (s.setMyCrew d) ∧
      (∀ j, d.tok j = if j ∈ posts mask then s.myCrew.tok j + 1 else s.myCrew.tok j) ∧
      { d with tokens := s.myCrew.tokens } = s.myCrew) ∧
    ((∀ j ∈ posts mask, s.myCrew.tok j < 15) → ¬Released s → Waits (.tkpush p mask) s qMem s) ∧
    (¬(∀ j ∈ posts mask, s.myCrew.tok j < 15) → Waits (.tkpush p mask) s qToken s) := by
  refine ⟨fun h hr => ?_, fun h hr => ?_, fun h => ?_⟩
  · obtain ⟨hn, h12⟩ := posts_counters mask
    obtain ⟨htok, ts, hts⟩ := foldl_postOne hn h12 h
    rw [← post_eq_foldl] at htok hts
    exact ⟨_, issue_endsIn hi rfl rfl (exec_tkpush ..) (releaseAll_ok hr (pushBody_posts hm h)), htok, by rw [hts]⟩
  · exact issue_waits hi rfl rfl (exec_tkpush ..) (releaseAll_waits hr (pushBody_posts hm h))
  · exact issue_waits hi rfl rfl (exec_tkpush ..) (releaseAll_error (pushBody_waits hm h))

/-- The course of a tkpop. -/
theorem tkpop_course (hi : Issues s (.tkpop p mask)) (hm : mask ≠ 0#3) :
    ((∀ j ∈ takes mask, 0 < s.myCrew.tok j) → ∃ d : Crew, EndsIn (.tkpop p mask) s (s.setMyCrew d) ∧
      (∀ j, d.tok j = if j ∈ takes mask ∧ s.myCrew.pendOf j = 0 then s.myCrew.tok j - 1 else s.myCrew.tok j) ∧
      (∀ j, d.pendOf j = if j ∈ takes mask then s.myCrew.pendOf j - 1 else s.myCrew.pendOf j) ∧
      { d with tokens := s.myCrew.tokens, pendTok := s.myCrew.pendTok } = s.myCrew) ∧
    (¬(∀ j ∈ takes mask, 0 < s.myCrew.tok j) → Waits (.tkpop p mask) s qToken s) := by
  refine ⟨fun h => ?_, fun h => issue_waits hi rfl rfl (exec_tkpop ..) (popBody_waits hm h)⟩
  obtain ⟨hn, h12⟩ := takes_counters mask
  obtain ⟨htok, hpend, ts, ps, hts⟩ := foldl_takeOne (c := s.myCrew) hn h12
  rw [← take_eq_foldl] at htok hpend hts
  exact ⟨_, issue_endsIn hi rfl rfl (exec_tkpop ..) (popBody_takes hm h), htok, hpend, by rw [hts]⟩

/-! ## Mailboxes (R189) -/

/-- The operand index of a mailbox. -/
def mailIdx (q : BitVec 3) : Nat := 26 + q.toNat

/-- A mailbox that no access may touch: the crew is being zeroed, or the mailbox is FILLING. -/
def Shut (c : Crew) (q : BitVec 3) : Prop := c.zeroing = true ∨ c.feOf (mailIdx q) = .filling

/-- A mailbox that a write by strand k waits for. -/
def MailFull (c : Crew) (k : StrandKind) (q : BitVec 3) (b : BitVec 1) : Prop :=
  Shut c q ∨ (b = 1#1 ∧ c.feOf (mailIdx q) = .full) ∨ c.readByOther k (mailIdx q) = true

theorem writeWaits_iff {k : StrandKind} :
    (c.zeroing || c.writeWaits k (mailIdx q) (b == 1#1)) = true ↔ MailFull c k q b := by
  simp only [MailFull, Shut, Crew.writeWaits]
  cases c.feOf (mailIdx q) <;> simp

theorem readWaits_iff : (c.zeroing || c.readWaits (mailIdx q) (b == 1#1)) = true ↔
    Shut c q ∨ (b = 1#1 ∧ c.feOf (mailIdx q) = .empty) := by
  simp only [Shut, Crew.readWaits]
  cases c.feOf (mailIdx q) <;> simp

/-- The state of a mailbox alone changes. -/
theorem setFe_mail (c : Crew) (q : BitVec 3) (f : Fe) : ∃ e, c.setFe (mailIdx q) f = { c with qfe := e } := by
  unfold Crew.setFe mailIdx
  rw [dif_neg (by omega), dif_pos (by omega)]
  exact ⟨_, rfl⟩

/-- The crew after a write of v to a mailbox, FULL after :f. -/
def mailWritten (c : Crew) (q : BitVec 3) (b : BitVec 1) (v : Word) : Crew :=
  { c.setFe (mailIdx q) (c.writeEnd (mailIdx q) (b == 1#1) false) with
    qs := (c.setFe (mailIdx q) (c.writeEnd (mailIdx q) (b == 1#1) false)).qs.set q.toNat v (by omega) }

theorem mailWritten_fields (c : Crew) (q : BitVec 3) (b : BitVec 1) (v : Word) :
    ∃ e, mailWritten c q b v = { c with qs := c.qs.set q.toNat v (by omega), qfe := e } := by
  obtain ⟨e, he⟩ := setFe_mail c q (c.writeEnd (mailIdx q) (b == 1#1) false)
  exact ⟨e, by rw [mailWritten, he]⟩

theorem mailWritten_mail (c : Crew) (q r : BitVec 3) (b : BitVec 1) (v : Word) :
    (mailWritten c q b v).mail r = if r = q then v else c.mail r := by
  obtain ⟨e, he⟩ := mailWritten_fields c q b v
  rw [he]
  show (c.qs.set q.toNat v (by omega))[r.toNat] = if r = q then v else c.qs[r.toNat]
  rw [Vector.getElem_set]
  simp only [BitVec.toNat_inj, eq_comm]

theorem mailWritten_feOf (c : Crew) (q : BitVec 3) (b : BitVec 1) (v : Word) (m : Nat) :
    (mailWritten c q b v).feOf m = if m = mailIdx q ∧ b = 1#1 then .full else c.feOf m := by
  have hq : mailIdx q < 34 := by
    unfold mailIdx
    omega
  have h : (mailWritten c q b v).feOf m = if m < 34 ∧ mailIdx q = m then c.writeEnd (mailIdx q) (b == 1#1) false else c.feOf m :=
    feOf_setFe ..
  rw [h]
  by_cases hm : m = mailIdx q
  · subst hm
    by_cases hb : b = 1#1
    · subst hb
      rw [if_pos ⟨hq, rfl⟩, if_pos ⟨rfl, rfl⟩]
      rfl
    · rw [if_pos ⟨hq, rfl⟩, if_neg fun h => hb h.2, Crew.writeEnd, beq_false_of_ne hb]
      rfl
  · rw [if_neg fun h => hm h.2.symm, if_neg fun h => hm h.1]

theorem qwrBody_waits (h : MailFull s.myCrew s.cur.2 q b) : qwrBody sa q b s = .error (.wait qTile s) :=
  if_pos (writeWaits_iff.mpr h)

/-- A mailbox write that waits for nothing. -/
theorem qwrBody_writes (h : ¬MailFull s.myCrew s.cur.2 q b) :
    ∃ d : Crew, qwrBody sa q b s = .ok (s.setMyCrew d, none) ∧ d.mail q = s.me.reg sa ∧
      (∀ r, r ≠ q → d.mail r = s.myCrew.mail r) ∧
      (∀ m, d.feOf m = if m = mailIdx q ∧ b = 1#1 then .full else s.myCrew.feOf m) ∧
      { d with qs := s.myCrew.qs, qfe := s.myCrew.qfe } = s.myCrew := by
  obtain ⟨e, he⟩ := mailWritten_fields s.myCrew q b (s.me.reg sa)
  exact ⟨mailWritten s.myCrew q b (s.me.reg sa), if_neg (mt writeWaits_iff.mp h), (mailWritten_mail ..).trans (if_pos rfl),
    fun r hr => (mailWritten_mail ..).trans (if_neg hr), fun m => mailWritten_feOf .., by rw [he]⟩

theorem exec_qwr (s : State) (p : BitVec 4) (sa : BitVec 5) (q : BitVec 3) (b : BitVec 1) : exec (.qwr p sa q b) s =
    issue (.qwr p sa q b) anyKind p false (if b = 1#1 then releaseAll (qwrBody sa q b) else qwrBody sa q b) s := rfl

/-- The course of a qwr. -/
theorem qwr_course (hi : Issues s (.qwr p sa q b)) :
    (¬MailFull s.myCrew s.cur.2 q b → (b = 1#1 → Released s) →
      ∃ d : Crew, EndsIn (.qwr p sa q b) s (s.setMyCrew d) ∧ d.mail q = s.me.reg sa ∧
        (∀ r, r ≠ q → d.mail r = s.myCrew.mail r) ∧
        (∀ m, d.feOf m = if m = mailIdx q ∧ b = 1#1 then .full else s.myCrew.feOf m) ∧
        { d with qs := s.myCrew.qs, qfe := s.myCrew.qfe } = s.myCrew) ∧
    (¬MailFull s.myCrew s.cur.2 q b → b = 1#1 → ¬Released s → Waits (.qwr p sa q b) s qMem s) ∧
    (MailFull s.myCrew s.cur.2 q b → Waits (.qwr p sa q b) s qTile s) := by
  refine ⟨fun h hr => ?_, fun h hb hr => ?_, fun h => ?_⟩
  · obtain ⟨d, hd, hmail⟩ := qwrBody_writes (sa := sa) h
    refine ⟨d, issue_endsIn hi rfl rfl (exec_qwr ..) ?_, hmail⟩
    split
    · next hb => exact releaseAll_ok (hr hb) hd
    · exact hd
  · obtain ⟨d, hd, -⟩ := qwrBody_writes (sa := sa) h
    exact issue_waits hi rfl rfl (exec_qwr ..) ((congrFun (if_pos hb) s).trans (releaseAll_waits hr hd))
  · have hw := qwrBody_waits (sa := sa) h
    refine issue_waits hi rfl rfl (exec_qwr ..) ?_
    split
    · exact releaseAll_error hw
    · exact hw

/-- What qrd does. -/
def qrdBody (sd : BitVec 5) (q : BitVec 3) (b : BitVec 1) : Body := fun s =>
  if s.myCrew.zeroing || s.myCrew.readWaits (mailIdx q) (b == 1#1) then .error (.wait qTile s)
  else .ok ((if b = 1#1 then s.setMyCrew (s.myCrew.setFe (mailIdx q) .empty) else s).setMe
    ((if b = 1#1 then s.setMyCrew (s.myCrew.setFe (mailIdx q) .empty) else s).me.setReg sd (s.myCrew.mail q)), none)

theorem exec_qrd (s : State) (p : BitVec 4) (sd : BitVec 5) (q : BitVec 3) (b : BitVec 1) :
    exec (.qrd p sd q b) s = issue (.qrd p sd q b) anyKind p false (qrdBody sd q b) s := rfl

/-- The state of a mailbox changes no strand. -/
theorem setFe_me (s : State) (i : Nat) (f : Fe) : (s.setMyCrew (s.myCrew.setFe i f)).me = s.me := by
  rw [setMyCrew_me]
  unfold Crew.setFe State.me
  split
  · rfl
  · split <;> rfl

/-- A mailbox read that waits for nothing. -/
theorem qrdBody_reads (h : ¬(Shut s.myCrew q ∨ (b = 1#1 ∧ s.myCrew.feOf (mailIdx q) = .empty))) : qrdBody sd q b s =
    .ok ((if b = 1#1 then s.setMyCrew (s.myCrew.setFe (mailIdx q) .empty) else s).setMe
      (s.me.setReg sd (s.myCrew.mail q)), none) := by
  have hme : (if b = 1#1 then s.setMyCrew (s.myCrew.setFe (mailIdx q) .empty) else s).me = s.me := by
    split
    · exact setFe_me ..
    · rfl
  rw [qrdBody, if_neg (mt readWaits_iff.mp h), hme]

/-- Settles O15: the tokens by `tkpush_course` and `tkpop_course`, the mailboxes by `qwr_course` and `qrdBody_reads`. -/
theorem tokensAndMailboxes : Obligations.TokensAndMailboxes := by
  refine ⟨fun s p mask => ⟨tkpush_course, tkpop_course, fun hi => ?_, fun hi => ?_⟩,
    fun s p sd sa q b => ⟨qwr_course, fun hi => ⟨fun hs he => ?_, fun h => ?_⟩⟩⟩
  · exact issue_traps hi rfl rfl (exec_tkpush ..) (releaseAll_error (if_pos rfl))
  · exact issue_traps hi rfl rfl (exec_tkpop ..) (if_pos rfl)
  · exact issue_endsIn hi rfl rfl (exec_qrd ..) (qrdBody_reads fun h => h.elim hs fun h => he h.1 h.2)
  · exact issue_waits hi rfl rfl (exec_qrd ..) (if_pos (readWaits_iff.mpr h))

end Sys2Proof.Machine
end

section
/-! gsync (10 R190; 02 R29, R30) and the system registers (10 R187; 09 R160). -/
namespace Sys2Proof.Machine

variable {s : State} {i : Instr} {p : BitVec 4} {g k id : Nat} {c : Ctx} {l : Launch} {x : Strand}

/-! ## Launches -/

theorem launch_id (h : s.launch id = some l) : l.id = id := by
  simpa using List.find?_some h

/-- A launch in place of the one of its id is the launch of that id. -/
theorem launch_setLaunch {l1 : Launch} (h : s.launch id = some l) (h1 : l1.id = l.id) : (s.setLaunch l1).launch id = some l1 := by
  have hid : l1.id = id := h1.trans (launch_id h)
  have hp : ((fun y : Launch => decide (y.id = id)) ∘ fun y => if y.id = l1.id then l1 else y) = fun y => decide (y.id = id) := by
    funext y
    simp only [Function.comp, hid]
    split
    · next hy => simp [hid, hy]
    · rfl
  have hf : s.launches.find? (fun y => decide (y.id = id)) = some l := h
  rw [State.launch, State.setLaunch, List.find?_map, hp, hf]
  exact congrArg some (if_pos h1.symm)

/-! ## gsync -/

/-- The arrivals of the task at group g of a launch. -/
def arrivals (l : Launch) (c : Ctx) (g : Nat) : Nat := ((l.nodes[c.task]?).bind fun n => n.roundsOf g).getD 0

/-- The state in which the strand has arrived at group g: the launch with the arrival, and the strand that knows of it. -/
def gsyncArrived (s : State) (l : Launch) (c : Ctx) (k g : Nat) : State :=
  (s.setLaunch (l.mapNode c.task fun n => n.arrive k)).setMe { s.me.dropArrival with
    gsyncs := { level := s.me.dropArrival.level, pc := s.me.dropArrival.pc, group := g } :: s.me.dropArrival.gsyncs }

theorem launch_gsyncArrived (hl : s.launch c.launch = some l) :
    (gsyncArrived s l c k g).launch c.launch = some (l.mapNode c.task fun n => n.arrive k) :=
  launch_setLaunch hl rfl

theorem gsyncBody_stranger (hc : s.myCrew.ctx = some c) (hg : groupSlot c.gmask c.grps g = none) :
    gsyncBody i g s = illegalWords i := by
  simp only [gsyncBody, hc, hg]

section
variable (hc : s.myCrew.ctx = some c) (hg : groupSlot c.gmask c.grps g = some k) (hl : s.launch c.launch = some l)
include hc hg hl

/-- A gsync that has arrived goes on or waits as its round says. -/
theorem gsyncBody_known (ha : (s.me.arrival g).isSome = true) : gsyncBody i g s =
    if roundDone l g (arrivals l c g) then .ok (s.setMe s.me.dropArrival, none)
    else .error (.wait qBarrier (gsyncWait s g)) := by
  have hm : ¬((s.me.arrival g).isSome = false ∧ (mine s).isEmpty = false) := fun h => by
    rw [ha] at h
    cases h.1
  simp only [gsyncBody, hc, hg, hl]
  rw [if_neg hm]
  simp only [ha, if_true, hl, arrivals]
  rfl

/-- A gsync arrives once its earlier accesses have been performed. -/
theorem gsyncBody_held (ha : (s.me.arrival g).isSome = false) (hr : ¬Released s) :
    gsyncBody i g s = .error (.wait qMem s) := by
  have hm : (mine s).isEmpty = false := by
    rw [List.isEmpty_eq_false_iff]
    exact hr
  simp only [gsyncBody, hc, hg, hl, ha, hm, and_self, if_true]

/-- A gsync that arrives goes on or waits as the round says in which it has arrived. -/
theorem gsyncBody_arrives (ha : (s.me.arrival g).isSome = false) (hr : Released s) : gsyncBody i g s =
    if roundDone (l.mapNode c.task fun n => n.arrive k) g (arrivals (l.mapNode c.task fun n => n.arrive k) c g) then
      .ok ((gsyncArrived s l c k g).setMe (gsyncArrived s l c k g).me.dropArrival, none)
    else .error (.wait qBarrier (gsyncWait (gsyncArrived s l c k g) g)) := by
  have hm : ¬((s.me.arrival g).isSome = false ∧ (mine s).isEmpty = false) := fun h => by
    unfold Released at hr
    rw [hr] at h
    cases h.2
  have hn := launch_gsyncArrived (k := k) (g := g) hl
  unfold gsyncArrived at hn ⊢
  simp only [gsyncBody, hc, hg, hl]
  rw [if_neg hm]
  simp only [ha, Bool.false_eq_true, if_false, hn, arrivals]
  rfl

end

/-- Settles O17: each case by what the body answers there. -/
theorem groupSync : Obligations.GroupSync := by
  intro s p g c l k i n hi hc
  refine ⟨fun hg => ?_, fun hg hl => ⟨fun ha => ?_, fun ha hr => ?_, fun ha hr => ?_⟩⟩
  · exact issue_traps hi rfl rfl rfl (gsyncBody_stranger hc hg)
  · intro r
    exact ⟨fun hd => issue_endsIn hi rfl rfl rfl ((gsyncBody_known hc hg hl ha).trans (if_pos hd)),
      fun hd => issue_waits hi rfl rfl rfl ((gsyncBody_known hc hg hl ha).trans (if_neg (Bool.eq_false_iff.mp hd)))⟩
  · exact issue_waits hi rfl rfl rfl (gsyncBody_held hc hg hl ha hr)
  · intro l1 r x u
    exact ⟨fun hd => issue_endsIn hi rfl rfl rfl ((gsyncBody_arrives hc hg hl ha hr).trans (if_pos hd)),
      fun hd => issue_waits hi rfl rfl rfl ((gsyncBody_arrives hc hg hl ha hr).trans (if_neg (Bool.eq_false_iff.mp hd)))⟩

/-! ## System registers -/

theorem zeroExtend_eq {m : Nat} (v : BitVec m) : v.zeroExtend 64 = BitVec.ofNat 64 v.toNat := (BitVec.ofNat_toNat ..).symm

/-- What mfsr does. -/
def mfsrBody (sd : BitVec 5) (num : BitVec 11) : Body := fun s => .ok (s.setMe (s.me.setReg sd (readSys s num.toNat)), none)

theorem exec_mfsr (s : State) (p : BitVec 4) (sd : BitVec 5) (num : BitVec 11) :
    exec (.mfsr p sd num) s = issue (.mfsr p sd num) anyKind p false (mfsrBody sd num) s := rfl

/-- A read of the register that a number names. -/
theorem mfsr_sets {sd : BitVec 5} {num : BitVec 11} {r : Nat} {v : Word} (hv : readSys s r = v) (hn : num.toNat = r)
    (hi : Issues s (.mfsr p sd num)) : SetsReg (.mfsr p sd num) s sd v := by
  subst hv
  rw [← hn]
  exact issue_endsIn hi rfl rfl (exec_mfsr ..) rfl

/-- The bits of a word from m up to m + n, in place. -/
theorem and_field (v m n : Nat) : v &&& (2 ^ n - 1) * 2 ^ m = v % 2 ^ (m + n) / 2 ^ m * 2 ^ m := by
  refine Nat.eq_of_testBit_eq fun j => ?_
  rw [Nat.testBit_and, Nat.testBit_mul_two_pow, Nat.testBit_two_pow_sub_one, Nat.testBit_mul_two_pow,
    Nat.testBit_div_two_pow, Nat.testBit_mod_two_pow]
  by_cases h : m ≤ j
  · have hj : j - m < n ↔ j < m + n := by omega
    simp only [Nat.sub_add_cancel h, hj, h, decide_true, Bool.true_and, Bool.and_comm]
  · simp [h]

/-- A mask of two fields, the lower one below bit m, keeps both. -/
theorem and_add_fields (v a b m : Nat) (hb : b < 2 ^ m) : v &&& (a * 2 ^ m + b) = (v &&& a * 2 ^ m) + (v &&& b) := by
  have hlow : v &&& b < 2 ^ m := Nat.lt_of_le_of_lt Nat.and_le_right hb
  have hhigh : v &&& a * 2 ^ m = (v / 2 ^ m &&& a) * 2 ^ m := by
    refine Nat.eq_of_testBit_eq fun j => ?_
    rw [Nat.testBit_and, Nat.testBit_mul_two_pow, Nat.testBit_mul_two_pow, Nat.testBit_and, Nat.testBit_div_two_pow]
    by_cases h : m ≤ j <;> simp [h]
  have hor : ∀ c d : Nat, d < 2 ^ m → c * 2 ^ m + d = c * 2 ^ m ||| d := fun c d hd => by
    rw [← Nat.shiftLeft_eq, Nat.shiftLeft_add_eq_or_of_lt hd]
  rw [hor a b hb, Nat.and_or_distrib_left, hhigh, ← hor _ _ hlow]

/-- A masked word by its number. -/
theorem and_eq_ofNat {m r : Nat} (v : Word) (hm : m < 2 ^ 64) (hr : v.toNat &&& m = r) :
    v &&& BitVec.ofNat 64 m = BitVec.ofNat 64 r := by
  apply BitVec.eq_of_toNat_eq
  have hlt : r < 2 ^ 64 := by
    rw [← hr]
    exact Nat.lt_of_le_of_lt Nat.and_le_right hm
  rw [BitVec.toNat_and, BitVec.toNat_ofNat, BitVec.toNat_ofNat, Nat.mod_eq_of_lt hm, Nat.mod_eq_of_lt hlt, hr]

/-- TVEC holds the handler's address without its lowest two bits, and the enable. -/
theorem tvec_written (v : Word) :
    v &&& 0x01FFFFFFFFFFFFFD#64 = BitVec.ofNat 64 (v.toNat % 2 ^ 57 / 4 * 4 + v.toNat % 2) := by
  refine and_eq_ofNat v (by decide) ?_
  rw [show 0x01FFFFFFFFFFFFFD = (2 ^ 55 - 1) * 2 ^ 2 + (2 ^ 1 - 1) by decide, and_add_fields _ _ _ _ (by decide), and_field,
    Nat.and_two_pow_sub_one_eq_mod]
  rfl

/-- TCAUSE holds 11 bits. -/
theorem cause_written (v : Word) : v &&& 0x7FF#64 = BitVec.ofNat 64 (v.toNat % 2048) :=
  and_eq_ofNat v (by decide) (Nat.and_two_pow_sub_one_eq_mod _ 11)

/-- LSTOP holds its enable, an address without its low byte, and a two-bit field. -/
theorem lstop_written (v : Word) : v &&& 0x8000FFFFFFFFFF0C#64 =
    BitVec.ofNat 64 (v.toNat / 2 ^ 63 * 2 ^ 63 + v.toNat % 2 ^ 48 / 2 ^ 8 * 2 ^ 8 + v.toNat % 16 / 4 * 4) := by
  have htop : v.toNat % 2 ^ (63 + 1) / 2 ^ 63 = v.toNat / 2 ^ 63 := by rw [Nat.mod_eq_of_lt v.isLt]
  refine and_eq_ofNat v (by decide) ?_
  rw [show 0x8000FFFFFFFFFF0C = (2 ^ 1 - 1) * 2 ^ 63 + ((2 ^ 40 - 1) * 2 ^ 8 + (2 ^ 2 - 1) * 2 ^ 2) by decide,
    and_add_fields _ _ _ 63 (by decide), and_add_fields _ _ _ 8 (by decide), and_field, and_field, and_field, htop, Nat.add_assoc]
  rfl

theorem rngctr_written (v : Word) : v.extractLsb' 0 40 = BitVec.ofNat 40 v.toNat := rfl

theorem astat_written (c : Crew) (v : Word) :
    clearAstat c v = { c with astat := c.astat &&& (~~~(BitVec.ofNat 8 v.toNat) ||| c.astatNow) } := rfl

section
variable {sa : BitVec 5} {num : BitVec 11} {r : Nat} {u : State}

/-- What mtsr does. -/
def mtsrBody (i : Instr) (sa : BitVec 5) (num : BitVec 11) : Body := fun s =>
  if sysPriv num.toNat then .error (.trap cPriv (wordsVal i))
  else .ok (writeSys s num.toNat (s.me.reg sa), none)

theorem exec_mtsr (s : State) (p : BitVec 4) (sa : BitVec 5) (num : BitVec 11) :
    exec (.mtsr p sa num) s = issue (.mtsr p sa num) anyKind p false (mtsrBody (.mtsr p sa num) sa num) s := rfl

/-- A write to the register that a number names. -/
theorem mtsr_writes (hr : sysPriv r = false) (hu : writeSys s r (s.me.reg sa) = u) (hn : num.toNat = r)
    (hi : Issues s (.mtsr p sa num)) : EndsIn (.mtsr p sa num) s u := by
  subst hu hn
  exact issue_endsIn hi rfl rfl (exec_mtsr ..) (if_neg (by simp [hr]))

/-- A register that only the kernel writes raises PRIV. -/
theorem mtsr_traps (hn : sysPriv num.toNat = true) (hi : Issues s (.mtsr p sa num)) :
    Traps (.mtsr p sa num) s cPriv (wordsOf (encode (.mtsr p sa num))) :=
  issue_traps hi rfl rfl (exec_mtsr ..) (if_pos hn)

end

/-- Settles O18: reads by `mfsr_sets`, writes by `mtsr_writes` and the masks above. -/
theorem systemRegisters : Obligations.SystemRegisters := by
  refine ⟨?_, ?_⟩
  · intro s p sd num x c f hf
    revert f
    simp only [List.forall_mem_cons]
    exact ⟨mfsr_sets rfl, mfsr_sets rfl, mfsr_sets rfl, mfsr_sets rfl, mfsr_sets (zeroExtend_eq _), mfsr_sets (zeroExtend_eq _),
      mfsr_sets rfl, mfsr_sets rfl, mfsr_sets rfl, mfsr_sets rfl, mfsr_sets rfl, mfsr_sets rfl, mfsr_sets rfl, mfsr_sets rfl,
      mfsr_sets rfl, mfsr_sets rfl, mfsr_sets rfl, mfsr_sets rfl, mfsr_sets (zeroExtend_eq _), mfsr_sets rfl,
      mfsr_sets (zeroExtend_eq _), mfsr_sets rfl, List.forall_mem_nil _⟩
  · intro s p sa num x v lstop i hi
    refine ⟨?_, fun hn => mtsr_writes rfl (by rw [← astat_written]; rfl) hn hi, ?_, fun hn => ?_⟩
    · simp only [List.forall_mem_cons]
      refine ⟨(mtsr_writes rfl rfl · hi), (mtsr_writes rfl (by rw [← tvec_written]; rfl) · hi), (mtsr_writes rfl rfl · hi),
        (mtsr_writes rfl rfl · hi), (mtsr_writes rfl (by rw [← cause_written]; rfl) · hi), (mtsr_writes rfl rfl · hi),
        (mtsr_writes rfl rfl · hi), (mtsr_writes rfl rfl · hi), (mtsr_writes rfl (by rw [← cause_written]; rfl) · hi),
        (mtsr_writes rfl rfl · hi), (mtsr_writes rfl rfl · hi), (mtsr_writes rfl (by rw [show lstop = _ from (lstop_written v).symm]; rfl) · hi),
        (mtsr_writes rfl rfl · hi), (mtsr_writes rfl (by rw [← rngctr_written]; rfl) · hi), List.forall_mem_nil _⟩
    · intro hn
      simp only [List.mem_cons, List.not_mem_nil, or_false] at hn
      rcases hn with hn | hn | hn | hn | hn <;> exact mtsr_writes rfl rfl hn hi
    · rcases hn with hn | hn <;> exact mtsr_traps (by rw [hn]; rfl) hi

end Sys2Proof.Machine
end

section
/-! trap, bkpt and tret (10 R183, R184; 23 R357 to R364). -/
namespace Sys2Proof.Machine

variable {s u : State} {i : Instr} {p : BitVec 4} {imm : BitVec 16} {e : Word} {c : Nat} {v : Word}

/-! ## Software traps -/

/-- A software trap that its strand takes stands at the handler, one level up. -/
theorem takeTrap_handled (hl : s.me.level < 2) (hv : s.me.tvec.getLsbD 0 = true) (c : Nat) (v e : Word) :
    (takeTrap s s.cur.1 s.cur.2 c 0 v e).me.pc = BitVec.ofNat 64 (s.me.tvec.toNat % 2 ^ 57 / 4 * 4) ∧
      (takeTrap s s.cur.1 s.cur.2 c 0 v e).me.level = s.me.level + 1 := by
  have hcur : (takeTrap s s.cur.1 s.cur.2 c 0 v e).cur = s.cur := (takeTrap_frame (d := 0#5) c 0 v e none).cur
  obtain ⟨hlevel, hpc, -⟩ := trapEntry.1 s s.cur.1 s.cur.2 c 0 v e none hl hv
  rw [State.me, State.myCrew, hcur]
  exact ⟨hpc, hlevel⟩

/-- A software trap that its strand cannot take kills the context. -/
theorem takeTrap_dies (h : s.me.level = 2 ∨ s.me.tvec.getLsbD 0 = false) (hc : s.myCrew.ctx.isSome = true)
    (hk : s.myCrew.killed = none) (c : Nat) (v e : Word) :
    (takeTrap s s.cur.1 s.cur.2 c 0 v e).myCrew.killed = some c ∧ (takeTrap s s.cur.1 s.cur.2 c 0 v e).mem = s.mem := by
  have hcur : (takeTrap s s.cur.1 s.cur.2 c 0 v e).cur = s.cur := (takeTrap_frame (d := 0#5) c 0 v e none).cur
  obtain ⟨hkill, -, hmem, -⟩ := trapEntry.2 s s.cur.1 s.cur.2 c 0 v e none h hc hk
  rw [State.myCrew, hcur]
  exact ⟨hkill, hmem⟩

/-- The state in which the slot of a trap has been charged to its strand. -/
def charged (s : State) : State := s.setMe s.me.useSlot.begun

/-- The trap of a software trap with cause c, its value from the immediate and the resume PC e. -/
def softTrapped (s : State) (c : Nat) (imm : BitVec 16) (e : Word) : State :=
  takeTrap (charged s) s.cur.1 s.cur.2 c 0 (BitVec.ofNat 64 imm.toNat) e

/-- What a software trap leaves: the strand at its handler, or the context killed with the cause. -/
theorem softTrapped_course (s : State) (c : Nat) (imm : BitVec 16) (e : Word) :
    (s.me.level < 2 ∧ s.me.tvec.getLsbD 0 = true →
      (softTrapped s c imm e).me.pc = BitVec.ofNat 64 (s.me.tvec.toNat % 2 ^ 57 / 4 * 4) ∧
        (softTrapped s c imm e).me.level = s.me.level + 1) ∧
    ((s.me.level = 2 ∨ s.me.tvec.getLsbD 0 = false) ∧ s.myCrew.ctx.isSome = true ∧ s.myCrew.killed = none →
      (softTrapped s c imm e).myCrew.killed = some c ∧ (softTrapped s c imm e).mem = s.mem) := by
  have hme : (charged s).me = s.me.useSlot.begun := me_setMe ..
  have hlevel : (charged s).me.level = s.me.level := by rw [hme]; rfl
  have htvec : (charged s).me.tvec = s.me.tvec := by rw [hme]; rfl
  have hctx : (charged s).myCrew.ctx = s.myCrew.ctx := by rw [charged, setMe_myCrew, setStr_ctx]
  have hkilled : (charged s).myCrew.killed = s.myCrew.killed := by rw [charged, setMe_myCrew, setStr_killed]
  refine ⟨fun ⟨hl, hv⟩ => ?_, fun ⟨h, hc, hk⟩ => ?_⟩
  · have ht := takeTrap_handled (s := charged s) (hlevel ▸ hl) (htvec ▸ hv) c (BitVec.ofNat 64 imm.toNat) e
    rwa [hlevel, htvec] at ht
  · exact takeTrap_dies (s := charged s) (by rwa [hlevel, htvec]) (hctx ▸ hc) (hkilled ▸ hk) c (BitVec.ofNat 64 imm.toNat) e

theorem exec_trap (hi : Issues s (.trap p imm)) : exec (.trap p imm) s =
    .next (softTrapped s cSoftware imm (s.me.pc + BitVec.ofNat 64 (s.me.lenOf (.trap p imm)))) := by
  show execTrap p imm s = _
  rw [execTrap, controlIssue_acts (p := p) hi rfl, softTrap, zeroExtend_eq]
  rfl

theorem exec_bkpt (hi : Issues s (.bkpt p imm)) : exec (.bkpt p imm) s = .next (softTrapped s cBkpt imm s.me.pc) := by
  show execBkpt p imm s = _
  rw [execBkpt, controlIssue_acts (p := p) hi rfl, softTrap, zeroExtend_eq]
  rfl

/-! ## Returns -/

/-- A strand that goes on at pc and level n. -/
def Strand.backAt (y : Strand) (pc : Word) (n : Nat) (gs : List GsyncArr) (m : Nat) : Strand :=
  { y with
    pc := pc
    level := n
    gsyncs := gs
    suppress := m }.fetching

theorem backAt_keeps (y : Strand) (pc : Word) (n : Nat) (gs : List GsyncArr) (m : Nat) : (y.backAt pc n gs m).pc = pc ∧
    (y.backAt pc n gs m).level = n ∧ (y.backAt pc n gs m).regs = y.regs ∧ (y.backAt pc n gs m).preds = y.preds ∧
    (y.backAt pc n gs m).t1 = y.t1 ∧ (y.backAt pc n gs m).t2 = y.t2 := ⟨rfl, rfl, rfl, rfl, rfl, rfl⟩

/-- The strand that has issued its return from its trap level. -/
def returning (x : Strand) : Strand := (endLoopsOf x x.level).useSlot.issued

theorem returning_keeps (x : Strand) : (returning x).regs = x.regs ∧ (returning x).preds = x.preds ∧
    (returning x).t1 = x.t1 ∧ (returning x).t2 = x.t2 := by
  unfold returning
  rw [issued_regs, useSlot_regs, issued_preds, useSlot_preds, issued_t1, useSlot_t1, issued_t2, useSlot_t2]
  exact ⟨rfl, rfl, rfl, rfl⟩

/-- The strand after its return from its trap level. -/
def returned (x : Strand) : Strand :=
  (returning x).backAt (x.trapRegs x.level).epc (x.level - 1) (keepArrivals (returning x) x.level (x.trapRegs x.level).epc)
    (if (x.trapRegs x.level).cause.getLsbD 8 then (x.trapRegs x.level).members else 0)

/-- A return changes the strand's place, its level, its loops and its accounting alone. -/
theorem returned_keeps (x : Strand) : (returned x).pc = (x.trapRegs x.level).epc ∧ (returned x).level = x.level - 1 ∧
    (returned x).regs = x.regs ∧ (returned x).preds = x.preds ∧ (returned x).t1 = x.t1 ∧ (returned x).t2 = x.t2 := by
  obtain ⟨hr, hp, h1, h2⟩ := returning_keeps x
  rw [← hr, ← hp, ← h1, ← h2]
  exact backAt_keeps ..

/-- The crew whose strand k has returned from level n with registers t, where the strand is then x. -/
def Crew.returned (c : Crew) (k : StrandKind) (n : Nat) (t : TrapRegs) (x : Strand) : Crew :=
  let c1 := if k = .v then { c.setStr k x with ring := t.ring } else c.setStr k x
  if k = .c then releaseHeld c1 n else c1

theorem returned_str (c : Crew) (k : StrandKind) (n : Nat) (t : TrapRegs) (x : Strand) : (c.returned k n t x).str k = x := by
  cases k <;> rfl

theorem returned_ring (c : Crew) (n : Nat) (t : TrapRegs) (x : Strand) : (c.returned .v n t x).ring = t.ring := rfl

theorem trapReturn_eq (s : State) : trapReturn s =
    s.setMyCrew (s.myCrew.returned s.cur.2 s.me.level (s.me.trapRegs s.me.level) (returned s.me)) := rfl

/-- What a tret that executes does. -/
def tretAct (p : BitVec 4) (s : State) : Outcome :=
  if s.me.level = 0 then .next (trapMe s cIllegal (wordsVal (.tret p)))
  else if s.me.late.any fun l => l.level == s.me.level then .next (holdMe qMem s)
  else
    match targetTrap (s.me.trapRegs s.me.level).epc with
    | some c => .next (trapMe s c (s.me.trapRegs s.me.level).epc)
    | none => .next (trapReturn s)

theorem exec_tret (hi : Issues s (.tret p)) : exec (.tret p) s = tretAct p s := by
  show execTret p s = _
  rw [execTret, controlIssue_acts (p := p) hi rfl]
  rfl

theorem tretAct_waits (h0 : 0 < s.me.level) (hl : ∃ l ∈ s.me.late, l.level = s.me.level) :
    tretAct p s = .next (holdMe qMem s) := by
  rw [tretAct, if_neg (by omega), if_pos (by simpa using hl)]

/-- Once its loads have been answered, a tret goes by its target. -/
theorem tretAct_answered (h0 : 0 < s.me.level) (hl : ∀ l ∈ s.me.late, l.level ≠ s.me.level) : tretAct p s =
    match targetTrap (s.me.trapRegs s.me.level).epc with
    | some c => .next (trapMe s c (s.me.trapRegs s.me.level).epc)
    | none => .next (trapReturn s) := by
  rw [tretAct, if_neg (by omega), if_neg (by simpa using hl)]

/-- A tret to a bad target traps. -/
theorem tret_traps (hi : Issues s (.tret p)) (h0 : 0 < s.me.level) (hl : ∀ l ∈ s.me.late, l.level ≠ s.me.level)
    (ht : targetTrap (s.me.trapRegs s.me.level).epc = some c) : Traps (.tret p) s c (s.me.trapRegs s.me.level).epc := by
  rw [Traps, exec_tret hi, tretAct_answered h0 hl, ht]

/-- A tret to a legal target returns. -/
theorem tret_returns (hi : Issues s (.tret p)) (h0 : 0 < s.me.level) (hl : ∀ l ∈ s.me.late, l.level ≠ s.me.level)
    (ht : targetTrap (s.me.trapRegs s.me.level).epc = none) : exec (.tret p) s = .next (trapReturn s) := by
  rw [exec_tret hi, tretAct_answered h0 hl, ht]

/-- Settles O20: the software traps by `softTrapped_course`, tret by what it does. -/
theorem softwareTraps : Obligations.SoftwareTraps := by
  refine ⟨fun s p imm => ⟨fun hi => ⟨exec_trap hi, softTrapped_course ..⟩, fun hi => ⟨exec_bkpt hi, softTrapped_course ..⟩⟩,
    fun s p => ?_⟩
  intro i x e answered hi
  refine ⟨fun h0 => (exec_tret hi).trans (if_pos h0), fun h0 hl => (exec_tret hi).trans (tretAct_waits h0 hl),
    fun h0 hl h4 he => ⟨_, tret_returns hi h0 hl (targetTrap_none h4 he), ?_⟩,
    fun h0 hl h4 => tret_traps hi h0 hl (targetTrap_misaligned h4),
    fun h0 hl h4 he => tret_traps hi h0 hl (targetTrap_space h4 he)⟩
  obtain ⟨hpc, hlevel, hregs, hpreds, h1, h2⟩ := returned_keeps s.me
  have hme : (trapReturn s).me = returned s.me := by rw [trapReturn_eq, setMyCrew_me, returned_str]
  rw [hme]
  refine ⟨hpc, hlevel, reg_of_regs hregs, hpreds, h1, h2, rfl, fun hv => ?_⟩
  rw [trapReturn_eq, myCrew_setMyCrew, hv, returned_ring]

end Sys2Proof.Machine
end

section
/-! The frame of the scalar instructions (10 R163 to R168, R179, R180, R187). -/
namespace Sys2Proof.Machine

variable {s t : State} {i : Instr} {x y z : Strand} {ks : List StrandKind} {p : BitVec 4} {b : Body} {n : Nat} {d : BitVec 5}
  {q : BitVec 3} {P : Strand → Prop}

/-! ## The registers that no scalar instruction writes -/

/-- Two strands agree in TVEC, TSAVE, LSTOP and RNGKEY. -/
structure SameSys (x y : Strand) : Prop where
  tvec : y.tvec = x.tvec
  tsave : y.tsave = x.tsave
  lstop : y.lstop = x.lstop
  rngkey : y.rngkey = x.rngkey

theorem SameSys.refl (x : Strand) : SameSys x x := ⟨rfl, rfl, rfl, rfl⟩

theorem SameSys.trans (h : SameSys x y) (g : SameSys y z) : SameSys x z :=
  ⟨g.tvec.trans h.tvec, g.tsave.trans h.tsave, g.lstop.trans h.lstop, g.rngkey.trans h.rngkey⟩

theorem stopped_sys (x : Strand) : SameSys x x.stopped := by
  unfold Strand.stopped
  split <;> exact ⟨rfl, rfl, rfl, rfl⟩

theorem entered_sys (x : Strand) (r : TrapRegs) : SameSys x (x.entered r) := by
  unfold Strand.entered Strand.setTrapRegs
  split <;> exact ⟨rfl, rfl, rfl, rfl⟩

/-- A trap kills the context, or its strand enters the next level. -/
theorem takeTrap_crews_or (s : State) (crew : Nat) (k : StrandKind) (c f : Nat) (v e : Word) (m : Option Nat) :
    (takeTrap s crew k c f v e m).crews = (s.setCrew crew (killCrew (s.crew crew) c)).crews ∨
      (takeTrap s crew k c f v e m).crews =
        (s.setCrew crew ((s.crew crew).entered k (savedRegs (s.crew crew) k c f v e m))).crews := by
  unfold takeTrap
  dsimp only
  split
  · exact .inl (killContext_crews ..)
  · right
    split <;> rfl

theorem takeTrap_sys (c f : Nat) (v e : Word) (m : Option Nat) : SameSys s.me (takeTrap s s.cur.1 s.cur.2 c f v e m).me := by
  have hcur : (takeTrap s s.cur.1 s.cur.2 c f v e m).cur = s.cur := (takeTrap_frame (d := 0#5) c f v e m).cur
  have hme : (takeTrap s s.cur.1 s.cur.2 c f v e m).me = ((takeTrap s s.cur.1 s.cur.2 c f v e m).crew s.cur.1).str s.cur.2 := by
    rw [State.me, State.myCrew, hcur]
  rw [hme]
  rcases takeTrap_crews_or s s.cur.1 s.cur.2 c f v e m with h | h <;> rw [crew_of_crews h, crew_setCrew]
  · rcases killCrew_str (s.crew s.cur.1) c s.cur.2 with hk | hk <;> rw [hk]
    · exact stopped_sys _
    · exact .refl _
  · rw [entered_str_eq, str_setStr]
    exact entered_sys ..

/-! ## How a scalar instruction ends -/

/-- The state t is s but for its accounting and its traps, with the registers and predicates of strand x in focus. -/
structure Leaves (s : State) (x : Strand) (t : State) : Prop where
  mem : t.mem = s.mem
  cur : t.cur = s.cur
  preds : t.me.preds = x.preds
  regs : ∀ r, t.me.reg r = x.reg r
  sys : SameSys x t.me

theorem leaves_of_frame (h : ∀ d, FrameOff d s t) (hs : SameSys s.me t.me) : Leaves s s.me t where
  mem := (h 0#5).mem
  cur := (h 0#5).cur
  preds := (h 0#5).preds
  regs r := by
    by_cases hr : r = 0#5
    · exact (h 1#5).regs r (by rw [hr]; decide)
    · exact (h 0#5).regs r hr
  sys := hs

theorem Leaves.of_setMe (h : Leaves (s.setMe x) (s.setMe x).me t) : Leaves s x t := by
  rw [me_setMe] at h
  exact ⟨h.mem, h.cur, h.preds, h.regs, h.sys⟩

theorem holdMe_leaves (q : Nat) (s : State) : Leaves s s.me (holdMe q s) := by
  refine leaves_of_frame (fun d => holdMe_frame q) ?_
  rw [holdMe, me_setMe]
  exact ⟨rfl, rfl, rfl, rfl⟩

theorem trapMe_leaves (c : Nat) (v : Word) (s : State) : Leaves s s.me (trapMe s c v) := by
  refine leaves_of_frame (fun d => trapMe_frame c v) ?_
  have hb : SameSys s.me (s.setMe s.me.useSlot.begun).me := by
    rw [me_setMe]
    exact ⟨rfl, rfl, rfl, rfl⟩
  exact hb.trans (takeTrap_sys (s := s.setMe s.me.useSlot.begun) c 0 v _ none)

theorem retire_leaves_strand (i : Instr) (n : Nat) (h : NoLoopEnd s) : Leaves s s.me (retire i s n) := by
  refine leaves_of_frame (fun d => retire_frame i n h) ?_
  obtain ⟨-, -, -, -, hv, hs, -, -, hk, -, ho⟩ := passed_keeps s.me n (s.me.pc + BitVec.ofNat 64 (s.me.lenOf i))
  have ht : retire i s n = s.setMe (passed s.me n (s.me.pc + BitVec.ofNat 64 (s.me.lenOf i))) := retire_plain i s n h
  rw [ht, me_setMe]
  exact ⟨hv, hs, ho, hk⟩

/-- The body answers a strand that P allows and at which the same loops end, or it traps. -/
def Answers (b : Body) (s : State) (P : Strand → Prop) : Prop :=
  (∃ x, b s = .ok (s.setMe x, none) ∧ P x ∧ innermostAt x x.pc = innermostAt s.me s.me.pc) ∨
    ∃ c v, b s = .error (.trap c v)

theorem finish_leaves (hn : NoLoopEnd s) (hb : Answers b s P) (h0 : P s.me) (h : finish i s n (b s) = .next t) :
    ∃ x, P x ∧ Leaves s x t := by
  rcases hb with ⟨x, hb, hx, he⟩ | ⟨c, v, hb⟩ <;> rw [hb] at h <;> obtain rfl := Host.Outcome.next.inj h
  · have hn' : NoLoopEnd (s.setMe x) := by
      rw [NoLoopEnd, me_setMe]
      exact he.trans hn
    exact ⟨x, hx, (retire_leaves_strand i n hn').of_setMe⟩
  · exact ⟨s.me, h0, trapMe_leaves c v s⟩

/-- On every path of the common order of checks a scalar instruction leaves a strand that P allows. -/
theorem issue_leaves (hn : NoLoopEnd s) (hb : Answers b s P) (h0 : P s.me) (h : issue i ks p false b s n = .next t) :
    ∃ x, P x ∧ Leaves s x t := by
  by_cases hk : s.cur.2 ∈ ks
  · cases hw : predWait s p with
    | some q =>
      rw [issue_predWait hk hw] at h
      exact ⟨s.me, h0, Host.Outcome.next.inj h ▸ holdMe_leaves q s⟩
    | none =>
      cases hp : s.me.predHolds p with
      | false =>
        rw [issue_skips hk hw hp] at h
        exact ⟨s.me, h0, Host.Outcome.next.inj h ▸ retire_leaves_strand i 1 hn⟩
      | true =>
        cases hi : interlock s i with
        | some q =>
          rw [issue_interlocked hk hw hp hi] at h
          exact ⟨s.me, h0, Host.Outcome.next.inj h ▸ holdMe_leaves _ s⟩
        | none =>
          rw [issue_executes hk hw hi hp] at h
          exact finish_leaves hn hb h0 h
  · rw [issue_wrong_kind hk] at h
    exact ⟨s.me, h0, Host.Outcome.next.inj h ▸ trapMe_leaves _ _ s⟩

/-! ## Forms with a destination register -/

/-- A strand that differs from x in register d at most. -/
structure OffReg (d : BitVec 5) (x y : Strand) : Prop where
  preds : y.preds = x.preds
  regs : ∀ r, r ≠ d → y.reg r = x.reg r
  sys : SameSys x y

theorem OffReg.refl (d : BitVec 5) (x : Strand) : OffReg d x x := ⟨rfl, fun _ _ => rfl, .refl x⟩

theorem setReg_off (x : Strand) (d : BitVec 5) (v : Word) : OffReg d x (x.setReg d v) :=
  ⟨setReg_preds .., fun _ hr => reg_setReg_ne _ _ _ _ hr,
    ⟨setReg_tvec .., setReg_tsave .., setReg_lstop .., setReg_rngkey ..⟩⟩

/-- Loops at the PC are those of the loop registers, the level and the PC. -/
theorem innermostAt_of_fields (hp : y.pc = x.pc) (hl : y.level = x.level) (ho : y.loops = x.loops) :
    innermostAt y y.pc = innermostAt x x.pc := by
  rw [hp]
  exact innermostAt_congr _ _ _ (fun id => by simp [Strand.loop, ho]) hl

theorem setReg_ends (x : Strand) (d : BitVec 5) (v : Word) :
    innermostAt (x.setReg d v) (x.setReg d v).pc = innermostAt x x.pc :=
  innermostAt_of_fields (setReg_pc ..) (setReg_level ..) (setReg_loops ..)

/-- A body that writes a register answers a strand that differs in it at most. -/
theorem setReg_answers {v : Word} (hb : b s = .ok (s.setMe (s.me.setReg d v), none)) : Answers b s (OffReg d s.me) :=
  .inl ⟨_, hb, setReg_off .., setReg_ends ..⟩

theorem divBody_answers (f : Word → Word → Word) (d sa sb : BitVec 5) (s : State) :
    Answers (divBody f d sa sb) s (OffReg d s.me) := by
  by_cases h : s.me.reg sb = 0#64 ∧ s.me.div0 = true
  · exact .inr ⟨_, _, if_pos h⟩
  · exact setReg_answers (if_neg h)

theorem leaBody_answers (d sa sb : BitVec 5) (s : State) : Answers (leaBody d sa sb) s (OffReg d s.me) := by
  by_cases h : spaceOf (s.me.reg sa + s.me.reg sb) = spaceOf (s.me.reg sa) ∧ ptrOk (s.me.reg sa + s.me.reg sb) = true
  · exact setReg_answers (if_pos h)
  · exact .inr ⟨_, _, if_neg h⟩

theorem rngcBody_answers (i : Instr) (d sn : BitVec 5) (s : State) : Answers (rngcBody i d sn) s (OffReg d s.me) := by
  unfold rngcBody
  by_cases h : (s.me.regN (sn.toNat + 2)).bits 63 24 ≠ 0 ∨ (s.me.regN (sn.toNat + 3)).bits 63 40 ≠ 0
  · exact .inr ⟨_, _, if_pos h⟩
  · exact setReg_answers (if_neg h)

/-- What rng does to its strand. -/
def rngStrand (d : BitVec 5) (x : Strand) : Strand := (drawCtx x).2.setReg d (drawCtx x).1

theorem rng_answers (d : BitVec 5) (s : State) : Answers (pureBody (rngStrand d)) s (OffReg d s.me) := by
  have hx : OffReg d s.me (drawCtx s.me).2 := ⟨rfl, fun r _ => reg_of_regs rfl r, ⟨rfl, rfl, rfl, rfl⟩⟩
  have hy := setReg_off (drawCtx s.me).2 d (drawCtx s.me).1
  exact .inl ⟨_, rfl, ⟨hy.preds.trans hx.preds, fun r hr => (hy.regs r hr).trans (hx.regs r hr), hx.sys.trans hy.sys⟩,
    (setReg_ends ..).trans (innermostAt_of_fields rfl rfl rfl)⟩

/-- What the statement keeps of the state. -/
def Kept (s t : State) : Prop := SameMemory s t ∧ t.cur = s.cur ∧ t.me.tvec = s.me.tvec ∧ t.me.tsave = s.me.tsave ∧
  t.me.lstop = s.me.lstop ∧ t.me.rngkey = s.me.rngkey

theorem Leaves.kept (h : Leaves s x t) (hs : SameSys s.me x) : Kept s t := by
  obtain ⟨hv, hts, hl, hk⟩ := hs.trans h.sys
  exact ⟨fun a => by rw [h.mem], h.cur, hv, hts, hl, hk⟩

/-- A form with a destination register changes that register at most. -/
theorem dest_frame (hn : NoLoopEnd s) (hb : Answers b s (OffReg d s.me)) (h : issue i ks p false b s n = .next t) :
    Kept s t ∧ t.me.preds = s.me.preds ∧ ∀ r, r ≠ d → t.me.reg r = s.me.reg r := by
  obtain ⟨x, hx, hl⟩ := issue_leaves hn hb (.refl d s.me) h
  exact ⟨hl.kept hx.sys, hl.preds.trans hx.preds, fun r hr => (hl.regs r).trans (hx.regs r hr)⟩

/-! ## Forms with a destination predicate -/

/-- A strand that differs from x in predicate q at most. -/
structure OffPred (q : BitVec 3) (x y : Strand) : Prop where
  preds : ∀ k, k ≠ q → y.pred k = x.pred k
  regs : ∀ r, y.reg r = x.reg r
  sys : SameSys x y

theorem OffPred.refl (q : BitVec 3) (x : Strand) : OffPred q x x := ⟨fun _ _ => rfl, fun _ => rfl, .refl x⟩

/-- A predicate that is not written reads as before. -/
theorem pred_setPred_ne (x : Strand) {q k : BitVec 3} (v : Bool) (h : k ≠ q) : (x.setPred q v).pred k = x.pred k := by
  have hk : k.toNat < 8 := k.isLt
  have hne : k.toNat ≠ q.toNat := fun e => h (BitVec.eq_of_toNat_eq e)
  have hbit : (1#8 <<< q.toNat).getLsbD k.toNat = false := by
    simp only [BitVec.getLsbD_shiftLeft, BitVec.getLsbD_one]
    by_cases hlt : k.toNat < q.toNat
    · simp [hlt]
    · simp [show k.toNat - q.toNat ≠ 0 by omega]
  unfold Strand.setPred
  split
  · rfl
  · dsimp only
    generalize 1#8 <<< q.toNat = bit at hbit
    rw [BitVec.getLsbD_eq_getElem hk] at hbit
    cases v <;> simp [Strand.pred, hbit, hk]

theorem setPred_off (x : Strand) (q : BitVec 3) (v : Bool) : OffPred q x (x.setPred q v) :=
  ⟨fun _ hk => pred_setPred_ne x v hk, fun r => reg_of_regs (setPred_regs ..) r,
    ⟨setPred_tvec .., setPred_tsave .., setPred_lstop .., setPred_rngkey ..⟩⟩

/-- A body that writes a predicate answers a strand that differs in it at most. -/
theorem setPred_answers {v : Bool} (hb : b s = .ok (s.setMe (s.me.setPred q v), none)) : Answers b s (OffPred q s.me) :=
  .inl ⟨_, hb, setPred_off .., innermostAt_of_fields (setPred_pc ..) (setPred_level ..) (setPred_loops ..)⟩

/-- A form with a destination predicate changes that predicate at most. -/
theorem test_frame (hn : NoLoopEnd s) (hb : Answers b s (OffPred q s.me)) (h : issue i ks p false b s n = .next t) :
    Kept s t ∧ (∀ r, t.me.reg r = s.me.reg r) ∧ ∀ k, k ≠ q → t.me.pred k = s.me.pred k := by
  obtain ⟨x, hx, hl⟩ := issue_leaves hn hb (.refl q s.me) h
  refine ⟨hl.kept hx.sys, fun r => (hl.regs r).trans (hx.regs r), fun k hk => ?_⟩
  rw [Strand.pred, hl.preds]
  exact hx.preds k hk

/-- Settles O50: forms with a destination register by `dest_frame`, those with a predicate by `test_frame`. -/
theorem scalarFrame : Obligations.ScalarFrame := by
  intro s t p cond sid sd sa sb imm imm14 imm21 imm32 n pd pa pb num dest test kept hn
  have writes {i : Instr} {ks : List StrandKind} {p : BitVec 4} {f : Strand → Word} {n : Nat}
      (h : issue i ks p false (pureBody fun x => x.setReg sd (f x)) s n = .next t) :
      Kept s t ∧ t.me.preds = s.me.preds ∧ ∀ r, r ≠ sd → t.me.reg r = s.me.reg r :=
    dest_frame hn (setReg_answers rfl) h
  have tests {i : Instr} {ks : List StrandKind} {p : BitVec 4} {f : Strand → Bool} {n : Nat}
      (h : issue i ks p false (pureBody fun x => x.setPred pd (f x)) s n = .next t) :
      Kept s t ∧ (∀ r, t.me.reg r = s.me.reg r) ∧ ∀ k, k ≠ pd → t.me.pred k = s.me.pred k :=
    test_frame hn (setPred_answers rfl) h
  constructor
  · simp only [dest, List.forall_mem_cons]
    exact ⟨writes, writes, writes, writes, writes, writes, writes, writes, writes, writes, writes,
      dest_frame hn (divBody_answers ..), dest_frame hn (divBody_answers ..), dest_frame hn (divBody_answers ..),
      dest_frame hn (divBody_answers ..), writes, writes, writes, writes, writes, writes, writes, writes, writes, writes,
      writes, writes, writes, writes, writes, dest_frame hn (leaBody_answers ..), writes, writes,
      dest_frame hn (rng_answers ..), dest_frame hn (rngcBody_answers ..), writes, writes,
      fun h => dest_frame (b := mfsrBody sd num) hn (setReg_answers rfl) ((exec_mfsr ..).symm.trans h), List.forall_mem_nil _⟩
  · simp only [test, List.forall_mem_cons]
    exact ⟨tests, tests, tests, tests, tests, tests, tests, List.forall_mem_nil _⟩

end Sys2Proof.Machine
end
